-- ==== Sys2Proof/Word.lean ====
section
/-! DEFINITION. The words of the machine: what the manual treats as bits. -/

namespace Sys2Proof

/-- One byte of memory, of a payload or of a key. -/
abbrev Byte := BitVec 8

/-- A 16-bit word (BF16, FP16 and packed fields). -/
abbrev W16 := BitVec 16

/-- A 32-bit word: a management register (R518), an FP32 value (R192). -/
abbrev W32 := BitVec 32

/-- A 64-bit word: a fabric address (R43), an operand (R53), an arrival counter (R119). -/
abbrev W64 := BitVec 64

/-- A map with a default, as plain data: the newest entry of a key stands first. -/
abbrev TMap (κ ν : Type) := List (κ × ν)

end Sys2Proof
end

