-- ==== Sys2Proof/Wire.lean ====
section
/-! DEFINITION. What travels: requests, completions, control frames, link frames, mirror messages and the
records of the report area, each as plain data with the fields its table of the manual gives it. -/

namespace Sys2Proof

/-- Completion status, Table 2-10 (R62). -/
inductive Status where
  | ok | retry | accDenied | accSplit | unreachable | poison | collMismatch | timeout
  | partialMcast | energyDefer | xlateFault | eccUncorr | capoViolation | duplicate
deriving DecidableEq, Repr

/-- A request: the header flit of Table 2-5 (R53) and its payload. `rsvd` holds the reserved
header bits at their own places; `data` holds the LENGTH payload bytes (R52). -/
structure Req where
  op : Nat := 0
  tc : Nat := 0
  final : Bool := false
  vc : Bool := false
  retry : Bool := false
  poison : Bool := false
  src : Nat := 0
  capo : Nat := 0
  hops : Nat := 0
  seq : Nat := 0
  epoch : Nat := 0
  expect : Nat := 0
  len : Nat := 0
  attr : Nat := 0
  group : Nat := 0
  addr : W64 := 0
  op0 : W64 := 0
  op1 : W64 := 0
  rsvd : Nat := 0
  hcrc : W32 := 0
  data : List Byte := []
deriving DecidableEq, Repr

/-- A completion: the fields of the header flit of Table 2-9 (R56) and the data of an OK load. -/
structure Cmp where
  tc : Nat := 0
  status : Status := .ok
  src : Nat := 0
  dst : Nat := 0
  seq : Nat := 0
  epoch : Nat := 0
  origOp : Nat := 0
  len : Nat := 0
  capo : Nat := 0
  origStatus : Status := .ok
  result : W64 := 0
  mask : Nat := 0
  delivered : Nat := 0
  retryAfter : Nat := 0
  errAddr : W64 := 0
  sigOp : Nat := 0
  sigFmt : Nat := 0
  sigCount : Nat := 0
  sigGepoch : Nat := 0
  conflict : Nat := 0
  reqAddr : W64 := 0
  data : List Byte := []
deriving DecidableEq, Repr

/-- A packet of the switch core (R52): a request or a completion, the latter with the HCRC its header carries. -/
inductive Pkt where
  | req (r : Req)
  | cmp (c : Cmp) (hcrc : W32)
deriving DecidableEq, Repr

/-- Where a request reached its responder: a string or soundpost port or host port of this Kojor, this
Kojor's own issuers, or string b of the Brola. -/
inductive Via where
  | string (n : Nat)
  | soundpost (p : Nat)
  | host (p : Nat)
  | self
  | brola (b : Nat)
deriving DecidableEq, Repr

/-- The two parties whose state the model holds: this Kojor and the Brola of one leaf (R1). -/
inductive Party where
  | kojor
  | brola
deriving DecidableEq, Repr

/-- An entry of a duplicate table (R72). `sx` is the SX that made it, and `twins` marks an entry
mirrored from the twin, which made it. -/
structure DupEntry where
  src : Nat
  tc : Nat
  seq : Nat
  hcrc : W32
  status : Status
  result : W64
  made : Nat
  capo : Nat
  sx : Nat := 0
  twins : Bool := false
deriving DecidableEq, Repr

/-- The ASSIGN control frame, Table 13-4. -/
structure Assign where
  sweep : Nat := 0
  dy : Nat := 0
  dx : Nat := 0
  ly : Nat := 0
  lx : Nat := 0
  k : Nat := 1
  capo : Nat := 0
  cto : Nat := 8000
  bto : Nat := 100
  lwin : Nat := 15
  rwin : Nat := 63
  digest : W64 := 0
deriving DecidableEq, Repr

/-- A lane control frame, Tables 12-6 and 13-4. `str` is the link it goes on, 512 and up a soundpost string. `rx` is the direction bit: the
sender's receive direction. -/
structure LaneMsg where
  str : Nat := 0
  rx : Bool := false
  q : Nat := 0
  spare : Nat := 16
  cause : Nat := 0
  ret : Bool := false
  reason : Nat := 0
deriving DecidableEq, Repr

/-- BRIDGE_HELLO, Table 13-4 (R180, R416). -/
structure BridgeHello where
  dy : Nat := 0
  dx : Nat := 0
  course : Nat := 0
  memberB : Bool := false
  dir : Nat := 0
  k : Nat := 1
  w : Nat := 1
  h : Nat := 1
deriving DecidableEq, Repr

/-- A control frame in a CTRL slot, Table 13-4 (R371). -/
inductive Frame where
  | attach (ident : W64) (b spad caps : Nat)
  | assign (a : Assign)
  | steer (course : Nat) (lostB : Bool)
  | restore (course : Nat) (memberB : Bool)
  | timeStep (step : Int) (time : Nat)
  | bridgeHello (h : BridgeHello)
  | snap (time : Nat)
  | laneMove (m : LaneMsg)
  | laneGrant (m : LaneMsg)
  | laneRefuse (m : LaneMsg)
  | laneDone (m : LaneMsg)
deriving DecidableEq, Repr

/-- HEARTBEAT, Table 14-3 (R394). -/
structure Heartbeat where
  serving : Bool := false
  alone : Bool := false
  leaving : Bool := false
  failing : Bool := false
  rebuildTgt : Bool := false
  takeover : Nat := 0
  hbCount : Nat := 0
  ckpt : Nat := 0
deriving DecidableEq, Repr

/-- One set of credit limits: CL_0 to CL_7 and CL_pool (Table 13-5, R168). -/
structure CreditSet where
  cl : List Nat := [0, 0, 0, 0, 0, 0, 0, 0]
  pool : Nat := 0
deriving DecidableEq, Repr

/-- TRAIN, Table 13-5 (R380, R384). -/
structure Train where
  confirm : Bool := false
  down : Bool := false
  time : Nat := 0
  echo : Nat := 0
  hold : Nat := 0
  peer : Nat := 0
  peerBrola : Bool := false
  lset : Nat := 0
  replay : Nat := 4
deriving DecidableEq, Repr

/-- A link frame in an unsequenced LINK slot, Table 13-5 (R372). -/
inductive LinkFrame where
  | credit (v0 : CreditSet) (v1 : Option CreditSet)
  | beacon (tsrc : Bool) (time echo hold : Nat)
  | train (t : Train)
  | replayReq (lseq : Nat)
  | eiEnter
  | heartbeat (h : Heartbeat)
  | pcredit (capo : Nat) (vc : Bool) (cl : Nat)
deriving DecidableEq, Repr

/-- A sequenced slot's content, Table 13-3 (R370). HEAD carries a header flit, of which the link layer needs the packet's flits and the class
whose credit it uses. -/
inductive SlotBody where
  | idle
  | head (flits tc : Nat)
  | data
  | ehead (flits : Nat)
  | edata
  | ctrl (f : Frame)
  | ctrlReserved
  | abort (e : Bool)
  | linkReserved
deriving DecidableEq, Repr

/-- What an alignment marker tells (Table 13-1): wavelength, lane, KIND, the sender's string, the first slot boundary, the block count, HEARD. -/
structure LaneMark where
  wl : Nat := 0
  q : Nat := 0
  brola : Bool := false
  str : Nat := 0
  soff : Nat := 0
  bcnt : Nat := 0
  heard : Option Nat := none
deriving DecidableEq, Repr

/-- What a receiver has seen of one lane in bring-up: its latest markers as received, oldest first, and the line symbol at which the last
one began. -/
structure LaneSeen where
  marks : List (List Nat) := []
  at_ : Nat := 0
deriving DecidableEq, Repr

/-- A block of a lane as received, marker first (R362), from whose lane data a slot takes the bits [lo, hi) (R368). -/
structure LaneBlock where
  lane : Nat
  lo : Nat
  hi : Nat
  syms : List Nat
deriving DecidableEq, Repr

/-- A slot, Table 13-2 (R368): its payload is the flit or frame that `body` tells of. `blocks` are the blocks of the lanes that have come in
with it and from which it takes bits; a slot that the sender holds takes its SCRC as it is sent.
IDLE and a LINK frame of a reserved LTYPE (R372) are the only unsequenced bodies here; the other LINK frames have commands of their own. -/
structure Slot where
  body : SlotBody := .idle
  lseq : Nat := 0
  ack : Nat := 16383
  payload : Nat := 0
  scrc : W32 := 0
  blocks : List LaneBlock := []
deriving DecidableEq, Repr

/-- A bulk header flit, Table 6-5 (R184). -/
structure BulkHdr where
  bytes : Nat
  count : Nat
  vc : Bool
  tc : Nat
  fromDy : Nat
  fromDx : Nat
  toDy : Nat
  toDx : Nat
  course : Nat
  memberB : Bool
  dir : Nat
  time : Nat
deriving DecidableEq, Repr

/-- A window descriptor, Tables 7-6 and 8-14 (R202). `mode`: 0 plain, 1 exact, 2 set by first arrival. -/
structure WinDesc where
  wid : Nat := 0
  base : Nat := 0
  lenp : Nat := 0
  fmt : Nat := 0
  rop : Nat := 0
  mode : Nat := 0
  e : Nat := 1
  each : Bool := false
  initDest : Bool := false
  sr : Bool := false
  rearm : Bool := false
  group : Nat := 0
  deadline : Nat := 0
  fctr : Nat := 0
  fctrInc : Nat := 0
  capo : Nat := 0
  seed : W64 := 0
deriving DecidableEq, Repr

/-- A shard descriptor, Table 8-15 (R220). -/
structure ShardDesc where
  shard : Nat := 0
  base : Nat := 0
  len64 : Nat := 1
  ctr : Nat := 0
  capo : Nat := 0
  memberB : Bool := false
deriving DecidableEq, Repr

/-- The states of a reduction window, Table 7-7 (R205). -/
inductive WinState where
  | idle | active | finalising | poisoned | expired
deriving DecidableEq, Repr

/-- The states of a barrier counter, Table 10-4 (R293). -/
inductive BarState where
  | idle | counting | poisoned | expired
deriving DecidableEq, Repr

/-- One accumulator of one element: the plain word of R211, the 320-bit exact value of R212 (SPECIAL and
the integer A of VALUE) and the zeros seen for R213. `any` is true once an addend has arrived. -/
structure Acc where
  any : Bool := false
  plain : W64 := 0
  special : BitVec 2 := 0
  value : Int := 0
  sawPos0 : Bool := false
  sawNeg0 : Bool := false
deriving DecidableEq, Repr

/-- A line of a window: the bytes received, whether a poisoned contribution covered it (R210, R217), and the RT cycle from which the next
contribution may be applied to it (R201). -/
structure Line where
  bytes : Nat := 0
  poisoned : Bool := false
  free : Nat := 0
deriving DecidableEq, Repr

/-- A window's record: its descriptor, what its instance's first arrival fixed, and its status (R205, R283, Table 14-2). -/
structure WinRec where
  d : WinDesc
  st : WinState := .idle
  epoch : Nat := 0
  fmt : Nat := 0
  exact : Bool := false
  op0 : W64 := 0
  conflict : Nat := 0
  openedAt : Nat := 0
  lastF : Option Nat := none
  finals : Nat := 0
  ovf : Bool := false
  pline : Bool := false
deriving DecidableEq, Repr

/-- A state record of Table 14-2, as MSTATE and MCOPY carry it (R393). `counted` is one write counted for a pair, `countZero` a count that
returned to zero, `count` a whole count slot (R70, R85). `linesMoved` names the pages of a window whose lines the receiver serves for the
sender (R218); `halfDone` says that a member's lines of an instance are complete, with the pages it serves for the
other, `winDone` that it has written them, with their OVF and PLINE; `accum` carries the lines and accumulators of an EACH
instance to a rebuild target. -/
inductive StateRec where
  | flag (memberB : Bool) (capo k : Nat) (v : Bool)
  | counter (memberB : Bool) (capo k : Nat) (v : W64)
  | dup (e : DupEntry)
  | count (src epoch n : Nat) (seen : List (Nat × Nat)) (last : Nat)
  | counted (src epoch seq : Nat)
  | countZero (src epoch : Nat)
  | heldFinal (r : Req) (arrived : Nat)
  | dropFinal (src tc seq : Nat)
  | barrier (memberB : Bool) (capo g : Nat) (st : BarState) (epoch stated n openedAt : Nat) (held : List Req)
  | window (w : WinRec)
  | dropWindow (wid : Nat)
  | shard (d : ShardDesc)
  | dropShard (k : Nat)
  | table (tbl key : Nat) (entry : Nat) (staged : Bool)
  | copyQueued (r : Req)
  | copyEnded (r : Req)
  | linesMoved (wid : Nat) (pages : List Nat)
  | halfDone (wid epoch : Nat) (taken : List Nat)
  | winDone (wid epoch : Nat) (ovf pline : Bool)
  | accum (wid : Nat) (lines : TMap Nat Line) (accs : TMap Nat Acc)
  | rcache (sx capo rid : Nat)
  | pfaPage (src tc seq page : Nat)
deriving DecidableEq, Repr

/-- A journal record, Table 14-4 (R403). -/
structure Journal where
  rbid : Nat := 0
  phase : Nat := 1
  ckpt : Nat := 0
  rid : Nat := 0
  page : Nat := 0
  bytes : Nat := 0
  time : Nat := 0
deriving DecidableEq, Repr

/-- An item copied during a rebuild (R400): a state record, or a page of physical memory at a location
key, with its poisoned words. -/
inductive CopyItem where
  | state (r : StateRec)
  | page (rid idx : Nat) (key : Nat) (bytes : List Byte) (poisoned : List Nat)
deriving DecidableEq, Repr

/-- The body of a mirror message, Table 14-1 (R390). -/
inductive MirrorBody where
  | mwrite (key : Nat) (bytes : List Byte) (poison : Bool) (dup : Option DupEntry)
  | mstate (r : StateRec)
  | macc (wid epoch : Nat) (exact : Bool) (fmt : Nat) (off : Nat) (bytes : List Byte) (accs : List (Nat × W64))
      (poison : Bool) (dup : Option DupEntry)
  | mfinal (wid epoch : Nat) (writes : List (Nat × List Byte)) (poisoned : List Nat) (dups : List DupEntry)
  | mconfirm (mseqs : List Nat)
  | mcopy (i : CopyItem)
  | mjournal (j : Journal)
deriving DecidableEq, Repr

/-- A report record, Table 9-2 (R255). -/
structure Report where
  event : Nat := 0
  reason : Nat := 0
  cstate : Nat := 0
  tiles : Nat := 0
  detail : Nat := 0
  seed : W64 := 0
  time : Nat := 0
  digest : W64 := 0
  cycles : Nat := 0
  epoch : Nat := 0
deriving DecidableEq, Repr

/-- An exception record, Table 8-17 (R248). -/
structure ExcRec where
  cause : Nat := 0
  tile : Nat := 0
  part : Nat := 7
  pc : Nat := 0
  status : Nat := 0
  others : Nat := 0
  cycle : Nat := 0
  time : Nat := 0
  errAddr : W64 := 0
  detail : Nat := 0
deriving DecidableEq, Repr

/-- A matrix op, Table 8-7 (R238), without its MOP: each MOP is a command of its own. -/
structure MatOp where
  grp : Nat := 0
  me : Nat := 0
  areg : Nat := 0
  fmt : Nat := 0
  pi : Bool := false
  flip : Bool := false
deriving DecidableEq, Repr

/-- A vector op, Table 8-9 (R240), without its VOP. -/
structure VecOp where
  vd : Nat := 0
  va : Nat := 0
  vb : Nat := 0
  vc : Nat := 0
  areg : Nat := 0
  fmt : Nat := 0
  pi : Bool := false
deriving DecidableEq, Repr

/-- The transfer layout of a mover op, Table 8-11 (R242). -/
structure MovOp where
  eng : Nat := 0
  areg : Nat := 0
  freg : Nat := 0
  len : Nat := 1
  ec : Nat := 0
deriving DecidableEq, Repr

/-- A collective descriptor, Table 10-5 (R297), without its COP: each COP is a command of its own. -/
structure CollDesc where
  fmt : Nat := 0
  rop : Nat := 0
  exact : Bool := false
  group : Nat := 0
  count : Nat := 0
  srcBuf : Nat := 0
  dstBuf : W64 := 0
  ctr : Nat := 0
  root : Nat := 0
  mrec : Nat := 0
  rsvd : Nat := 0
deriving DecidableEq, Repr

/-- A translation returned by ATS (R125): its PASID, the virtual and the fabric base of a page, its size in bytes and its permission. -/
structure AtsXlate where
  pasid : Nat := 0
  vbase : Nat
  size : Nat
  fbase : W64
  write : Bool
deriving DecidableEq, Repr

/-- The conditions of R99 under which a scratchpad window is opened. -/
inductive SpadWhy where
  | startUp | test | recovery
deriving DecidableEq, Repr

/-- An access window of the Brola (R115); `why` is the condition of R99 for which a scratchpad window is opened. -/
structure AccWin where
  base : Nat := 0
  len : Nat := 0
  rd : Bool := false
  wr : Bool := false
  atm : Bool := false
  spad : Bool := false
  isOpen : Bool := false
  why : SpadWhy := .startUp
deriving DecidableEq, Repr

/-- A sample of the two ends of a die-to-die link (R40): temperature difference in tenths of a degree C and
supply difference in mV; the UCIe link-level retries since the last sample (R41), and the lanes replaced when the link has trained
again, as (module, lane, redundant lane) (R21). -/
structure D2dSample where
  link : Nat
  dT : Nat
  dV : Nat
  retries : Nat := 0
  repairs : List (Nat × Nat × Nat) := []
deriving DecidableEq, Repr

/-- The DIMMs found on a DDR5 channel of an HX (R319): how many, their size in GB, and whether they are supported. -/
structure Dimm where
  hx : Nat
  ch : Nat
  count : Nat
  gb : Nat
  supported : Bool
deriving DecidableEq, Repr

/-- One leaf string of a SURVEY (Table 15-6, R422). `cause` and `ready` give its state; `ident` is absent without an ATTACH that
passed R107. -/
structure SurveyStr where
  n : Nat
  ready : Bool
  cause : Nat
  b : Nat
  ident : Option W64
  moved : Bool
deriving DecidableEq, Repr

/-- HELLO, Table 15-6 (R420). -/
structure Hello where
  domain : W64 := 0
  dy : Nat := 0
  dx : Nat := 0
  course : Nat := 0
  memberB : Bool := false
  k : Nat := 1
  w : Nat := 1
  h : Nat := 1
  bridges : Bool := false
  devid : W64 := 0
  phase : Nat := 0
  healthy : Bool := false
  rtc : Nat := 0
  rtcValid : Bool := false
deriving DecidableEq, Repr

/-- The management port that carries an access (R519), and the role of an Ethernet session (R489). -/
inductive MPort where
  | spi
  | smbus
  | eth (sess : Nat)
deriving DecidableEq, Repr

/-- Session roles (R489). -/
inductive Role where
  | owner
  | operator
  | tenant (capo : Nat)
deriving DecidableEq, Repr

/-- A site record, Table 15-4 (R413). -/
structure SiteRec where
  seq : Nat := 0
  domain : W64 := 0
  dy : Nat := 0
  dx : Nat := 0
  course : Nat := 0
  memberB : Bool := false
  k : Nat := 1
  w : Nat := 1
  h : Nat := 1
  bridges : Bool := false
  rampSlot : Nat := 0
  hostP : BitVec 8 := 0
  privP : BitVec 8 := 0
deriving DecidableEq, Repr

/-- A boot control record, Table 15-3 (R411); `valid` says that its MAGIC and CRC match. -/
structure BootRec where
  valid : Bool := false
  seq : Nat := 0
  prefB : Bool := false
  tries : Nat := 0
deriving DecidableEq, Repr

/-- The events that the manual writes to the scroll; the manual gives their CODE numbers nowhere. -/
inductive ScrollEv where
  | refLost | refRelock | lanePllLost | timeStep | brolaTimeStep | domainFault | d2dDegraded | d2dDown
  | d2dNormal | dupEvicted | miswired | bufUncorr | harmonicEnd | bridgeMiscabled | streamException
  | streamEnd | admission | commitRecord | regionDegraded | channelDegraded | cxlDown | cxlRefused | laserRefused
  | laserRaise | laserFail | linkDown | twinLost | splitCount | courseSplit | helloMismatch | helloDuplicate
  | leadAnchored | disagreeing | overrun | rampViolation | throttleLevel | fuseLost | planSummary | siteWorn
  | ownerLost | trngFailed | trngRecovered | tamper | temperature | cellLow | aonLost | testResult | reset | memUncorr | accUncorr | storeUncorr | repairLoad | summary
deriving DecidableEq, Repr

/-- A scroll entry, Table 19-5 (R509), with its MAC (R510). `args` are the values it records in DETAIL; a summary
entry names in `sub` the CLASS and event it sums up (R511). -/
structure ScrollEntry where
  seq : Nat := 0
  time : Nat := 0
  rtc : Nat := 0
  site : Nat := 0
  capo : Option Nat := none
  cls : Nat := 0
  ev : ScrollEv := .summary
  args : List Nat := []
  sub : Option (Nat × ScrollEv) := none
  count : Nat := 0
  mac : BitVec 128 := 0
deriving DecidableEq, Repr

/-- A peg, Table 12-5 (R342). `phase` counts the periods of the state's own timers. -/
inductive PegState where
  | off | seek | trim | locked | recover | hold | park | failed
deriving DecidableEq, Repr

/-- The down causes, Table 13-9 (R384); `none` is code 0. -/
inductive DownCause where
  | none | noLight | peg | symbol | fec | silent | replay | train | miswire | partner | disabled | refclk
deriving DecidableEq, Repr

/-- An SPDM signature, certificate or transcript check, made by the published standard and given with the
message (R489). -/
structure SpdmCert where
  ok : Bool := false
  role : Role := .operator
deriving DecidableEq, Repr

/-- The 64-bit counters of the manual, one name per row of Tables 4-6, 5-9, 6-7, 7-10, 8-20, 11-6, 12-12, 13-10,
14-8, 16-10, 19-2 and 20-16; `pllLoss` is the count of R27 and `capoViol` that of Table 2-10, which the manual leaves without a name. -/
inductive CtrName where
  | brlHdrErr | brlFmtErr | brlDupEvict | brlSeqReuse
  | sxPktIn | sxPktOut | sxPushout | sxAdmitWait | sxCtAbort | sxBufCorr | sxBufUncorr | sxHdrErr | sxFmtErr
  | sxSeqReuse | sxDupEvict | sxMisdirect | sxEmergFlits | sxHarmDrop
  | sxUnroutable | sxMisroute | sxReroute | sxCreditWait | sxLinkDup | sxMcastFail
  | brgBulkOut | brgBulkPkts | brgBulkErr | brgDateline
  | rtMeSteps | rtMeIdle | rtLaneBytes | rtLineWait | rtWinFinal | rtWinPoison | rtWinExpire | rtWinDrop
  | rtHeldFull | rtAccCorr | rtAccUncorr | rtSrDraws
  | rtSeqIssue | rtSeqWait | rtSeqChkpt | rtSeqDuty | rtSeqExc | rtStoreCorr | rtStoreUncorr
  | sxRcacheMiss | sxXlateFault | hxDdrRdBytes | hxDdrWrBytes | hxDdrCorr | hxDdrUncorr | hxCxlRdBytes
  | hxCxlWrBytes | hxCxlPoison | memPfaBytes | memPfaPoison | memDegraded
  | oxPegRecover | oxPegFail | oxPegHeatUj | oxReflank | oxLaneMove | oxLaneRefuse | oxLaneAbandon
  | oxTuneRevert | oxLaserWarn
  | lnkFecCorr | lnkFecUncorr | lnkGuard | lnkSlotCrc | lnkGap | lnkReplay | lnkReplaySlots | lnkFraming
  | lnkEiEntry | lnkDown
  | courseMirrorMsgs | courseMirrorFull | courseHbMiss | courseTakeover | courseRbBytes | courseRbRestart
  | elgPdUj | elgPkgUj | elgStreamUj | elgBallastUj | elgEpoch | elgDefer | elgChkptWait | elgOverrun
  | elgRampViol | elgThrottleEp
  | sxD2dRetry | sxD2dLaneRep | mcScrollSuppress
  | mcIfErr | mcIfAccess | snapLate
  | pllLoss
  | capoViol
deriving DecidableEq, Repr

/-- A request at the Brola's local request port (R111): with `v`, `req.addr` is a virtual address (R125); with `ctr`, a read of one of the
Brola's counters, which are no part of any address space (R550; log entry 175). -/
structure PortReq where
  tag : Nat := 0
  ktag : Nat := 0
  v : Bool := false
  pasid : Nat := 0
  req : Req := {}
  ctr : Option (CtrName × List Nat) := none
deriving DecidableEq, Repr

/-- The readings of a cell pair, Table 17-1 (R455). -/
inductive CellPair where
  | unprogrammed | one | zero | invalid
deriving DecidableEq, Repr

/-- How a copy of a fuse record reads (R460, R462): every pair programmed and the CRC right, nothing programmed, or anything else. -/
inductive CopyRead where
  | good | blank | bad
deriving DecidableEq, Repr

/-- A fuse record, Table 17-2, with the cells of its four copies, MC0 copies 0 and 1, MC1 copies 0 and 1: word by word the true cells and
the complement cells that are programmed (R454). -/
structure FuseRec where
  ty : Nat
  site : Nat := 0
  gen : Nat := 1
  words : List W64 := []
  copies : List (List (W64 × W64)) := [[], [], [], []]
deriving DecidableEq, Repr

/-- A harmonic copy, Table 5-8 (R159): time, SX, point, port, filter, whether it is cut short, copies dropped since, and the packet. -/
structure HarmCopy where
  time : Nat
  sxn : Nat
  point : Nat
  port : Nat
  filter : Nat
  trunc : Bool
  drops : Nat
  p : Pkt
deriving DecidableEq, Repr

/-- An ECC error that the SX meets as it reads a packet out (R148): which packet of those it sends, which of its cells, and whether it
struck the header flit. -/
structure EccHit where
  pkt : Nat := 0
  cell : Nat := 0
  header : Bool := false
deriving DecidableEq, Repr

/-- The errors that an arbiter's grant meets in the buffer: those corrected and those that cannot be. -/
structure EccMet where
  corrected : List EccHit := []
  uncorrectable : List EccHit := []
deriving DecidableEq, Repr

/-- The bit errors of a lane over a window, before FEC, and the bits received in it (R349). -/
structure BitErrors where
  errs : Nat := 0
  bits : Nat := 0
deriving DecidableEq, Repr

/-- What ATTACH reports of the leaf beside its identity: the scratchpad in GiB and the capabilities (R129). -/
structure LeafReport where
  spad : Nat := 0
  caps : Nat := 0
deriving DecidableEq, Repr

/-- An event the package sends: what leaves it on a link, a port or a pin. The list `State.out` keeps them in
the order sent. A completion leaves as its fields; its header flit, with OPCODE and HCRC, is `cmpFlit` of them (R56). -/
inductive Out where
  | cmp (c : Cmp)
  | fwd (p : Pkt) (sx port : Nat)
  | bulk (str : Nat) (h : BulkHdr) (ps : List Pkt)
  | req (who : Party) (r : Req) (port : Nat)
  | mirror (mseq sx port : Nat) (b : MirrorBody)
  | frame (who : Party) (str : Nat) (f : Frame)
  | link (x : Nat) (l : LinkFrame)
  | slots (x : Nat) (lseqs : List Nat)
  | abort (x : Nat)
  | harmonic (sx port flit : Nat) (p : Pkt) (trunc : Bool)
  | portDone (tag : Nat) (c : Cmp)
  | portRefused (tag : Nat) (st : Status)
  | atsRequest (id : Nat) (va pasid : Nat)
  | atsInvDone (tag : Nat)
  | discard (id lo len : Nat)
  | kernelBegin (tag : Nat)
  | kernelEnd (tag bad : Nat)
  | report (addr : W64) (r : Report) (rctr : Nat)
  | excReport (addr : W64) (r : ExcRec)
  | alarm (sess : Nat) (value : BitVec 11) (seq : Nat)
  | hello (h : Hello)
  | sweep (s rank : Nat)
  | survey (s : Nat) (l : List SurveyStr)
  | tables (sweep epoch : Nat) (present : List (Nat × W64 × Nat)) (excluded : List Nat)
  | result (cstate : Nat) (converged : Bool)
  | cancelAll
  | spiRead (data : W32) (crcFlip : Bool)
  | smbRead (data : W32) (status : Nat)
  | mctpRead (sess : Nat) (status : Nat) (ws : List W32)
  | mctpWrite (sess : Nat) (status : Nat)
  | spdm (sess : Nat) (code : Nat)
  | measurements (sess : Nat) (capoView : Option Nat) (blocks : List (Nat × List Nat)) (signature : Option Nat)
  | smbAlert (addr : Nat)
  | jtag (code : Nat) (data : Nat)
deriving DecidableEq, Repr

end Sys2Proof
end

