-- ==== Sys2Proof/Syntax.lean ====
section
/-! DEFINITION. The commands: one constructor per row of spec/opcode_table.json, with the row's operands.
A command is one event at the package, at its peers' frames, or at its management ports. -/

namespace Sys2Proof

inductive Instr where
  /-- REF_LOST (R25). -/
  | refLost
  /-- REF_RELOCK (R25). -/
  | refRelock
  /-- LANE_PLL_LOCK_LOSS (R27). -/
  | lanePllLockLoss (kind idx : Nat)
  /-- BEACON_SEND (R31). -/
  | beaconSend
  /-- BEACON (R31). -/
  | beacon (x : Nat) (tsrc : Bool) (time echo hold : Nat)
  /-- TIME_HOLDOVER (R39). -/
  | timeHoldover
  /-- ADJ_MONITOR_SAMPLE (R40). -/
  | adjMonitorSample (samples : List D2dSample)
  /-- PD_FAULT (R37). -/
  | pdFault (pd : Nat)
  /-- AON_TO_VBAK (R543). -/
  | aonToVbak (vaonMv : Nat)
  /-- AON_TO_VAON (R543). -/
  | aonToVaon (vaonMv stableUs : Nat)
  /-- POWER_ON_RESET (R407). -/
  | powerOnReset (rstLow : Bool)
  /-- COLD_RESET (R542). -/
  | coldReset (lowNs : Nat)
  /-- POWER_FAIL (R540). -/
  | powerFail
  /-- RAIL_FAULT (R540). -/
  | railFault (rail : Nat)
  /-- PORT_RESET (R407). -/
  | portReset (port : Nat)
  /-- PACKET_ARRIVAL (R136). -/
  | packetArrival (sx port : Nat) (p : Pkt)
  /-- PACKET_ADMIT (R142). -/
  | packetAdmit (sx idx : Nat)
  /-- ARBITER_DECISION (R153). -/
  | arbiterDecision (sx port : Nat) (boundary : Bool) (corrected uncorrectable : List EccHit)
  /-- DDR_ARBITER_DECISION (R321). -/
  | ddrArbiterDecision (hx ch : Nat) (busy : Bool) (rdAge wrAge : Option Nat) (refresh : Bool)
  /-- CREDIT_SEND (R168). -/
  | creditSend (x : Nat)
  /-- CREDIT (R169). -/
  | credit (x : Nat) (v0 : CreditSet) (v1 : Option CreditSet)
  /-- PCREDIT (R481). -/
  | pcredit (x capo : Nat) (vc : Bool) (cl : Nat)
  /-- BULK_CLOSE (R184). -/
  | bulkClose (str tc : Nat) (vc : Bool)
  /-- BULK_RECEIVE (R185). -/
  | bulkReceive (str : Nat) (h : BulkHdr) (ps : List Pkt) (bcrc : W32)
  /-- LD (R76). -/
  | ld (r : Req) (v : Via)
  /-- ST (R76). -/
  | st (r : Req) (v : Via)
  /-- AADD (R101). -/
  | aadd (r : Req) (v : Via)
  /-- AAND (R101). -/
  | aand (r : Req) (v : Via)
  /-- AOR (R101). -/
  | aor (r : Req) (v : Via)
  /-- AXOR (R101). -/
  | axor (r : Req) (v : Via)
  /-- ASWAP (R101). -/
  | aswap (r : Req) (v : Via)
  /-- ACAS (R101). -/
  | acas (r : Req) (v : Via)
  /-- AMAX (R101). -/
  | amax (r : Req) (v : Via)
  /-- AMIN (R101). -/
  | amin (r : Req) (v : Via)
  /-- FADD32 (R102). -/
  | fadd32 (r : Req) (v : Via)
  /-- FADDB16 (R102). -/
  | faddb16 (r : Req) (v : Via)
  /-- RST (R211). -/
  | rst (r : Req) (v : Via)
  /-- RSTX (R212). -/
  | rstx (r : Req) (v : Via)
  /-- MST (R175). -/
  | mst (r : Req) (v : Via)
  /-- FSET (R70). -/
  | fset (r : Req) (v : Via)
  /-- FCLR (R58). -/
  | fclr (r : Req) (v : Via)
  /-- FTEST (R120). -/
  | ftest (r : Req) (v : Via)
  /-- BARR (R293). -/
  | barr (r : Req) (v : Via)
  /-- CPYD (R121). -/
  | cpyd (r : Req) (v : Via)
  /-- INV_LEAF_LINES (R96). -/
  | invLeafLines (r : Req) (v : Via)
  /-- INV_TRANSLATION (R126). -/
  | invTranslation (r : Req) (v : Via)
  /-- INV_REGION_CACHE (R314). -/
  | invRegionCache (r : Req) (v : Via)
  /-- INV_DRAIN_COMPLETE (R314). -/
  | invDrainComplete (src tc seq : Nat)
  /-- PFA_FETCH (R324). -/
  | pfaFetch (r : Req) (v : Via)
  /-- PFA_ZERO (R324). -/
  | pfaZero (r : Req) (v : Via)
  /-- PFA_SCRUB (R324). -/
  | pfaScrub (r : Req) (v : Via)
  /-- PFA_COMPLETE (R326). -/
  | pfaComplete (src tc seq : Nat)
  /-- CMP (R114). -/
  | cmp (w : Party) (b : Nat) (c : Cmp) (hcrc : W32)
  /-- FINAL_HOLD_TIMEOUT (R71). -/
  | finalHoldTimeout (w : Party) (src tc seq : Nat)
  /-- COUNT_SLOT_RELEASE (R71). -/
  | countSlotRelease (w : Party) (src epoch : Nat)
  /-- DUP_ENTRY_RELEASE (R72). -/
  | dupEntryRelease (w : Party) (src tc seq : Nat)
  /-- COMPLETION_TIMEOUT (R112). -/
  | completionTimeout (w : Party) (id : Nat)
  /-- RETRY_RESEND (R66). -/
  | retryResend (w : Party) (id : Nat)
  /-- MCAST_COPY_TIMEOUT (R177). -/
  | mcastCopyTimeout (id : Nat)
  /-- SOURCE_RESET (R67). -/
  | sourceReset (w : Party)
  /-- PORT_REQUEST (R111). -/
  | portRequest (p : PortReq)
  /-- REQUEST_RELEASE (R108). -/
  | requestRelease (id : Nat)
  /-- ATS_TRANSLATION_COMPLETE (R125). -/
  | atsTranslationComplete (id : Nat) (x : Option AtsXlate)
  /-- ATS_TRANSLATION_TIMEOUT (R125). -/
  | atsTranslationTimeout (id : Nat)
  /-- ATS_INVALIDATION (R126). -/
  | atsInvalidation (tag lo len : Nat)
  /-- ATS_INVALIDATION_COMPLETE (R126). -/
  | atsInvalidationComplete (tag : Nat)
  /-- ACCESS_WINDOW_DEFINE (R115). -/
  | accessWindowDefine (idx : Nat) (w : AccWin)
  /-- KERNEL_BEGIN (R127). -/
  | kernelBegin (ktag : Nat)
  /-- DISCARD_ACK (R127). -/
  | discardAck (id : Nat)
  /-- KERNEL_END (R128). -/
  | kernelEnd (ktag : Nat)
  /-- KERNEL_END_SIGNAL (R128). -/
  | kernelEndSignal (ktag : Nat)
  /-- COPY_START (R122). -/
  | copyStart (w : Party)
  /-- ATTACH (R107). -/
  | attach (n : Nat) (ident : W64) (b : Nat) (leaf : LeafReport)
  /-- ASSIGN (R131). -/
  | assign (b : Nat) (a : Assign)
  /-- STEER (R132). -/
  | steer (b course : Nat) (lostB : Bool)
  /-- RESTORE (R133). -/
  | restore (b course : Nat) (memberB : Bool)
  /-- TIME_STEP (R134). -/
  | timeStep (n : Nat) (step : Int) (time : Nat)
  /-- BRIDGE_HELLO (R180). -/
  | bridgeHello (n : Nat) (h : BridgeHello)
  /-- SNAP (R507). -/
  | snap (b time : Nat)
  /-- BROLA_SNAPSHOT (R507). -/
  | brolaSnapshot (time : Nat)
  /-- ALLREDUCE (R298). -/
  | allreduce (d : CollDesc)
  /-- RSCATTER (R298). -/
  | rscatter (d : CollDesc)
  /-- REDUCE (R298). -/
  | reduce (d : CollDesc)
  /-- ALLGATHER (R297). -/
  | allgather (d : CollDesc)
  /-- BCAST (R297). -/
  | bcast (d : CollDesc)
  /-- BARRIER (R292). -/
  | barrier (d : CollDesc)
  /-- GSHARD (R297). -/
  | gshard (d : CollDesc)
  /-- FUSED (R302). -/
  | fused (d : CollDesc)
  /-- GROUP_RESET (R304). -/
  | groupReset (group epoch : Nat)
  /-- WINDOW_FINALISED (R205). -/
  | windowFinalised (wid : Nat)
  /-- WINDOW_DEADLINE (R207). -/
  | windowDeadline (wid : Nat)
  /-- WINDOW_RECOVER (R205). -/
  | windowRecover (wid : Nat)
  /-- BARRIER_TIMEOUT (R293). -/
  | barrierTimeout (capo group : Nat)
  /-- BARRIER_RECOVER (R293). -/
  | barrierRecover (capo group : Nat)
  /-- ARM (R234). -/
  | arm (we : Nat)
  /-- WAIT (R234). -/
  | wait (we : Nat)
  /-- WAIT_RELEASE (R234). -/
  | waitRelease (we cycle : Nat)
  /-- WAIT_TIMEOUT (R235). -/
  | waitTimeout (we : Nat)
  /-- ECHK (R236). -/
  | echk (seg : Nat)
  /-- CHECKPOINT_TIMEOUT (R236). -/
  | checkpointTimeout
  /-- NEXT (R231). -/
  | next
  /-- BR (R231). -/
  | br (tgt : Nat)
  /-- BRC (R231). -/
  | brc (we tgt : Nat)
  /-- BRNC (R231). -/
  | brnc (we tgt : Nat)
  /-- LOOP (R231). -/
  | loop (lc imm : Nat)
  /-- ENDL (R231). -/
  | endl (lc tgt : Nat)
  /-- CALL (R231). -/
  | call (tgt : Nat)
  /-- RET (R231). -/
  | ret
  /-- HALT (R246). -/
  | halt
  /-- WRST (R231). -/
  | wrst (we : Nat)
  /-- LOCKSTEP_COMPARE (R227). -/
  | lockstepCompare (addrs : List Nat) (cycle : Nat)
  /-- NOP (R238). -/
  | nop (tile : Nat)
  /-- STEP (R197). -/
  | step (tile : Nat) (o : MatOp)
  /-- LDW (R238). -/
  | ldw (tile : Nat) (o : MatOp)
  /-- ZACC (R238). -/
  | zacc (tile : Nat) (o : MatOp)
  /-- STACC (R238). -/
  | stacc (tile : Nat) (o : MatOp)
  /-- LDACC (R238). -/
  | ldacc (tile : Nat) (o : MatOp)
  /-- VNOP (R240). -/
  | vnop (tile : Nat)
  /-- VLD (R240). -/
  | vld (tile : Nat) (o : VecOp)
  /-- VST (R241). -/
  | vst (tile : Nat) (o : VecOp)
  /-- VFMA (R240). -/
  | vfma (tile : Nat) (o : VecOp)
  /-- VADD (R240). -/
  | vadd (tile : Nat) (o : VecOp)
  /-- VMUL (R240). -/
  | vmul (tile : Nat) (o : VecOp)
  /-- VMAX (R240). -/
  | vmax (tile : Nat) (o : VecOp)
  /-- VMIN (R240). -/
  | vmin (tile : Nat) (o : VecOp)
  /-- VSPLAT (R240). -/
  | vsplat (tile : Nat) (o : VecOp)
  /-- VACC (R240). -/
  | vacc (tile : Nat) (o : VecOp)
  /-- MNOP (R242). -/
  | mnop (tile : Nat)
  /-- GET (R243). -/
  | get (tile : Nat) (o : MovOp)
  /-- PUT (R243). -/
  | put (tile : Nat) (o : MovOp)
  /-- LDFA (R242). -/
  | ldfa (tile areg freg : Nat)
  /-- SETA (R242). -/
  | seta (tile reg imm : Nat)
  /-- ADDA (R242). -/
  | adda (tile reg imm : Nat)
  /-- SETS (R242). -/
  | sets (tile reg imm : Nat)
  /-- SETL (R242). -/
  | setl (tile imm : Nat)
  /-- MOVER_OP_COMPLETE (R244). -/
  | moverOpComplete (tile eng : Nat)
  /-- SNOP (R245). -/
  | snop (tile : Nat)
  /-- LAUNCH (R265). -/
  | launch (tile h ec : Nat)
  /-- SIGNAL (R245). -/
  | signal (tile freg eng : Nat)
  /-- ECLR (R245). -/
  | eclr (tile ec : Nat)
  /-- WDECL (R245). -/
  | wdecl (tile areg ec : Nat)
  /-- WREM (R245). -/
  | wrem (tile areg ec : Nat)
  /-- SHDECL (R245). -/
  | shdecl (tile areg ec : Nat)
  /-- SHREM (R245). -/
  | shrem (tile areg ec : Nat)
  /-- DECLARATION_COMPLETE (R245). -/
  | declarationComplete (id : Nat)
  /-- STREAM_END (R246). -/
  | streamEnd
  /-- STREAM_MAXCYC (R263). -/
  | streamMaxcyc
  /-- HANDLER_START (R265). -/
  | handlerStart (tile : Nat)
  /-- HANDLER_END (R265). -/
  | handlerEnd (tile h : Nat)
  /-- HANDLER_MAXCYC (R268). -/
  | handlerMaxcyc (tile core : Nat)
  /-- ADD (R266). -/
  | add (t c rd ra rb : Nat)
  /-- SUB (R266). -/
  | sub (t c rd ra rb : Nat)
  /-- AND (R266). -/
  | and (t c rd ra rb : Nat)
  /-- OR (R266). -/
  | or (t c rd ra rb : Nat)
  /-- XOR (R266). -/
  | xor (t c rd ra rb : Nat)
  /-- SHL (R266). -/
  | shl (t c rd ra rb : Nat)
  /-- SHR (R266). -/
  | shr (t c rd ra rb : Nat)
  /-- SRA (R266). -/
  | sra (t c rd ra rb : Nat)
  /-- MUL (R266). -/
  | mul (t c rd ra rb : Nat)
  /-- ADDI (R266). -/
  | addi (t c rd ra : Nat) (imm : BitVec 16)
  /-- LUI (R266). -/
  | lui (t c rd : Nat) (imm : BitVec 16)
  /-- SC_LD (R266). -/
  | scLd (t c rd ra : Nat) (imm : BitVec 11)
  /-- SC_ST (R266). -/
  | scSt (t c rd ra : Nat) (imm : BitVec 11)
  /-- BEQ (R266). -/
  | beq (t c rd ra : Nat) (imm : BitVec 11)
  /-- BNE (R266). -/
  | bne (t c rd ra : Nat) (imm : BitVec 11)
  /-- BLT (R266). -/
  | blt (t c rd ra : Nat) (imm : BitVec 11)
  /-- BGE (R266). -/
  | bge (t c rd ra : Nat) (imm : BitVec 11)
  /-- JMP (R266). -/
  | jmp (t c ra : Nat) (imm : BitVec 16)
  /-- CVT (R266). -/
  | cvt (t c rd ra : Nat) (fromFmt toFmt : Nat)
  /-- SCIN (R267). -/
  | scin (t c rd ra rb : Nat)
  /-- SCOUT (R267). -/
  | scout (t c rd ra rb : Nat)
  /-- SCWAIT (R266). -/
  | scwait (t c : Nat)
  /-- SC_TRANSFER_END (R267). -/
  | scTransferEnd (t c : Nat)
  /-- SC_HALT (R266). -/
  | scHalt (t c : Nat)
  /-- FAULT (R268). -/
  | scFault (t c : Nat)
  /-- ADMISSION_START (R253). -/
  | admissionStart (control : Bool)
  /-- IMAGE_FETCH_COMPLETE (R253). -/
  | imageFetchComplete (control : Bool)
  /-- BIND_COMPLETE (R258). -/
  | bindComplete (code : Nat) (bundles : List (Nat × BitVec 1024))
  /-- SEED_WAIT_TIMEOUT (R261). -/
  | seedWaitTimeout
  /-- ADMISSION_ENERGY_TIMEOUT (R262). -/
  | admissionEnergyTimeout
  /-- STREAM_START (R253). -/
  | streamStart
  /-- STAGE (R270). -/
  | stage (tbl : Nat) (entries : List Nat)
  /-- UNSTAGE (R269). -/
  | unstage (tbl : Nat)
  /-- COMMIT (R273). -/
  | commit (epoch : Nat)
  /-- CANCEL (R279). -/
  | cancel (num : Nat)
  /-- COMMIT_APPLY (R275). -/
  | commitApply (num : Nat)
  /-- ARBPRIO (R155). -/
  | arbprio (sx port entry value : Nat)
  /-- PDREQ (R37). -/
  | pdreq (pd : Nat) (on : Bool)
  /-- RTOUT (R269). -/
  | rtout (rt : Nat)
  /-- RTOUT_PROCEED (R269). -/
  | rtoutProceed (rt : Nat)
  /-- RTIN (R269). -/
  | rtin (rt : Nat)
  /-- ABORTS (R269). -/
  | aborts
  /-- WAITT (R269). -/
  | waitt (time : Nat)
  /-- WAITT_EXPIRY (R269). -/
  | waittExpiry
  /-- END (R269). -/
  | endProg
  /-- RT_SLOT_BOUNDARY (R479). -/
  | rtSlotBoundary
  /-- COMMIT_SEED_WAIT_TIMEOUT (R495). -/
  | commitSeedWaitTimeout
  /-- IN_SERVICE_TEST_END (R514). -/
  | inServiceTestEnd (site : Nat) (faulty : Option Nat)
  /-- RCACHE_FETCH_COMPLETE (R313). -/
  | rcacheFetchComplete (sx capo rid : Nat)
  /-- PAGE_SCRUB (R312). -/
  | pageScrub (target page : Nat)
  /-- BACKING_RETURN (R318). -/
  | backingReturn (target : Nat)
  /-- CXL_ENUMERATE (R322). -/
  | cxlEnumerate (port gb : Nat) (supported : Bool)
  /-- CXL_LINK_DOWN (R323). -/
  | cxlLinkDown (port : Nat)
  /-- PEG_LOOP (R342). -/
  | pegLoop (ox fibre : Nat) (bus : Bool) (ring : Nat) (measured : Nat) (light found : Bool)
  /-- PROBE_DWELL (R348). -/
  | probeDwell (ox fibre ring wl oma : Nat) (eyes : List Nat) (ser : Nat)
  /-- LANE_BER_CHECK (R349). -/
  | laneBerCheck (x q : Nat) (ber : BitErrors) (levels : List Nat)
  /-- LANE_BER_WINDOW (R350). -/
  | laneBerWindow (x q errs bits : Nat)
  /-- LASER_MONITOR (R357). -/
  | laserMonitor (lm lane centiDbm : Nat) (lowMs : Nat) (alarm : Bool)
  /-- LASER_MODULE_REMOVE (R357). -/
  | laserModuleRemove (lm : Nat)
  /-- LASER_MODULE_INSERT (R357). -/
  | laserModuleInsert (lm lanes : Nat) (onGrid : Bool)
  /-- LANE_MOVE (R352). -/
  | laneMove (m : LaneMsg)
  /-- LANE_GRANT (R352). -/
  | laneGrant (m : LaneMsg)
  /-- LANE_REFUSE (R351). -/
  | laneRefuse (m : LaneMsg)
  /-- LANE_DONE (R352). -/
  | laneDone (m : LaneMsg)
  /-- LANE_MOVE_NO_ANSWER (R353). -/
  | laneMoveNoAnswer (x : Nat)
  /-- LANE_MOVE_ABANDON (R353). -/
  | laneMoveAbandon (x : Nat)
  /-- SLOT_RECEIVE (R373). -/
  | slotReceive (x : Nat) (sl : Slot)
  /-- SLOT_ABORT (R370). -/
  | slotAbort (x : Nat) (e : Bool)
  /-- REPLAY_TIMER_EXPIRY (R374). -/
  | replayTimerExpiry (x : Nat)
  /-- REPLAY_REQ (R374). -/
  | replayReq (x lseq : Nat)
  /-- TRAIN (R380). -/
  | train (x : Nat) (t : Train)
  /-- EI_ENTRY (R381). -/
  | eiEntry (x : Nat)
  /-- EI_ENTER (R381). -/
  | eiEnter (x : Nat)
  /-- EI_EXIT (R382). -/
  | eiExit (x : Nat)
  /-- STAGE_COMPLETE (R376). -/
  | stageComplete (x : Nat) (lanes : List LaneSeen) (blocks : List LaneBlock)
  /-- STAGE_LIMIT (R376). -/
  | stageLimit (x : Nat) (miswire : Bool)
  /-- LIGHT_LOSS (R384). -/
  | lightLoss (x : Nat)
  /-- SILENT_TIMEOUT (R384). -/
  | silentTimeout (x : Nat)
  /-- BRINGUP_RESTART (R376). -/
  | bringupRestart (x : Nat)
  /-- ALIGNMENT_MARKER_LOSS (R384). -/
  | alignmentMarkerLoss (x : Nat)
  /-- FEC_UNCORR_LIMIT (R384). -/
  | fecUncorrLimit (x lane : Nat) (blocks : List LaneBlock)
  /-- HEARTBEAT_SEND (R394). -/
  | heartbeatSend
  /-- HEARTBEAT (R394). -/
  | heartbeat (sp : Nat) (h : Heartbeat)
  /-- HEARTBEAT_MISS (R395). -/
  | heartbeatMiss
  /-- MWRITE (R391). -/
  | mwrite (mseq key : Nat) (bytes : List Byte) (poison : Bool) (dup : Option DupEntry)
  /-- MSTATE (R393). -/
  | mstate (mseq : Nat) (r : StateRec)
  /-- MACC (R206). -/
  | macc (mseq : Nat) (m : MirrorBody)
  /-- MFINAL (R206). -/
  | mfinal (mseq : Nat) (m : MirrorBody)
  /-- MCONFIRM (R391). -/
  | mconfirm (mseqs : List Nat)
  /-- MCOPY (R400). -/
  | mcopy (mseq : Nat) (i : CopyItem)
  /-- MJOURNAL (R403). -/
  | mjournal (mseq : Nat) (j : Journal)
  /-- REBUILD_COPY (R400). -/
  | rebuildCopy
  /-- REBUILD_END (R402). -/
  | rebuildEnd
  /-- SOUNDPOST_GAP_TIMEOUT (R404). -/
  | soundpostGapTimeout
  /-- MC_TAKEOVER (R521). -/
  | mcTakeover
  /-- MC_BOOT (R412). -/
  | mcBoot (verifyA verifyB siteOk : Bool)
  /-- SELFTEST_START (R414). -/
  | selftestStart (dimms : List Dimm)
  /-- SELFTEST_PHASE_END (R414). -/
  | selftestPhaseEnd (failed : List Nat)
  /-- OPTICAL_PHASE_END (R415). -/
  | opticalPhaseEnd
  /-- SOUNDPOST_PHASE_END (R416). -/
  | soundpostPhaseEnd
  /-- LEAF_ATTACH_PHASE_END (R417). -/
  | leafAttachPhaseEnd (elapsedMs : Nat)
  /-- HELLO_SEND (R420). -/
  | helloSend
  /-- HELLO (R420). -/
  | hello (h : Hello) (session : Bool)
  /-- ELECTION_CLOSE (R421). -/
  | electionClose
  /-- SWEEP_SEND (R423). -/
  | sweepSend
  /-- SWEEP (R423). -/
  | sweep (s rank : Nat)
  /-- SURVEY (R424). -/
  | survey (rank s : Nat) (l : List SurveyStr)
  /-- TABLES (R428). -/
  | tables (sweepNo epoch : Nat) (present : List (Nat × W64 × Nat)) (excluded : List Nat)
  /-- RESULT (R432). -/
  | result (rank cstate : Nat) (converged : Bool)
  /-- TABLES_ACCEPT_DEADLINE (R428). -/
  | tablesAcceptDeadline
  /-- CONVERGENCE_CHECK (R432). -/
  | convergenceCheck
  /-- LEAD_LOST (R433). -/
  | leadLost
  /-- LEDGER_EPOCH (R439). -/
  | ledgerEpoch (pdUj : List Nat) (streamUj : Nat) (ballastUj : List Nat) (temps : List (Nat × Int))
  /-- THERMAL_SAMPLE (R448). -/
  | thermalSample (temps : List (Nat × Int))
  /-- AGE_STEP (R473). -/
  | ageStep (p : MPort) (value : Nat)
  /-- REPAIR_GEN (R473). -/
  | repairGen (p : MPort) (value : Nat)
  /-- FUSE_PROGRAM_DONE (R458). -/
  | fuseProgramDone (odd : List (Nat × Nat × W64 × W64))
  /-- REPLAN (R467). -/
  | replan (p : MPort) (value : Nat) (readings : List (Nat × Nat × Nat))
  /-- REPLAN_PERIOD (R467). -/
  | replanPeriod (readings : List (Nat × Nat × Nat))
  /-- AGEING_MONITOR_READ (R466). -/
  | ageingMonitorRead (site slackPs vminMv : Nat)
  /-- GET_VERSION (R489). -/
  | getVersion (conn : Nat)
  /-- GET_CAPABILITIES (R489). -/
  | getCapabilities (conn : Nat)
  /-- NEGOTIATE_ALGORITHMS (R489). -/
  | negotiateAlgorithms (conn : Nat) (supported : Bool)
  /-- GET_DIGESTS (R489). -/
  | getDigests (conn : Nat)
  /-- GET_CERTIFICATE (R489). -/
  | getCertificate (conn off len : Nat)
  /-- CHALLENGE (R489). -/
  | challenge (conn : Nat) (nonce : Nat)
  /-- GET_MEASUREMENTS (R498). -/
  | getMeasurements (conn : Nat) (nonce : Nat)
  /-- KEY_EXCHANGE (R489). -/
  | keyExchange (conn : Nat)
  /-- FINISH (R489). -/
  | finish (conn : Nat) (cert : SpdmCert)
  /-- SPDM_HEARTBEAT (R489). -/
  | spdmHeartbeat (conn : Nat)
  /-- SPDM_SESSION_TIMEOUT (R489). -/
  | spdmSessionTimeout (conn : Nat)
  /-- KEY_UPDATE (R489). -/
  | keyUpdate (conn : Nat)
  /-- END_SESSION (R528). -/
  | endSession (conn : Nat)
  /-- OWNER_CLAIM (R491). -/
  | ownerClaim (keyDigest minSvn : Nat)
  /-- SEC_OWNER_GEN (R492). -/
  | secOwnerGen (p : MPort) (value : Nat) (rotation : Option (Nat × Nat))
  /-- TRNG_BLOCK (R494). -/
  | trngBlock (pass : Bool) (bits : List W64)
  /-- TRNG_STARTUP_RETRY (R494). -/
  | trngStartupRetry (pass : Bool)
  /-- TAMPER (R496). -/
  | tamper
  /-- AON_TEMPERATURE (R496). -/
  | aonTemperature (centiC : Int)
  /-- CELL_LOW (R496). -/
  | cellLow (vbakMv : Nat)
  /-- AON_LOST (R496). -/
  | aonLost
  /-- SNAP_AT_LO (R533). -/
  | snapAtLo (p : MPort) (value : W32)
  /-- SNAP_AT_HI (R505). -/
  | snapAtHi (p : MPort) (value : W32)
  /-- SNAP_NOW_LO (R533). -/
  | snapNowLo (p : MPort)
  /-- SNAPSHOT_COPY (R506). -/
  | snapshotCopy (blk : Nat)
  /-- SNAPSHOT_SWAP (R506). -/
  | snapshotSwap
  /-- SCROLL_RD (R512). -/
  | scrollRd (p : MPort) (value : W32)
  /-- SCROLL_WINDOW_END (R511). -/
  | scrollWindowEnd
  /-- SCROLL_ARCHIVE (R509). -/
  | scrollArchive (n : Nat)
  /-- BYPASS (R515). -/
  | jtagBypass (tdi : Nat)
  /-- IDCODE (R515). -/
  | jtagIdcode
  /-- SAMPLE_PRELOAD (R515). -/
  | jtagSamplePreload (v : Nat)
  /-- EXTEST (R515). -/
  | jtagExtest (v : Nat)
  /-- CLAMP (R515). -/
  | jtagClamp
  /-- HIGHZ (R515). -/
  | jtagHighz
  /-- DBGACC (R515). -/
  | dbgacc (wr : Bool) (addr data : Nat)
  /-- DBGINJ (R515). -/
  | dbginj (sx port flits : Nat)
  /-- UNLOCK (R516). -/
  | unlock (p : MPort) (v : Bool)
  /-- DISABLE (R517). -/
  | disable (p : MPort) (v : Bool)
  /-- SPI_WRITE (R523). -/
  | spiWrite (edges : Nat) (addr data : W32) (crcOk ready : Bool)
  /-- SPI_READ (R523). -/
  | spiRead (edges : Nat) (addr : W32) (crcOk ready : Bool)
  /-- SPI_UNKNOWN_OPCODE (R523). -/
  | spiUnknownOpcode (opcode : Nat)
  /-- SMB_MCTP (R525). -/
  | smbMctp (pecOk : Bool) (code : Nat)
  /-- SMB_REGISTER_READ (R525). -/
  | smbRegisterRead (pecOk : Bool) (count : Nat) (addr : W32)
  /-- ALERT_RESPONSE (R525). -/
  | alertResponse
  /-- SMB_CLOCK_TIMEOUT (R525). -/
  | smbClockTimeout
  /-- ETHERNET_FRAME (R526). -/
  | ethernetFrame (untagged toUs : Bool) (etherType version len : Nat)
  /-- MCTP_READ (R527). -/
  | mctpRead (sess : Nat) (addr : W32) (count : Nat)
  /-- MCTP_WRITE (R527). -/
  | mctpWrite (sess : Nat) (addr : W32) (ws : List W32)
  /-- WARM (R531). -/
  | warm (p : MPort) (key : Nat)
  /-- MCSWAP (R531). -/
  | mcswap (p : MPort) (key : Nat)
  /-- LEAVE (R531). -/
  | leave (p : MPort) (key : Nat)
  /-- REGISTER_WRITE (R15). -/
  | registerWrite (p : MPort) (addr data : W32)
deriving DecidableEq, Repr

end Sys2Proof
end

