-- ==== Sys2Proof/Decode.lean ====
section
/-! DEFINITION. The command that a word of the command table spells. No row of the table gives bits: the block takes
commands, not instruction words. -/

namespace Sys2Proof

/-- No row of the command table has an encoding of its own, so no word spells a command. -/
def decodeTableWord (_nbits _w : Nat) : Option Instr := none

end Sys2Proof
end

