-- ==== Sys2Proof/Machine/State.lean ====
section
/-! DEFINITION. The state: every register, queue, buffer, counter, table, mode and pin the manual gives the
package, and the end-point block (Brola) of one leaf, as plain data; the commands that wait; the state after reset. -/

namespace Sys2Proof.Machine

open Sys2Proof

/-- A counter with the indices of its Kept per column (R503). -/
abbrev CtrKey := CtrName × List Nat

/-- Clocks and fabric time (R25 to R33, R430). `hold` is the time for which the count still holds; `up` is the time
since the reset, by which start-up is timed until the count is anchored; `offset2` is twice
the measured offset of R30, so that half a nanosecond is kept; `slotDue` says that a step of R33 skipped an RT slot boundary,
which takes place at the step. -/
structure Clk where
  now : Nat := 0
  hold : Nat := 0
  up : Nat := 0
  sxCycle : Nat := 0
  anchored : Bool := false
  refLost : Bool := false
  mcIntOsc : Bool := false
  pllLost : List (Nat × Nat) := []
  offset2 : Int := 0
  beyond : Nat := 0
  within : Nat := 0
  stepped : Bool := false
  holdover : Bool := false
  converged : Bool := false
  lastBeacon : Option Nat := none
  slotDue : Bool := false
deriving DecidableEq, Repr

/-- A die-to-die link (R40 to R42): 0 normal, 1 degraded, 2 down; the good samples in a row. -/
structure D2d where
  st : Nat := 0
  good : Nat := 0
  good90 : Nat := 0
deriving DecidableEq, Repr

/-- Power domains, their fault latches (R36 to R39), the supply pins (R539 to R543) and the die-to-die links. -/
structure Pwr where
  pdOn : BitVec 36 := 0
  fault : BitVec 18 := 0
  faultMid : BitVec 4 := 0
  faultHi : BitVec 4 := 0
  faultLast : Nat := 0
  pwrGood : Bool := true
  porHeld : Bool := false
  onCell : Bool := false
  d2d : TMap Nat D2d := []
  portTrain : List Nat := []
deriving DecidableEq, Repr

/-- The registers of the active MC (R530 to R532): MC_ROLE, MC_IF_STATUS, MC_ALARM, MC_RESET_CAUSE and the
actions in progress of MC_RESET. -/
structure Mc where
  active1 : Bool := false
  standbyOk : Bool := false
  ifStatus : BitVec 12 := 0
  alarm : BitVec 11 := 0
  resetCause : Nat := 1
  warmWait : Bool := false
  swapping : Bool := false
  smbAddr : Nat := 0
deriving DecidableEq, Repr

/-- Where a packet entered this Kojor, and the virtual channel it came in on: what its route and the next ones depend on (R162, R163,
R181, R182). -/
structure Org where
  sx : Nat := 0
  port : Nat := 0
  vc : Bool := false
deriving DecidableEq, Repr

/-- A packet on an output queue (R141, R146): its cells and the banks that hold them (R137), arrival stamp (R153), input port, fabric
time of enqueue (R184), multicast tag (0 for a single copy), the SX, port and VC on which it leaves this Kojor,
whether it may cut through (R150), and where it entered. -/
structure QPkt where
  p : Pkt
  cells : Nat
  stamp : Nat
  inPort : Nat
  enq : Nat
  mc : Nat
  dest : Nat × Nat × Bool
  ct : Bool := false
  banks : List Nat := []
  org : Org := {}
deriving DecidableEq, Repr

/-- What an output sends (R146, R154): the packets whose cells it holds until the last flit has left, their class, the flits still to be
sent and the link that carries them. -/
structure Sending where
  ps : List QPkt
  cls : Nat
  left : Nat
  str : Option Nat
deriving DecidableEq, Repr

/-- A message at an emergency requester (R152, R154): its capo, flits left, flits, and the mirror message it is (R388). -/
structure Inject where
  capo : Nat
  left : Nat
  flits : Nat
  msg : Option (Nat × MirrorBody) := none
deriving DecidableEq, Repr

/-- A harmonic copy that waits on its string's queue (R159): its cells and their banks, its stamp, and what is sent. -/
structure HCopy where
  cells : Nat
  banks : List Nat
  stamp : Nat
  c : HarmCopy
deriving DecidableEq, Repr

/-- A packet in the landing reserve of the RT or HX at the far end of a port 133 to 135: the cells drawn from its class, and all (R168 to
R170). -/
structure DieHeld where
  sx : Nat
  port : Nat
  p : Pkt
  clsCells : Nat
  cells : Nat
deriving DecidableEq, Repr

/-- A request outstanding at a host port (R171): its port, and the number of messages sent when it was issued. -/
structure HostOut where
  port : Nat
  r : Req
  at_ : Nat
deriving DecidableEq, Repr

/-- A packet in a landing reserve (R140) with the outputs it still needs: port and VC at this SX, and the SX, port and
VC on which it leaves this Kojor; `clsCells` of its cells were drawn from its class and the rest from the pool (R169).
`ret` is the credit it returns, where that is not its cells (a packet of a bulk, or one routed again). -/
structure Landed where
  sx : Nat
  port : Nat
  p : Pkt
  cells : Nat
  stamp : Nat
  outs : List (Nat × Bool × (Nat × Nat × Bool))
  mc : Nat
  clsCells : Nat := 0
  vcIn : Bool := false
  ret : Option Nat := none
  banks : List Nat := []
  org : Org := {}
deriving DecidableEq, Repr

/-- An output arbiter, Tables 5-6 and 5-7 (R153, R156). -/
structure Arb where
  prio : TMap Nat Nat := []
  lost : TMap Nat Nat := []
  stepLog2 : Nat := 6
  unitLog2 : Nat := 10
  emergRun : Nat := 0
deriving DecidableEq, Repr

/-- The switch cores: landing reserves, output queues by (SX, port, class, VC), arbiters by (SX, port), link
credits by (link, class or 8 for the pool, VC), the accounts of pinned capos, harmonic filters' runs, the messages that wait at
emergency requesters, what each output sends, the stamp of each input's last arrival, packets on their way to a peer SX with their way out and where they entered,
filters stopped under R160, the shares D_t and at 8 the pool in force while a change of shares settles (R170), the copies queued on harmonic strings, the retired banks, what
RTs and HXs hold of the packets sent to them, and the outstanding and waiting requests of the host ports (Chapters 5 and 6). DDR5 channel arbiters stand at (4 + HX, channel). -/
structure Sw where
  landing : List Landed := []
  queues : TMap (Nat × Nat × Nat × Bool) (List QPkt) := []
  arb : TMap (Nat × Nat) Arb := []
  sent : TMap (Nat × Nat × Bool) Nat := []
  limit : TMap (Nat × Nat × Bool) Nat := []
  freed : TMap (Nat × Nat × Bool) Nat := []
  advert : TMap (Nat × Nat × Bool) Nat := []
  pSent : TMap (Nat × Nat × Bool) Nat := []
  pLimit : TMap (Nat × Nat × Bool) Nat := []
  filterRun : TMap (Nat × Nat) (Nat × Nat) := []
  injected : TMap (Nat × Nat) (List Inject) := []
  bulkReady : List (Nat × Nat × Bool) := []
  nextMc : Nat := 1
  sending : TMap (Nat × Nat) (Option Sending) := []
  lastIn : TMap (Nat × Nat) Nat := []
  transit : List (Nat × Pkt × (Nat × Nat × Bool) × Org) := []
  filtersOff : List (Nat × Nat) := []
  dEff : TMap (Nat × Nat) Nat := []
  hq : TMap (Nat × Nat × Nat) (List HCopy) := []
  retired : TMap Nat (List Nat) := []
  dieHeld : List DieHeld := []
  hostOut : List HostOut := []
  hostWait : List (Nat × Req) := []
deriving DecidableEq, Repr

/-- A count slot of an (SRC, EPOCH) pair (R70, R71): the count, the SEQs counted with their times, the last one's time. -/
structure CountSlot where
  n : Nat := 0
  seen : List (Nat × Nat) := []
  last : Nat := 0
deriving DecidableEq, Repr

/-- A held FINAL request (R70) with its arrival time; `mine` is false for one that the twin holds and this member mirrors (R71). -/
structure HeldFinal where
  r : Req
  v : Via
  arrived : Nat
  mine : Bool := true
deriving DecidableEq, Repr

/-- What a request that still executes waits for (R75). -/
inductive WaitFor where
  | mirror | window | barrier | final | drain | pfa | mcast | twinRead | discard (id : Nat)
deriving DecidableEq, Repr

/-- A request still executing at its responder, with the number of copies absorbed (R75). `done` is its completion
once it is known, and `awaits` the mirror messages that completion is held for (R391); `counted` says that its count
of R70 has been taken. -/
structure Running where
  r : Req
  v : Via
  why : WaitFor
  absorbed : Nat := 0
  awaits : List Nat := []
  done : Option Cmp := none
  counted : Bool := false
deriving DecidableEq, Repr

/-- What a responder keeps (R70 to R75): duplicate entries oldest first, count slots, held FINAL requests in
order of arrival, and the requests still executing. -/
structure Resp where
  dups : List DupEntry := []
  counts : TMap (Nat × Nat) CountSlot := []
  finals : List HeldFinal := []
  running : List Running := []
deriving DecidableEq, Repr

/-- A destination identity (R67): a leaf, a course, or a row or column set of a domain. -/
inductive Dest where
  | leaf (dy dx ly lx : Nat)
  | course (dy dx c : Nat)
  | set (dy dx : Nat) (col : Bool) (i : Nat)
deriving DecidableEq, Repr

/-- On whose behalf a request was issued. -/
inductive Owner where
  | port (tag ktag : Nat)
  | coll (g : Nat) (load : Bool) (chunk : Nat)
  | copy (id : Nat) (off : Nat) (wr : Bool)
  | groupRead (g word : Nat)
  | mover (tile eng opid : Nat) (scratch : Option Nat)
  | mcast (id pos : Nat)
  | barrUp (capo g : Nat)
  | report (ctr : Option (W64 × Nat))
  | image (control : Bool) (off : Nat)
deriving DecidableEq, Repr

/-- An outstanding request of a requester (R66 to R69, R108, R112, R171): `held` before its release; `waitXlate`
while it waits for a translation; `resendAt` while it waits out RETRY_AFTER; `issueNo` and `outAt` are the two
values of R69, taken at `firstAt`; `retx` counts retransmissions and `retried` marks the single retry of a non-idempotent request; `port` is the string or
port it was last sent on, `sent` says that it has been sent at all, and `due` that a transmission waits for a string that can carry it. -/
structure Outst where
  id : Nat
  r : Req
  dest : Dest
  owner : Owner
  released : Bool := false
  waitXlate : Option (Nat × Nat) := none
  xlateSrc : Option Nat := none
  accepted : Nat := 0
  firstAt : Nat := 0
  sentAt : Nat := 0
  period : Nat := 0
  resendAt : Option Nat := none
  issueNo : Nat := 0
  outAt : Nat := 0
  retx : Nat := 0
  retried : Bool := false
  port : Option Nat := none
  sent : Bool := false
  due : Bool := false
deriving DecidableEq, Repr

/-- A requester: its outstanding requests in the order issued, the last SEQ of each stream (R67), the recent
issues of each SEQ (R68), the issue count per destination (R69), and the time before which it sends nothing (R67). -/
structure Reqr where
  out : List Outst := []
  nextId : Nat := 0
  seqs : TMap (Dest × Nat) Nat := []
  issued : List (Dest × Nat × Nat × Nat) := []
  issueNo : TMap Dest Nat := []
  quietUntil : Nat := 0
deriving DecidableEq, Repr

/-- A multicast store at its replicator (R175 to R177): the copies without a completion, delivered, and failed. -/
structure Mcast where
  id : Nat
  r : Req
  v : Via
  arrived : Nat
  waiting : List Nat := []
  delivered : List Nat := []
  failed : List Nat := []
deriving DecidableEq, Repr

/-- An INV with SCOPE 0b10 that drains (R314): own and twin halves. -/
structure Drain where
  r : Req
  v : Via
  ownDone : Bool := false
  twinDone : Bool := false
deriving DecidableEq, Repr

/-- A PFA that runs (R326): pages of the own half that remain, by index from the range start; `waits` are the mirror messages of the pages
done. -/
structure PfaRun where
  r : Req
  v : Via
  left : List Nat := []
  twinDone : Bool := false
  twinPages : List Nat := []
  waits : List Nat := []
deriving DecidableEq, Repr

/-- Switch-resident memory (Chapter 11). `phys` is keyed by target × 2^48 + byte; targets 0–7 are HB0–HB7, 8 and 9
are HX0 and HX1, 10–17 the CXL devices of ports 0–7. `poison` and `latent` list 8-byte words. `scrubAt` is the next
page of the start-up scrub of a target and `scrubMarks` the pages of removed regions;
`pages` gives a target's capacity in pages, `dimms` and `chDeg` the DDR5 channels populated and excluded, `backOut` the
targets out of service and `missed` the pages whose copy missed a write (R318); `rcache`, `rfetch` and `rwait` are the
region-table caches of the SX dies, their fetches and the requests that wait (R313). -/
structure Mem where
  phys : List Host.Cell := []
  poison : List Nat := []
  latent : List Nat := []
  scrubAt : TMap Nat Nat := []
  scrubMarks : List (Nat × Nat) := []
  pages : TMap Nat Nat := []
  dimms : List Dimm := []
  chDeg : List (Nat × Nat) := []
  backOut : List Nat := []
  missed : List (Nat × Nat) := []
  rcache : TMap Nat (List (Nat × Nat)) := []
  rfetch : List (Nat × Nat × Nat) := []
  rwait : List (Nat × Nat × Req × Via) := []
  drains : List Drain := []
  pfas : List PfaRun := []
deriving DecidableEq, Repr

/-- A barrier counter of (member, capo, group), Table 10-4 (R293). -/
structure Barrier where
  st : BarState := .idle
  epoch : Nat := 0
  stated : Nat := 0
  n : Nat := 0
  openedAt : Nat := 0
  changedAt : Nat := 0
  held : List (Req × Via) := []
  conflict : Nat := 0
  up : Bool := false
deriving DecidableEq, Repr

/-- A copy under way (R91, R121): its descriptor, the next byte to read, the requests outstanding, the blocks held while the
ranges overlap, the first failure. -/
structure CopyRun where
  id : Nat
  desc : Req
  next : Nat := 0
  left : Nat := 0
  buf : List (Nat × List Byte) := []
  fail : Option (Status × W64) := none
deriving DecidableEq, Repr

/-- An error record of a counter: STATUS, FAILS and ERRADDR of Table 4-3 (R90). -/
structure ErrRec where
  status : Nat := 0
  fails : Nat := 0
  errAddr : W64 := 0
deriving DecidableEq, Repr

/-- Switch control space (R280): flags, counters and barriers keyed by (member, capo, number), flag words with an error
not yet found and those marked poisoned (R62), the copy-descriptor queue of the tier movers, the copies that run, the twin's unfinished ones, and
what failed copies left against their counters (R90). -/
structure Ctl where
  flags : TMap (Bool × Nat × Nat) Bool := []
  ctrs : TMap (Bool × Nat × Nat) W64 := []
  bars : TMap (Bool × Nat × Nat) Barrier := []
  latent : List (Bool × Nat × Nat) := []
  poison : List (Bool × Nat × Nat) := []
  copyErrs : TMap (Bool × Nat × Nat) ErrRec := []
  copyQ : List Req := []
  copies : List CopyRun := []
  nextCopy : Nat := 0
  twinCopies : List Req := []
deriving DecidableEq, Repr

/-- A reduction window and its instance (R202, R205; Table 10-2). `rtOut` lists the RTs out of service at the
declaration (R200); `ownDone` and `twinDone` the halves whose lines are complete; `ownWritten` says that this member has written its half, `waits`
the messages of it that are unconfirmed, `ovfNow` and `plineNow` what the halves written so far give the status; `twinWritten` says that
the twin's finalisation record has come (R219), `twinEnded` that the twin has written its half. `given` are the pages whose lines the twin
serves for this member while an RT is out, `taken` those this member serves for the twin (R218); `accSoft` and `accHard` the lines whose
accumulators hold a correctable or an uncorrectable error not yet found (R217). -/
structure Window where
  d : WinDesc
  rtOut : List Nat := []
  st : WinState := .idle
  epoch : Nat := 0
  fmt : Nat := 0
  exact : Bool := false
  sigOp0 : W64 := 0
  conflict : Nat := 0
  openedAt : Nat := 0
  deadlineNs : Nat := 0
  changedAt : Nat := 0
  lines : TMap Nat Line := []
  accs : TMap Nat Acc := []
  held : List (Req × Via) := []
  ownDone : Bool := false
  twinDone : Bool := false
  twinWritten : Bool := false
  twinEnded : Bool := false
  ownWritten : Bool := false
  waits : List Nat := []
  ovfNow : Bool := false
  plineNow : Bool := false
  lastF : Option Nat := none
  finals : Nat := 0
  ovf : Bool := false
  pline : Bool := false
  given : List Nat := []
  taken : List Nat := []
  accSoft : List Nat := []
  accHard : List Nat := []
deriving DecidableEq, Repr

/-- A declaration or removal not yet held by both members (R245). -/
structure Decl where
  id : Nat
  tile : Nat
  ec : Nat
  win : Option WinDesc := none
  remWin : Option Nat := none
  shard : Option ShardDesc := none
  remShard : Option Nat := none
deriving DecidableEq, Repr

/-- What a slot op that reads scratch in several cycles does with its bytes: a STEP and an LDW of an ME (FMT; for a STEP the sum that it
adds to), a VLD (FMT, lanes). -/
inductive ReadFor where
  | step (me fmt : Nat) (old : List W32)
  | ldw (me : Nat)
  | vld (reg fmt lanes : Nat)
deriving DecidableEq, Repr

/-- A slot op that reads scratch cycle by cycle (R230): the bytes it takes in each cycle to come, as (element address, length, scale
address, length), and what it has read. -/
structure ReadRun where
  what : ReadFor
  parts : List (Nat × Nat × Nat × Nat) := []
  els : List Byte := []
  scales : List Byte := []
deriving DecidableEq, Repr

/-- A result of a tile that is not yet readable (R230): `due` is the stream cycle from which a slot op sees it. `read` is an op that reads
its next part of scratch in cycle `due`. -/
inductive PendW where
  | vreg (due reg : Nat) (lanes : List (Nat × W32))
  | acc (due me : Nat) (vals : List (Nat × W32))
  | scr (due addr : Nat) (bytes : List Byte)
  | fa (due reg : Nat) (fa : W64)
  | fattr (due reg : Nat) (fattr : W64)
  | areg (due reg : Nat) (val : Nat)
  | sreg (due reg : Nat) (val : Int)
  | vlen (due n : Nat)
  | read (due : Nat) (run : ReadRun)
deriving DecidableEq, Repr

/-- A weight buffer of an ME: its tile's format, elements and scales, and the cycle its load ends (R196, R239). -/
structure WBuf where
  fmt : Nat := 0
  els : List Byte := []
  scales : List Byte := []
  ready : Nat := 0
deriving DecidableEq, Repr

/-- A matrix engine (R196): which buffer is active, the buffers, the cycle until which it is busy, and the steps issued to
it in this stream. -/
structure Me where
  act1 : Bool := false
  b0 : WBuf := {}
  b1 : WBuf := {}
  busy : Nat := 0
  steps : Nat := 0
deriving DecidableEq, Repr

/-- An operation of a mover engine (R243, R244). -/
structure MovRun where
  opid : Nat
  kind : Nat
  ec : Nat
  fa : W64
  fattr : W64
  scr : Nat
  bytes : Nat
  started : Bool := false
  left : Nat := 0
  fail : Option (Status × W64) := none
deriving DecidableEq, Repr

/-- A small core (R266): x1–x31, PC, cycles run, and its handler, with its scratch transfers in progress. -/
structure Core where
  xs : TMap Nat W64 := []
  pc : Nat := 0
  cycles : Nat := 0
  running : Option Nat := none
  waiting : Bool := false
  xfers : List (Bool × Nat × Nat × Nat) := []
deriving DecidableEq, Repr

/-- A handler started or queued on a tile (R265): its number, its event counter and the work item of its LAUNCH (R264). -/
structure Launch where
  h : Nat
  ec : Nat
  item : Nat := 0
deriving DecidableEq, Repr

/-- One tile, Tables 7-1 and 8-2 (R189, R228). `ports` lists what running ops move in a cycle, as (cycle, bytes read, bytes
written) (R229); `raised` holds the last raises of an event counter as (cycle, amount) (R245), and `bad` the engines of which
an operation has failed. AD, STRIDE, FA, FATTR, V, EC and the accumulators read zero where unlisted. -/
structure Tile where
  ad : TMap Nat Nat := []
  stride : TMap Nat Int := []
  fa : TMap Nat W64 := []
  fattr : TMap Nat W64 := []
  vlen : Nat := 32768
  v : TMap Nat (List (Nat × W32)) := []
  ec : TMap Nat W64 := []
  acc : TMap (Nat × Nat) W32 := []
  mes : TMap Nat Me := []
  vBusy : Nat := 0
  pend : List PendW := []
  eng : TMap Nat (List MovRun) := []
  launchQ : List Launch := []
  handlers : List Launch := []
  cores : TMap Nat Core := []
  ports : List (Nat × Nat × Nat) := []
  raised : TMap Nat (Nat × Nat) := []
  bad : List Nat := []
deriving DecidableEq, Repr

/-- A wait entry, Table 8-5, with its run state (R233, R234). `hist` holds the cycles in which its condition changed, with the new value;
`met` is the first cycle since the arming in which it held. -/
structure WaitEntry where
  kind : Nat := 3
  ecn : Nat := 0
  tile : Nat := 0
  ctr : Nat := 0
  target0 : W64 := 0
  step : W64 := 0
  target : W64 := 0
  armed : Bool := false
  armAt : Nat := 0
  met : Option Nat := none
  hist : List (Nat × Bool) := []
deriving DecidableEq, Repr

/-- A handler table entry, Table 9-6 (R264). -/
structure Handler where
  first : Nat := 0
  count : Nat := 0
  entry : Nat := 0
  param : W64 := 0
  maxcyc : Nat := 1
deriving DecidableEq, Repr

/-- The chip stream: the sequencers' common state (R226 to R237), the bound image, and the end of the stream (R246,
R248). `stall` is (kind, since, entry or segment): 1 WAIT, 2 checkpoint; `arr` is the cycle in which the bundle
reached issue and `cycle` the one in which it issues; `dutyAt` lists the duties by the cycle from which they act. `issued` are the
bundles issued whose addresses are not yet compared, as (cycle, address) (R227); `soft` and `hard` the words of the store with a
correctable or an uncorrectable error, as (RT, bundle, word), and `fetchBad` says that the bundle at the issue point could not be read
(R224); `items` gives the work item of each LAUNCH, by bundle address and tile (R264). -/
structure Stream where
  running : Bool := false
  ending : Bool := false
  capo : Nat := 0
  pinned : Bool := false
  cycle : Nat := 0
  arr : Nat := 0
  pc : Nat := 0
  lastPc : Nat := 0
  imageLen : Nat := 0
  store : TMap Nat (BitVec 1024) := []
  tiles : List Nat := []
  lc : TMap Nat Nat := []
  rstack : List Nat := []
  waits : TMap Nat WaitEntry := []
  stall : Option (Nat × Nat × Nat) := none
  duty : Nat := 16
  dutyAt : List (Nat × Nat) := []
  segs : List (Nat × Nat) := []
  seg : Option Nat := none
  segReq : Option (Nat × Nat) := none
  maxcyc : Nat := 0
  seed : W64 := 0
  handlers : TMap Nat Handler := []
  exc : Option ExcRec := none
  stopAt : Option Nat := none
  desc : Nat := 0
  digest : W64 := 0
  nextOp : Nat := 0
  declSeen : List (Nat × Nat) := []
  issued : List (Nat × Nat) := []
  soft : List (Nat × Nat × Nat) := []
  hard : List (Nat × Nat × Nat) := []
  fetchBad : Bool := false
  items : TMap (Nat × Nat) Nat := []
deriving DecidableEq, Repr

/-- An admission (R253): the descriptor's 512 bits, its scope, the pieces of the image read and still to come, the first status of
a failed read, what was bound, the seed, the duty that segment 0 was granted. `step`: 1 the image is read, 2 it is bound,
3 the seed is waited for, 4 segment 0 of the envelope, 5 the stream may start. -/
structure Adm where
  desc : Nat
  domain : Bool := false
  parts : TMap Nat (List Byte) := []
  left : Nat := 0
  fail : Option Status := none
  image : List Byte := []
  digest : W64 := 0
  step : Nat := 1
  bound : List (Nat × BitVec 1024) := []
  tiles : List Nat := []
  seed : Option W64 := none
  seg0 : Option Nat := none
  waitSince : Nat := 0
deriving DecidableEq, Repr

/-- A control program that runs (R269). `waitt` is the time of a WAITT; `rtout` an RTOUT and its start; `seedWait`
a COMMIT that waits for the TRNG, as (epoch, since); `domain` says that its
scope is the domain. -/
structure CtlProg where
  desc : Nat
  domain : Bool := false
  digest : W64 := 0
  staged : List ((Nat × Nat) × Nat) := []
  waitt : Option Nat := none
  rtout : Option (Nat × Nat) := none
  seedWait : Option (Nat × Nat) := none
deriving DecidableEq, Repr

/-- A commit accepted and not yet applied (R274). -/
structure Pending where
  num : Nat
  epoch : Nat
  entries : List ((Nat × Nat) × Nat)
  capo : Option Nat
  desc : Nat
  digest : W64 := 0
deriving DecidableEq, Repr

/-- Programs (Chapter 9): the program queue, admissions of either kind, the control program, pending commits, the
count of COMMITs, the cache of bound images, the tables in effect, keyed by (table, key) with raw entries, and the entries
the twin has staged (R393), and the epoch of the last applied change to table 0x01 (R498). -/
structure Prog where
  queue : List (Nat × Via) := []
  sAdm : Option Adm := none
  cAdm : Option Adm := none
  ctl : Option CtlProg := none
  commits : List Pending := []
  nCommit : Nat := 0
  cache : List (W64 × List Nat × List (Nat × BitVec 1024)) := []
  eff : List ((Nat × Nat) × Nat) := []
  twinStaged : List ((Nat × Nat) × Nat) := []
  everAdm : Bool := false
  capoEpoch : Nat := 0
  rtTest : List Nat := []
  rtOut : List Nat := []
  inTest : List Nat := []
deriving DecidableEq, Repr

/-- A string's link (Chapter 13): stage, cause, sequence numbers, held slots, the bodies that wait for room among them,
replay, round trip, idle, framing. Links 0–511 are strings, 512–543 soundpost strings (R535), 544–575 the Brola's ends of
its own strings, 576 + 4 × OX + j string j of F16 of an OX as a harmonic fibre (R157). `pktLen`, `pktTc` and `pktLeft` are the flits of the packet in
progress, its class and the flits still to come, and `pktIn` its stamp and content once an SX has taken its header (R150, R151). `stageAt` is when the stage began and `hlock` says that a harmonic string has completed stage 6;
`lsetRx` is the lane set on which a Brola receives, and `heard` the HEARD for which stage 5 waits (R379). `lanes` gives the wavelength and the
lane that each position carries, `delays` its deskew (R366, R379), `goodCw` the codewords decoded on it without a break, `blockSeen` the
block count of its last block, and `uncorr` the uncorrectable codewords of the last millisecond, as (lane, time, count). -/
structure Link where
  stage : Nat := 0
  cause : DownCause := .none
  restartAt : Option Nat := none
  restartStage : Nat := 1
  txNext : Nat := 0
  held : List Slot := []
  rxNext : Nat := 0
  txQ : List SlotBody := []
  stageAt : Nat := 0
  hlock : Bool := false
  lsetRx : Nat := 0
  replayUntil : Nat := 0
  barren : Nat := 0
  timerAt : Option Nat := none
  lastReq : Option Nat := none
  pktLeft : Option Nat := none
  pktLen : Nat := 0
  pktTc : Nat := 0
  pktIn : Option (Nat × Pkt) := none
  ePktLeft : Option Nat := none
  rtt : Nat := 0
  echoTime : Nat := 0
  echoAt : Nat := 0
  confTx : Bool := false
  confRx : Bool := false
  creditRx : Bool := false
  creditTx : Bool := false
  subst : Bool := false
  eiTx : Bool := false
  eiRx : Bool := false
  inv : BitVec 4 := 0
  spare : BitVec 4 := 0
  peer : Option (Bool × Nat) := none
  attach : W64 := 0
  attachB : Nat := 0
  attachOk : Bool := false
  lit : Bool := false
  quietSince : Nat := 0
  moved : Bool := false
  heard : Option Nat := none
  lanes : List (Nat × Nat) := []
  delays : List Nat := []
  goodCw : TMap Nat Nat := []
  blockSeen : TMap Nat Nat := []
  uncorr : List (Nat × Nat × Nat) := []
deriving DecidableEq, Repr

/-- A ring's peg (R339 to R345). `left` counts periods, `good` periods within 0.02, `bad` periods beyond 0.10. -/
structure Peg where
  st : PegState := .off
  flankU : Bool := false
  wl : Nat := 31
  code : Nat := 0
  pred : Nat := 1000
  err : Int := 0
  left : Nat := 0
  good : Nat := 0
  bad : Nat := 0
  lastLock : Nat := 0
deriving DecidableEq, Repr

/-- A laser module position (R355 to R357): raises are in steps of 0.5 dB per lane. -/
structure Laser where
  present : Bool := false
  ready : Bool := false
  alarm : Bool := false
  warn : List Nat := []
  dark : List Nat := []
  raises : TMap Nat Nat := []
deriving DecidableEq, Repr

/-- A lane move of a string (R350 to R353): who started it, the frame's fields, and the times of request and grant. -/
structure Move where
  m : LaneMsg
  mine : Bool
  askedAt : Nat
  grantedAt : Option Nat := none
deriving DecidableEq, Repr

/-- Optical engines (Chapter 12): pegs by (OX, fibre, weight bank, ring), lasers, lane moves, OX_PEG_SEL, what the
probes read, weight changes under observation (with the entry before) and changes suppressed
for 64 h (R349); `live` holds the roles that lane moves give rings by (OX, fibre, ring), and `heat` the heater codes not
yet counted as a whole µJ. -/
structure Opt where
  pegs : TMap (Nat × Nat × Bool × Nat) Peg := []
  lasers : TMap Nat Laser := []
  moves : TMap Nat (Option Move) := []
  pegSel : TMap Nat W32 := []
  probes : TMap (Nat × Nat × Nat) (Nat × List Nat × Nat) := []
  changed : TMap (Nat × Nat) (Option (Nat × Nat)) := []
  live : TMap (Nat × Nat × Nat) (Option (Nat × Nat)) := []
  heat : TMap Nat Nat := []
  suppressed : List (Nat × Nat × Nat) := []
  reflank : List (Nat × Nat × Bool × Nat) := []
  spMap : TMap Nat (Option Nat) := []
deriving DecidableEq, Repr

/-- A mirror message not yet confirmed (R391), with the capo in whose part of the pool it counts, the SX and path key it leaves by, and the
path it took; `held` says that it waits for its item's earlier messages, which took another path (R389). -/
structure Unconf where
  mseq : Nat
  body : MirrorBody
  capo : Nat := 0
  sx : Nat := 0
  key : Nat := 0
  path : Nat × Nat := (0, 0)
  held : Bool := false
deriving DecidableEq, Repr

/-- The course (Chapter 14): COURSE_STATUS, heartbeats, unconfirmed mirror messages, and the rebuild. -/
structure Course where
  twinUp : Bool := false
  alone : Bool := false
  twinAlone : Bool := false
  rebuildTgt : Bool := false
  copying : Bool := false
  split : Bool := false
  serving : Bool := false
  leaving : Bool := false
  failing : Bool := false
  paired : Bool := false
  lost : Bool := false
  takeover : Nat := 0
  hbOut : Nat := 0
  hbIn : Nat := 0
  lastHb : Nat := 0
  hbAt : TMap Nat Nat := []
  twinDevid : W64 := 0
  mseq : Nat := 0
  unconf : List Unconf := []
  changes : Nat := 0
  changeCapos : List Nat := []
  rbid : Nat := 0
  front : List CopyItem := []
  passed : Nat := 0
  total : Nat := 0
  copied : Nat := 0
  ckpt : Nat := 0
  ckptBytes : Nat := 0
  ckptPassed : Nat := 0
  journal : List Journal := []
  gap : List Nat := []
  gapRecs : List StateRec := []
  gapFrom : Option Nat := none
  tgtCkpt : Nat := 0
deriving DecidableEq, Repr

/-- Start-up and discovery (Chapter 15): MC_START_STATUS, boot flash, site record, HELLOs by rank, sweeps, surveys by rank.
`attached` says that the leaf-attach phase has ended, `joining` that R434 applies, `following` is the lowest rank whose SWEEP was
received, `tabSweep` and `cstate` are the final sweep and the COMMIT state of the last TABLES, `unsetl` and `held` this Kojor's unsettled and
disagreeing strings, `remain` says that the lead knows of unsettled ones, `refDom` is the domain whose lead gives the time to all joined domains (R30) and
`domAt` when each other domain was last heard of by a HEALTHY HELLO, and `bootAt` is when the self-test phase began (R414). -/
structure Disc where
  phase : Nat := 1
  excl : Bool := false
  unsettled : Bool := false
  fallback : Bool := false
  imageB : Bool := false
  lead : Nat := 0
  sweepReg : Nat := 0
  bcr0 : BootRec := {}
  bcr1 : BootRec := {}
  siteFlash : SiteRec := {}
  site : Option SiteRec := none
  bootAt : Nat := 0
  hellos : TMap Nat Hello := []
  helloAt : TMap Nat Nat := []
  firstHealthy : Option Nat := none
  attached : Bool := false
  joining : Bool := false
  helloSent : Option Nat := none
  closed : Bool := false
  amLead : Bool := false
  sweepNo : Nat := 0
  sweepAt : Nat := 0
  baseSweep : Nat := 0
  following : Nat := 63
  surveys : TMap Nat (List SurveyStr) := []
  prevSurveys : TMap Nat (List SurveyStr) := []
  epochE : Nat := 0
  resends : Nat := 0
  accepted : List Nat := []
  convergedR : List Nat := []
  excluded : List Nat := []
  present : List (Nat × W64 × Nat) := []
  finalSweep : Nat := 0
  twinHello : Bool := false
  tabSweep : Nat := 0
  cstate : Nat := 0
  remain : Bool := false
  unsetl : List Nat := []
  held : List Nat := []
  refDom : Nat × Nat := (0, 0)
  domAt : TMap (Nat × Nat) Nat := []
deriving DecidableEq, Repr

/-- The energy ledger (Chapter 16): P and S of the last closed epoch, the last 16 bases, the level and the cool epochs in a row, the
highest samples of the open epoch and of the last closed one, the number of epochs closed on the present count, the energy since the
segment's grant, and the settings that wait for a boundary. `wasReset` and `dieFell` note a reset and a domain fault since the last
boundary. -/
structure Elg where
  pLast : Nat := 0
  sLast : Nat := 0
  bases : List Nat := []
  bhat : Nat := 50
  level : Nat := 0
  cool : Nat := 0
  wasReset : Bool := true
  ballast : Nat := 0
  crmHot : Bool := false
  defer : Bool := false
  overBudget : Bool := false
  rampViol : Bool := false
  overrun : Bool := false
  lastTmax : List (Nat × Int) := []
  epTmax : List (Nat × Int) := []
  epoch : Nat := 0
  segUsed : Nat := 0
  overD1 : Bool := false
  excessUj : Nat := 0
  dieFell : Bool := false
  settings : Nat := 0
deriving DecidableEq, Repr

/-- Fuses and ageing (Chapter 17): the records of the arrays in order, the sense-faulty columns as (MC1, column), and the shadow in
AON: the identity record's fields, ageing step, repair generation and repair map by site (entries of
Table 17-5), the budgets, the pending maps, the record being programmed, and the monitor readings. -/
structure Fuse where
  recs : List FuseRec := []
  senseCols : List (Bool × Nat) := []
  devid : W64 := 0
  bhv : W32 := 0
  variantL : Bool := false
  ordering : Nat := 0
  mac : BitVec 48 := 0
  step : TMap Nat Nat := []
  gen : TMap Nat Nat := []
  entries : TMap Nat (List Nat) := []
  keyUsed : Nat := 0
  debugOff : Bool := false
  busy : Option (Nat × Nat × Nat) := none
  pendMap : TMap Nat (List Nat) := []
  loadWait : List Nat := []
  supplyMv : TMap Nat Nat := []
  budgetExh : Bool := false
  refused : Bool := false
  mismatch : Bool := false
  lost : Bool := false
  cellFlt : Bool := false
  senseFlt : Bool := false
  sel : Nat := 0
  replanning : List (Nat × Nat × Nat) := []
  replan : Bool := false
  lastReplan : Nat := 0
  worn : List Nat := []
  monitor : TMap Nat (Nat × Nat) := []
  slack : TMap Nat Nat := []
  vmargin : TMap Nat Nat := []
deriving DecidableEq, Repr

/-- An SPDM connection or session (R489): `st` 1 version, 2 capabilities, 3 algorithms, 4 keys exchanged, 5 open. -/
structure Sess where
  st : Nat := 0
  role : Role := .operator
  beat : Nat := 0
  updates : Nat := 0
  script : List Nat := []
deriving DecidableEq, Repr

/-- Security (Chapter 18): sessions, the alias key of this boot (R490), owner key, entropy, the AON key register and alarms, debug. `aonLog` is
the alarms latched, by bit of SEC_AON, with their RTC times (R496). -/
structure Sec where
  sess : TMap Nat Sess := []
  aliasKey : Option Nat := none
  ownGen : Nat := 0
  ownKey : Nat := 0
  minSvn : Nat := 0
  ownerLost : Bool := false
  rotation : Option (Nat × Nat) := none
  trngFailLatch : Bool := false
  trngOk : Bool := false
  trngFailedAt : Option Nat := none
  pool : List W64 := []
  waiters : List Nat := []
  kreg : Option (List Byte) := none
  kregZero : Bool := false
  tamper : Bool := false
  temp : Bool := false
  cellAlm : Bool := false
  aonLost : Bool := false
  cellLow : Bool := false
  rtcValid : Bool := false
  rtc : Nat := 0
  aonLog : List (Nat × Nat) := []
  unlock : Bool := false
  unlocks : Nat := 0
  unlocker : Option Nat := none
deriving DecidableEq, Repr

/-- Telemetry (Chapter 19): the scroll tail and archive, suppression by combination, snapshot registers and shadow
halves by die site, the boundary-scan cells and parts in test. -/
structure Tel where
  tail : List ScrollEntry := []
  archive : List ScrollEntry := []
  waitQ : List ScrollEntry := []
  seq : Nat := 0
  unarchived : Nat := 0
  lag : Bool := false
  segFirst : Nat := 0
  unsealed : List ScrollEntry := []
  lastMac : BitVec 128 := 0
  winCount : TMap (Nat × ScrollEv × Nat × Option Nat) (Nat × Nat × Bool) := []
  winStart : Nat := 0
  scrollRd : W32 := 0
  snapBrola : Bool := false
  snapRefused : Bool := false
  snapLate : Bool := false
  armed : Bool := false
  atLo : W32 := 0
  atHi : W32 := 0
  frozenHi : TMap Nat W32 := []
  snapEpoch : Nat := 0
  shadow : List (CtrKey × Nat) := []
  inactive : List (CtrKey × Nat) := []
  copiedBlks : List Nat := []
  stale : List Nat := []
  bscan : Nat := 0
  jtag : Nat := 0
  dieState : TMap Nat Nat := []
deriving DecidableEq, Repr

/-- A collective descriptor that runs at the Brola (R298 to R303): the group entry under which it started, its chunks, the next to
send and those under way as chunk → (requests left, loading); outside the reductions `stage` (0 storing, 1 loading, 2 barrier) and the
requests left of it. `fused` is the FUSED descriptor it is part of, at index `sub`, with those that follow. -/
structure CollRun where
  cop : Nat
  d : CollDesc
  e : Nat
  ge : Nat
  chunks : Nat
  next : Nat := 0
  under : TMap Nat (Nat × Bool) := []
  stage : Nat := 0
  left : Nat := 0
  sub : Nat := 0
  fused : Option CollDesc := none
  subs : List (Nat × CollDesc) := []
  status : Status := .ok
  errAddr : W64 := 0
deriving DecidableEq, Repr

/-- A collective queue of the Brola (R123, R298, R304). -/
structure CollQ where
  ge : Nat := 0
  bepoch : Nat := 0
  outOfStep : Bool := false
  queue : List (Nat × CollDesc) := []
  run : Option CollRun := none
  entry : Option Nat := none
deriving DecidableEq, Repr

/-- An INV that the accelerator issued to its own leaf (R96, R111): its tags, and the request. -/
structure PortInv where
  tag : Nat
  ktag : Nat
  r : Req
deriving DecidableEq, Repr

/-- An invalidation of translation copies (R126): an ATS request by its tag, an INV or the accelerator's own INV; its range; whether it is
one of the 32 that are processed; and then the outstanding requests it waits for. -/
structure Inval where
  tag : Option Nat := none
  inv : Option (Req × Via) := none
  port : Option PortInv := none
  lo : Nat := 0
  len : Nat := 0
  begun : Bool := false
  waits : List Nat := []
deriving DecidableEq, Repr

/-- The Brola of one leaf (Chapter 4). `portInvs` holds the accelerator's own INVs of SCOPE 0b00 by the number of their discard command. `reading` lists the groups whose entries it reads, and `groupWords` what it has read (R288). `now`, `hold` and `beyond` are its fabric time, as in `Clk` (R134). -/
structure Brola where
  ident : W64 := 0
  spadGiB : Nat := 0
  assigns : TMap Nat (Option Assign) := []
  asg : Option Assign := none
  ready : List Nat := []
  steered : List (Nat × Bool) := []
  resp : Resp := {}
  rq : Reqr := {}
  wins : TMap Nat AccWin := []
  mem : List Host.Cell := []
  poison : List Nat := []
  latent : List Nat := []
  flags : TMap Nat Bool := []
  ctrs : TMap Nat W64 := []
  errs : TMap Nat ErrRec := []
  ctlLatent : List Nat := []
  ctlPoison : List Nat := []
  copyQ : List Req := []
  copies : List CopyRun := []
  nextCopy : Nat := 0
  groups : TMap Nat CollQ := []
  groupWords : TMap Nat (TMap Nat W64) := []
  reading : List Nat := []
  digest : Option W64 := none
  xlates : List (Nat × AtsXlate) := []
  nextXlate : Nat := 0
  atsInv : List Inval := []
  discards : List (Nat × Nat) := []
  portInvs : TMap Nat (Option PortInv) := []
  nextDiscard : Nat := 0
  kernels : TMap Nat (Bool × Nat) := []
  kEnding : List Nat := []
  snaps : List Nat := []
  snapCopies : List (Nat × List (CtrKey × Nat)) := []
  now : Nat := 0
  hold : Nat := 0
  beyond : Nat := 0
  anchored : Bool := false
deriving DecidableEq, Repr

/-- The whole state. `pending` holds the commands that wait, first in first out; `out` what the package and the
Brola have sent, in order; `free` numbers the free values drawn (the model's own field, see notes/assumptions). -/
structure State where
  pending : List Instr := []
  out : List Out := []
  free : Nat := 0
  ctr : TMap CtrKey Nat := []
  clk : Clk := {}
  pwr : Pwr := {}
  mc : Mc := {}
  sw : Sw := {}
  resp : Resp := {}
  rq : Reqr := {}
  mcasts : List Mcast := []
  mem : Mem := {}
  scratch : List Host.Cell := []
  scrPoison : List Nat := []
  scrLatent : List Nat := []
  accMib : Nat := 0
  ctl : Ctl := {}
  wins : TMap Nat (Option Window) := []
  shards : TMap Nat (Option ShardDesc) := []
  decls : List Decl := []
  nextDecl : Nat := 0
  str : Stream := {}
  tiles : TMap Nat Tile := []
  prog : Prog := {}
  links : TMap Nat Link := []
  opt : Opt := {}
  course : Course := {}
  disc : Disc := {}
  elg : Elg := {}
  fuse : Fuse := {}
  sec : Sec := {}
  tel : Tel := {}
  brola : Brola := {}
deriving DecidableEq, Repr

/-- A command that stops. Each name says why; the command's docstring cites the rule. -/
inductive Fault where
  /-- Raised by no command of this table; it names an access to an address the manual says does not exist, which
  this hardware answers with a status instead. Safe. -/
  | noSuchAddress
deriving DecidableEq, Repr

/-- A command the model refuses. -/
inductive Refusal where
  /-- The command has no meaning in this model yet. Safe. -/
  | notModelled (mnemonic : String)
  /-- A condition beyond R2: a violation by a peer for which the manual defines no Kojor behaviour. Safe. -/
  | undetectable
deriving DecidableEq, Repr

/-- The machine right after a power-on reset (R407, R430): every field at the Reset column's value; where that
says fuse or hw, or nothing is said, the value the assumption log names. -/
def State.reset : State := {}

end Sys2Proof.Machine
end

