-- ==== Sys2Proof/Machine/Maps.lean ====
section
/-! DEFINITION. Maps with a default, bit fields of numbers, little-endian bytes, counters and the sent events:
the smallest operations every command uses. -/

namespace Sys2Proof

/-- The value of a key, or the default of the map. -/
def TMap.get {κ ν : Type} [DecidableEq κ] : TMap κ ν → κ → ν → ν
  | [], _, d => d
  | (k', v) :: t, k, d => if k' = k then v else TMap.get t k d

/-- The value of a key, if the map lists it. -/
def TMap.find {κ ν : Type} [DecidableEq κ] : TMap κ ν → κ → Option ν
  | [], _ => none
  | (k', v) :: t, k => if k' = k then some v else TMap.find t k

/-- The map without a key. -/
def TMap.erase {κ ν : Type} [DecidableEq κ] (m : TMap κ ν) (k : κ) : TMap κ ν :=
  m.filter fun e => decide (e.1 ≠ k)

/-- The map with a new value of a key. -/
def TMap.set {κ ν : Type} [DecidableEq κ] (m : TMap κ ν) (k : κ) (v : ν) : TMap κ ν :=
  (k, v) :: TMap.erase m k

/-- The bits [lo + len − 1 : lo] of a number (R13). -/
def bits (n lo len : Nat) : Nat := (n >>> lo) % 2 ^ len

/-- One bit of a number. -/
def bit (n i : Nat) : Bool := (n >>> i) % 2 == 1

/-- The bits [lo + len − 1 : lo] of a 64-bit word. -/
def wbits (w : W64) (lo len : Nat) : Nat := bits w.toNat lo len

/-- A flag as a number. -/
def ofB (b : Bool) : Nat := if b then 1 else 0

/-- A list with x put in before the first element that does not come before it. -/
def insertBy {α : Type} (le : α → α → Bool) (x : α) : List α → List α
  | [] => [x]
  | y :: t => if le x y then x :: y :: t else y :: insertBy le x t

/-- A list in order; equal elements keep their places. -/
def sortBy {α : Type} (le : α → α → Bool) (l : List α) : List α := l.foldr (insertBy le) []

/-- Numbers in ascending order. -/
def sortNat (l : List Nat) : List Nat := sortBy (fun a b => decide (a ≤ b)) l

/-- Little-endian bytes of a number (R13). -/
def leBytes : Nat → Nat → List Byte
  | 0, _ => []
  | k + 1, n => BitVec.ofNat 8 n :: leBytes k (n / 256)

/-- The number that little-endian bytes spell (R13). -/
def ofLe : List Byte → Nat
  | [] => 0
  | b :: t => b.toNat + 256 * ofLe t

/-- The number of set bits below n. -/
def popBelow (w : Nat) : Nat → Nat
  | 0 => 0
  | n + 1 => popBelow w n + ofB (bit w n)

/-- The two's complement value of the low `len` bits. -/
def signed (n len : Nat) : Int :=
  if n % 2 ^ len < 2 ^ (len - 1) then (n % 2 ^ len : Nat) else ((n % 2 ^ len : Nat) : Int) - (2 ^ len : Nat)

/-- The low `len` bits of a signed value in two's complement. -/
def unsigned (x : Int) (len : Nat) : Nat := (x % (2 ^ len : Nat)).toNat

/-- The largest value of a 64-bit counter, at which it saturates (R503). -/
def ctrMax : Nat := 2 ^ 64 - 1

/-- An addition that saturates at 2^64 − 1 (R503). -/
def satAdd (a b : Nat) : Nat := min (a + b) ctrMax

/-- Replaces the first element of a list that satisfies a test. -/
def replaceFirst {α : Type} (p : α → Bool) (f : α → α) : List α → List α
  | [] => []
  | a :: t => if p a then f a :: t else a :: replaceFirst p f t

/-- A list without its first element that satisfies a test. -/
def dropFirst {α : Type} (p : α → Bool) : List α → List α
  | [] => []
  | a :: t => if p a then t else a :: dropFirst p t

/-- A list without repeats of a value, with that value at its end. -/
def insertOnce {α : Type} [DecidableEq α] (a : α) (l : List α) : List α := if a ∈ l then l else l ++ [a]

/-- The list 0 … n − 1. -/
def upTo (n : Nat) : List Nat := List.range n

end Sys2Proof

namespace Sys2Proof.Machine

open Sys2Proof

/-- Adds n to a counter; it saturates (R503). -/
def bump (s : State) (c : CtrName) (ix : List Nat) (n : Nat := 1) : State :=
  { s with ctr := s.ctr.set (c, ix) (satAdd (s.ctr.get (c, ix) 0) n) }

/-- The value of a counter. -/
def count (s : State) (c : CtrName) (ix : List Nat) : Nat := s.ctr.get (c, ix) 0

/-- Sends an event. -/
def emit (s : State) (o : Out) : State := { s with out := s.out ++ [o] }

/-- Sends events in order. -/
def emits (s : State) (os : List Out) : State := { s with out := s.out ++ os }

/-- The completed step. -/
abbrev Res := Host.Outcome State Fault Refusal

/-- Links 544 to 575 are the Brola's ends of its own strings. -/
def brolaEnd (x : Nat) : Bool := decide (544 ≤ x ∧ x < 576)

/-- The counters of the Brola: those of Table 4-6 and those of its ends of the strings (R550). -/
def isBrolaCtr (k : CtrKey) : Bool := match k.1 with
  | .brlHdrErr | .brlFmtErr | .brlDupEvict | .brlSeqReuse => true
  | .lnkFecCorr | .lnkFecUncorr | .lnkGuard | .lnkSlotCrc | .lnkGap | .lnkReplay | .lnkReplaySlots | .lnkFraming | .lnkEiEntry
  | .lnkDown => brolaEnd (k.2.headD 0)
  | _ => false

end Sys2Proof.Machine
end

