-- ==== Sys2Proof/Machine/Digests.lean ====
section
/-! DEFINITION. The published checks the manual names: CRC-32C (R54, R59), SHA-384 and HMAC-SHA-384 (R304, R510). -/

namespace Sys2Proof.Machine

open Sys2Proof

/-- One bit step of the reflected CRC-32C (polynomial 0x1EDC6F41). -/
def crc32cBit (c : Nat) : Nat := if c % 2 = 1 then (c / 2) ^^^ 0x82F63B78 else c / 2

/-- The CRC register after one byte. -/
def crc32cByte (c : Nat) (b : Byte) : Nat :=
  crc32cBit (crc32cBit (crc32cBit (crc32cBit (crc32cBit (crc32cBit (crc32cBit (crc32cBit (c ^^^ b.toNat))))))))

/-- CRC-32C of a string of bytes, with the usual preset and final inversion. -/
def crc32c (bs : List Byte) : W32 := BitVec.ofNat 32 (bs.foldl crc32cByte 0xFFFFFFFF ^^^ 0xFFFFFFFF)

/-- The greatest x with x ^ deg at most n, found from bit b - 1 downwards above the bits already in x. -/
def rootFrom (deg n : Nat) : Nat → Nat → Nat
  | 0, x => x
  | b + 1, x => rootFrom deg n b (if (x + 2 ^ b) ^ deg ≤ n then x + 2 ^ b else x)

/-- The first 64 bits of the fractional part of a root of p, for p below 512. -/
def rootFraction (deg p : Nat) : Nat := rootFrom deg (p * 2 ^ (64 * deg)) 70 0 % 2 ^ 64

/-- The first 80 primes: those below 410 that no smaller prime divides; a composite one has a factor of at most 19. -/
def shaPrimes : List Nat :=
  (List.range 410).filter fun p => decide (1 < p) && [2, 3, 5, 7, 11, 13, 17, 19].all fun d => p == d || p % d != 0

/-- The constant of each round: from the cube root of a prime. -/
def shaKeys : List Nat := shaPrimes.map (rootFraction 3)

/-- A word of 64 bits turned right, for 0 < r < 64. -/
def turnRight (x r : Nat) : Nat := x >>> r ||| x <<< (64 - r) % 2 ^ 64

/-- The exclusive or of a word's turns. -/
def turns (x : Nat) (rs : List Nat) : Nat := rs.foldl (fun y r => y ^^^ turnRight x r) 0

/-- The hash in progress: the last four values of each of the two sequences it forms, newest first, and the 16 schedule words not yet used,
oldest first. -/
structure Sha where
  a : List Nat
  e : List Nat
  w : List Nat

/-- The first hash value of SHA-384: from the square roots of the ninth to sixteenth primes. -/
def shaStart : List Nat × List Nat :=
  let h := ((shaPrimes.drop 8).take 8).map (rootFraction 2)
  (h.take 4, h.drop 4)

/-- The schedule word that follows 16 words. -/
def shaWord (w : List Nat) : Nat :=
  let early := w.getD 1 0
  let late := w.getD 14 0
  (w.getD 0 0 + w.getD 9 0 + (turns early [1, 8] ^^^ early >>> 7) + (turns late [19, 61] ^^^ late >>> 6)) % 2 ^ 64

/-- The bits of y where x is 1 and those of z elsewhere. -/
def choose (x y z : Nat) : Nat := z ^^^ (x &&& (y ^^^ z))
/-- The bits that at least two of three words have. -/
def majority (x y z : Nat) : Nat := (x &&& (y ||| z)) ||| (y &&& z)

/-- One round: each sequence gains a value. -/
def shaStep (v : Sha) (k : Nat) : Sha :=
  let e := v.e.getD 0 0
  let a := v.a.getD 0 0
  let t := v.e.getD 3 0 + turns e [14, 18, 41] + choose e (v.e.getD 1 0) (v.e.getD 2 0) + k + v.w.getD 0 0
  { a := (t + turns a [28, 34, 39] + majority a (v.a.getD 1 0) (v.a.getD 2 0)) % 2 ^ 64 :: v.a.take 3
    e := (v.a.getD 3 0 + t) % 2 ^ 64 :: v.e.take 3
    w := v.w.drop 1 ++ [shaWord v.w] }

/-- Big-endian number of bytes. -/
def ofBe (bs : List Byte) : Nat := bs.foldl (fun n b => n * 256 + b.toNat) 0

/-- Bytes of a number, highest first. -/
def beBytes (k n : Nat) : List Byte := (leBytes k n).reverse

/-- One block of 128 bytes: its 16 words go through the rounds, and the result is added to the hash value. -/
def shaBlock (h : List Nat × List Nat) (blk : List Byte) : List Nat × List Nat :=
  let v := shaKeys.foldl shaStep { a := h.1, e := h.2, w := (List.range 16).map fun i => ofBe ((blk.drop (8 * i)).take 8) }
  let sum := List.zipWith fun x y => (x + y) % 2 ^ 64
  (sum h.1 v.a, sum h.2 v.e)

/-- The padded message. -/
def shaPad (bs : List Byte) : List Byte :=
  bs ++ [0x80] ++ List.replicate ((239 - bs.length % 128) % 128) 0 ++ beBytes 16 (8 * bs.length)

/-- SHA-384 of a string of bytes: the first six words of the last hash value, 48 bytes. -/
def sha384 (bs : List Byte) : List Byte :=
  let p := shaPad bs
  let h := (List.range (p.length / 128)).foldl (fun h i => shaBlock h ((p.drop (128 * i)).take 128)) shaStart
  (h.1 ++ h.2.take 2).flatMap (beBytes 8)

/-- A key of at most 128 bytes padded to one block; a longer one is hashed first. -/
def hmacKey (k : List Byte) : List Byte :=
  let k' := if k.length ≤ 128 then k else sha384 k
  k' ++ List.replicate (128 - k'.length) 0

/-- HMAC-SHA-384. -/
def hmac384 (k m : List Byte) : List Byte :=
  sha384 ((hmacKey k).map (· ^^^ 0x5c) ++ sha384 ((hmacKey k).map (· ^^^ 0x36) ++ m))

end Sys2Proof.Machine
end

