-- ==== Sys2Proof/Machine/LineCode.lean ====
section
/-! DEFINITION. The line coding of a lane: PAM4, RS(272,258), the scrambler, the run guard, fill, alignment markers and deskew (R362 to
R367, R378), and the SCRC of a slot (R368). -/

namespace Sys2Proof.Machine

open Sys2Proof

/-! PAM4 (R362, R378). -/

/-- The level of two bits, the bit sent first on the left. -/
def pamLevel (a b : Bool) : Nat := if a then (if b then 2 else 3) else (if b then 1 else 0)

/-- The two bits of a level, the one sent first on the left. -/
def pamBits (k : Nat) : Bool × Bool := (decide (2 ≤ k), k == 1 || k == 2)

def levelsOf : List Bool → List Nat
  | a :: b :: t => pamLevel a b :: levelsOf t
  | _ => []

def bitsOf (l : List Nat) : List Bool := l.flatMap fun k => [(pamBits k).1, (pamBits k).2]

/-- A symbol of an inverted lane with its most significant bit complemented: level k becomes 3 − k (R378). -/
def turn (inverted : Bool) (k : Nat) : Nat := if inverted then 3 - k else k

/-- The n bits of a number, and the number of bits, least significant first. -/
def natBits (n x : Nat) : List Bool := (List.range n).map (bit x)
def bitsNat : List Bool → Nat
  | [] => 0
  | b :: t => ofB b + 2 * bitsNat t

/-! GF(2^10) and RS(272,258) (R363). -/

/-- A product in GF(2^10), modulo x^10 + x^3 + 1: `n` bits of `b` from the lowest. -/
def gfMulN : Nat → Nat → Nat → Nat
  | 0, _, _ => 0
  | n + 1, a, b =>
    let a' := if 1024 ≤ 2 * a then (2 * a) ^^^ 0x409 else 2 * a
    (if b % 2 = 1 then a else 0) ^^^ gfMulN n a' (b / 2)

def gfMul (a b : Nat) : Nat := gfMulN 10 a b

/-- A power by repeated squaring; `k` bounds the bits of the exponent. -/
def gfPowN : Nat → Nat → Nat → Nat
  | 0, _, _ => 1
  | k + 1, a, n =>
    let h := gfPowN k (gfMul a a) (n / 2)
    if n % 2 = 1 then gfMul a h else h

def gfPow (a n : Nat) : Nat := gfPowN 10 a n
def gfInv (a : Nat) : Nat := gfPow a 1022

/-- The power of the primitive element α = x. -/
def alpha (n : Nat) : Nat := gfPow 2 (n % 1023)

/-- A polynomial's value, its highest coefficient first. -/
def polyEval (p : List Nat) (x : Nat) : Nat := p.foldl (fun r c => gfMul r x ^^^ c) 0

/-- A product of polynomials, their lowest coefficients first. -/
def polyMul : List Nat → List Nat → List Nat
  | [], _ => []
  | a :: p, q =>
    let s := 0 :: polyMul p q
    let f := q.map (gfMul a)
    (List.range (max s.length f.length)).map fun i => s.getD i 0 ^^^ f.getD i 0

/-- The generator, with roots α^0 to α^13, highest coefficient first. -/
def rsGen : List Nat := ((List.range 14).foldl (fun g i => polyMul g [alpha i, 1]) [1]).reverse

/-- The 14 parity symbols of 258 data symbols: the remainder of data times x^14 by the generator. -/
def rsParity (data : List Nat) : List Nat :=
  let g := rsGen.tail
  data.foldl (fun r d =>
    let f := d ^^^ r.headD 0
    List.zipWith (fun a b => a ^^^ gfMul f b) (r.tail ++ [0]) g) (List.replicate 14 0)

/-- A codeword: 258 data symbols and their parity. -/
def rsEncode (data : List Nat) : List Nat := data ++ rsParity data

/-- The syndromes of a received word; all zero for a codeword. -/
def rsSyndromes (w : List Nat) : List Nat := (List.range 14).map fun i => polyEval w (alpha i)
def rsIsWord (w : List Nat) : Bool := (rsSyndromes w).all (· == 0)

/-- The error locator after each syndrome in turn, and what is kept between them: locator, its last other form, length, the steps since,
the discrepancy then. -/
structure Locator where
  c : List Nat := [1]
  b : List Nat := [1]
  len : Nat := 0
  m : Nat := 1
  d : Nat := 1
deriving DecidableEq, Repr

/-- One step of the search for the shortest recurrence that yields the syndromes. -/
def locStep (s : List Nat) (x : Locator) (n : Nat) : Locator :=
  let d := ((List.range (x.len + 1)).map fun i => gfMul (x.c.getD i 0) (s.getD (n - i) 0)).foldl (· ^^^ ·) 0
  if d = 0 then { x with m := x.m + 1 }
  else
    let f := gfMul d (gfInv x.d)
    let q := List.replicate x.m 0 ++ x.b.map (gfMul f)
    let c := (List.range (max x.c.length q.length)).map fun i => x.c.getD i 0 ^^^ q.getD i 0
    if 2 * x.len ≤ n then { c := c, b := x.c, len := n + 1 - x.len, m := 1, d := d }
    else { x with c := c, m := x.m + 1 }

def rsLocator (s : List Nat) : List Nat := ((List.range 14).foldl (locStep s) {}).c

/-- The word with the error at each root of the locator taken away: its size is that which the syndromes give it there. -/
def rsFix (w : List Nat) : List Nat :=
  let s := rsSyndromes w
  let l := rsLocator s
  let ev := (polyMul s l).take 14
  let der := (List.range l.length).map fun i => if i % 2 = 0 then l.getD (i + 1) 0 else 0
  w.zipIdx.map fun (v, j) =>
    let y := alpha (1023 - (w.length - 1 - j) % 1023)
    if polyEval l.reverse y = 0 then v ^^^ gfMul (gfInv y) (gfMul (polyEval ev.reverse y) (gfInv (polyEval der.reverse y))) else v

/-- The symbols in which two words differ. -/
def rsDistance (a b : List Nat) : Nat := ((a.zip b).filter fun x => x.1 != x.2).length

/-- The decoder: a word within 7 symbols of a codeword gives its data symbols and the number corrected; any other is uncorrectable. -/
def rsDecode (w : List Nat) : Option (List Nat × Nat) :=
  if rsIsWord w then some (w.take 258, 0)
  else
    let c := rsFix w
    if rsIsWord c ∧ rsDistance w c ≤ 7 then some (c.take 258, rsDistance w c) else none

/-! The scrambler (R364). -/

/-- The seed of a wavelength. -/
def scramSeed (wl : Nat) : Nat := 0x7FFFFFFF ^^^ (wl <<< 8)

/-- The next bit of x^31 + x^28 + 1. -/
def scramBit (r : Nat) : Bool := bit r 30 != bit r 27

/-- Bits with the scrambler's output on them, from a register on; the same again takes it off. -/
def scramble : Nat → List Bool → List Bool
  | _, [] => []
  | r, b :: t =>
    let o := scramBit r
    (b != o) :: scramble ((2 * r + ofB o) % 2 ^ 31) t

/-! The run guard (R365). -/

/-- The count of identical symbols after one more. -/
def runLen (lvl cnt k : Nat) : Nat := if k = lvl then cnt + 1 else 1

/-- Symbols with the guard's: after 40 identical ones of level k one of level 3 − k, which begins a new count. -/
def guardIn : Nat → Nat → List Nat → List Nat
  | _, _, [] => []
  | lvl, cnt, k :: t =>
    if runLen lvl cnt k = 40 then k :: (3 - k) :: guardIn (3 - k) 1 t else k :: guardIn k (runLen lvl cnt k) t

/-- The first `need` symbols without the guard's, the number removed, and what follows. -/
def guardOut : Nat → Nat → Nat → List Nat → List Nat × Nat × List Nat
  | _, _, _, [] => ([], 0, [])
  | need, lvl, cnt, k :: t =>
    if cnt = 40 then
      let r := guardOut need k 1 t
      (r.1, r.2.1 + 1, r.2.2)
    else
      match need with
      | 0 => ([], 0, k :: t)
      | n + 1 =>
        let r := guardOut n k (runLen lvl cnt k) t
        (k :: r.1, r.2)

/-! Alignment markers (R367). -/

/-- The levels of SYNC. -/
def amSync : List Nat := [1, 3, 0, 0, 2, 3, 1, 1, 0, 2, 2, 3, 0, 1, 3, 2]

/-- ID and ID2 without the CRC-8. -/
def amId (a : LaneMark) : Nat :=
  a.wl % 32 + a.q % 4 * 2 ^ 5 + ofB a.brola * 2 ^ 7 + a.str % 512 * 2 ^ 8 + a.soff % 256 * 2 ^ 17 + a.bcnt % 128 * 2 ^ 25
def amId2 (a : LaneMark) : Nat := a.heard.getD 0 % 512 + ofB a.heard.isSome * 2 ^ 9

/-- CRC-8 of the n lowest bits of a number, its highest bit first: x^8 + x^2 + x + 1, from 0. -/
def crc8 (x : Nat) : Nat → Nat → Nat
  | 0, r => r
  | n + 1, r =>
    let top := bit r 7 != bit x n
    crc8 x n (((2 * r) % 256) ^^^ (if top then 7 else 0))

/-- The CRC of a marker, over ID[31:0] and then ID2[23:0]. -/
def amCrc (id id2 : Nat) : Nat := crc8 (id * 2 ^ 24 + id2 % 2 ^ 24) 56 0

/-- The 48 symbols of a marker. -/
def amSymbols (a : LaneMark) : List Nat :=
  amSync ++ levelsOf (natBits 32 (amId a)) ++ levelsOf (natBits 32 (amId2 a + amCrc (amId a) (amId2 a) * 2 ^ 24))

/-- The marker that 48 symbols spell in their polarity: SYNC as it is, CRC-8 right, reserved bits zero. -/
def amRead (l : List Nat) : Option LaneMark :=
  let id := bitsNat (bitsOf ((l.drop 16).take 16))
  let id2 := bitsNat (bitsOf ((l.drop 32).take 16))
  if l.length = 48 ∧ l.take 16 = amSync ∧ bits id2 24 8 = amCrc id id2 ∧ bits id2 10 14 = 0 then
    some { wl := bits id 0 5, q := bits id 5 2, brola := bit id 7, str := bits id 8 9, soff := bits id 17 8, bcnt := bits id 25 7,
           heard := if bit id2 9 then some (bits id2 0 9) else none }
  else none

/-- Whether a marker arrives inverted (R378). -/
def amInverted (l : List Nat) : Bool := l.take 16 == amSync.map (3 - ·)

/-! Blocks (R362, R366). -/

/-- Fill of n symbols: levels 0 and 3 in turn. -/
def fill (n : Nat) : List Nat := (List.range n).map fun i => 3 * (i % 2)

/-- The 10-bit symbols of bits sent in order, and their bits. -/
def rsSymbols : Nat → List Bool → List Nat
  | 0, _ => []
  | n + 1, l => bitsNat (l.take 10) :: rsSymbols n (l.drop 10)
def rsBits (w : List Nat) : List Bool := w.flatMap (natBits 10)

/-- The data region of a block as it is sent on a wavelength: each codeword encoded, the whole scrambled, the guard applied. -/
def sendRegion (wl : Nat) (words : List (List Nat)) : List Nat :=
  guardIn 4 0 (levelsOf (scramble (scramSeed wl) ((words.map rsEncode).flatMap rsBits)))

/-- The blocks of a string's lanes from one alignment to the next: each marker and region, and at least 16 symbols of fill, more where needed
for the lanes to begin their next markers together (R366). -/
def sendBlocks (l : List (LaneMark × List (List Nat))) : List (List Nat) :=
  let rs := l.map fun x => sendRegion x.1.wl x.2
  let longest := (rs.map List.length).foldl max 0
  (l.zip rs).map fun x => amSymbols x.1.1 ++ x.2 ++ fill (16 + longest - x.2.length)

/-- What a receiver finds in a block: its marker, the guard symbols removed, and each codeword's data with the symbols corrected. -/
structure BlockRead where
  mark : Option LaneMark
  guards : Nat
  words : List (Option (List Nat × Nat))
deriving DecidableEq, Repr

/-- A block of n codewords as a receiver takes it, on a wavelength that its marker names or else `wl`: polarity, guard, descrambling,
decoding (R362). A codeword that is not all there is uncorrectable. -/
def readBlock (n wl : Nat) (inverted : Bool) (syms : List Nat) : BlockRead :=
  let l := syms.map (turn inverted)
  let mark := amRead (l.take 48)
  let r := guardOut (1360 * n) 4 0 (l.drop 48)
  let bs := scramble (scramSeed ((mark.map (·.wl)).getD wl)) (bitsOf r.1)
  { mark := mark, guards := r.2.1
    words := (List.range n).map fun i =>
      let w := (bs.drop (2720 * i)).take 2720
      if w.length = 2720 then rsDecode (rsSymbols 272 w) else none }

/-- The codewords of a block from which lane bits [lo, hi) come. -/
def cwsOf (lo hi : Nat) : List Nat := (List.range 32).filter fun i => decide (2580 * i < hi ∧ lo < 2580 * (i + 1))

/-! Bring-up of the lanes (R376 to R379). -/

/-- Stages 3 and 4 of a lane: its last four markers pass CRC-8 in one polarity, which is given. -/
def laneLocked (l : LaneSeen) : Option Bool :=
  let ms := l.marks.drop (l.marks.length - 4)
  match ms with
  | m :: _ =>
    let inv := amInverted m
    if ms.length = 4 ∧ ms.all fun a => (amRead (a.map (turn inv))).isSome then some inv else none
  | [] => none

/-- The polarities of a string's four lanes, once each has one. -/
def lanePolarity (ls : List LaneSeen) : Option (List Bool) :=
  let ps := ls.map laneLocked
  if ls.length = 4 ∧ ps.all Option.isSome then some (ps.map (·.getD false)) else none

/-- The latest markers of the lanes, each read in its polarity. -/
def laneMarks (inv : BitVec 4) (ls : List LaneSeen) : List (Option LaneMark) :=
  ls.zipIdx.map fun x => (x.1.marks.getLast?).bind fun m => amRead (m.map (turn (inv.getLsbD x.2)))

/-- The delays that bring the lanes together; none beyond the receiver's 2,048 symbols (R366). -/
def deskew (ls : List LaneSeen) : Option (List Nat) :=
  let last := (ls.map (·.at_)).foldl max 0
  let ds := ls.map fun l => last - l.at_
  if ds.all fun d => decide (d ≤ 2048) then some ds else none

/-- Stage 5's conditions on the four markers: distinct lanes, one STRING and KIND, and the skew of R366 (R379). -/
def lanesAgree (ms : List LaneMark) (ls : List LaneSeen) : Bool :=
  decide (ms.length = 4) && (List.range 4).all (fun q => ms.any fun m => m.q == q)
    && ms.all (fun m => m.str == (ms.headD {}).str && m.brola == (ms.headD {}).brola)
    && (deskew ls).any fun ds => ds.all fun d => decide (d ≤ 960)

/-! The SCRC of a slot (R368). -/

/-- STYPE of a body (Table 13-3). -/
def stypeOf : SlotBody → Nat
  | .idle => 0
  | .head _ _ => 1
  | .data => 2
  | .ehead _ => 3
  | .edata => 4
  | .ctrl _ | .ctrlReserved => 5
  | .abort _ => 6
  | .linkReserved => 7

/-- Bits [543:0] of a slot. -/
def slotWord (sl : Slot) : Nat :=
  sl.payload % 2 ^ 512 + stypeOf sl.body * 2 ^ 512 + sl.lseq % 2 ^ 14 * 2 ^ 516 + sl.ack % 2 ^ 14 * 2 ^ 530

def slotCrc (sl : Slot) : W32 := crc32c (leBytes 68 (slotWord sl))

/-- A slot with the SCRC with which it is sent. -/
def sealSlot (sl : Slot) : Slot := { sl with scrc := slotCrc sl }

end Sys2Proof.Machine
end

