-- ==== Sys2Proof/Machine/Floats.lean ====
section
/-! DEFINITION. The number formats (R192), conversions (R193, R214), exact sums (R197, R212), compares (R211) and the
Philox generator (R215). A value is a sign, a magnitude m and a power of two: ± m × 2^e. -/

namespace Sys2Proof.Machine

open Sys2Proof

/-- A decoded value. -/
inductive Fp where
  | nan
  | inf (neg : Bool)
  | fin (neg : Bool) (m : Nat) (e : Int)
deriving DecidableEq, Repr

/-- A binary format of Table 7-3: exponent and mantissa bits, the bias, whether infinities exist, and the encoding of
the largest finite magnitude. -/
structure FpFmt where
  eb : Nat
  mb : Nat
  bias : Int
  hasInf : Bool
  maxEnc : Nat
deriving DecidableEq, Repr

def fp32 : FpFmt := ⟨8, 23, 127, true, 0x7F7FFFFF⟩
def bf16 : FpFmt := ⟨8, 7, 127, true, 0x7F7F⟩
def fp16 : FpFmt := ⟨5, 10, 15, true, 0x7BFF⟩
def e4m3 : FpFmt := ⟨4, 3, 7, false, 0x7E⟩
def e5m2 : FpFmt := ⟨5, 2, 15, true, 0x7B⟩
def e2m1 : FpFmt := ⟨2, 1, 1, false, 0x7⟩

/-- The float format of a FMT code 0x0–0x4, and 0x7 for FP4 E2M1 (R266). -/
def fmtOf (c : Nat) : FpFmt :=
  match c with
  | 0 => fp32 | 1 => bf16 | 2 => fp16 | 3 => e4m3 | 4 => e5m2 | _ => e2m1

/-- Element size in bytes of a FMT code 0x0–0x6 (Table 7-3). -/
def fmtSize (c : Nat) : Nat :=
  match c with
  | 0 => 4 | 1 => 2 | 2 => 2 | 3 => 1 | 4 => 1 | 5 => 4 | _ => 8

def fmtIsInt (c : Nat) : Bool := c == 5 || c == 6

/-- The exponent of the smallest subnormal. -/
def FpFmt.eMin (p : FpFmt) : Int := 1 - p.bias - (p.mb : Int)
/-- The bits below the sign. -/
def FpFmt.width (p : FpFmt) : Nat := p.eb + p.mb

/-- The value of an encoding. Subnormals are kept (R193). -/
def fpDecode (p : FpFmt) (n : Nat) : Fp :=
  let neg := bit n p.width
  let mag := n % 2 ^ p.width
  let ex := mag / 2 ^ p.mb
  let fr := mag % 2 ^ p.mb
  if p.hasInf && ex == 2 ^ p.eb - 1 then (if fr = 0 then .inf neg else .nan)
  else if !p.hasInf && decide (mag > p.maxEnc) then .nan
  else if ex = 0 then .fin neg fr p.eMin
  else .fin neg (fr + 2 ^ p.mb) (p.eMin + ex - 1)

/-- The canonical quiet NaN of a format (R193); FP4 has none and gives +0. -/
def fpNan (p : FpFmt) : Nat :=
  if p.hasInf then (2 ^ p.eb - 1) * 2 ^ p.mb + 2 ^ (p.mb - 1) else if p.eb = 4 then 0x7F else 0

/-- Infinity converted to a format: itself, NaN for E4M3, ±6 for FP4 (R193). -/
def fpInf (p : FpFmt) (neg : Bool) : Nat :=
  if p.hasInf then ofB neg * 2 ^ p.width + (2 ^ p.eb - 1) * 2 ^ p.mb
  else if p.eb = 4 then 0x7F else ofB neg * 2 ^ p.width + p.maxEnc

/-- What a rounded magnitude above the largest finite one gives (R193). -/
def fpOver (p : FpFmt) (neg : Bool) : Nat :=
  if p.hasInf then fpInf p neg else ofB neg * 2 ^ p.width + p.maxEnc

/-- Round to nearest, ties to even: whether to take the neighbour of larger magnitude of quotient q with remainder rem of 2^sh. -/
def rneUp (_ : Bool) (q rem sh : Nat) : Bool := decide (2 * rem > 2 ^ sh) || (decide (2 * rem = 2 ^ sh) && q % 2 == 1)

/-- Stochastic rounding with draw r (R214): hi when r < floor((x − lo) / (hi − lo) × 2^32). Of a negative value (`neg`) hi is the neighbour
of smaller magnitude. -/
def srUp (r : Nat) (neg : Bool) (_q rem sh : Nat) : Bool :=
  if neg then !decide (r < (2 ^ sh - rem) * 2 ^ 32 / 2 ^ sh) else decide (r < rem * 2 ^ 32 / 2 ^ sh)

/-- The encoding of ± m × 2^e rounded once to a format; `up` decides between neighbours, from the sign and the magnitude; beyond the largest
finite magnitude from the magnitude alone (R214). -/
def fpRound (p : FpFmt) (up : Bool → Nat → Nat → Nat → Bool) (neg : Bool) (m : Nat) (e : Int) : Nat :=
  let s := ofB neg * 2 ^ p.width
  if m = 0 then s
  else
    let u := max p.eMin (e + (Nat.log2 m : Int) - (p.mb : Int))
    let q :=
      if e ≥ u then m * 2 ^ (e - u).toNat
      else
        let sh := (u - e).toNat
        let q := m / 2 ^ sh
        let rem := m % 2 ^ sh
        let dn := neg && decide ((u - p.eMin).toNat * 2 ^ p.mb + q < p.maxEnc)
        if rem ≠ 0 && up dn q rem sh then q + 1 else q
    let enc := (u - p.eMin).toNat * 2 ^ p.mb + q
    if enc > p.maxEnc then fpOver p neg else s + enc

/-- A value encoded in a format under a rounding. -/
def fpEncode (p : FpFmt) (up : Bool → Nat → Nat → Nat → Bool) : Fp → Nat
  | .nan => fpNan p
  | .inf neg => fpInf p neg
  | .fin neg m e => fpRound p up neg m e

/-- Conversion between formats, to nearest even (R193). -/
def fpConvert (src dst : FpFmt) (n : Nat) : Nat := fpEncode dst rneUp (fpDecode src n)

def Fp.isNan : Fp → Bool
  | .nan => true
  | _ => false
def Fp.negate : Fp → Fp
  | .nan => .nan
  | .inf s => .inf (!s)
  | .fin s m e => .fin (!s) m e

/-- The signed integer A with ± m × 2^e = A × 2^k, for k ≤ e. -/
def fpScaled (neg : Bool) (m : Nat) (e k : Int) : Int :=
  let a : Int := (m * 2 ^ (e - k).toNat : Nat)
  if neg then -a else a

/-- The exact sum of two values; a zero sum of zeros of one sign keeps it, any other zero sum is +0 (IEEE 754). -/
def fpAdd (a b : Fp) : Fp :=
  match a, b with
  | .nan, _ => .nan
  | _, .nan => .nan
  | .inf s, .inf t => if s = t then .inf s else .nan
  | .inf s, _ => .inf s
  | _, .inf t => .inf t
  | .fin s m e, .fin t n f =>
    if m = 0 ∧ n = 0 then .fin (s && t) 0 0
    else
      let k := min e f
      let x := fpScaled s m e k + fpScaled t n f k
      .fin (decide (x < 0)) x.natAbs k

/-- The exact product of two values; infinity times zero is NaN (R197). -/
def fpMul (a b : Fp) : Fp :=
  match a, b with
  | .nan, _ => .nan
  | _, .nan => .nan
  | .inf s, .inf t => .inf (s != t)
  | .inf s, .fin t n _ => if n = 0 then .nan else .inf (s != t)
  | .fin s m _, .inf t => if m = 0 then .nan else .inf (s != t)
  | .fin s m e, .fin t n f => .fin (s != t) (m * n) (e + f)

/-- The sum of two encodings of a format, rounded once (R102, R199). -/
def fpAddEnc (p : FpFmt) (a b : Nat) : Nat := fpEncode p rneUp (fpAdd (fpDecode p a) (fpDecode p b))
def fpMulEnc (p : FpFmt) (a b : Nat) : Nat := fpEncode p rneUp (fpMul (fpDecode p a) (fpDecode p b))
/-- a × b + c with one rounding (R199). -/
def fpFmaEnc (p : FpFmt) (a b c : Nat) : Nat := fpEncode p rneUp (fpAdd (fpMul (fpDecode p a) (fpDecode p b)) (fpDecode p c))

/-- a < b in the order of R211: values, with −0 below +0. Neither is NaN. -/
def fpLt (a b : Fp) : Bool :=
  match a, b with
  | .inf true, .inf true => false
  | .inf true, _ => true
  | _, .inf true => false
  | .inf false, _ => false
  | _, .inf false => true
  | .fin s m e, .fin t n f =>
    if m = 0 ∧ n = 0 then s && !t
    else decide (fpScaled s m e (min e f) < fpScaled t n f (min e f))
  | _, _ => false

/-- Maximum and minimum of two encodings; any NaN gives the canonical NaN (R211). -/
def fpMaxEnc (p : FpFmt) (a b : Nat) : Nat :=
  let x := fpDecode p a
  let y := fpDecode p b
  if x.isNan || y.isNan then fpNan p else if fpLt x y then b else a
def fpMinEnc (p : FpFmt) (a b : Nat) : Nat :=
  let x := fpDecode p a
  let y := fpDecode p b
  if x.isNan || y.isNan then fpNan p else if fpLt y x then b else a

/-- E8M0 (R193): the power of two of a code; NaN for 0xFF. -/
def e8m0Decode (x : Nat) : Fp := if x % 256 = 255 then .nan else .fin false 1 ((x % 256 : Nat) - 127)

/-- The E8M0 code nearest a value (R193). -/
def e8m0Encode : Fp → Nat
  | .nan => 0xFF
  | .inf _ => 0xFF
  | .fin neg m e =>
    if m = 0 then 0
    else if neg then 0xFF
    else
      let l := Nat.log2 m
      let k := e + (l : Int)
      if k < -127 then 0
      else
        let code := (k + 127).toNat
        let up := decide (2 * m > 3 * 2 ^ l) || (decide (2 * m = 3 * 2 ^ l) && code % 2 == 1)
        min (if up then code + 1 else code) 0xFE

/-- The exact sum of a list of products, with the special values of R197. -/
def fpSum (l : List Fp) : Fp := l.foldl fpAdd (.fin false 0 0)

/-- acc + s rounded once to FP32 (R197). A zero exact sum is +0 (log entry 20). -/
def stepAcc (acc : Nat) (products : List Fp) : Nat := fpEncode fp32 rneUp (fpAdd (fpDecode fp32 acc) (fpSum products))

/-! Philox4×32-10 (R215). -/

def m32 (n : Nat) : Nat := n % 2 ^ 32

/-- One round of Philox4×32 on four words with two key words. -/
def philoxRound (c : Nat × Nat × Nat × Nat) (k : Nat × Nat) : Nat × Nat × Nat × Nat :=
  let p0 := 0xD2511F53 * c.1
  let p1 := 0xCD9E8D57 * c.2.2.1
  ((p1 / 2 ^ 32) ^^^ c.2.1 ^^^ k.1, m32 p1, (p0 / 2 ^ 32) ^^^ c.2.2.2 ^^^ k.2, m32 p0)

/-- n rounds, the key raised by the Weyl constants after each. -/
def philoxRounds : Nat → Nat × Nat × Nat × Nat → Nat × Nat → Nat × Nat × Nat × Nat
  | 0, c, _ => c
  | n + 1, c, k => philoxRounds n (philoxRound c k) (m32 (k.1 + 0x9E3779B9), m32 (k.2 + 0xBB67AE85))

/-- The 32-bit draw of an element (R215): output word 0. -/
def srDraw (seed : Nat) (idx wid epoch finals : Nat) : Nat :=
  (philoxRounds 10 (m32 idx, m32 (idx / 2 ^ 32), m32 (wid * 65536 + epoch % 65536), m32 finals) (m32 seed, m32 (seed / 2 ^ 32))).1

end Sys2Proof.Machine
end

