-- ==== Sys2Proof/Machine/Memory.lean ====
section
/-! DEFINITION. Byte memory in canonical form: (address, byte) pairs with strictly rising addresses and no zero byte;
an address that is not listed reads 0 (log entry 4). -/

namespace Sys2Proof.Machine

open Sys2Proof

/-- The canonical form, with every address at least `lo`. -/
def Memory.wfFrom (lo : Nat) : List Host.Cell → Bool
  | [] => true
  | (a, b) :: t => decide (lo ≤ a) && b != 0 && Memory.wfFrom (a + 1) t

/-- The canonical form of a memory. -/
def Memory.wf (m : List Host.Cell) : Bool := Memory.wfFrom 0 m

/-- The byte at an address; 0 where none is listed. -/
def Memory.read : List Host.Cell → Nat → Byte
  | [], _ => 0
  | (a, b) :: t, k => if a = k then b else Memory.read t k

/-- The memory with one byte written; a zero byte is not listed. -/
def Memory.write : List Host.Cell → Nat → Byte → List Host.Cell
  | [], k, v => if v = 0 then [] else [(k, v)]
  | (a, b) :: t, k, v =>
    if k < a then (if v = 0 then (a, b) :: t else (k, v) :: (a, b) :: t)
    else if k = a then (if v = 0 then t else (k, v) :: t)
    else (a, b) :: Memory.write t k v

/-- n bytes from an address on, lowest first (R13). -/
def Memory.readN (m : List Host.Cell) (a : Nat) : Nat → List Byte
  | 0 => []
  | n + 1 => Memory.read m a :: Memory.readN m (a + 1) n

/-- The bytes written from an address on, lowest first (R13). -/
def Memory.writeN (m : List Host.Cell) (a : Nat) : List Byte → List Host.Cell
  | [] => m
  | b :: t => Memory.writeN (Memory.write m a b) (a + 1) t

/-- The memory with n bytes from an address on at zero. -/
def Memory.zero (m : List Host.Cell) (a n : Nat) : List Host.Cell :=
  m.filter fun c => decide (c.1 < a ∨ a + n ≤ c.1)

/-- A little-endian number of n bytes (R13). -/
def Memory.readLe (m : List Host.Cell) (a n : Nat) : Nat := ofLe (Memory.readN m a n)

/-- A little-endian number stored in n bytes (R13). -/
def Memory.writeLe (m : List Host.Cell) (a n v : Nat) : List Host.Cell := Memory.writeN m a (leBytes n v)

/-- The 8-byte words that n bytes from a touch. -/
def wordsOf (a n : Nat) : List Nat :=
  if n = 0 then [] else (List.range ((a + n - 1) / 8 - a / 8 + 1)).map (· + a / 8)

end Sys2Proof.Machine
end

