-- ==== Sys2Proof/Machine/Tables.lean ====
section
/-! DEFINITION. The tables of Table 9-9: their keys and sizes (Table 9-10), the fields of their entries, and the
defaults of entries that no commit has made (R270). An entry is kept as the number its bits spell. -/

namespace Sys2Proof.Machine

open Sys2Proof

/-- The site record in effect (R413); its fields read zero before boot reads it. -/
def site (s : State) : SiteRec := s.disc.site.getD {}

/-- The bytes of one entry of a table, Table 9-10; 0 for a number that names no table. -/
def tblSize (t : Nat) : Nat :=
  match t with
  | 0x01 => 128 | 0x02 => 16 | 0x03 => 8 | 0x04 => 16 | 0x05 => 8 | 0x06 => 8 | 0x07 => 8 | 0x08 => 8
  | 0x09 => 16 | 0x0A => 16 | 0x0B => 8 | 0x0C => 32 | 0x0D => 64 | 0x0E => 32 | 0x0F => 128
  | 0x10 => 8 | 0x11 => 16 | 0x12 => 1056
  | _ => 0

/-- The bits that form an entry's key, Table 9-10. -/
def tblMask (t : Nat) : Nat :=
  match t with
  | 0x01 => 0x1FF | 0x02 => 0x1FF | 0x03 => 0x7 | 0x04 => 0x1FF | 0x05 => 0x3FF | 0x06 => 0x3FFFFFF | 0x07 => 0x1FF
  | 0x08 => 0x1FF3F | 0x09 => 0x1FF | 0x0A => 0x1FF | 0x0B => 0x3FF | 0x0C => 0xFFFF | 0x0D => 0x1FFF
  | 0x0E => 0xFFF | 0x0F => 0x1FFFFF | 0x11 => 0x7
  | _ => 0

/-- The key of an entry. -/
def tblKey (t e : Nat) : Nat := e &&& tblMask t

/-- The tables of domain, course and package scope, Table 9-9. -/
def tblDomain (t : Nat) : Bool := t == 1 || t == 2 || t == 3 || t == 0x0A
def tblCourse (t : Nat) : Bool := decide (0x0C ≤ t ∧ t ≤ 0x0F)

/-- An entry whose non-key fields are all zero removes the entry in tables 0x0C–0x0F and 0x11; VALID = 0 removes a
capo (R270). -/
def tblRemoves (t e : Nat) : Bool :=
  if t = 1 then !bit e 9 else (tblCourse t || t == 0x11) && decide (e = tblKey t e)

abbrev Entries := List ((Nat × Nat) × Nat)

/-- The entry of a table with a key. -/
def tblFind (l : Entries) (t k : Nat) : Option Nat := TMap.find l (t, k)

/-- A table set with one entry applied under R270. -/
def tblApply (l : Entries) (t e : Nat) : Entries :=
  if tblRemoves t e then TMap.erase l (t, tblKey t e) else TMap.set l (t, tblKey t e) e

/-- The staged set applied to the tables. -/
def tblApplyAll (l : Entries) (staged : Entries) : Entries := staged.foldl (fun l e => tblApply l e.1.1 e.2) l

/-- Every entry of one table. -/
def tblAll (l : Entries) (t : Nat) : List Nat := (l.filter fun e => e.1.1 == t).map (·.2)

/-! Leaves, capos and the host port table (Tables 18-1, 15-8, 9-11, 2-6). -/

/-- Leaf index of L(ly,lx): row-major over 16 rows of 32. -/
def leafIndex (ly lx : Nat) : Nat := ly * 32 + lx

/-- Whether a valid capo entry holds a leaf index. -/
def capoHasLeaf (e i : Nat) : Bool := bit e 9 && bit e (512 + i)

/-- The capo whose leaf set holds a leaf index. -/
def capoOfLeaf (l : Entries) (i : Nat) : Option Nat := ((tblAll l 1).find? fun e => capoHasLeaf e i).map fun e => bits e 0 9

def capoValid (l : Entries) (c : Nat) : Bool := ((tblFind l 1 c).map (bit · 9)).getD false
def capoPinned (l : Entries) (c : Nat) : Bool := ((tblFind l 1 c).map fun e => bit e 9 && bit e 10).getD false
def capoSlots (l : Entries) (c : Nat) : Nat := ((tblFind l 1 c).map (bits · 16 16)).getD 0
def capoPortPct (l : Entries) (c : Nat) : Nat := ((tblFind l 1 c).map (bits · 32 7)).getD 0
def capoAccMib (l : Entries) (c : Nat) : Nat := ((tblFind l 1 c).map (bits · 40 8)).getD 0
def capoPoolPct (l : Entries) (c : Nat) : Nat := ((tblFind l 1 c).map (bits · 48 7)).getD 0

/-- The capos with an entry. -/
def capos (l : Entries) : List Nat := ((tblAll l 1).filter (bit · 9)).map (bits · 0 9)
def pinnedCapos (l : Entries) : List Nat := (capos l).filter (capoPinned l)

def leafPresent (l : Entries) (i : Nat) : Bool := ((tblFind l 2 i).map (bit · 9)).getD false
def leafIdent (l : Entries) (i : Nat) : Nat := ((tblFind l 2 i).map (bits · 32 64)).getD 0
def leafSettled (l : Entries) (i : Nat) : Nat := ((tblFind l 2 i).map (bits · 96 32)).getD 0

/-- MODE, PRIV and CAPO of a PCIe port, Table 9-11. -/
def portIsCxl (l : Entries) (p : Nat) : Bool := ((tblFind l 3 p).map (bit · 3)).getD false
def portPriv (l : Entries) (p : Nat) : Bool := ((tblFind l 3 p).map (bit · 4)).getD false
def portCapo (l : Entries) (p : Nat) : Nat := ((tblFind l 3 p).map (bits · 5 9)).getD 0

/-! The string map and the weight-bank map (Tables 13-8, 12-4). -/

def strEntry (l : Entries) (n : Nat) : Option Nat := tblFind l 4 n
def strOn (l : Entries) (n : Nat) : Bool := ((strEntry l n).map (bit · 9)).getD false
def strLset (l : Entries) (n : Nat) : Nat := ((strEntry l n).map (bits · 20 2)).getD 0
def strTxwl (l : Entries) (n q : Nat) : Nat := ((strEntry l n).map (bits · (24 + 5 * q) 5)).getD 0
def strRxring (l : Entries) (n i : Nat) : Nat := ((strEntry l n).map (bits · (52 + 5 * i) 5)).getD 0
def strRxFibre (l : Entries) (n : Nat) : Nat := ((strEntry l n).map (bits · 15 5)).getD 0
def strTxFibre (l : Entries) (n : Nat) : Nat := ((strEntry l n).map (bits · 10 5)).getD 0
/-- REPLAY in 0.5 µs units, default 4; EIDLE in µs, default 2 (Table 13-8). -/
def strReplay (l : Entries) (n : Nat) : Nat := ((strEntry l n).map (bits · 72 6)).getD 4
def strEidle (l : Entries) (n : Nat) : Nat := ((strEntry l n).map (bits · 78 10)).getD 2

/-! Buffer, cut-through, harmonic, credit and bridge settings (Tables 9-12 to 9-17 and 5-3). -/

def bufEntry (l : Entries) (ty sx port cls capo : Nat) : Option Nat :=
  tblFind l 6 (ty + sx * 2 ^ 4 + port * 2 ^ 6 + cls * 2 ^ 14 + capo * 2 ^ 17)

/-- Guarantee G of an output queue in cells: 64 for a string, 512 for an internal port (Table 5-3). -/
def bufG (l : Entries) (sx port cls : Nat) : Nat :=
  if port < 128 then ((bufEntry l 1 sx port cls 0).map (bits · 32 15)).getD 64
  else ((bufEntry l 2 sx port cls 0).map (bits · 32 15)).getD 512

/-- log2 of the threshold factor α of a class (Table 5-3). -/
def bufAlpha (l : Entries) (sx cls : Nat) : Int := ((bufEntry l 3 sx 0 cls 0).map fun e => signed (bits e 32 4) 4).getD 0

/-- Push-out eligibility of a class; TC0 and TC1 by default (Table 5-3). -/
def bufPushout (l : Entries) (sx cls : Nat) : Bool := ((bufEntry l 3 sx 0 cls 0).map (bit · 36)).getD (decide (cls ≤ 1))

/-- The quota of a pinned capo in cells (Table 5-3). -/
def bufQuota (l : Entries) (sx capo : Nat) : Nat := ((bufEntry l 4 sx 0 0 capo).map (bits · 32 20)).getD 0

/-- Cut-through of a class on a string input, on by default (Table 9-13). -/
def cutThrough (l : Entries) (sx port cls : Nat) : Bool := ((tblFind l 7 (sx + 4 * port)).map (bit · (16 + cls))).getD true

/-- The harmonic entry of a string and of a filter (Table 9-14). -/
def harmonicEntry (l : Entries) (sx n : Nat) : Option Nat := tblFind l 8 (1 + sx * 16 + n * 256)
def filterEntry (l : Entries) (sx f : Nat) : Option Nat := tblFind l 8 (2 + sx * 16 + f * 256)

/-- A string designated as a harmonic string (R157). The entry of NUM 0x1FF is S511's, or with FIBRE = 1 a fibre's (Table 9-14). -/
def strHarmonic (l : Entries) (n : Nat) : Bool := ((harmonicEntry l (n / 128) n).map fun e => bit e 6 && !bit e 17).getD false

/-- F16 of OX number `ox` designated as a harmonic fibre (R157). -/
def fibreHarmonic (l : Entries) (ox : Nat) : Bool :=
  ((harmonicEntry l (ox / 2) 511).map fun e => bit e 6 && bit e 17 && ofB (bit e 18) == ox % 2).getD false

/-- D_t of a string input, default 16 cells (Table 9-15). -/
def credD (l : Entries) (sx port cls : Nat) : Nat := ((tblFind l 9 (sx + 4 * port)).map (bits · (16 + 9 * cls) 9)).getD 16

/-- Timeouts and windows of a capo (Table 9-16). -/
def capoCto (l : Entries) (c : Nat) : Nat := ((tblFind l 0x0A c).map (bits · 16 20)).getD 8000
def capoBto (l : Entries) (c : Nat) : Nat := ((tblFind l 0x0A c).map (bits · 36 14)).getD 100
def capoLwin (l : Entries) (c : Nat) : Nat := ((tblFind l 0x0A c).map (bits · 50 8)).getD 15
def capoRwin (l : Entries) (c : Nat) : Nat := ((tblFind l 0x0A c).map (bits · 58 8)).getD 63

/-- BRG_CLOSE in ns and the bulk reserve in cells (Table 9-17). -/
def brgClose (l : Entries) : Nat := ((tblFind l 0x0B 1).map (bits · 16 11)).getD 250
def brgReserve (l : Entries) (n : Nat) : Nat := ((tblFind l 0x0B (2 + (n - 448) * 16)).map (bits · 16 14)).getD 2048

/-! Regions (Table 11-2). -/

/-- The fields of a region-table entry. -/
structure Region where
  rid : Nat
  capo : Nat
  tier : Nat
  mir : Bool
  ro : Bool
  place : Nat
  vpage : Nat
  npages : Nat
  pbase : Nat
deriving DecidableEq, Repr

def regionOf (e : Nat) : Region :=
  { rid := bits e 0 16, capo := bits e 16 9, tier := bits e 25 2, mir := bit e 27, ro := bit e 28, place := bits e 32 8,
    vpage := bits e 96 34, npages := bits e 160 32, pbase := bits e 192 32 }

def regions (l : Entries) : List Region := (tblAll l 0x0C).map regionOf

/-- The region of a capo that holds a capo-relative page. -/
def regionAt (l : Entries) (capo page : Nat) : Option Region :=
  (regions l).find? fun r => r.capo == capo && decide (r.vpage ≤ page ∧ page < r.vpage + r.npages)

/-! Windows and shards (Tables 8-14, 8-15), groups (Table 10-3), and the rest. -/

/-- The window descriptor of a table 0x0D entry or of 64 bytes of scratch. A FMT of 0xF or a MODE of 2 is set by the
first arrival. -/
def winDescOf (e : Nat) : WinDesc :=
  { wid := bits e 0 13, base := bits e 16 46, lenp := bits e 64 34, fmt := bits e 98 4, rop := bits e 102 2, mode := bits e 104 2,
    each := bit e 106, initDest := bit e 107, sr := bit e 108, rearm := bit e 109, group := bits e 112 12, e := bits e 128 41,
    deadline := bits e 192 20, fctr := bits e 224 16, fctrInc := bits e 256 32, capo := bits e 288 9,
    seed := BitVec.ofNat 64 (bits e 320 64) }

def shardDescOf (e : Nat) : ShardDesc :=
  { shard := bits e 0 12, base := bits e 16 46, len64 := bits e 64 25, ctr := bits e 96 16, capo := bits e 112 9, memberB := bit e 121 }

/-- The group entry of (GROUP, CAPO). -/
def groupEntry (l : Entries) (g capo : Nat) : Option Nat := tblFind l 0x0F (g + capo * 4096)
def grpPriv (e : Nat) : Bool := bit e 21
def grpXdom (e : Nat) : Bool := bit e 22
def grpNtot (e : Nat) : Nat := bits e 24 15
def grpNloc (e : Nat) : Nat := bits e 39 10
def grpRbase (e : Nat) : Nat := bits e 49 15
def grpRdy (e : Nat) : Nat := bits e 64 3
def grpRdx (e : Nat) : Nat := bits e 67 3
def grpCourse (e : Nat) : Nat := bits e 70 4
def grpNslot (e : Nat) : Nat := bits e 74 3 + 1
def grpSlen (e : Nat) : Nat := bits e 80 12
def grpGbase (e : Nat) : Nat := bits e 128 46
def grpGlen (e : Nat) : Nat := bits e 192 32
def grpSlotWid (e k : Nat) : Nat := bits e (256 + 32 * k) 13
def grpSlotCourse (e k : Nat) : Nat := bits e (256 + 32 * k + 13) 4
def grpMember (e i : Nat) : Bool := bit e (512 + i)

/-- The accumulator store in MiB per RT, default 128 (Table 9-10). -/
def accStore (l : Entries) : Nat := ((tblFind l 0x10 0).map (bits · 0 9)).getD 128

/-- The scratch window of an RT (Table 9-18): whether it is open, and whether a source of a capo is named. -/
def scratchOpen (l : Entries) (rt : Nat) : Bool := ((tblFind l 0x11 rt).map (bit · 3)).getD false
def scratchNames (l : Entries) (rt src capo : Nat) : Bool :=
  match tblFind l 0x11 rt with
  | none => false
  | some e =>
    (bit e 7 && bits e 8 9 == capo) || (List.range (min (bits e 4 3) 4)).any fun k => bits e (32 + 16 * k) 16 == src

/-- Energy settings (Table 16-1). -/
def elgSet (l : Entries) (lo len dflt : Nat) : Nat := ((tblFind l 0x12 0).map (bits · lo len)).getD dflt
def elgBudget (l : Entries) : Nat := elgSet l 0 12 2400
def elgRamp (l : Entries) : Nat := elgSet l 12 12 300
def elgBallastMax (l : Entries) : Nat := elgSet l 24 10 800
def elgGuard (l : Entries) : Nat := elgSet l 34 8 50
def elgMinDuty (l : Entries) : Nat := elgSet l 42 5 4
def elgCrm (l : Entries) : Bool := elgSet l 47 1 0 == 1
def elgCrDuty (l : Entries) : Nat := elgSet l 48 5 12
def elgRbrate (l : Entries) : Nat := elgSet l 53 7 10
def elgFixed (l : Entries) : Nat := elgSet l 64 12 1600
def elgShare (l : Entries) (c : Nat) : Nat := elgSet l (128 + 16 * c) 16 0

end Sys2Proof.Machine
end

