-- ==== Sys2Proof/Machine/Packets.lean ====
section
/-! DEFINITION. Fabric addresses (R43 to R50), the request header and its check (R52 to R55), SRC identities (R54),
status codes (R62) and completions (R56). -/

namespace Sys2Proof.Machine

open Sys2Proof

/-! Addresses, Table 2-1. -/

def aKind (a : W64) : Nat := wbits a 61 3
def aDy (a : W64) : Nat := wbits a 58 3
def aDx (a : W64) : Nat := wbits a 55 3
def aLy (a : W64) : Nat := wbits a 51 4
def aLx (a : W64) : Nat := wbits a 46 5
def aOff (a : W64) : Nat := wbits a 0 46
/-- OFFSET bit 45 of a control-space address: 1 names a course's switch control space (Table 2-4). -/
def aSwitch (a : W64) : Bool := bit a.toNat 45

/-- An address from its fields. -/
def mkAddr (kind dy dx ly lx off : Nat) : W64 :=
  BitVec.ofNat 64 (kind % 8 * 2 ^ 61 + dy % 8 * 2 ^ 58 + dx % 8 * 2 ^ 55 + ly % 16 * 2 ^ 51 + lx % 32 * 2 ^ 46 + off % 2 ^ 46)

/-- A KIND that Table 2-1 reserves (R44). -/
def kindReserved (a : W64) : Bool := !(aKind a == 0 || aKind a == 2 || aKind a == 3 || aKind a == 4)

/-- Every bit that Tables 2-2 to 2-5 mark zero is zero (R44). -/
def zerosOk (a : W64) : Bool :=
  if aKind a == 2 then aLx a == 0
  else if aKind a == 3 then
    (if bit a.toNat 50 then wbits a 52 3 == 0 else wbits a 46 4 == 0)
  else if aKind a == 4 then (if aSwitch a then wbits a 47 4 == 0 else true)
  else true

/-- The tier of a switch-resident offset, Table 2-2: 0 A, 1 B, 2 C; none in the gaps. -/
def tierOf (off : Nat) : Option Nat :=
  if off < 0x006000000000 then some 0
  else if off < 0x008000000000 then none
  else if off < 0x038000000000 then some 1
  else if off < 0x040000000000 then none
  else if off < 0x080000000000 then some 2
  else none

/-- The scratch windows of a course (R97): at 0x0800_0000_0000 + m × 2^32 + n × 2^29. -/
def scratchWin (off : Nat) : Option (Nat × Nat × Nat) :=
  if 0x080000000000 ≤ off ∧ off < 0x080200000000 then
    some ((off - 0x080000000000) / 2 ^ 32, (off % 2 ^ 32) / 2 ^ 29, off % 2 ^ 29)
  else none

/-- The member that owns a page of a course: OFFSET bit 12, 1 for B (R48). -/
def ownerB (off : Nat) : Bool := bit off 12

/-! SRC, Table 2-6. -/

def srcIsLeaf (src : Nat) : Bool := !bit src 15
def srcDy (src : Nat) : Nat := bits src 12 3
def srcDx (src : Nat) : Nat := bits src 9 3
def srcLy (src : Nat) : Nat := bits src 5 4
def srcLx (src : Nat) : Nat := bits src 0 5
def srcCourse (src : Nat) : Nat := bits src 5 4
def srcMemberB (src : Nat) : Bool := bit src 4
/-- 0 the Kojor itself, 1–4 host port 0–3 of HX0, 5–8 host port 0–3 of HX1. -/
def srcUnit (src : Nat) : Nat := bits src 0 4
def srcIsHost (src : Nat) : Bool := bit src 15 && decide (1 ≤ srcUnit src ∧ srcUnit src ≤ 8)
def mkLeafSrc (dy dx ly lx : Nat) : Nat := dy % 8 * 4096 + dx % 8 * 512 + ly % 16 * 32 + lx % 32
def mkKojorSrc (dy dx c : Nat) (memberB : Bool) (unit : Nat) : Nat :=
  32768 + dy % 8 * 4096 + dx % 8 * 512 + c % 16 * 32 + (if memberB then 16 else 0) + unit % 16

/-- This Kojor's own SRC, and that of its PCIe port p. -/
def mySrc (s : State) : Nat := mkKojorSrc (site s).dy (site s).dx (site s).course (site s).memberB 0
def hostSrc (s : State) (p : Nat) : Nat := mkKojorSrc (site s).dy (site s).dx (site s).course (site s).memberB (p + 1)

/-! The request header, Table 2-5. -/

/-- The reserved header bits: [15], [47:45], [159:140] and [479:352]. -/
def hdrReserved : Nat := 2 ^ 15 + 7 * 2 ^ 45 + (2 ^ 20 - 1) * 2 ^ 140 + (2 ^ 128 - 1) * 2 ^ 352

/-- Bits [479:0] of a request header. `rsvd` holds reserved bits at their own places. -/
def hdrBits (r : Req) : Nat :=
  r.op % 256 + r.tc % 8 * 2 ^ 8 + ofB r.final * 2 ^ 11 + ofB r.vc * 2 ^ 12 + ofB r.retry * 2 ^ 13 + ofB r.poison * 2 ^ 14
    + r.src % 65536 * 2 ^ 16 + r.capo % 512 * 2 ^ 32 + r.hops % 16 * 2 ^ 41 + r.seq % 2 ^ 24 * 2 ^ 48 + r.epoch % 65536 * 2 ^ 72
    + r.expect % 65536 * 2 ^ 88 + r.len % 8192 * 2 ^ 104 + r.attr % 2048 * 2 ^ 117 + r.group % 4096 * 2 ^ 128
    + r.addr.toNat * 2 ^ 160 + r.op0.toNat * 2 ^ 224 + r.op1.toNat * 2 ^ 288 + (r.rsvd &&& hdrReserved)

/-- CRC-32C over bits [479:0] (R55). -/
def hdrCrc (r : Req) : W32 := crc32c (leBytes 60 (hdrBits r))

/-- Whether a header passes its check (R55). -/
def hdrOk (r : Req) : Bool := decide (r.hcrc = hdrCrc r)

/-- A request with its check recomputed (R55). -/
def sealReq (r : Req) : Req := { r with hcrc := hdrCrc r }

/-- The check a duplicate entry keeps: HCRC as if RETRY were 0 (R72). -/
def dupCrc (r : Req) : W32 := hdrCrc { r with retry := false }

/-! The completion header, Table 2-9, with the codes of Table 2-10. -/

def statusCode : Status → Nat
  | .ok => 0 | .retry => 1 | .accDenied => 2 | .accSplit => 3 | .unreachable => 4 | .poison => 5 | .collMismatch => 6
  | .timeout => 7 | .partialMcast => 8 | .energyDefer => 9 | .xlateFault => 10 | .eccUncorr => 11 | .capoViolation => 12
  | .duplicate => 13

/-- Bits [479:0] of a completion's header flit: OPCODE 0x3F and the fields of Table 2-9, its reserved bits zero (R56). -/
def cmpBits (c : Cmp) : Nat :=
  0x3F + c.tc % 8 * 2 ^ 8 + statusCode c.status * 2 ^ 12 + c.src % 65536 * 2 ^ 16 + c.dst % 65536 * 2 ^ 32 + c.seq % 2 ^ 24 * 2 ^ 48
    + c.epoch % 65536 * 2 ^ 72 + c.origOp % 256 * 2 ^ 88 + c.len % 8192 * 2 ^ 96 + c.capo % 512 * 2 ^ 109
    + statusCode c.origStatus * 2 ^ 124 + c.result.toNat * 2 ^ 128 + c.mask % 2 ^ 32 * 2 ^ 192 + c.delivered % 64 * 2 ^ 224
    + c.retryAfter % 65536 * 2 ^ 240 + c.errAddr.toNat * 2 ^ 256 + c.sigOp % 256 * 2 ^ 320 + c.sigFmt % 16 * 2 ^ 328
    + c.sigCount % 2 ^ 32 * 2 ^ 332 + c.sigGepoch % 65536 * 2 ^ 364 + c.conflict % 65536 * 2 ^ 384 + c.reqAddr.toNat * 2 ^ 400

/-- HCRC of a completion: CRC-32C over bits [479:0], as for a request (R55, R56). -/
def cmpCrc (c : Cmp) : W32 := crc32c (leBytes 60 (cmpBits c))

/-- The header flit of a completion: its 512 bits. -/
def cmpFlit (c : Cmp) : Nat := cmpBits c + (cmpCrc c).toNat * 2 ^ 480

/-- Whether the HCRC that a completion's header carries is right (R55). -/
def cmpOk (c : Cmp) (h : W32) : Bool := decide (h = cmpCrc c)

/-- Bits [479:0] of a bulk header flit, Table 6-5 (R184). -/
def bulkBits (h : BulkHdr) : Nat :=
  h.bytes % 2 ^ 17 + h.count % 256 * 2 ^ 17 + ofB h.vc * 2 ^ 25 + h.tc % 8 * 2 ^ 26 + h.fromDy % 8 * 2 ^ 32 + h.fromDx % 8 * 2 ^ 35
    + h.toDy % 8 * 2 ^ 38 + h.toDx % 8 * 2 ^ 41 + h.course % 16 * 2 ^ 44 + ofB h.memberB * 2 ^ 48 + h.dir % 4 * 2 ^ 49 + h.time % 2 ^ 64 * 2 ^ 64

/-- BCRC of a bulk header flit: as R55 (Table 6-5). -/
def bulkCrc (h : BulkHdr) : W32 := crc32c (leBytes 60 (bulkBits h))

/-- A bulk header flit: its 512 bits. -/
def bulkFlit (h : BulkHdr) : Nat := bulkBits h + (bulkCrc h).toNat * 2 ^ 480

/-- Bits [479:0] of a harmonic analysis flit, Table 5-8 (R159). -/
def harmBits (c : HarmCopy) : Nat :=
  c.time % 2 ^ 64 + c.sxn % 4 * 2 ^ 64 + c.point % 8 * 2 ^ 66 + c.port % 256 * 2 ^ 69 + c.filter % 8 * 2 ^ 77 + ofB c.trunc * 2 ^ 80
    + c.drops % 2 ^ 32 * 2 ^ 96

/-- A harmonic analysis flit with its ACRC (Table 5-8). -/
def harmFlit (c : HarmCopy) : Nat := harmBits c + (crc32c (leBytes 60 (harmBits c))).toNat * 2 ^ 480

/-- Payload flits of a request, Table 2-7: stores carry ceil(LENGTH / 64), a copy descriptor one. -/
def reqFlits (r : Req) : Nat :=
  if r.op = 0x02 ∨ r.op = 0x20 ∨ r.op = 0x21 ∨ r.op = 0x28 then (r.len + 63) / 64 else if r.op = 0x38 then 1 else 0

/-- Flits of a packet, header included (R52, R56). -/
def pktFlits : Pkt → Nat
  | .req r => 1 + reqFlits r
  | .cmp c _ => 1 + (if c.status = .ok ∧ c.origOp = 0x01 then (c.len + 63) / 64 else 0)

/-- The buffer cells of a packet: ceil(flits × 64 / 256) (R137). -/
def pktCells (p : Pkt) : Nat := (pktFlits p * 64 + 255) / 256

def pktTc : Pkt → Nat
  | .req r => r.tc
  | .cmp c _ => c.tc
def pktCapo : Pkt → Nat
  | .req r => r.capo
  | .cmp c _ => c.capo
def pktSeq : Pkt → Nat
  | .req r => r.seq
  | .cmp c _ => c.seq
/-- The domain a packet is bound for: ADDR of a request, DST of a completion (R162). -/
def pktDy : Pkt → Nat
  | .req r => aDy r.addr
  | .cmp c _ => srcDy c.dst
def pktDx : Pkt → Nat
  | .req r => aDx r.addr
  | .cmp c _ => srcDx c.dst
/-- Whether a packet passes the header check (R55). -/
def pktOk : Pkt → Bool
  | .req r => hdrOk r
  | .cmp c h => cmpOk c h

/-! Opcode classes, Table 2-7. -/

def opIsAtomic (op : Nat) : Bool := decide (0x10 ≤ op ∧ op ≤ 0x19)
def opIsRed (op : Nat) : Bool := op == 0x20 || op == 0x21
def opIsFlag (op : Nat) : Bool := op == 0x30 || op == 0x31 || op == 0x32
def opKnown (op : Nat) : Bool :=
  op == 1 || op == 2 || opIsAtomic op || opIsRed op || op == 0x28 || opIsFlag op || op == 0x34 || op == 0x38 || op == 0x3C || op == 0x3E
/-- The opcodes marked idempotent in Table 2-7. -/
def opIdem (op : Nat) : Bool := op == 1 || op == 2 || op == 0x28 || opIsFlag op || op == 0x3C || op == 0x3E
/-- Writes counted for final requests: ST, MST, atomics, RST, RSTX, FSET and FCLR (R70). -/
def opIsWrite (op : Nat) : Bool := op == 2 || op == 0x28 || opIsAtomic op || opIsRed op || op == 0x30 || op == 0x31
/-- The opcodes marked Y in the Mirrored column of Table 2-7. -/
def opMirrored (op : Nat) : Bool :=
  op == 2 || opIsAtomic op || opIsRed op || op == 0x30 || op == 0x31 || op == 0x34 || op == 0x38 || op == 0x3C || op == 0x3E

/-! The destination identity of a request (R67), and completions (R56). -/

def destOf (a : W64) : Dest :=
  if aKind a == 2 || (aKind a == 4 && aSwitch a) then .course (aDy a) (aDx a) (aLy a)
  else if aKind a == 3 then
    .set (aDy a) (aDx a) (bit a.toNat 50) (if bit a.toNat 50 then wbits a 46 4 + 16 * wbits a 51 1 else aLy a)
  else .leaf (aDy a) (aDx a) (aLy a) (aLx a)

/-- The completion of a request from a responder, with a status. -/
def cmpOf (r : Req) (responder : Nat) (st : Status) : Cmp :=
  { tc := r.tc, status := st, src := responder, dst := r.src, seq := r.seq, epoch := r.epoch, origOp := r.op,
    capo := r.capo, reqAddr := r.addr }

end Sys2Proof.Machine
end

