-- ==== Sys2Proof/Config.lean ====
section
/-! DEFINITION. What the manual leaves open and what one package fixes: constants without a body, so that nothing can
be proved of their values. -/

namespace Sys2Proof

/-- A bit the manual does not determine, numbered by the draw (see notes/assumptions/3). -/
opaque Config.freeBits : Nat → W64

/-- CODE of an event within its scroll class (Table 19-5): the manual gives no numbers (log entry 5). -/
opaque Config.scrollCode : ScrollEv → BitVec 16

/-- How an entry's DETAIL holds the values it records (Table 19-5), where no table lays them out (log entry 5). -/
opaque Config.scrollDetail : ScrollEv → List Nat → BitVec 192

/-- The bank in which the first cell of a packet is placed, by SX, input port and arrival stamp: the manual says only that successive cells
stand in different banks (R137, log entry 177). -/
opaque Config.firstBank (sx port stamp : Nat) : Nat

/-- The rounding of half a nanosecond in the lead's count at arrival (R31): the manual gives no rule (log entry 6). -/
opaque Config.halfUp : Bool

/-- What the boot flash holds of an image, A or B: word 0 is MC_FW (Table 20-7), words 1 to 3 the digests of Rilash, the binder and
the peg firmware (Table 18-8). The manual gives none of them (log entry 61). -/
opaque Config.image : Bool → Nat → Nat

/-- The package's fused unique secret (R490, log entry 186). -/
opaque Config.uniqueSecret : Nat

/-- The device identity key that is derived from the unique secret at manufacture (R490, log entry 186). -/
opaque Config.identityKey (secret : Nat) : Nat

/-- The alias key that MC derives from the unique secret and the digests of the MC image, the binder and the peg firmware: the manual
names no derivation (R490, log entry 186). -/
opaque Config.aliasKey (secret mcImage binder peg : Nat) : Nat

/-- The ECDSA P-384 signature of a message under a key (R489): its value depends on a random number (log entry 186). -/
opaque Config.sign (key : Nat) (message : List Nat) : Nat

/-- The counter that an entry of the snapshot directory describes (R502): the manual gives no order (log entry 62). -/
opaque Config.snapDir : Nat → Option (CtrName × List Nat)

/-- SNAP_COUNT: the directory entries in use (Table 20-11, log entry 62). -/
opaque Config.snapCount : BitVec 20

/-- The value that IDCODE shifts out (R515): the manual gives none (log entry 63). -/
opaque Config.idcode : W32

/-- What a register field reads of a value num / den that lies between two it can hold, or beyond them (log entry 64). -/
opaque Config.nearest (num : Int) (den : Nat) : Int

/-- The number of domains other than the root whose NLOC is not zero, by group and capo (R293): no field of Table 10-3
gives it to the root's Kojor (log entry 33). -/
opaque Config.otherDomains : Nat → Nat → Nat

/-- What a Brola knows of a group's slot window on another course, by course and WID: page of BASE in bits [33:0], FMT in [37:34],
exact in [38], fixed by the first arrival in [39], ROP in [41:40] (R299): no rule says how it learns them (log entry 55). -/
opaque Config.slotWindow : Nat → Nat → W64

end Sys2Proof
end

