-- ==== Sys2Proof/Machine/Scroll.lean ====
section
/-! DEFINITION. The scroll (R509 to R512, R551) and alarms (R529). -/

namespace Sys2Proof.Machine

open Sys2Proof

/-- The die sites of Table 19-5, coded as ELG_THERM.SITE (Table 16-9). -/
def siteSX (n : Nat) : Nat := n
def siteOX (n : Nat) : Nat := 4 + n
def siteRT (n : Nat) : Nat := 12 + n
def siteHB (n : Nat) : Nat := 20 + n
def siteHX (n : Nat) : Nat := 28 + n
def siteMC (s : State) : Nat := if s.mc.active1 then 31 else 30

/-- CODE of an entry: the event's, or the suppressed class for a summary (R511). -/
def entryCode (e : ScrollEntry) : Nat :=
  match e.sub with
  | some (c, _) => c
  | none => (Config.scrollCode e.ev).toNat

/-- DETAIL of an entry: its record, or the suppressed CODE for a summary (R511). -/
def entryDetail (e : ScrollEntry) : Nat :=
  match e.sub with
  | some (_, ev) => (Config.scrollCode ev).toNat
  | none => (Config.scrollDetail e.ev e.args).toNat

/-- Bits [383:0] of an entry, Table 19-5. -/
def entryBody (e : ScrollEntry) : Nat :=
  e.seq % 2 ^ 32 + (e.time % 2 ^ 64) * 2 ^ 32 + (e.rtc % 2 ^ 32) * 2 ^ 96 + (e.site % 32) * 2 ^ 128
    + (if e.capo.isSome then 2 ^ 133 else 0) + (e.capo.getD 0 % 512) * 2 ^ 134 + (e.cls % 256) * 2 ^ 144
    + (entryCode e % 2 ^ 16) * 2 ^ 152 + (e.count % 2 ^ 24) * 2 ^ 168 + (entryDetail e % 2 ^ 192) * 2 ^ 192

/-- The 512 bits of an entry with its MAC, Table 19-5. -/
def entryBits (e : ScrollEntry) : Nat := entryBody e + e.mac.toNat * 2 ^ 384

/-- The scroll key of the segment (R551): HMAC-SHA-384 under the key register over SCROLL and the first SEQ. -/
def scrollKey (kreg : List Byte) (segFirst : Nat) : List Byte :=
  hmac384 kreg ([0x53, 0x43, 0x52, 0x4f, 0x4c, 0x4c] ++ leBytes 4 segFirst)

/-- The MAC of an entry (R510): over the MAC before it and bits [383:0]. -/
def entryMac (kreg : List Byte) (segFirst : Nat) (prev : BitVec 128) (e : ScrollEntry) : BitVec 128 :=
  BitVec.ofNat 128 (ofLe ((hmac384 (scrollKey kreg segFirst) (leBytes 16 prev.toNat ++ leBytes 48 (entryBody e))).take 16))

/-- The entry with the next SEQ and its MAC; zero while the key register holds no key (R510, R551). -/
def sealEntry (s : State) (e : ScrollEntry) : ScrollEntry :=
  let e := { e with seq := s.tel.seq }
  match s.sec.kreg with
  | none => { e with mac := 0 }
  | some k => { e with mac := entryMac k s.tel.segFirst (if s.tel.seq = s.tel.segFirst then 0 else s.tel.lastMac) e }

/-- An entry in the tail of both AON islands, or in the active MC while every place holds an entry not yet archived;
the archive lags from 896 such entries on (R509). -/
def tailPush (t : Tel) (e : ScrollEntry) : Tel :=
  if t.unarchived ≥ 1024 then { t with waitQ := t.waitQ ++ [e] }
  else
    { t with
      tail := (t.tail ++ [e]).drop (t.tail.length + 1 - 1024)
      unarchived := t.unarchived + 1
      lag := t.lag || decide (t.unarchived + 1 ≥ 896) }

/-- Appends an entry: SEQ, MAC and its place (R509, R510). An entry written without a key is appended again under the
next one (R551). -/
def scrollAppend (s : State) (e : ScrollEntry) : State :=
  let e := sealEntry s e
  let t := tailPush s.tel e
  { s with tel := { t with
      seq := (s.tel.seq + 1) % 2 ^ 32
      lastMac := e.mac
      unsealed := if s.sec.kreg.isNone then s.tel.unsealed ++ [e] else s.tel.unsealed } }

/-- The open sessions with the owner or operator role, to which ALARM goes (Table 20-5). -/
def alarmSessions (s : State) : List Nat :=
  (s.sec.sess.filter fun x => x.2.st == 5 && (x.2.role == .owner || x.2.role == .operator)).map (·.1)

/-- The combination an entry belongs to (R511). -/
def scrollCombo (e : ScrollEntry) : Nat × ScrollEv × Nat × Option Nat := (e.cls, e.ev, e.site, e.capo)

/-- Whether an entry is suppressed: 100 of its combination stand in the window, or the archive lags and its class is
neither AON nor security; the first alarm entry of its combination in the window is not (R509, R511). -/
def scrollSuppressed (s : State) (e : ScrollEntry) (alarm : Bool) : Bool :=
  let c := s.tel.winCount.get (scrollCombo e) (0, 0, false)
  (decide (c.1 ≥ 100) || (s.tel.lag && e.cls != 0x0A && e.cls != 0x09)) && !(alarm && !c.2.2)

/-- The bit of a class in MC_ALARM (R529). -/
def setAlarmBit (s : State) (cls : Nat) : State := { s with mc := { s.mc with alarm := s.mc.alarm ||| BitVec.ofNat 11 (2 ^ cls) } }

/-- Writes an event to the scroll, or suppresses and counts it (R509, R511); an alarm sets its MC_ALARM bit and, when
its entry is written, sends ALARM to every open owner and operator session (R529). -/
def scrollEntry (s : State) (e : ScrollEntry) (alarm : Bool) : State :=
  let k := scrollCombo e
  let c := s.tel.winCount.get k (0, 0, false)
  let s := if alarm then setAlarmBit s e.cls else s
  if scrollSuppressed s e alarm then
    bump { s with tel := { s.tel with winCount := s.tel.winCount.set k (c.1, c.2.1 + 1, c.2.2) } } .mcScrollSuppress [e.cls]
  else
    let q := s.tel.seq
    let s := scrollAppend { s with tel := { s.tel with winCount := s.tel.winCount.set k (c.1 + 1, c.2.1, c.2.2 || alarm) } } e
    if alarm then emits s ((alarmSessions s).map fun x => Out.alarm x s.mc.alarm q) else s

/-- The RTC in whole seconds (Table 19-5). -/
def rtcSeconds (s : State) : Nat := s.sec.rtc / 1000000000

/-- An event of a class at a site, written at the present fabric time. -/
def scroll (s : State) (cls : Nat) (ev : ScrollEv) (site : Nat) (args : List Nat := []) (capo : Option Nat := none) : State :=
  scrollEntry s { time := s.clk.now, rtc := rtcSeconds s, site := site, capo := capo, cls := cls, ev := ev, args := args } false

/-- An event that raises an alarm (R529). -/
def alarm (s : State) (cls : Nat) (ev : ScrollEv) (site : Nat) (args : List Nat := []) : State :=
  scrollEntry s { time := s.clk.now, rtc := rtcSeconds s, site := site, cls := cls, ev := ev, args := args } true

end Sys2Proof.Machine
end

