-- ==== Sys2Proof/Machine/Storage.lean ====
section
/-! DEFINITION. Where a switch-resident page lies (R309), which member serves it (R48, R317, R318), and reads and writes
of physical bytes with their poison (R79, R80) and latent errors (R62). -/

namespace Sys2Proof.Machine

open Sys2Proof

/-- The key of a physical byte: target × 2^48 + page × 4,096 + byte. -/
def physKey (target page byte : Nat) : Nat := target * 2 ^ 48 + page * 4096 + byte
def keyTarget (k : Nat) : Nat := k / 2 ^ 48
def keyPage (k : Nat) : Nat := k % 2 ^ 48 / 4096

/-- Targets: HB0–HB7 are 0–7, HX0 and HX1 are 8 and 9, the CXL ports 0–7 are 10–17. -/
def tierBase (tier : Nat) : Nat := if tier = 0 then 0 else if tier = 1 then 8 else 10

/-- The n-th set bit of a place mask, counted from the lowest (R309). -/
def nthSet (w n : Nat) : Nat := ((List.range 8).filter (bit w ·)).getD n 0

/-- Target and physical page of a copy of a page, by the pseudocode of R309. -/
def placeOf (r : Region) (v : Nat) (own : Bool) : Nat × Nat :=
  let i := (v - r.vpage) / 2
  let q := if own then i else r.npages / 2 + i
  let s := popBelow r.place 8
  (tierBase r.tier + nthSet r.place (q % s), r.pbase + q / s)

/-- The key of the byte at a capo-relative offset in a copy. -/
def copyKey (r : Region) (off : Nat) (own : Bool) : Nat :=
  let p := placeOf r (off / 4096) own
  physKey p.1 p.2 (off % 4096)

/-- The capacity of a target in pages: 48 GB of HBM4 (R189), or what start-up found. -/
def targetPages (s : State) (t : Nat) : Nat := s.mem.pages.get t (if t < 8 then 11718750 else 0)

/-- A backing in service (R318). -/
def backUp (s : State) (t : Nat) : Bool := decide (t ∉ s.mem.backOut)

/-- Whether a page missed writes while its backing was out, and is not yet copied back (R318). -/
def pageStale (s : State) (k : Nat) : Bool := decide ((keyTarget k, keyPage k) ∈ s.mem.missed)

/-- Whether this member is the owner of an offset (R48). -/
def isMine (s : State) (off : Nat) : Bool := ownerB off == (site s).memberB

/-- How a request for a mapped page is served: at a key, with or without a mirror write; over the soundpost; not at all. -/
inductive Serve where
  | here (key : Nat) (mirror : Bool)
  | forward
  | unreachable
deriving DecidableEq, Repr

/-- Who serves a page (R48, R316 to R318). A request from the twin for a page of the twin's is served from the mirror copy. -/
def serveAt (s : State) (r : Region) (off : Nat) (fromTwin : Bool) : Serve :=
  let own := copyKey r off true
  let mir := copyKey r off false
  if isMine s off then
    if backUp s (keyTarget own) && !pageStale s own then .here own (r.mir && s.course.twinUp)
    else if r.mir && s.course.twinUp && !fromTwin then .forward
    else .unreachable
  else if s.course.twinUp && !fromTwin then .forward
  else if r.mir && backUp s (keyTarget mir) && !pageStale s mir then .here mir false
  else .unreachable

/-- Populated channels of an HX that are not excluded (R319). -/
def goodChannels (s : State) (hx : Nat) : List Nat :=
  (s.mem.dimms.filter fun d => d.hx == hx && decide ((hx, d.ch) ∉ s.mem.chDeg)).map (·.ch)

/-- The channel that serves a page: interleaved by physical page number (R319; log entry 21). -/
def pageChannel (s : State) (hx page : Nat) : Nat :=
  let l := goodChannels s hx
  l.getD (page % l.length) 0

/-- Counts bytes read or written at a key in the tier B and C counters (Table 11-6). -/
def countBytes (s : State) (k n : Nat) (wr : Bool) : State :=
  let t := keyTarget k
  if t < 8 then s
  else if t < 10 then bump s (if wr then .hxDdrWrBytes else .hxDdrRdBytes) [t - 8, pageChannel s (t - 8) (keyPage k)] n
  else bump s (if wr then .hxCxlWrBytes else .hxCxlRdBytes) [(t - 10) / 4, t - 10] n

/-- An uncorrectable error found at a key: counted and written to the scroll (R320, R323). -/
def memUncorr (s : State) (k : Nat) : State :=
  let t := keyTarget k
  if t < 8 then scroll s 5 .memUncorr (siteHB t) [k]
  else if t < 10 then
    scroll (bump s .hxDdrUncorr [t - 8, pageChannel s (t - 8) (keyPage k)]) 5 .memUncorr (siteHX (t - 8)) [k]
  else scroll (bump s .hxCxlPoison [(t - 10) / 4, t - 10]) 5 .memUncorr (siteHX ((t - 10) / 4)) [k]

/-- The poisoned reads of a CXL port are counted (R323). -/
def countPoison (s : State) (k : Nat) : State :=
  let t := keyTarget k
  if t < 10 then s else bump s .hxCxlPoison [(t - 10) / 4, t - 10]

/-- The words of a range that carry an error no access has found. -/
def latentIn (latent : List Nat) (k n : Nat) : List Nat := (wordsOf k n).filter fun w => decide (w ∈ latent)
def poisonIn (poison : List Nat) (k n : Nat) : List Nat := (wordsOf k n).filter fun w => decide (w ∈ poison)

/-- A list of words with more words marked. -/
def markWords (l ws : List Nat) : List Nat := ws.foldl (fun l w => insertOnce w l) l
def clearWords (l ws : List Nat) : List Nat := l.filter fun w => decide (w ∉ ws)

/-- What an access to n bytes finds (R62): a new uncorrectable error first, else poison; with the word. -/
def findBad (poison latent : List Nat) (k n : Nat) : Option (Status × Nat) :=
  match latentIn latent k n with
  | w :: _ => some (.eccUncorr, w)
  | [] =>
    match poisonIn poison k n with
    | w :: _ => some (.poison, w)
    | [] => none

/-- Physical memory after an access has found the errors of a range: its words are marked poisoned (R62, R80). -/
def physFind (s : State) (k n : Nat) : State :=
  let ws := latentIn s.mem.latent k n
  let s := ws.foldl (fun s w => memUncorr s (w * 8)) s
  { s with mem := { s.mem with poison := markWords s.mem.poison ws, latent := clearWords s.mem.latent ws } }

/-- The 8-byte words of the ECC codeword that holds a word: eight in tier B (R320), the word alone elsewhere (log
entry 22). -/
def codeword (w : Nat) : List Nat :=
  let t := keyTarget (w * 8)
  if t = 8 ∨ t = 9 then (List.range 8).map (· + w / 8 * 8) else [w]

/-- The codewords a write touches only in part that hold a latent error: the words it does not write (R62). -/
def partialFinds (latent ws : List Nat) : List Nat :=
  (ws.flatMap codeword).filter fun w => decide (w ∉ ws) && (codeword w).any fun x => decide (x ∈ latent)

/-- Physical bytes written; the words wholly covered take the poison mark given, and lose latent errors (R62, R80). -/
def physWrite (s : State) (k : Nat) (bs : List Byte) (poison : Bool) : State :=
  let ws := wordsOf k bs.length
  let lost := (partialFinds s.mem.latent ws).eraseDups
  let s := lost.foldl (fun s w => memUncorr s (w * 8)) s
  let s := countBytes s k bs.length true
  let pz := clearWords s.mem.poison ws
  { s with mem := { s.mem with
      phys := Memory.writeN s.mem.phys k bs
      poison := markWords (if poison then markWords pz ws else pz) lost
      latent := clearWords s.mem.latent (ws ++ lost) } }

/-- Bytes written at a member's copy of a page; a page whose backing is out misses them (R318, R391). -/
def homeWrite (s : State) (key : Nat) (bs : List Byte) (poison : Bool) : State :=
  if backUp s (keyTarget key) then physWrite s key bs poison
  else { s with mem := { s.mem with missed := insertOnce (keyTarget key, keyPage key) s.mem.missed } }

/-- Physical bytes of part of one word written, keeping that word's poison mark (an atomic, R79). -/
def physPoke (s : State) (k : Nat) (bs : List Byte) : State :=
  let s := countBytes s k bs.length true
  { s with mem := { s.mem with phys := Memory.writeN s.mem.phys k bs } }

/-- Physical bytes read. -/
def physRead (s : State) (k n : Nat) : List Byte := Memory.readN s.mem.phys k n

/-- A page whose other copy is out of reach served from one copy (R318): counted and written to the scroll. -/
def degraded (s : State) (rid : Nat) : State :=
  scroll (bump s .memDegraded [rid]) 5 .regionDegraded (siteMC s) [rid]

end Sys2Proof.Machine
end

