-- ==== Sys2Proof/Machine/Checks.lean ====
section
/-! DEFINITION. The checks a request meets before it is executed (R63): SRC and capo at the first Kojor (R54, R475,
R287), format (R51, R59 to R61, R121, R325), and the locations of control space (R119, R280). -/

namespace Sys2Proof.Machine

open Sys2Proof

/-! Where a request came in. -/

/-- Strings per leaf and Kojor: k = 16 / K (R105). -/
def stringsPerLeaf (s : State) : Nat := 16 / (site s).k

/-- A bridge string of a domain that uses bridges (R179). -/
def isBridge (s : State) (n : Nat) : Bool := (site s).bridges && decide (448 ≤ n ∧ n < 512)

/-- The leaf index that a string serves (R105). -/
def stringLeaf (s : State) (n : Nat) : Nat := n / stringsPerLeaf s

/-- The SX and the port index (Table 5-1) on which a request came in; requests of this Kojor's own issuers count at
port 135 of SX0 (log entry 23). -/
def viaSx : Via → Nat
  | .string n => n / 128
  | .soundpost p => p / 8
  | .host p => p / 4 * 2
  | .self => 0
  | .brola _ => 0
def viaPort : Via → Nat
  | .string n => n % 128
  | .soundpost p => 128 + p / 4 % 2
  | .host _ => 135
  | .self => 135
  | .brola b => b

/-- Whether this Kojor is the first Kojor the request enters (R54, R181). -/
def isFirst (s : State) : Via → Bool
  | .string n => !isBridge s n
  | .host _ => true
  | .self => true
  | _ => false

def fromTwin : Via → Bool
  | .soundpost _ => true
  | _ => false

/-- SRC matches the arrival string or port, and CAPO its source's capo (step 2 of R63, R54, R252). -/
def srcOk (s : State) (r : Req) (v : Via) : Bool :=
  match v with
  | .string n =>
    let i := stringLeaf s n
    r.src == mkLeafSrc (site s).dy (site s).dx (i / 32) (i % 32) && capoOfLeaf s.prog.eff i == some r.capo
  | .host p => r.src == hostSrc s p && !portIsCxl s.prog.eff p && (portPriv s.prog.eff p || portCapo s.prog.eff p == r.capo)
  | .self => r.src == mySrc s
  | _ => true

/-- Whether an address lies in this domain, and whether a location is of this course (R45, R164). -/
def inDomain (s : State) (a : W64) : Bool := aDy a == (site s).dy && aDx a == (site s).dx
def ownCourse (s : State) (a : W64) : Bool :=
  (aKind a == 2 || (aKind a == 4 && aSwitch a)) && inDomain s a && aLy a == (site s).course

/-- The leaf positions of a multicast address: (position, leaf index) of every present leaf of the capo (R175). -/
def mcastSet (s : State) (a : W64) (capo : Nat) : List (Nat × Nat) :=
  let l := s.prog.eff
  let all := match destOf a with
    | .set _ _ col i => if col then (List.range 16).map fun y => (y, leafIndex y i) else (List.range 32).map fun x => (x, leafIndex i x)
    | _ => []
  all.filter fun p => leafPresent l p.2 && capoOfLeaf l p.2 == some capo

/-- Whether a source may take part in the privileged group it names: a host port named in MEMBERS and assigned PRIV or
to the group's capo (R287). -/
def privOk (s : State) (r : Req) : Bool :=
  match groupEntry s.prog.eff r.group r.capo with
  | none => true
  | some e =>
    if !grpPriv e then true
    else
      srcIsHost r.src && grpMember e (8 * (2 * srcCourse r.src + ofB (srcMemberB r.src)) + (srcUnit r.src - 1))
        && (r.src != hostSrc s (srcUnit r.src - 1) || portPriv s.prog.eff (srcUnit r.src - 1) || portCapo s.prog.eff (srcUnit r.src - 1) == r.capo)

/-- The target leaf, multicast set or group against the source's capo (step 2 of R63, R175, R287). -/
def targetOk (s : State) (r : Req) : Bool :=
  (if inDomain s r.addr && (aKind r.addr == 0 || (aKind r.addr == 4 && !aSwitch r.addr)) then
      capoOfLeaf s.prog.eff (leafIndex (aLy r.addr) (aLx r.addr)) == some r.capo
    else if inDomain s r.addr && aKind r.addr == 3 then !(mcastSet s r.addr r.capo).isEmpty
    else true)
  && (if (opIsRed r.op || r.op == 0x34) && r.group != 0 then privOk s r else true)

/-! Format, step 3 of R63. -/

/-- The ATTR bits that Table 2-8 assigns to an opcode. -/
def attrMask (op : Nat) : Nat :=
  if op = 0x16 ∨ op = 0x17 then 3
  else if 0x10 ≤ op ∧ op ≤ 0x15 then 1
  else if opIsRed op then 63
  else if op = 0x3C then 3
  else if op = 0x3E then 15
  else 0

/-- KINDs that Table 2-7, as R281 extends it, permits. -/
def kindOk (r : Req) : Bool :=
  let k := aKind r.addr
  if r.op = 1 then k == 0 || k == 2
  else if r.op = 2 then k == 0 || k == 2 || (k == 4 && aSwitch r.addr && r.len == 64)
  else if r.op = 0x10 then k == 0 || k == 2 || (k == 4 && r.attr % 2 == 1)
  else if opIsAtomic r.op then k == 0 || k == 2
  else if opIsRed r.op then k == 2
  else if r.op = 0x28 then k == 3
  else if r.op = 0x34 then k == 4 && aSwitch r.addr
  else if r.op = 0x3E then k == 0 || k == 2
  else k == 4

/-- LENGTH and alignment of Table 2-7, and the 4 KiB block of R51. -/
def sizeOk (r : Req) : Bool :=
  let a := r.addr.toNat
  let blk := decide (r.len % 8 = 0 ∧ 8 ≤ r.len ∧ r.len ≤ 4096 ∧ a % 8 = 0 ∧ a % 4096 + r.len ≤ 4096)
  if r.op = 1 ∨ r.op = 2 ∨ r.op = 0x28 then blk
  else if opIsRed r.op then blk && decide (r.len % fmtSize (r.attr % 16) = 0)
  else if r.op = 0x18 then decide (r.len = 4 ∧ a % 4 = 0)
  else if r.op = 0x19 then decide (r.len = 2 ∧ a % 2 = 0)
  else if opIsAtomic r.op then
    decide (r.len = (if r.attr % 2 = 1 then 8 else 4) ∧ a % r.len = 0)
  else if opIsFlag r.op || r.op == 0x34 then decide (r.len = 8 ∧ a % 8 = 0)
  else if r.op = 0x38 then decide (r.len = 64 ∧ a % 64 = 0)
  else if r.op = 0x3C then decide (r.len = 0 ∧ a % 8 = 0)
  else decide (r.len = 0 ∧ a % 4096 = 0)

/-- Reserved FMT, ROP, SCOPE and ADVICE values (R59, Table 11-3). -/
def codesOk (r : Req) : Bool :=
  if opIsRed r.op then decide (r.attr % 16 ≤ 6 ∧ r.attr / 16 % 4 ≤ 2)
  else if r.op = 0x3C then decide (r.attr % 4 ≤ 2)
  else if r.op = 0x3E then decide (r.attr % 16 ≤ 2)
  else true

/-- The fields of a copy descriptor, Table 2-11. -/
structure CopyDesc where
  src : W64
  dst : W64
  len : Nat
  ctr : Nat
  inc : Nat
  tc : Nat
deriving DecidableEq, Repr

/-- The descriptor in a CPYD's payload flit; an increment of zero means 1. -/
def copyDesc (r : Req) : CopyDesc :=
  let d := ofLe (r.data.take 64)
  { src := BitVec.ofNat 64 (bits d 0 64), dst := BitVec.ofNat 64 (bits d 64 64), len := bits d 128 36, ctr := bits d 176 16,
    inc := if bits d 192 32 = 0 then 1 else bits d 192 32, tc := bits d 224 3 }

/-- A descriptor that keeps Table 2-11. -/
def copyDescOk (r : Req) : Bool :=
  let d := ofLe (r.data.take 64)
  let c := copyDesc r
  (aKind c.src == 0 || aKind c.src == 2) && (aKind c.dst == 0 || aKind c.dst == 2)
    && decide (c.src.toNat % 8 = 0 ∧ c.dst.toNat % 8 = 0 ∧ c.len % 8 = 0 ∧ 8 ≤ c.len)
    && bits d 164 12 == 0 && bits d 227 285 == 0

/-- Whether a descriptor's destination and counter are the responder's (R121). -/
def copyHere (s : State) (w : Party) (r : Req) : Bool :=
  let c := copyDesc r
  match w with
  | .brola => aKind c.dst == 0 && destOf c.dst == destOf r.addr
  | .kojor => aKind c.dst == 2 && ownCourse s c.dst

/-- The conditions of R325 on a PFA. -/
def pfaOk (r : Req) : Bool :=
  let a := r.addr.toNat
  let d := r.op0.toNat
  let n := r.op1.toNat
  aKind r.addr == 2 && aKind r.op0 == 2 && destOf r.addr == destOf r.op0
    && decide (a % 8192 = d % 8192 ∧ 0 < n ∧ n % 8192 = 0 ∧ n ≤ 2 ^ 30)
    && (if r.attr % 16 = 0 then decide (a + n ≤ d ∨ d + n ≤ a) else a == d)

/-- The format check of R61; `here` says that a copy descriptor's destination is the addressee's. -/
def formatFits (here : Bool) (r : Req) : Bool :=
  opKnown r.op && r.rsvd &&& hdrReserved == 0 && r.attr &&& attrMask r.op == r.attr
    && (!r.final || r.op == 2 || r.op == 0x30) && (r.final || r.expect == 0)
    && (r.group == 0 || opIsRed r.op || r.op == 0x34)
    && codesOk r && sizeOk r && (kindReserved r.addr || kindOk r)
    && (r.op != 0x38 || (copyDescOk r && here)) && (r.op != 0x3E || kindReserved r.addr || pfaOk r)

/-- The format check of R61 at a responder. -/
def formatOk (s : State) (w : Party) (r : Req) : Bool := formatFits (copyHere s w r) r

/-! Control space. -/

/-- A location of switch control space, Table 10-1. -/
inductive SwLoc where
  | flag (f : Nat)
  | ctr (k : Nat)
  | bar (g : Nat)
  | win (w word : Nat)
  | grp (g word : Nat)
  | copyQ
  | progQ
deriving DecidableEq, Repr

/-- The location at OFFSET [44:0] (R280); none where no location lies. -/
def swLoc (off : Nat) : Option SwLoc :=
  if off < 0x80000 then some (.flag (off / 8))
  else if off < 0x100000 then some (.ctr ((off - 0x80000) / 8))
  else if off < 0x108000 then some (.bar ((off - 0x100000) / 8))
  else if 0x110000 ≤ off ∧ off < 0x130000 then some (.win ((off - 0x110000) / 16) ((off - 0x110000) / 8 % 2))
  else if 0x140000 ≤ off ∧ off < 0x1C0000 then some (.grp ((off - 0x140000) / 128) ((off - 0x140000) / 8 % 16))
  else if off = 0x1C0000 then some .copyQ
  else if off = 0x1D0000 then some .progQ
  else none

/-- The SX or MC that holds a location (R282): 0–3 an SX, 4 the active MC. -/
def swHolder : SwLoc → Nat
  | .flag f => f % 4
  | .ctr k => k % 4
  | .bar g => g % 4
  | .win w _ => w % 4
  | _ => 4

/-- Whether a location accepts an opcode (Table 10-1, R281, R314). An INV with SCOPE 0b10 of a host port is accepted at
any location (log entry 24). -/
def swAccepts (l : SwLoc) (r : Req) : Bool :=
  if r.op = 0x3C then r.attr % 4 == 2 && srcIsHost r.src
  else
    match l with
    | .flag _ => opIsFlag r.op
    | .ctr _ => r.op == 0x32 || r.op == 0x31 || r.op == 0x10
    | .bar _ => r.op == 0x34 || r.op == 0x32
    | .win _ _ => r.op == 0x32
    | .grp _ _ => r.op == 0x32
    | .copyQ => r.op == 0x38
    | .progQ => r.op == 2

/-- A location of leaf control space, Table 4-2. -/
inductive LfLoc where
  | flag (f : Nat)
  | ctr (k : Nat)
  | err (k word : Nat)
  | copyQ
  | ident (word : Nat)
deriving DecidableEq, Repr

def lfLoc (off : Nat) : Option LfLoc :=
  if off < 0x10000 then some (.flag (off / 8))
  else if off < 0x90000 then some (.ctr ((off - 0x10000) / 8))
  else if off < 0x190000 then some (.err ((off - 0x90000) / 16) ((off - 0x90000) / 8 % 2))
  else if off = 0x190000 then some .copyQ
  else if 0x1B0000 ≤ off ∧ off < 0x1B1000 then some (.ident ((off - 0x1B0000) / 8))
  else none

/-- Whether a leaf location accepts an opcode (Table 4-2, R120). An INV of a host port with SCOPE 0b10 is denied there
unless the source is a host port (Table 2-12). -/
def lfAccepts (l : LfLoc) (r : Req) : Bool :=
  match l with
  | .flag _ => opIsFlag r.op || (r.op == 0x3C && (r.attr % 4 != 2 || srcIsHost r.src))
  | .ctr _ => r.op == 0x32 || r.op == 0x31 || r.op == 0x10
  | .err _ w => r.op == 0x32 || (r.op == 0x31 && w == 0)
  | .copyQ => r.op == 0x38
  | .ident _ => r.op == 0x32

/-! What each status needs besides (Table 2-9). -/

/-- A completion with the first failing byte. -/
def cmpErr (r : Req) (responder : Nat) (st : Status) (err : W64) : Cmp := { cmpOf r responder st with errAddr := err }

/-- A completion with RETRY_AFTER in µs. -/
def cmpLater (r : Req) (responder : Nat) (st : Status) (us : Nat) : Cmp := { cmpOf r responder st with retryAfter := us }

end Sys2Proof.Machine
end

