-- ==== Sys2Proof/Machine/Routes.lean ====
section
/-! DEFINITION. Links as the switch sees them, and the route of a packet (R162 to R167, R181, R182, R282). -/

namespace Sys2Proof.Machine

open Sys2Proof

/-! Links and dies. -/

def linkOf (s : State) (x : Nat) : Link := s.links.get x {}
def setLink (s : State) (x : Nat) (l : Link) : State := { s with links := s.links.set x l }

/-- A string is Ready at stage 9 (Table 13-6). -/
def strReady (s : State) (x : Nat) : Bool := (linkOf s x).stage == 9

/-- The four strings of a soundpost port 128 or 129 of an SX (R386, R535). -/
def soundpostStrings (sx port : Nat) : List Nat := (List.range 4).map (· + 512 + 4 * (2 * sx + (port - 128)))
def soundpostReady (s : State) (sx port : Nat) : Bool := (soundpostStrings sx port).any (strReady s)

/-- The number of a die-to-die link (Table 1-2): 0–5 SX–SX, 6–13 SX–OX, 14–21 SX–RT, 22–25 SX–HX, 26–29 HX–MC,
30–37 RT–HB. -/
def d2dSxSx (a b : Nat) : Nat :=
  let lo := min a b
  let hi := max a b
  if lo = 0 then hi - 1 else if lo = 1 then hi + 1 else 5
def d2dDown (s : State) (i : Nat) : Bool := (s.pwr.d2d.get i {}).st == 2
def pdIsOn (s : State) (n : Nat) : Bool := bit s.pwr.pdOn.toNat n

/-- Whether two SX dies are joined by a link that carries traffic (R41). -/
def sxJoined (s : State) (a b : Nat) : Bool := pdIsOn s a && pdIsOn s b && !d2dDown s (d2dSxSx a b)

/-- The port of SX a toward SX b: 130–132 for the other three in ascending number (Table 5-1). -/
def peerPort (a b : Nat) : Nat := 130 + (if b < a then b else b - 1)

/-- The SX at the far end of a peer port. -/
def peerOf (a port : Nat) : Nat := if port - 130 < a then port - 130 else port - 130 + 1

/-- The port that leads from one SX to another: direct, or through a third SX while the direct link is down (R166). -/
def toward (s : State) (a b : Nat) : Option Nat :=
  if sxJoined s a b then some (peerPort a b)
  else ((List.range 4).find? fun c => c != a && c != b && sxJoined s a c && sxJoined s c b).map (peerPort a)

/-! Routes. -/

/-- Where a packet goes: an SX and port with the VC it carries there (port 255: that SX itself consumes it); nowhere;
another course of this domain. -/
inductive RouteRes where
  | to (sx port : Nat) (vc : Bool)
  | lost
  | misroute
deriving DecidableEq, Repr

/-- Whether the link of an SX to its HX carries traffic (Table 1-13). -/
def hxLinked (s : State) (sx : Nat) : Bool := pdIsOn s sx && !d2dDown s (22 + sx)

/-- The SX that reaches an HX: the present one when it is linked to it (Table 1-1); with that link down the HX's other SX (R41). -/
def hxSx (s : State) (sx hx : Nat) : Nat :=
  if sx / 2 = hx && hxLinked s sx then sx else ([2 * hx, 2 * hx + 1].find? (hxLinked s)).getD (2 * hx)

/-- The soundpost port for a packet (R163): the Ready port at position SEQ mod their count, of this SX, or of the
lowest-numbered SX that has one. -/
def soundpostRoute (s : State) (sx seq : Nat) : RouteRes :=
  let at_ := fun n => [128, 129].filter (soundpostReady s n)
  match (sx :: List.range 4).find? fun n => !(at_ n).isEmpty with
  | none => .lost
  | some n => .to n ((at_ n).getD (seq % (at_ n).length) 128) false

/-- The leaf strings of a leaf index that are Ready, in order of n (R163): an index beyond the domain's leaves has none (R105, R179). -/
def readyStrings (s : State) (i : Nat) : List Nat :=
  ((List.range (stringsPerLeaf s)).map (· + i * stringsPerLeaf s)).filter fun n => decide (n < 512) && !isBridge s n && strReady s n

def leafRoute (s : State) (sx i seq : Nat) (fromSp : Bool) : RouteRes :=
  let c := readyStrings s i
  if c.isEmpty then (if s.course.twinUp && !fromSp then soundpostRoute s sx seq else .lost)
  else
    let n := c.getD (seq % c.length) 0
    .to (n / 128) (n % 128) false

/-- Cells queued on one list of an output queue. -/
def qCells (s : State) (sx port cls : Nat) (vc : Bool) : Nat :=
  ((s.sw.queues.get (sx, port, cls, vc) []).map (·.cells)).sum

/-- One step round a ring of n (R181): 0 none, 1 positive, 2 negative. -/
def ringStep (a b n : Nat) : Nat :=
  let f := (b + n - a) % n
  if f = 0 then 0 else if 2 * f ≤ n then 1 else 2

/-- The direction of a packet for D(dy,dx): 0 +X, 1 −X, 2 +Y, 3 −Y (R181, Table 6-5). -/
def bridgeDir (s : State) (dy dx : Nat) : Nat :=
  let x := ringStep (site s).dx dx (site s).w
  if x ≠ 0 then x - 1 else ringStep (site s).dy dy (site s).h + 1

/-- Whether the next hop in a direction crosses the date line of its ring (R182). -/
def crossesDate (s : State) (dir : Nat) : Bool :=
  let t := site s
  if dir = 0 then t.dx == t.w - 1 else if dir = 1 then t.dx == 0 else if dir = 2 then t.dy == t.h - 1 else t.dy == 0

/-- The direction of the bridge string on which a packet came in, if it did (Table 6-4): the string's own direction. -/
def bridgeIn (s : State) (sx port : Nat) : Option Nat :=
  if port < 128 && isBridge s (128 * sx + port) then some ((128 * sx + port - 448) / 16) else none

/-- Whether a packet goes on in the ring it came in on: one that turns to the other ring leaves its channel behind (R182). -/
def sameRing (inDir : Option Nat) (dir : Nat) : Bool := match inDir with
  | some d => d / 2 == dir / 2
  | none => true

/-- VC after the next hop (R182): 1 from the date line to the end of the ring, 0 on entering the Y ring. -/
def vcNext (s : State) (inDir : Option Nat) (dir : Nat) (vcIn : Bool) : Bool :=
  crossesDate s dir || (vcIn && sameRing inDir dir)

/-- A request that has taken W div 2 + H div 2 hops is not sent again (R182). -/
def hopsSpent (s : State) : Pkt → Bool
  | .req r => decide (r.hops = (site s).w / 2 + (site s).h / 2)
  | .cmp _ _ => false

/-- A bridge string in the packet's direction, or the twin's over the soundpost, which enters the ring from there: a packet that turns
carries VC 0 to it (R181, R182). -/
def bridgeRoute (s : State) (sx : Nat) (g : Org) (p : Pkt) : RouteRes :=
  let fromSp := decide (g.port = 128 ∨ g.port = 129)
  if !(site s).bridges || hopsSpent s p then .lost
  else
    let dir := bridgeDir s (pktDy p) (pktDx p)
    let inDir := bridgeIn s g.sx g.port
    let vc := vcNext s inDir dir g.vc
    let c := ((List.range 16).map (· + 448 + 16 * dir)).filter (strReady s)
    match c with
    | [] =>
      if s.course.twinUp && !fromSp then
        match soundpostRoute s sx (pktSeq p) with
        | .to n port _ => .to n port (g.vc && sameRing inDir dir)
        | r => r
      else .lost
    | n :: t =>
      let q := fun m => qCells s 3 (m - 384) (pktTc p) vc
      let m := t.foldl (fun b m => if q m < q b then m else b) n
      .to 3 (m - 384) vc

/-- The port of the die that holds a target: an RT for its stack, an HX for DDR5 and CXL (R164). -/
def targetRoute (s : State) (sx t : Nat) : RouteRes :=
  if t < 8 then .to (t / 2) (133 + t % 2) false
  else if t < 10 then .to (hxSx s sx (t - 8)) 135 false
  else .to (hxSx s sx ((t - 10) / 4)) 135 false

/-- The place of a request for this course (R164, R282); a request that no location answers is answered at this SX. -/
def courseRoute (s : State) (sx : Nat) (r : Req) (fromSp : Bool) : RouteRes :=
  if aKind r.addr == 4 then
    if bit (aLx r.addr) 0 != (site s).memberB && s.course.twinUp && !fromSp then soundpostRoute s sx r.seq
    else
      match swLoc (aOff r.addr % 2 ^ 45) with
      | none => .to sx 255 false
      | some l => if swHolder l < 4 then .to (swHolder l) 255 false else .to sx 135 false
  else
    match scratchWin (aOff r.addr) with
    | some (m, n, _) =>
      if (m == 1) == (site s).memberB then .to (n / 2) (133 + n % 2) false
      else if fromSp then .to sx 255 false else soundpostRoute s sx r.seq
    | none =>
      match regionAt s.prog.eff r.capo (aOff r.addr / 4096) with
      | none => .to sx 255 false
      | some g =>
        match serveAt s g (aOff r.addr) fromSp with
        | .here k _ => targetRoute s sx (keyTarget k)
        | .forward => soundpostRoute s sx r.seq
        | .unreachable => .to sx 255 false

/-- Whether a packet is bound for another domain. -/
def abroad (s : State) (p : Pkt) : Bool := pktDy p != (site s).dy || pktDx p != (site s).dx

/-- The route at an SX of a packet that entered this Kojor somewhere (R162). -/
def routeFrom (s : State) (sx : Nat) (g : Org) (p : Pkt) : RouteRes :=
  let fromSp := decide (g.port = 128 ∨ g.port = 129)
  if abroad s p then bridgeRoute s sx g p
  else
    match p with
    | .cmp c _ =>
      if srcIsLeaf c.dst then leafRoute s sx (leafIndex (srcLy c.dst) (srcLx c.dst)) c.seq fromSp
      else if srcCourse c.dst != (site s).course then .lost
      else if srcMemberB c.dst != (site s).memberB then
        (if s.course.twinUp && !fromSp then soundpostRoute s sx c.seq else .lost)
      else if srcIsHost c.dst then .to (hxSx s sx ((srcUnit c.dst - 1) / 4)) 135 false
      else .to sx 255 false
    | .req r =>
      if aKind r.addr == 0 || (aKind r.addr == 4 && !aSwitch r.addr) then
        leafRoute s sx (leafIndex (aLy r.addr) (aLx r.addr)) r.seq fromSp
      else if aKind r.addr == 2 || aKind r.addr == 4 then
        (if aLy r.addr != (site s).course then .misroute else courseRoute s sx r fromSp)
      else .to sx 255 false

/-- The route of a packet that enters at an SX (R162). -/
def route (s : State) (sx port : Nat) (p : Pkt) (vcIn : Bool) : RouteRes := routeFrom s sx { sx := sx, port := port, vc := vcIn } p

end Sys2Proof.Machine
end

