-- ==== Sys2Proof/Machine/Slots.lean ====
section
/-! DEFINITION. The sending side of a link: sequence numbers, held slots, acknowledgements and replay (R173, R370, R373 to
R375), and control frames. -/

namespace Sys2Proof.Machine

open Sys2Proof

/-- The time on the clock of a link's end. -/
def linkNow (s : State) (x : Nat) : Nat := if brolaEnd x then s.brola.now else s.clk.now

/-- Whether the link uses its measured round trip plus 200 ns in place of a shorter setting (R35). -/
def replayShort (s : State) (x : Nat) : Bool := decide (strReplay s.prog.eff x * 500 < (linkOf s x).rtt + 200)

/-- The link status shows the substitution of R35 as the setting and the round trip stand, once the timer is set in stage 7 (R380). -/
def noteSubst (s : State) (x : Nat) : State :=
  let l := linkOf s x
  setLink s x { l with subst := decide (7 ≤ l.stage) && replayShort s x }

/-- The replay timer in ns: the setting, or the measured round trip plus 200 ns where that is longer (R35, Table 13-8). -/
def replayNs (s : State) (x : Nat) : Nat := max (strReplay s.prog.eff x * 500) ((linkOf s x).rtt + 200)

/-- The most slots held for acknowledgement (R374). -/
def holdMax : Nat := 8192

/-- Bodies given LSEQs in order. -/
def numbered : Nat → List SlotBody → List Slot
  | _, [] => []
  | n, b :: t => { body := b, lseq := n % 2 ^ 14 } :: numbered (n + 1) t

/-- Sends the bodies that wait, as far as the held slots have room; the timer starts when none was held (R374). -/
def pump (s : State) (x : Nat) : State :=
  let l := linkOf s x
  let k := min (holdMax - l.held.length) l.txQ.length
  if k = 0 then s
  else
    setLink s x { l with
      txQ := l.txQ.drop k
      held := l.held ++ numbered l.txNext (l.txQ.take k)
      txNext := (l.txNext + k) % 2 ^ 14
      timerAt := if l.held.isEmpty then some (linkNow s x + replayNs s x) else l.timerAt }

/-- Sequenced slots sent on a link; none before stage 9 (R377). -/
def sendSlots (s : State) (x : Option Nat) (bs : List SlotBody) : State :=
  match x with
  | none => s
  | some x =>
    let l := linkOf s x
    if l.stage = 9 then pump (setLink s x { l with txQ := l.txQ ++ bs }) x else s

/-- The slots of a packet of n flits of a class (R370). -/
def pktSlots (n tc : Nat) : List SlotBody := .head n tc :: List.replicate (n - 1) .data

/-- The string that carries a packet on an output port: the port's own, or of a soundpost port's Ready strings the one at
position SEQ mod their count (log entry 35). -/
def portString (s : State) (sx port seq : Nat) : Option Nat :=
  if port < 128 then some (128 * sx + port)
  else if port < 130 then
    let l := (soundpostStrings sx port).filter (strReady s)
    l[seq % l.length]?
  else none

/-- A control frame sent by a party on a link. -/
def sendFrame (s : State) (x : Nat) (f : Frame) : State :=
  if brolaEnd x then emit (sendSlots s (some x) [.ctrl f]) (.frame .brola (x - 544) f)
  else emit (sendSlots s (some x) [.ctrl f]) (.frame .kojor x f)

/-- The slots an ACK releases: all up to its value; none for a slot never sent (R374). -/
def ackLeft (held : List Slot) (ack : Nat) : List Slot :=
  if held.any (fun y => y.lseq == ack) then (held.dropWhile fun y => y.lseq != ack).drop 1 else held

/-- An ACK acts: slots released, the timer restarted or stopped, waiting bodies sent (R374). -/
def takeAck (s : State) (x ack : Nat) : State :=
  let l := linkOf s x
  let left := ackLeft l.held ack
  if left.length = l.held.length then s
  else
    pump (setLink s x { l with
      held := left, barren := 0
      timerAt := if left.isEmpty then none else some (linkNow s x + replayNs s x) }) x

/-- A replay of every held slot, oldest first (R374): its length is that of its slots at the line rate (log entry 36). -/
def replay (s : State) (x : Nat) : State :=
  let l := linkOf s x
  let s := bump (bump s .lnkReplay [x]) .lnkReplaySlots [x] l.held.length
  let s := setLink s x { l with barren := l.barren + 1, replayUntil := linkNow s x + l.held.length * 761 / 1000 }
  emit s (.slots x (l.held.map (·.lseq)))

end Sys2Proof.Machine
end

