-- ==== Sys2Proof/Machine/Mirror.lean ====
section
/-! DEFINITION. Mirror messages: when a change is mirrored, the path of a message, and what waits for its confirmation
(R388 to R392). -/

namespace Sys2Proof.Machine

open Sys2Proof

/-- Whether changes are mirrored to a serving twin (R391, R396). -/
def mirrorOn (s : State) : Bool := s.course.twinUp && !s.course.alone

/-- The opcode of a mirror message, Table 14-1. -/
def mirrorOp : MirrorBody → Nat
  | .mwrite _ _ _ _ => 0x40
  | .mstate _ => 0x41
  | .macc _ _ _ _ _ _ _ _ _ => 0x42
  | .mfinal _ _ _ _ _ => 0x43
  | .mconfirm _ => 0x44
  | .mcopy _ => 0x45
  | .mjournal _ => 0x46

/-- The flits of a mirror message with its header flit, Table 14-1. -/
def mirrorFlits : MirrorBody → Nat
  | .mwrite _ bs _ _ => 1 + (bs.length + 63) / 64
  | .mstate _ => 2
  | .macc _ _ _ _ _ bs accs _ _ => 1 + (bs.length + 4 * accs.length + 63) / 64
  | .mfinal _ _ ws _ _ => 1 + ((ws.map fun w => w.2.length).sum + 63) / 64
  | .mconfirm _ => 1
  | .mcopy (.state _) => 2
  | .mcopy (.page _ _ _ bs _) => 1 + (bs.length + 63) / 64
  | .mjournal _ => 2

/-- The soundpost port a message takes (R388): port 128 or 129 of the item's SX by bit 0 of the path key, else the other
port, else the lowest-numbered SX with a Ready soundpost port. None is Ready: the port of the key. -/
def mirrorPath (s : State) (sx key : Nat) : Nat × Nat :=
  let p := 128 + key % 2
  let o := 129 - key % 2
  if soundpostReady s sx p then (sx, p)
  else if soundpostReady s sx o then (sx, o)
  else
    match (List.range 4).find? fun n => soundpostReady s n 128 || soundpostReady s n 129 with
    | some n => if soundpostReady s n p then (n, p) else (n, o)
    | none => (sx, p)

/-- The next MSEQ: 32 bits, never one that is unconfirmed (R390). -/
def nextMseq (s : State) : Nat :=
  ((List.range (s.course.unconf.length + 1)).map fun k => (s.course.mseq + k) % 2 ^ 32).find?
    (fun q => s.course.unconf.all fun u => u.mseq != q) |>.getD s.course.mseq

/-- A mirror message handed over: it waits at the emergency requester of its port, which sends it flit by flit, and is counted (R388, R390,
Table 14-8). -/
def mirrorSend (s : State) (q sx key capo : Nat) (b : MirrorBody) : State :=
  let p := mirrorPath s sx key
  let s := bump s .courseMirrorMsgs [mirrorOp b]
  { s with sw := { s.sw with
    injected := s.sw.injected.set p (s.sw.injected.get p [] ++ [{ capo := capo, left := mirrorFlits b, flits := mirrorFlits b, msg := some (q, b) }]) } }

/-- The (SRC, EPOCH) pair whose count a record changes. -/
def recPair : StateRec → Option (Nat × Nat)
  | .count a e _ _ _ => some (a, e)
  | .counted a e _ => some (a, e)
  | .countZero a e => some (a, e)
  | _ => none

/-- Whether two state records are of one item. -/
def sameItem (a b : StateRec) : Bool :=
  match a, b with
  | .dup e, .dup e' => e.src == e'.src && e.tc == e'.tc && e.seq == e'.seq
  | .heldFinal r _, .heldFinal r' _ => r.src == r'.src && r.tc == r'.tc && r.seq == r'.seq
  | .heldFinal r _, .dropFinal a b c => r.src == a && r.tc == b && r.seq == c
  | .copyQueued r, .copyQueued r' => r.src == r'.src && r.tc == r'.tc && r.seq == r'.seq
  | .copyQueued r, .copyEnded r' => r.src == r'.src && r.tc == r'.tc && r.seq == r'.seq
  | .flag m c k _, .flag m' c' k' _ => m == m' && c == c' && k == k'
  | .counter m c k _, .counter m' c' k' _ => m == m' && c == c' && k == k'
  | .barrier m c g _ _ _ _ _ _, .barrier m' c' g' _ _ _ _ _ _ => m == m' && c == c' && g == g'
  | .window r, .window r' => r.d.wid == r'.d.wid
  | .window r, .dropWindow w => r.d.wid == w
  | .dropWindow w, .window r => r.d.wid == w
  | .window r, .winDone w _ _ _ => r.d.wid == w
  | .linesMoved w _, .linesMoved w' _ => w == w'
  | .linesMoved w _, .halfDone w' _ _ => w == w'
  | .halfDone w _ _, .linesMoved w' _ => w == w'
  | .accum w _ _, .accum w' _ _ => w == w'
  | .rcache x c r, .rcache x' c' r' => x == x' && c == c' && r == r'
  | .pfaPage a b c i, .pfaPage a' b' c' i' => a == a' && b == b' && c == c' && i == i'
  | .shard d, .shard d' => d.shard == d'.shard
  | .shard d, .dropShard k => d.shard == k
  | .table t k _ x, .table t' k' _ x' => t == t' && k == k' && x == x'
  | a, b => (recPair a).isSome && recPair a == recPair b

/-- The item of a message: a page, a state record, the accumulators of a window. -/
def msgPage : MirrorBody → Option Nat
  | .mwrite k _ _ _ => some (k / 4096)
  | .mcopy (.page _ _ k _ _) => some (k / 4096)
  | _ => none
def msgRec : MirrorBody → Option StateRec
  | .mstate r => some r
  | .mcopy (.state r) => some r
  | _ => none
def msgWin : MirrorBody → Option Nat
  | .macc wid _ _ _ _ _ _ _ _ => some wid
  | .mfinal wid _ _ _ _ => some wid
  | _ => none

/-- Whether two messages are for one item (R389). -/
def sameMsg (a b : MirrorBody) : Bool :=
  ((msgPage a).isSome && msgPage a == msgPage b) || ((msgWin a).isSome && msgWin a == msgWin b) ||
    match msgRec a, msgRec b with
    | some x, some y => sameItem x y
    | _, _ => false

/-- Whether a message must wait for earlier ones of its item, which took another path (R389). -/
def pathBusy (earlier : List Unconf) (b : MirrorBody) (p : Nat × Nat) : Bool :=
  earlier.any fun u => sameMsg u.body b && (u.held || u.path != p)

/-- A mirror message that a completion or a read waits for (R389, R391): the state and its MSEQ. -/
def mirrorOut (s : State) (sx key capo : Nat) (b : MirrorBody) : State × Nat :=
  let q := nextMseq s
  let p := mirrorPath s sx key
  let wait := pathBusy s.course.unconf b p
  let s := { s with course := { s.course with
    mseq := (q + 1) % 2 ^ 32
    unconf := s.course.unconf ++ [{ mseq := q, body := b, capo := capo, sx := sx, key := key, path := p, held := wait }] } }
  (if wait then s else mirrorSend s q sx key capo b, q)

/-- Messages that waited leave, in order, once every earlier one of their item is confirmed or took the same path (R389). -/
def releaseHeld (s : State) : State :=
  (s.course.unconf.filter (·.held)).foldl (fun s u =>
    let p := mirrorPath s u.sx u.key
    if pathBusy (s.course.unconf.takeWhile fun e => e.mseq != u.mseq) u.body p then s
    else
      mirrorSend { s with course := { s.course with
        unconf := s.course.unconf.map fun e => if e.mseq = u.mseq then { e with path := p, held := false } else e } } u.mseq u.sx u.key u.capo u.body) s

/-- Whether the rebuild has copied the item of a message, so that its changes go to the target (R400). -/
def copyPassed (s : State) (b : MirrorBody) : Bool :=
  match b with
  | .mwrite k _ _ _ => !s.course.front.any fun
    | .page _ _ k' _ _ => k' / 4096 == k / 4096
    | _ => false
  | .mstate r => !s.course.front.any fun
    | .state r' => sameItem r' r
    | _ => false
  | .macc wid _ _ _ _ _ _ _ _ => !s.course.front.any fun
    | .state (.accum w _ _) => w == wid
    | _ => false
  | _ => true

/-- A change behind the front while every soundpost string is down is noted, to be copied again (R404). -/
def gapNote (s : State) (b : MirrorBody) : State :=
  match b with
  | .mwrite k _ _ _ => { s with course := { s.course with gap := insertOnce (k / 4096) s.course.gap } }
  | .mstate r => { s with course := { s.course with gapRecs := (s.course.gapRecs.filter fun x => !sameItem x r) ++ [r] } }
  | .macc wid _ _ _ _ _ _ _ _ =>
    match s.wins.get wid none with
    | none => s
    | some w =>
      let r := StateRec.accum wid w.lines w.accs
      { s with course := { s.course with gapRecs := (s.course.gapRecs.filter fun x => !sameItem x r) ++ [r] } }
  | _ => s

/-- A change made while ALONE is counted for R398; the member sends it to a rebuild target once its item is copied (R400). -/
def aloneChange (s : State) (sx key capo : Nat) (b : MirrorBody) : State :=
  let s := { s with course := { s.course with
    changes := s.course.changes + 1, changeCapos := insertOnce capo s.course.changeCapos } }
  if s.course.copying && copyPassed s b then
    (if s.course.gapFrom.isSome then gapNote s b else (mirrorOut s sx key capo b).1)
  else s

/-- A change of mirrored state: the message to wait for, if the twin serves. -/
def mirrorChange (s : State) (sx key capo : Nat) (b : MirrorBody) : State × List Nat :=
  if mirrorOn s then
    let x := mirrorOut s sx key capo b
    (x.1, [x.2])
  else if s.course.alone then (aloneChange s sx key capo b, [])
  else (s, [])

/-- A change whose completion waits for nothing. -/
def mirrorNote (s : State) (sx key capo : Nat) (b : MirrorBody) : State := (mirrorChange s sx key capo b).1

/-- The part of a counted pool that a capo draws on (R482). -/
def poolPart (s : State) (size capo : Nat) : Nat :=
  let pin := pinnedCapos s.prog.eff
  if capo ∈ pin then size * capoPoolPct s.prog.eff capo / 100
  else size - (pin.map fun c => size * capoPoolPct s.prog.eff c / 100).sum

/-- Whether two capos draw on one part of a counted pool (R482). -/
def samePart (s : State) (a b : Nat) : Bool :=
  a == b || (!capoPinned s.prog.eff a && !capoPinned s.prog.eff b)

/-- Whether no unconfirmed mirror message is free for one more (R392). -/
def mirrorFull (s : State) (capo : Nat) : Bool :=
  mirrorOn s && decide ((s.course.unconf.filter fun u => samePart s u.capo capo).length ≥ poolPart s 65536 capo)

/-- Whether a mirror message with a write in a range of the twin's keys is unconfirmed (R77). -/
def writeUnheld (s : State) (key n : Nat) : Bool :=
  s.course.unconf.any fun u =>
    match u.body with
    | .mwrite k bs _ _ => decide (k < key + n ∧ key < k + bs.length)
    | .mfinal _ _ ws _ _ => ws.any fun x => decide (x.1 < key + n ∧ key < x.1 + x.2.length)
    | _ => false

/-- Whether a change of a state item is unconfirmed (R77, R391). -/
def itemUnheld (s : State) (r : StateRec) : Bool :=
  s.course.unconf.any fun u =>
    match u.body with
    | .mstate r' => sameItem r r'
    | _ => false

end Sys2Proof.Machine
end

