-- ==== Sys2Proof/Machine/Ops.lean ====
section
/-! DEFINITION. The responder: requests that execute, duplicate entries, counts and FINAL requests, mirroring before the
completion, and the completion itself (R63 to R75, R85 to R88, R391). -/

namespace Sys2Proof.Machine

open Sys2Proof

/-! The two responders. -/

def partyOf : Via → Party
  | .brola _ => .brola
  | _ => .kojor

/-- SRC of the Brola, from the ASSIGN it applies (R111). -/
def brolaSrc (s : State) : Nat :=
  match s.brola.asg with
  | some a => mkLeafSrc a.dy a.dx a.ly a.lx
  | none => 0

def meOf (s : State) : Party → Nat
  | .kojor => mySrc s
  | .brola => brolaSrc s
def nowOf (s : State) : Party → Nat
  | .kojor => s.clk.now
  | .brola => s.brola.now
def respOf (s : State) : Party → Resp
  | .kojor => s.resp
  | .brola => s.brola.resp
def setResp (s : State) (w : Party) (x : Resp) : State :=
  match w with
  | .kojor => { s with resp := x }
  | .brola => { s with brola := { s.brola with resp := x } }

/-- The same stream and SEQ (R67, R75). -/
def sameReq (a b : Req) : Bool := a.src == b.src && a.tc == b.tc && a.seq == b.seq && destOf a.addr == destOf b.addr

/-- The request still executing that a request matches (R75). -/
def findRunning (s : State) (w : Party) (r : Req) : Option Running := (respOf s w).running.find? fun x => sameReq x.r r

def setRunning (s : State) (w : Party) (x : Running) : State :=
  let p := respOf s w
  let l :=
    if p.running.any (fun y => sameReq y.r x.r) then replaceFirst (fun y => sameReq y.r x.r) (fun _ => x) p.running
    else p.running ++ [x]
  setResp s w { p with running := l }

def dropRunning (s : State) (w : Party) (r : Req) : State :=
  let p := respOf s w
  setResp s w { p with running := dropFirst (fun y => sameReq y.r r) p.running }

/-- A request that goes on executing, for the reason given. -/
def keepRunning (s : State) (r : Req) (v : Via) (why : WaitFor) : State :=
  let x := (findRunning s (partyOf v) r).getD { r := r, v := v, why := why }
  setRunning s (partyOf v) { x with why := why }

/-! Duplicates (R72 to R74). -/

/-- The time a responder holds an entry, and a count slot its SEQs: 16 ms in ns (R70, R72). -/
def dupHold : Nat := 16000000

def findDup (s : State) (w : Party) (r : Req) : Option DupEntry :=
  (respOf s w).dups.find? fun e => e.src == r.src && e.tc == r.tc && e.seq == r.seq

/-- One entry released early (R74): counted on the SX that made it (Table 5-9), so by the member that made it; a Kojor writes it to
its scroll. -/
def dupEvicted (s : State) (w : Party) (e : DupEntry) : State :=
  match w with
  | .kojor =>
    if e.twins then s else scroll (bump s .sxDupEvict [e.sx, e.capo]) 5 .dupEvicted (siteSX e.sx) [e.src, e.seq] (some e.capo)
  | .brola => bump s .brlDupEvict []

/-- An entry added: the source's oldest goes when it would hold more than 4,096, and the Brola pool's oldest when the pool
is full (R74, R117). -/
def addDup (s : State) (w : Party) (e : DupEntry) : State :=
  let p := respOf s w
  let l := p.dups
  let full := decide ((l.filter fun x => x.src == e.src).length ≥ 4096)
  let pool := decide (w = .brola ∧ l.length ≥ 1048576)
  if full then
    let old := l.find? fun x => x.src == e.src
    let s := setResp s w { p with dups := dropFirst (fun x => x.src == e.src) l ++ [e] }
    old.elim s (dupEvicted s w)
  else if pool then
    let s' := setResp s w { p with dups := l.drop 1 ++ [e] }
    l.head?.elim s' (dupEvicted s' w)
  else setResp s w { p with dups := l ++ [e] }

/-- Whether a completion leaves a duplicate entry (R72). -/
def leavesDup (r : Req) (c : Cmp) : Bool :=
  !opIdem r.op && c.status != .retry && c.status != .energyDefer && c.status != .duplicate

def dupOf (s : State) (v : Via) (r : Req) (c : Cmp) : DupEntry :=
  { src := r.src, tc := r.tc, seq := r.seq, hcrc := dupCrc r, status := c.status, result := c.result, made := nowOf s (partyOf v),
    capo := r.capo, sx := viaSx v }

/-! Completions (R56, R75). -/

/-- The completion of the original and one for each absorbed copy (R75). -/
def sendDone (s : State) (x : Running) (c : Cmp) : State :=
  let copy := if leavesDup x.r c then { c with status := .duplicate, origStatus := c.status, data := [], len := 0 } else c
  emits s (Out.cmp c :: List.replicate x.absorbed (Out.cmp copy))

/-! Counts and FINAL requests (R70, R71, R85 to R88). -/

/-- The SX that keeps a pair (R71). -/
def pairSx (src epoch : Nat) : Nat := (src + epoch) % 4

/-- Whether one more count slot of a pair is free: 16,384 per SX (R71, R482) or 4,096 at a Brola (Table 4-1). A slot's
part is the capo of its source's leaf. -/
def countFree (s : State) (w : Party) (r : Req) : Bool :=
  let l := (respOf s w).counts
  match w with
  | .brola => decide (l.length < 4096)
  | .kojor => decide ((l.filter fun x => pairSx x.1.1 x.1.2 == pairSx r.src r.epoch).length < poolPart s 16384 r.capo)

def finalFree (s : State) (w : Party) (r : Req) : Bool :=
  let l := (respOf s w).finals
  match w with
  | .brola => decide (l.length < 256)
  | .kojor =>
    decide ((l.filter fun x => pairSx x.r.src x.r.epoch == pairSx r.src r.epoch && samePart s x.r.capo r.capo).length
      < poolPart s 1024 r.capo)

def countOf (s : State) (w : Party) (src epoch : Nat) : Option CountSlot := TMap.find (respOf s w).counts (src, epoch)

def setCount (s : State) (w : Party) (src epoch : Nat) (c : CountSlot) : State :=
  let p := respOf s w
  setResp s w { p with counts := p.counts.set (src, epoch) c }

/-- One write more in a count slot, unless its SEQ was counted within 16 ms (R70). -/
def slotCount (now seq : Nat) (c : CountSlot) : Option CountSlot :=
  let seen := c.seen.filter fun x => decide (now < x.2 + dupHold)
  if seen.any fun x => x.1 == seq then none else some { n := c.n + 1, seen := seen ++ [(seq, now)], last := now }

/-- A write that completed OK counted once per SEQ in 16 ms; uncounted without a slot (R70, R71). -/
def takeCount (s : State) (w : Party) (r : Req) : State × Bool :=
  let old := countOf s w r.src r.epoch
  if old.isNone && !countFree s w r then (s, false)
  else
    match slotCount (nowOf s w) r.seq (old.getD {}) with
    | none => (s, false)
    | some c => (setCount s w r.src r.epoch c, true)

/-- A write that the twin has counted, counted here too: a course keeps one count (R71, R85). -/
def twinCount (s : State) (src epoch seq : Nat) : State :=
  ((slotCount s.clk.now seq ((countOf s .kojor src epoch).getD {})).map (setCount s .kojor src epoch)).getD s

/-- A write that R70 counts: not a FINAL request, and OK. -/
def countable (r : Req) (c : Cmp) : Bool := opIsWrite r.op && !r.final && c.status == .ok

/-- The count of a pair back at zero; the slot keeps the SEQs it counted (R70, R71). -/
def zeroCount (s : State) (w : Party) (src epoch : Nat) : State :=
  match countOf s w src epoch with
  | none => s
  | some c => setCount s w src epoch { c with n := 0 }

/-- The oldest held FINAL request of a pair. -/
def oldestFinal (s : State) (w : Party) (src epoch : Nat) : Option HeldFinal :=
  (respOf s w).finals.find? fun h => h.r.src == src && h.r.epoch == epoch

/-- The held FINAL request of a pair whose count has reached EXPECT (R70, R88). One that the twin holds is the twin's to apply (R71). -/
def dueFinal (s : State) (w : Party) (src epoch : Nat) : Option HeldFinal :=
  match oldestFinal s w src epoch with
  | none => none
  | some h => if h.mine && decide (h.r.expect ≤ ((countOf s w src epoch).getD {}).n) then some h else none

def dropFinal (s : State) (w : Party) (r : Req) : State :=
  let p := respOf s w
  setResp s w { p with finals := dropFirst (fun h => sameReq h.r r) p.finals }

/-! Mirroring and the end of a request. -/

/-- What performing a request gave: the state, its completion, and the message that mirrors the change with its path key. -/
structure Done where
  s : State
  c : Cmp
  mir : List (Nat × MirrorBody) := []

/-- A completion with no effect. -/
def refuse (s : State) (w : Party) (r : Req) (st : Status) : Done := ⟨s, cmpOf r (meOf s w) st, []⟩

/-- Messages sent in order; the MSEQs to wait for. -/
def mirrorAll (s : State) (sx capo : Nat) : List (Nat × MirrorBody) → State × List Nat
  | [] => (s, [])
  | (k, b) :: t =>
    let x := mirrorChange s sx k capo b
    let y := mirrorAll x.1 sx capo t
    (y.1, x.2 ++ y.2)

/-- The duplicate entry joined to the first message that can carry one, or sent alone (R73, Table 14-1). -/
def withDup (e : DupEntry) : List (Nat × MirrorBody) → List (Nat × MirrorBody)
  | (k, .mwrite a b p _) :: t => (k, .mwrite a b p (some e)) :: t
  | l => l ++ [(e.seq, .mstate (.dup e))]

/-- A request that has been performed: its duplicate entry, its mirror messages, and the wait for them and for the messages `more` that
its effect sent before (R58, R73, R391). -/
def performedWith (more : List Nat) (r : Req) (v : Via) (d : Done) : State :=
  let w := partyOf v
  let dup := leavesDup r d.c
  let e := dupOf d.s v r d.c
  let s := if dup then addDup d.s w e else d.s
  let m := match w with
    | .kojor => mirrorAll s (viaSx v) r.capo (if dup then withDup e d.mir else d.mir)
    | .brola => (s, [])
  let x := (findRunning m.1 w r).getD { r := r, v := v, why := .mirror }
  setRunning m.1 w { x with why := .mirror, awaits := more ++ m.2, done := some d.c }

/-- A request that has been performed and waits for its own mirror messages alone. -/
def performed (r : Req) (v : Via) (d : Done) : State := performedWith [] r v d

/-- The completion sent once nothing is awaited and the count has been taken. -/
def sendIfDone (s : State) (w : Party) (r : Req) : State :=
  match findRunning s w r with
  | none => s
  | some x =>
    match x.done with
    | none => s
    | some c =>
      if x.awaits.isEmpty && (x.counted || !countable x.r c) then sendDone (dropRunning s w r) x c else s

/-- The count of a write whose mirror messages are confirmed; the twin counts it too before the completion (R70, R71, R85). -/
def countDone (s : State) (w : Party) (r : Req) : State :=
  match findRunning s w r with
  | none => s
  | some x =>
    match x.done with
    | none => s
    | some c =>
      if x.awaits.isEmpty && !x.counted && countable x.r c then
        let t := takeCount s w x.r
        let m := if t.2 && w == .kojor then
            mirrorChange t.1 (pairSx r.src r.epoch) (r.src + r.epoch) r.capo (.mstate (.counted r.src r.epoch r.seq))
          else (t.1, [])
        setRunning m.1 w { x with counted := true, awaits := m.2 }
      else s

end Sys2Proof.Machine
end

