-- ==== Sys2Proof/Machine/Buffer.lean ====
section
/-! DEFINITION. The shared buffer of an SX: landing reserves, output queues, admission, push-out and harmonic copies
(R137 to R149, R157 to R159). -/

namespace Sys2Proof.Machine

open Sys2Proof

/-! Occupancy (R137, R141, R147). -/

/-- The pool a capo's packets are counted in: a pinned capo's own, else the general pool (R147). -/
def poolOf (s : State) (capo : Nat) : Option Nat := if capoPinned s.prog.eff capo then some capo else none

/-- The packets of an output queue: one list, or on a bridge string one per VC (R183). -/
def queueOf (s : State) (sx port cls : Nat) (vc : Bool) : List QPkt := s.sw.queues.get (sx, port, cls, vc) []
def setQueue (s : State) (sx port cls : Nat) (vc : Bool) (l : List QPkt) : State :=
  { s with sw := { s.sw with queues := s.sw.queues.set (sx, port, cls, vc) l } }
def queueBoth (s : State) (sx port cls : Nat) : List QPkt := queueOf s sx port cls false ++ queueOf s sx port cls true

/-- What an output sends. -/
def sendingAt (s : State) (sx port : Nat) : Option Sending := s.sw.sending.get (sx, port) none

/-- The packets of a queue whose transmission has begun: their cells are held until it has ended (R146). -/
def sendingOf (s : State) (sx port cls : Nat) : List QPkt :=
  match sendingAt s sx port with
  | some w => if w.cls = cls then w.ps else []
  | none => []

/-- Occupancy of a queue in the cells of one pool (log entry 25). -/
def poolOcc (s : State) (sx port cls : Nat) (pl : Option Nat) : Nat :=
  (((queueBoth s sx port cls ++ sendingOf s sx port cls).filter fun q => poolOf s (pktCapo q.p) == pl).map (·.cells)).sum

/-- The shared cells a queue uses: occupancy beyond its guarantee (R141). -/
def sharedUse (s : State) (sx port cls : Nat) (pl : Option Nat) : Nat := poolOcc s sx port cls pl - bufG s.prog.eff sx port cls

/-- The queues of an SX that hold a packet, as (port, class). -/
def liveQueues (s : State) (sx : Nat) : List (Nat × Nat) :=
  (((s.sw.queues.filter fun e => e.1.1 == sx && !e.2.isEmpty).map fun e => (e.1.2.1, e.1.2.2.1))
    ++ (s.sw.sending.filter fun e => e.1.1 == sx).filterMap fun e => e.2.map fun w => (e.1.2, w.cls)).eraseDups

/-- Guarantees of an SX in cells: the defaults of Table 5-3 and what table 0x06 changes. -/
def guarantees (l : Entries) (sx : Nat) : Nat :=
  (98304 + ((tblAll l 6).map fun e =>
    if bits e 4 2 = sx ∧ (bits e 0 4 = 1 ∨ bits e 0 4 = 2) then bits e 32 15 else 0).sum)
    - ((tblAll l 6).map fun e =>
    if bits e 4 2 ≠ sx then 0 else if bits e 0 4 = 1 then 64 else if bits e 0 4 = 2 then 512 else 0).sum

/-- Quotas of pinned capos at an SX in cells. -/
def quotas (l : Entries) (sx : Nat) : Nat :=
  ((tblAll l 6).map fun e => if bits e 4 2 = sx ∧ bits e 0 4 = 4 then bits e 32 20 else 0).sum

/-- Bulk reserves of the bridge strings, all on SX3 (R186). -/
def bulkReserves (s : State) (l : Entries) (sx : Nat) : Nat :=
  if sx = 3 ∧ (site s).bridges then ((List.range 64).map fun k => brgReserve l (448 + k)).sum else 0

/-- The size of the general shared pool of an SX (R137, R139, R186). -/
def sharedPool (s : State) (l : Entries) (sx : Nat) : Nat :=
  1048576 - (40960 + guarantees l sx + quotas l sx + bulkReserves s l sx + (s.sw.retired.get sx []).length * 4096)

/-- Cells of the landed packets of an input; copies of one multicast are stored once (R146). -/
def landCells : List Landed → Nat
  | [] => 0
  | a :: t => landCells t + (if a.mc ≠ 0 ∧ t.any (fun b => b.mc == a.mc) then 0 else a.cells)

def landedAt (s : State) (sx port : Nat) : List Landed := s.sw.landing.filter fun x => x.sx == sx && x.port == port

/-- The landing reserve of an input (Table 5-3, R186). -/
def landSize (s : State) (sx port : Nat) : Nat :=
  if port < 128 then 256 + (if isBridge s (128 * sx + port) then brgReserve s.prog.eff (128 * sx + port) else 0) else 1024

/-- Of the packets of an input in order of arrival, the cells of those of one pool that lie beyond the reserve's size; `c` cells came
before. -/
def beyondCells (s : State) (size : Nat) (pl : Option Nat) : List Landed → Nat → Nat
  | [], _ => 0
  | a :: t, c =>
    let n := if a.mc ≠ 0 ∧ t.any (fun b => b.mc == a.mc) then 0 else a.cells
    (if poolOf s (pktCapo a.p) = pl then (c + n - size) - (c - size) else 0) + beyondCells s size pl t (c + n)

/-- Cells of a pool's packets that wait in landing reserves beyond their size (R141, R147). -/
def landOver (s : State) (sx : Nat) (pl : Option Nat) : Nat :=
  ((((s.sw.landing.filter fun x => x.sx == sx).map (·.port)).eraseDups).map fun p =>
    beyondCells s (landSize s sx p) pl (landedAt s sx p) 0).sum

/-- The free cells of a pool of an SX (R141, R147). -/
def sharedFree (s : State) (sx : Nat) (pl : Option Nat) : Nat :=
  let used := ((liveQueues s sx).map fun q => sharedUse s sx q.1 q.2 pl).sum
  match pl with
  | none => sharedPool s s.prog.eff sx - used - landOver s sx none
  | some c => bufQuota s.prog.eff sx c - used - landOver s sx (some c)

/-- The cells by which a set of entries raises guarantees and quotas of an SX: each queue's and each capo's raise, which no reduction
elsewhere makes up for (R139). -/
def raised (old st : Entries) (sx : Nat) : Nat :=
  ((tblAll st 6).map fun e =>
    if bits e 4 2 ≠ sx then 0
    else match bits e 0 4 with
      | 1 | 2 => bits e 32 15 - bufG old sx (bits e 6 8) (bits e 14 3)
      | 4 => bits e 32 20 - bufQuota old sx (bits e 17 9)
      | _ => 0).sum

/-- Whether a set of entries raises guarantees or quotas by more cells than the shared pool of some SX has free now (R139). -/
def raisedOver (s : State) (st : Entries) : Bool :=
  (List.range 4).any fun sx => decide (sharedFree s sx none < raised s.prog.eff st sx)

/-! Cells and banks (R137, R146). -/

/-- The cells of packets of an SX as they are stored, with their multicast tags; a packet whose copies share a tag stands once. -/
def onceEach : List (Nat × Nat × List Nat) → List (Nat × Nat × List Nat)
  | [] => []
  | a :: t => if a.1 ≠ 0 ∧ t.any (fun b => b.1 == a.1) then onceEach t else a :: onceEach t

/-- What an SX stores: tag, cells and banks of each packet (R146). -/
def stored (s : State) (sx : Nat) : List (Nat × Nat × List Nat) :=
  onceEach (((s.sw.landing.filter fun x => x.sx == sx).map fun x => (x.mc, x.cells, x.banks))
    ++ ((s.sw.queues.filter fun e => e.1.1 == sx).flatMap fun e => e.2.map fun q => (q.mc, q.cells, q.banks))
    ++ ((s.sw.sending.filter fun e => e.1.1 == sx).flatMap fun e => ((e.2.map (·.ps)).getD []).map fun q => (q.mc, q.cells, q.banks))
    ++ ((s.sw.hq.filter fun e => e.1.1 == sx).flatMap fun e => e.2.map fun c => (0, c.cells, c.banks)))

/-- The free physical cells of an SX (R146): 4,096 in each bank that is not retired (R137). -/
def physFree (s : State) (sx : Nat) : Nat := 1048576 - (s.sw.retired.get sx []).length * 4096 - ((stored s sx).map (·.2.1)).sum

/-- Whether a bank can take a cell besides those that stand in `used`. -/
def bankRoom (s : State) (sx : Nat) (used : List Nat) (b : Nat) : Bool :=
  !(s.sw.retired.get sx []).contains b && decide (used.count b < 4096)

/-- The banks of n cells: each in the next bank after its predecessor's that has room, so that successive cells of a packet stand in
different banks (R137). Where the first stands is open (log entry 177). -/
def placeFrom (s : State) (sx : Nat) (used : List Nat) : Nat → Nat → List Nat
  | _, 0 => []
  | b, n + 1 =>
    match ((List.range 255).map fun i => (b + i) % 256).find? (bankRoom s sx used) with
    | some c => c :: placeFrom s sx (c :: used) (c + 1) n
    | none => []

/-- The banks of a packet's cells; a copy of a multicast packet shares those of the packet (R146). -/
def banksFor (s : State) (sx port stamp mc cells : Nat) : List Nat :=
  let l := stored s sx
  match if mc = 0 then none else l.find? fun a => a.1 == mc with
  | some a => a.2.2
  | none => placeFrom s sx (l.flatMap (·.2.2)) (Config.firstBank sx port stamp % 256) cells

/-- The queues that may lose packets to an admission of class t in a pool (R143). -/
def victims (s : State) (sx t : Nat) (pl : Option Nat) : List (Nat × Nat) :=
  (liveQueues s sx).filter fun q =>
    decide (q.1 < 128 ∧ q.2 < t) && !strHarmonic s.prog.eff (128 * sx + q.1) && bufPushout s.prog.eff sx q.2
      && decide (0 < sharedUse s sx q.1 q.2 pl)

/-- The cycles since a stamp, which wraps at 2^32 (R153). -/
def stampAge (s : State) (stamp : Nat) : Nat := (s.clk.sxCycle % 2 ^ 32 + (2 ^ 32 - stamp)) % 2 ^ 32

/-- The tail packet of a pool in a queue, and the VC list it stands on: a packet whose transmission has begun stands on none (R143). -/
def tailOf (s : State) (sx port cls : Nat) (pl : Option Nat) : Option (Bool × QPkt) :=
  let last := fun vc => ((queueOf s sx port cls vc).filter fun q => poolOf s (pktCapo q.p) == pl).getLast?
  match last false, last true with
  | some a, some b => if stampAge s b.stamp < stampAge s a.stamp then some (true, b) else some (false, a)
  | some a, none => some (false, a)
  | none, some b => some (true, b)
  | none, none => none

def evictable (s : State) (sx t : Nat) (pl : Option Nat) : Nat := ((victims s sx t pl).map fun q => sharedUse s sx q.1 q.2 pl).sum

/-- The victim queue: lowest class, then largest shared use, then lowest port (R143). -/
def victimQueue (s : State) (sx t : Nat) (pl : Option Nat) : Option (Nat × Nat) :=
  ((victims s sx t pl).filter fun q => (tailOf s sx q.1 q.2 pl).isSome).foldl (fun b q =>
    match b with
    | none => some q
    | some a =>
      let ua := sharedUse s sx a.1 a.2 pl
      let uq := sharedUse s sx q.1 q.2 pl
      if q.2 < a.2 ∨ (q.2 = a.2 ∧ (uq > ua ∨ (uq = ua ∧ q.1 < a.1))) then some q else b) none

/-- A list without its last element that satisfies a test. -/
def dropLastWith {α : Type} (p : α → Bool) (l : List α) : List α := (dropFirst p l.reverse).reverse

/-- Whether another copy of a multicast packet still holds its cells (R146). -/
def otherCopy (s : State) (sx mc : Nat) : Bool :=
  decide (mc ≠ 0) && (s.sw.landing.any (fun x => x.sx == sx && x.mc == mc)
    || s.sw.queues.any (fun e => e.1.1 == sx && e.2.any fun q => q.mc == mc)
    || s.sw.sending.any fun e => e.1.1 == sx && ((e.2.map (·.ps)).getD []).any fun q => q.mc == mc)

/-! Harmonic copies (R157 to R160). -/

/-- The harmonic port of a filter: a string's own, or one of the fibre's four by filter number mod 4, numbered from 136
(R159). -/
def harmPort (e f : Nat) : Nat := if bits e 19 9 = 511 then 136 + 4 * ofB (bit e 18) + f % 4 else bits e 19 9 % 128

/-- Whether the string or fibre that a filter names is designated harmonic (R157, R158). -/
def harmNamed (l : Entries) (sx e : Nat) : Bool :=
  if bits e 19 9 = 511 then fibreHarmonic l (2 * sx + ofB (bit e 18)) else strHarmonic l (bits e 19 9)

/-- Whether a filter matches a packet at a point (R158). -/
def harmMatch (e point port tc capo : Nat) : Bool :=
  bit e 6 && bits e 28 3 == point && (bits e 31 8 == 0xFF || bits e 31 8 == port) && bit (bits e 39 8) tc
    && (bit e 56 || bits e 47 9 == capo)

/-- One filter's work on a packet: every 2^K-th match is copied, to the queue's guarantee alone, or dropped and counted. -/
def harmOne (s : State) (sx point port tc capo : Nat) (p : Pkt) (f : Nat) : State :=
  match filterEntry s.prog.eff sx f with
  | none => s
  | some e =>
    if !harmMatch e point port tc capo || !harmNamed s.prog.eff sx e || decide ((sx, f) ∈ s.sw.filtersOff) then s
    else
      let run := s.sw.filterRun.get (sx, f) (0, 0)
      let n := run.1 + 1
      if n % 2 ^ bits e 57 5 ≠ 0 then { s with sw := { s.sw with filterRun := s.sw.filterRun.set (sx, f) (n, run.2) } }
      else
        let hp := harmPort e f
        let cells := if bit e 62 then 1 else ((pktFlits p + 1) * 64 + 255) / 256
        let q := s.sw.hq.get (sx, hp, tc) []
        if (q.map (·.cells)).sum + cells ≤ (if hp < 128 then bufG s.prog.eff sx hp tc else 64) then
          let stamp := s.clk.sxCycle % 2 ^ 32
          let c : HarmCopy := { time := s.clk.now, sxn := sx, point := point, port := port, filter := f, trunc := bit e 62, drops := run.2, p := p }
          { s with sw := { s.sw with
              filterRun := s.sw.filterRun.set (sx, f) (n, 0)
              hq := s.sw.hq.set (sx, hp, tc) (q ++ [{ cells := cells, banks := banksFor s sx port stamp 0 cells, stamp := stamp, c := c }]) } }
        else
          bump { s with sw := { s.sw with filterRun := s.sw.filterRun.set (sx, f) (n, min (run.2 + 1) (2 ^ 32 - 1)) } }
            .sxHarmDrop [sx, f]

/-- The copies of a packet at a point (R158, R159). -/
def harmCopy (s : State) (sx point port : Nat) (p : Pkt) : State :=
  (List.range 8).foldl (fun s f => harmOne s sx point port (pktTc p) (pktCapo p) p f) s

/-! Multicast destinations that fail (R144, R177). -/

/-- The result of a multicast store (R177). -/
def mcastCmp (s : State) (m : Mcast) : Cmp :=
  let c := cmpOf m.r (mySrc s) .ok
  if m.failed.isEmpty then c
  else { c with status := .partialMcast, delivered := m.delivered.length, mask := (m.failed.map fun i => 2 ^ i).sum }

/-- A multicast store is completed when every copy is delivered or failed (R177). One that is OK is a counted write (R70): the
requester's side ends it with its count. -/
def mcastSettle (s : State) (id : Nat) : State :=
  match s.mcasts.find? fun m => m.id == id with
  | none => s
  | some m =>
    if !m.waiting.isEmpty then s
    else
      let s := { s with mcasts := s.mcasts.filter fun x => x.id != id }
      match findRunning s .kojor m.r with
      | none => s
      | some x =>
        if m.failed.isEmpty then setRunning s .kojor { x with done := some (mcastCmp s m) }
        else sendDone (dropRunning s .kojor m.r) x (mcastCmp s m)

def mcastMark (s : State) (id pos : Nat) (ok : Bool) : State :=
  let f := fun m : Mcast =>
    if pos ∈ m.waiting then
      { m with waiting := m.waiting.filter (· != pos)
               delivered := if ok then m.delivered ++ [pos] else m.delivered
               failed := if ok then m.failed else m.failed ++ [pos] }
    else m
  mcastSettle { s with mcasts := replaceFirst (fun m => m.id == id) f s.mcasts } id

/-- A copy of a multicast store has failed: counted per capo (Table 6-7). -/
def mcastFail (s : State) (id pos : Nat) : State :=
  match s.mcasts.find? fun m => m.id == id with
  | none => s
  | some m => if pos ∈ m.waiting then mcastMark (bump s .sxMcastFail [viaSx m.v, m.r.capo]) id pos false else s

/-- The replicator's outstanding store that a packet is, if it is one of this Kojor's copies. -/
def copyOwner (s : State) : Pkt → Option (Nat × Nat × Nat)
  | .req r =>
    if r.src != mySrc s then none
    else
      (s.rq.out.find? fun o => o.r.seq == r.seq && o.r.tc == r.tc && o.dest == destOf r.addr).bind fun o =>
        match o.owner with
        | .mcast id pos => some (o.id, id, pos)
        | _ => none
  | .cmp _ _ => none

/-- A copy that is lost fails its destination only (R144, R177). -/
def copyLost (s : State) (p : Pkt) : State :=
  match copyOwner s p with
  | none => s
  | some (oid, id, pos) =>
    mcastFail { s with rq := { s.rq with out := s.rq.out.filter fun o => o.id != oid } } id pos

/-! Push-out (R143 to R146). -/

/-- A bridge list that a bulk has made ready is so no longer once its head packet has gone (R184). -/
def unready (s : State) (sx port cls : Nat) (vc : Bool) : State :=
  { s with sw := { s.sw with bulkReady := s.sw.bulkReady.filter fun k => k != (128 * sx + port, cls, vc) } }

/-- Removes victims until the pool has `need` free cells and `phys` more physical cells have come free, or no victim is left: the state and
the physical cells still missing (R146). -/
def pushOut : Nat → State → Nat → Nat → Nat → Option Nat → Int → State × Int
  | 0, s, _, _, _, _, phys => (s, phys)
  | n + 1, s, sx, need, t, pl, phys =>
    if need ≤ sharedFree s sx pl ∧ phys ≤ 0 then (s, phys)
    else
      match victimQueue s sx t pl with
      | none => (s, phys)
      | some (port, cls) =>
        match tailOf s sx port cls pl with
        | none => (s, phys)
        | some (vc, q) =>
          let same := fun x : QPkt => x.stamp == q.stamp && x.inPort == q.inPort && x.p == q.p
          let l := dropLastWith same (queueOf s sx port cls vc)
          let s := setQueue (if l.isEmpty then unready s sx port cls vc else s) sx port cls vc l
          let s := bump s .sxPushout [sx, cls, pktCapo q.p]
          let s := copyLost (harmCopy s sx 2 port q.p) q.p
          pushOut n s sx need t pl (if otherCopy s sx q.mc then phys else phys - q.cells)

/-- The pass test of R142: use + need ≤ α × avail, with α a power of two. -/
def alphaOk (a : Int) (use avail : Nat) : Bool :=
  if 0 ≤ a then decide (use ≤ avail * 2 ^ a.toNat) else decide (use * 2 ^ (-a).toNat ≤ avail)

/-- One attempt to admit n cells of class t to a queue (R142): the state after any push-out, and whether the cells are there: in the pool's
free count and physically (R146). -/
def admitTry (s : State) (sx port cls capo n : Nat) : State × Bool :=
  let pl := poolOf s capo
  let occ := poolOcc s sx port cls pl
  let g := bufG s.prog.eff sx port cls
  let need := (occ + n - g) - (occ - g)
  let free := sharedFree s sx pl
  let avail := free + evictable s sx cls pl
  if need = 0 then (s, true)
  else if alphaOk (bufAlpha s.prog.eff sx cls) (sharedUse s sx port cls pl + need) avail && decide (need ≤ avail) then
    if free < need then
      let x := pushOut (s.sw.queues.map fun e => e.2.length).sum s sx need cls pl ((need : Int) - (free : Int))
      (x.1, decide (need ≤ sharedFree x.1 sx pl ∧ x.2 ≤ 0 ∧ need ≤ physFree x.1 sx))
    else (s, true)
  else (s, false)

/-! Landing (R140, R168, R169, R481). -/

/-- The link of a string port. -/
def linkNo (sx port : Nat) : Nat := 128 * sx + port

/-- Whether an input keeps landing accounts for pinned capos (R480, R481). -/
def calendared (s : State) (sx port : Nat) : Bool :=
  !(pinnedCapos s.prog.eff).isEmpty && (decide (128 ≤ port ∧ port ≤ 135) || isBridge s (linkNo sx port))

/-- The cells that an input grants credit for: its landing reserve, or on a bridge string each VC's half of the bulk reserve (R168, R186,
R481). -/
def creditSize (s : State) (sx port : Nat) : Nat :=
  if port < 128 then (if isBridge s (linkNo sx port) then brgReserve s.prog.eff (linkNo sx port) / 2 else 256) else 1024

/-- The account of a pinned capo at a calendared input (R481). -/
def accountOf (s : State) (sx port capo : Nat) : Nat := creditSize s sx port * capoPoolPct s.prog.eff capo / 100

/-- The part of a landing reserve that the shared capos share (R481). -/
def sharedLand (s : State) (sx port : Nat) : Nat :=
  creditSize s sx port - (if calendared s sx port then ((pinnedCapos s.prog.eff).map (accountOf s sx port)).sum else 0)

/-- A dedicated count within the part of a reserve that the shared capos share: where accounts leave less than the dedicated counts, the
eight classes share what is left (log entry 147). -/
def within8 (s : State) (sx port d : Nat) : Nat := if calendared s sx port then min d (sharedLand s sx port / 8) else d

/-- D_t of an input as table 0x09 sets it, 64 on a soundpost or internal input (Table 6-2). -/
def dSet (s : State) (sx port cls : Nat) : Nat := within8 s sx port (if port < 128 then credD s.prog.eff sx port cls else 64)

/-- The pool that those counts leave (Table 6-2, R170, R481). -/
def poolSet (s : State) (sx port : Nat) : Nat := sharedLand s sx port - ((List.range 8).map fun t => dSet s sx port t).sum

/-- D_t of an input in force, while a change settles too (R170). -/
def dNow (s : State) (sx port cls : Nat) : Nat :=
  if port < 128 then (s.sw.dEff.find (linkNo sx port, cls)).getD (dSet s sx port cls) else dSet s sx port cls

/-- The pool of an input in force. -/
def landPool (s : State) (sx port : Nat) : Nat :=
  if port < 128 then (s.sw.dEff.find (linkNo sx port, 8)).getD (poolSet s sx port) else poolSet s sx port

/-- The class cells and pool cells held in a landing reserve, per VC. -/
def heldCls (s : State) (sx port cls : Nat) (vc : Bool) : Nat :=
  (((landedAt s sx port).filter fun x => pktTc x.p == cls && x.vcIn == vc).map (·.clsCells)).sum
def heldPool (s : State) (sx port : Nat) (vc : Bool) : Nat :=
  (((landedAt s sx port).filter fun x => x.vcIn == vc && (poolOf s (pktCapo x.p)).isNone).map fun x => x.ret.getD x.cells - x.clsCells).sum

/-- A packet takes its place in a landing reserve, its class's share first (R169). -/
def land (s : State) (x : Landed) : State :=
  let own := calendared s x.sx x.port && (poolOf s (pktCapo x.p)).isSome
  let room := dNow s x.sx x.port (pktTc x.p) - heldCls s x.sx x.port (pktTc x.p) x.vcIn
  { s with sw := { s.sw with landing := s.sw.landing ++ [{ x with clsCells := if own then 0 else min (x.ret.getD x.cells) room }] } }

/-- The key of the count of freed cells: a class, 8 for the pool, 16 + capo for an account. -/
def freedAdd (s : State) (x cls : Nat) (vc : Bool) (n : Nat) : State :=
  { s with sw := { s.sw with freed := s.sw.freed.set (x, cls, vc) (s.sw.freed.get (x, cls, vc) 0 + n) } }

/-- The link whose sender holds the credit of an input: a string, or the first of the four strings of a soundpost port. -/
def creditLink (sx port : Nat) : Nat := if port < 128 then linkNo sx port else 512 + 4 * (2 * sx + (port - 128))

/-- The same for a link: the four strings of a soundpost fibre share one account (log entry 26). -/
def creditKey (x : Nat) : Nat := if 512 ≤ x ∧ x < 544 then x / 4 * 4 else x

/-- A landed packet leaves its reserve: its cells return to the class and pool they were drawn from (R168, R169). -/
def unland (s : State) (i : Nat) : State :=
  match s.sw.landing[i]? with
  | none => s
  | some x =>
    let s' := { s with sw := { s.sw with landing := s.sw.landing.eraseIdx i } }
    if x.mc ≠ 0 ∧ s'.sw.landing.any (fun y => y.mc == x.mc && y.sx == x.sx) then s'
    else if 130 ≤ x.port then s'
    else
      let l := creditLink x.sx x.port
      if calendared s x.sx x.port && (poolOf s (pktCapo x.p)).isSome then freedAdd s' l (16 + pktCapo x.p) x.vcIn (x.ret.getD x.cells)
      else freedAdd (freedAdd s' l (pktTc x.p) x.vcIn x.clsCells) l 8 x.vcIn (x.ret.getD x.cells - x.clsCells)

/-- Whether a packet cuts through when it is admitted (R150): a string output, the setting, and an empty queue; bridge
strings store and forward (R183). What the queue's string still sends keeps it from being empty. -/
def cutsThrough (s : State) (sx port cls : Nat) : Bool :=
  decide (port < 128) && !isBridge s (linkNo sx port) && cutThrough s.prog.eff sx port cls && (queueBoth s sx port cls).isEmpty
    && (sendingOf s sx port cls).isEmpty

/-- Tries to admit one output of a landed packet. -/
def admitOut (s : State) (x : Landed) (o : Nat × Bool × (Nat × Nat × Bool)) : State × Bool :=
  match admitTry s x.sx o.1 (pktTc x.p) (pktCapo x.p) x.cells with
  | (s', false) => (s', false)
  | (s', true) =>
    let q : QPkt := { p := x.p, cells := x.cells, stamp := x.stamp, inPort := x.port, enq := s.clk.now, mc := x.mc, dest := o.2.2,
                      ct := cutsThrough s' x.sx o.1 (pktTc x.p), banks := x.banks, org := x.org }
    (harmCopy (setQueue s' x.sx o.1 (pktTc x.p) o.2.1 (queueOf s' x.sx o.1 (pktTc x.p) o.2.1 ++ [q])) x.sx 1 o.1 x.p, true)

/-- Tries each output of a landed packet; the outputs it still needs. -/
def admitOuts (s : State) (x : Landed) : List (Nat × Bool × (Nat × Nat × Bool)) → State × List (Nat × Bool × (Nat × Nat × Bool))
  | [] => (s, [])
  | o :: t =>
    match admitOut s x o with
    | (s', false) => let y := admitOuts s' x t; (y.1, o :: y.2)
    | (s', true) => admitOuts s' x t

/-- Whether an earlier packet of the same input, class and account holds a landed packet back (R140, R481). -/
def heldBack (s : State) (i : Nat) (x : Landed) : Bool :=
  (s.sw.landing.take i).any fun y =>
    y.sx == x.sx && y.port == x.port && pktTc y.p == pktTc x.p && (x.mc == 0 || y.mc != x.mc)
      && (!calendared s x.sx x.port || samePart s (pktCapo y.p) (pktCapo x.p))

/-- The place in the list of the n-th landed packet of an SX. -/
def landIndex (s : State) (sx n : Nat) : Option Nat :=
  ((List.range s.sw.landing.length).filter fun i => (s.sw.landing[i]?.map (·.sx)) == some sx)[n]?

/-- One attempt of one SX cycle to admit a landed packet (R140, R142, R145). -/
def packetAdmit (s : State) (sx n : Nat) : State :=
  match landIndex s sx n with
  | none => s
  | some i =>
    match s.sw.landing[i]? with
    | none => s
    | some x =>
      if heldBack s i x then bump s .sxAdmitWait [sx, x.port, pktTc x.p]
      else
        let y := admitOuts s x x.outs
        if y.2.isEmpty then unland y.1 i
        else
          bump { y.1 with sw := { y.1.sw with landing := y.1.sw.landing.set i { x with outs := y.2 } } }
            .sxAdmitWait [sx, x.port, pktTc x.p]

/-- PACKET_ADMIT: each SX cycle, one attempt to admit the n-th landed packet of an SX (R142). -/
def execPacketAdmit (sx idx : Nat) (s : State) : Res := .next (packetAdmit s sx idx)

end Sys2Proof.Machine
end

