-- ==== Sys2Proof/Machine/Switch.lean ====
section
/-! DEFINITION. The forwarding path (R136, R162 to R167), credits (R168 to R170, R481), arbiters (R152 to R155, R480)
and bulk transfers (R183 to R187). -/

namespace Sys2Proof.Machine

open Sys2Proof

/-! Arrival. -/

/-- A completion this Kojor sends on behalf of a responder. -/
def answer (s : State) (r : Req) (st : Status) : State := emit s (.cmp (cmpOf r (mySrc s) st))

/-- The capo of a request's source (R63, step 2): its leaf's, or its host port's. -/
def sourceCapo (s : State) (r : Req) (v : Via) : Nat :=
  match v with
  | .string n => if isBridge s n then r.capo else (capoOfLeaf s.prog.eff (stringLeaf s n)).getD r.capo
  | .host p => portCapo s.prog.eff p
  | _ => r.capo

/-- CAPO_VIOLATION, counted against the source's capo (Table 2-10). -/
def violation (s : State) (r : Req) (v : Via) : State := answer (bump s .capoViol [sourceCapo s r v]) r .capoViolation

/-- A packet without a path (R163, R181): a request completes UNREACHABLE, a completion is discarded; a copy of a multicast
store fails (R177). -/
def noPath (s : State) (sx port : Nat) (p : Pkt) : State :=
  let s := bump s .sxUnroutable [sx, port]
  match p with
  | .cmp _ _ => s
  | .req r => if (copyOwner s p).isSome then copyLost s p else answer s r .unreachable

/-- Whether sending a request to the twin is a forwarding under R48 (Table 5-9): of a page of this domain's own course, and counted where
the packet enters, not at a peer port. -/
def misdirected (s : State) (p : Pkt) (inPort port : Nat) : Bool :=
  decide ((port = 128 ∨ port = 129) ∧ (inPort < 130 ∨ 132 < inPort)) && !abroad s p &&
  match p with
  | .req r => aKind r.addr == 2 && (scratchWin (aOff r.addr)).isNone
  | .cmp _ _ => false

/-- A packet at an input, before it has a way: its stamp, multicast tag, VC, the credit it returns and where it entered. -/
def atInput (sx port : Nat) (p : Pkt) (stamp mc : Nat) (vcIn : Bool) (ret : Option Nat) (g : Org) : Landed :=
  { sx := sx, port := port, p := p, cells := pktCells p, stamp := stamp, outs := [], mc := mc, vcIn := vcIn, ret := ret, org := g }

/-- A packet that enters this Kojor at an input. -/
def entering (sx port : Nat) (p : Pkt) (stamp mc : Nat) (vcIn : Bool) : Landed :=
  atInput sx port p stamp mc vcIn none { sx := sx, port := port, vc := vcIn }

/-- A packet with its output at its SX: on a bridge string the list of its VC (R183), on any other port one list. -/
def landedFor (s : State) (x : Landed) (d : Nat × Nat × Bool) : Option Landed :=
  let mk := fun port vc => { x with outs := [(port, vc, d)], banks := banksFor s x.sx x.port x.stamp x.mc x.cells }
  if d.1 = x.sx then some (mk d.2.1 (d.2.2 && decide (d.2.1 < 128))) else (toward s x.sx d.1).map fun o => mk o false

/-- A packet that this SX keeps no cells for returns its credit at once. -/
def landNone (s : State) (x : Landed) : State :=
  let s := land s { x with stamp := 0, mc := 0 }
  unland s (s.sw.landing.length - 1)

/-- A packet takes the route found for it (R136, steps 3 and 4). -/
def takeRoute (s : State) (x : Landed) (res : RouteRes) : State :=
  match res with
  | .lost => noPath (landNone s x) x.sx x.port x.p
  | .misroute =>
    let s := bump (landNone s x) .sxMisroute [x.sx, x.port]
    match x.p with
    | .req r => answer s r .unreachable
    | .cmp _ _ => s
  | .to dsx dport vc =>
    if dsx = x.sx ∧ dport = 255 then landNone s x
    else
      match landedFor s x (dsx, dport, vc) with
      | none => noPath (landNone s x) x.sx x.port x.p
      | some y => land (if misdirected s x.p x.port dport then bump s .sxMisdirect [x.sx, x.port] else s) y

/-- The present arrival stamp (R153). -/
def stampNow (s : State) : Nat := s.clk.sxCycle % 2 ^ 32

/-- What a packet coming from a peer SX carries along: its way out, unless that string has gone down since, and where it entered (R162,
R167). -/
def transitFor (s : State) (sx port : Nat) (p : Pkt) : Option ((Nat × Nat × Bool) × Org) :=
  if 130 ≤ port ∧ port ≤ 132 then (s.sw.transit.find? fun t => t.1 == sx && t.2.1 == p).map (·.2.2) else none

def wayOpen (s : State) (d : Nat × Nat × Bool) : Bool :=
  if d.2.1 < 128 then strReady s (linkNo d.1 d.2.1) || strHarmonic s.prog.eff (linkNo d.1 d.2.1)
  else if d.2.1 < 130 then soundpostReady s d.1 d.2.1 else true

/-- Where a packet at an input entered this Kojor. -/
def orgAt (s : State) (sx port : Nat) (p : Pkt) (vcIn : Bool) : Org :=
  match transitFor s sx port p with
  | some x => x.2
  | none => { sx := sx, port := port, vc := vcIn }

/-- The route of a packet at an SX, taken by the first SX of the Kojor and kept over peer links (R162). -/
def routeAt (s : State) (sx port : Nat) (p : Pkt) (vcIn : Bool) : RouteRes :=
  match transitFor s sx port p with
  | some (d, g) => if wayOpen s d then .to d.1 d.2.1 d.2.2 else routeFrom s sx g p
  | none => route s sx port p vcIn

/-- The source for which the first Kojor checks a request at an input (R54, R136): the leaf of a string, or the host port that SRC names, and at
the HX port any other SRC but this Kojor's own is no host port's. -/
def firstVia (s : State) (sx port : Nat) (r : Req) : Option Via :=
  if port < 128 then some (.string (linkNo sx port))
  else if port = 135 && r.src != mySrc s then
    some (.host (if srcIsHost r.src && (srcUnit r.src - 1) / 4 == sx / 2 then srcUnit r.src - 1 else 4 * (sx / 2)))
  else none

/-- Whether the first Kojor's checks refuse a packet (R136, step 2). -/
def firstRefuses (s : State) (sx port : Nat) (p : Pkt) : Bool :=
  match p with
  | .cmp _ _ => false
  | .req r =>
    match firstVia s sx port r with
    | some v => isFirst s v && !(srcOk s r v && targetOk s r)
    | none => false

/-! Packets that still arrive (R150, R151). -/

/-- The links that bring packets to an input of an SX. -/
def inputLinks (sx port : Nat) : List Nat :=
  if port < 128 then [linkNo sx port] else if port < 130 then soundpostStrings sx port else []

/-- The packet whose header an SX has taken from a link and whose last flit is still to come. -/
def inHand (l : Link) : Option (Nat × Pkt) := if l.pktLeft.isSome then l.pktIn else none

/-- The flits of a packet that have arrived. -/
def flitsIn (s : State) (sx port stamp : Nat) (p : Pkt) : Nat :=
  match (inputLinks sx port).find? fun x => inHand (linkOf s x) == some (stamp, p) with
  | some x => (linkOf s x).pktLen - ((linkOf s x).pktLeft.getD 0)
  | none => pktFlits p

/-- A packet handed over while its flits still arrive is known to its link. -/
def noteArrival (s : State) (sx port : Nat) (p : Pkt) : State :=
  match (inputLinks sx port).find? fun x =>
      let l := linkOf s x
      l.pktLeft.isSome && l.pktIn.isNone && l.pktLen == pktFlits p && !isBridge s x with
  | some x => setLink s x { linkOf s x with pktIn := some (stampNow s, p) }
  | none => s

/-- A packet at an input (R136): counted; dropped when its header check fails (R55); refused by the first Kojor's checks
(R63); offered to the filters of its input; sent on its route. -/
def arrive (s : State) (sx port : Nat) (p : Pkt) (vcIn : Bool) (ret : Option Nat) : State :=
  let s := bump s .sxPktIn [sx, port, pktTc p]
  let x := atInput sx port p (stampNow s) 0 vcIn ret (orgAt s sx port p vcIn)
  if !pktOk p then bump (landNone s x) .sxHdrErr [sx, port]
  else
    let res := routeAt s sx port p vcIn
    let s := { s with sw := { s.sw with
      lastIn := s.sw.lastIn.set (sx, port) (stampNow s)
      transit := if 130 ≤ port ∧ port ≤ 132 then dropFirst (fun t => t.1 == sx && t.2.1 == p) s.sw.transit else s.sw.transit } }
    if firstRefuses s sx port p then
      match p with
      | .req r => violation (landNone s x) r ((firstVia s sx port r).getD .self)
      | .cmp _ _ => s
    else takeRoute (harmCopy (noteArrival s sx port p) sx 0 port p) x res

/-- PACKET_ARRIVAL: a packet reaches an input of an SX (R136). -/
def execPacketArrival (sx port : Nat) (p : Pkt) (s : State) : Res :=
  if sx < 4 ∧ port ≤ 135 then
    .next (arrive s sx port p (match p with
      | .req r => r.vc
      | .cmp _ _ => false) none)
  else .next s

/-- A request that came in on a way and is served elsewhere takes its route from there. -/
def arriveVia (s : State) (r : Req) (v : Via) : State :=
  takeRoute s (entering (viaSx v) (viaPort v) (.req r) (stampNow s) 0 r.vc) (route s (viaSx v) (viaPort v) (.req r) r.vc)

/-! Credits. -/

/-- The credit that a sender holds in one count (R169): CL less the cells sent, modulo 2^16. -/
def creditLeft (limit sent : Nat) : Nat :=
  let d := (limit + (65536 - sent % 65536)) % 65536
  if d < 32768 then d else 0

def clsCredit (s : State) (x cls : Nat) (vc : Bool) : Nat := creditLeft (s.sw.limit.get (x, cls, vc) 0) (s.sw.sent.get (x, cls, vc) 0)
def capoCredit (s : State) (x capo : Nat) (vc : Bool) : Nat := creditLeft (s.sw.pLimit.get (x, capo, vc) 0) (s.sw.pSent.get (x, capo, vc) 0)

/-- What the RT or HX at the far end of a port holds of the packets sent to it. -/
def dieHeldAt (s : State) (sx port : Nat) : List DieHeld := s.sw.dieHeld.filter fun d => d.sx == sx && d.port == port

/-- The cells of class credit that the receiver of an internal link has left (R168 to R170). -/
def dieRoom (s : State) (sx port cls : Nat) : Nat :=
  dNow s sx port cls - (((dieHeldAt s sx port).filter fun d => pktTc d.p == cls).map (·.clsCells)).sum

/-- The cells of credit held for a class and capo at an output (R169, R481, Table 6-2). -/
def creditAt (s : State) (sx port cls capo : Nat) (vc : Bool) : Nat :=
  let pin := calendared s sx port && capoPinned s.prog.eff capo
  if port < 130 then
    let x := creditLink sx port
    if pin then capoCredit s x capo vc else clsCredit s x cls vc + clsCredit s x 8 vc
  else if port < 133 then
    let b := peerOf sx port
    let ip := peerPort b sx
    if pin then
      accountOf s b ip capo - (((landedAt s b ip).filter fun y => pktCapo y.p == capo).map (·.cells)).sum
    else (dNow s b ip cls - heldCls s b ip cls false) + (landPool s b ip - heldPool s b ip false)
  else
    let h := dieHeldAt s sx port
    if pin then accountOf s sx port capo - ((h.filter fun d => pktCapo d.p == capo).map (·.cells)).sum
    else dieRoom s sx port cls
      + (landPool s sx port - ((h.filter fun d => (poolOf s (pktCapo d.p)).isNone).map fun d => d.cells - d.clsCells).sum)

/-- Credit of a link taken for n cells, from the class first (R169). -/
def linkTake (s : State) (x cls n : Nat) (vc : Bool) : State :=
  let a := min n (clsCredit s x cls vc)
  let l := s.sw.sent.set (x, cls, vc) ((s.sw.sent.get (x, cls, vc) 0 + a) % 65536)
  { s with sw := { s.sw with sent := l.set (x, 8, vc) ((l.get (x, 8, vc) 0 + (n - a)) % 65536) } }

/-- A packet takes its place at the RT or HX; a completion goes on from there to its host port or mover at once. -/
def dieTake (s : State) (sx port cells : Nat) (p : Pkt) : State :=
  match p with
  | .cmp _ _ => s
  | .req _ =>
    let own := calendared s sx port && (poolOf s (pktCapo p)).isSome
    { s with sw := { s.sw with dieHeld := s.sw.dieHeld ++
        [{ sx := sx, port := port, p := p, clsCells := if own then 0 else min cells (dieRoom s sx port (pktTc p)), cells := cells }] } }

/-- Credit taken for a packet of n cells. A peer SX's credit is what its landing reserve has left. -/
def takeCredit (s : State) (sx port n : Nat) (p : Pkt) (vc : Bool) : State :=
  let capo := pktCapo p
  if 133 ≤ port then dieTake s sx port n p
  else if 130 ≤ port then s
  else
    let x := creditLink sx port
    if calendared s sx port && capoPinned s.prog.eff capo then
      { s with sw := { s.sw with pSent := s.sw.pSent.set (x, capo, vc) ((s.sw.pSent.get (x, capo, vc) 0 + n) % 65536) } }
    else linkTake s x (pktTc p) n vc

/-- The input that a link's credit counts: of a string, or of the soundpost port that four strings share. -/
def linkInput (x : Nat) : Nat × Nat := if x < 512 then (x / 128, x % 128) else ((x - 512) / 8, 128 + (x - 512) / 4 % 2)

/-- The dedicated counts and pool of a receiver of a string: the Brola's are those of Table 6-2. -/
def linkSize (s : State) (x cls : Nat) : Nat :=
  if brolaEnd x then (if cls < 8 then 16 else 128)
  else
    let p := linkInput x
    if cls < 8 then dNow s p.1 p.2 cls else landPool s p.1 p.2

/-- The limits a receiver states (R168): cells freed since training plus the dedicated count, modulo 2^16. -/
def limitOf (s : State) (x cls : Nat) (vc : Bool) : Nat := (s.sw.freed.get (creditKey x, cls, vc) 0 + linkSize s x cls) % 65536
def creditSet (s : State) (x : Nat) (vc : Bool) : CreditSet :=
  { cl := (List.range 8).map fun t => limitOf s x t vc, pool := limitOf s x 8 vc }

/-- The nine shares of a string input under a change that settles: D_t by class, and the pool at 8. -/
def setShares (s : State) (x : Nat) (f : Nat → Nat) : State :=
  { s with sw := { s.sw with dEff := (List.range 9).foldl (fun m t => m.set (x, t) (f t)) s.sw.dEff } }

/-- A share of a string input in force, and as table 0x09 sets it. -/
def shareNow (s : State) (x t : Nat) : Nat := if t < 8 then dNow s (x / 128) (x % 128) t else landPool s (x / 128) (x % 128)
def shareSet (s : State) (x t : Nat) : Nat := if t < 8 then dSet s (x / 128) (x % 128) t else poolSet s (x / 128) (x % 128)

/-- Whether the cells held at a string input lie within the shares in force, those of the pool too. -/
def sharesFit (s : State) (x : Nat) : Bool :=
  let sx := x / 128
  let port := x % 128
  (List.range 8).all (fun t => decide (heldCls s sx port t false + heldCls s sx port t true ≤ dNow s sx port t))
    && decide (heldPool s sx port false + heldPool s sx port true ≤ landPool s sx port)

/-- A change of a string input's shares goes on (R170): every reduction at once; the increases once the cells held under the reduced shares have
fallen within them, which ends the change. -/
def settleD (s : State) (x : Nat) : State :=
  if x ≥ 512 || (List.range 9).all (fun t => (s.sw.dEff.find (x, t)).isNone) then s
  else
    let s := setShares s x fun t => min (shareNow s x t) (shareSet s x t)
    if sharesFit s x then { s with sw := { s.sw with dEff := s.sw.dEff.filter fun e => e.1.1 != x } } else s

/-- A commit changes the shares of a string input: it starts from those in force before (R170). -/
def shareApply (old s : State) (x : Nat) : State := settleD (setShares s x (shareNow old x)) x

/-- CREDIT_SEND: an end states its limits (R168); a calendared input also states each account (R481). -/
def creditSend (s : State) (x : Nat) : State :=
  let s := settleD s x
  let v1 := if isBridge s x then some (creditSet s x true) else none
  let s := emit s (.link x (.credit (creditSet s x false) v1))
  let cal := decide (512 ≤ x ∧ x < 544) || isBridge s x
  let s := { s with links := s.links.set x { linkOf s x with creditTx := true } }
  if cal then
    (pinnedCapos s.prog.eff).foldl (fun s c =>
      (if isBridge s x then [false, true] else [false]).foldl (fun s vc =>
        emit s (.link x (.pcredit c vc ((s.sw.freed.get (creditKey x, 16 + c, vc) 0 + accountOf s (linkInput x).1 (linkInput x).2 c) % 65536)))) s) s
  else s

def execCreditSend (x : Nat) (s : State) : Res := .next (if x < 576 then creditSend s x else s)

/-- Stage 8 completes when a CREDIT has come in and own CREDIT frames were sent (Table 13-6); STAGE_COMPLETE makes the step. -/
def setLimits (s : State) (x : Nat) (c : CreditSet) (vc : Bool) : State :=
  let k := creditKey x
  let m := (List.range 8).foldl (fun m t => m.set (k, t, vc) (c.cl.getD t 0 % 65536)) s.sw.limit
  { s with sw := { s.sw with limit := m.set (k, 8, vc) (c.pool % 65536) } }

/-- CREDIT: the far end's limits replace the ones held (R168, R169); the VC 1 set exists on bridge strings only. -/
def execCredit (x : Nat) (v0 : CreditSet) (v1 : Option CreditSet) (s : State) : Res :=
  if x < 576 then
    let s := setLimits s x v0 false
    let s := match v1 with
      | some c => if isBridge s x then setLimits s x c true else s
      | none => s
    .next { s with links := s.links.set x { linkOf s x with creditRx := true } }
  else .next s

/-- PCREDIT: the limit of a pinned capo's account (R481); calendared inputs only, while a capo is pinned (Table 13-5). -/
def execPcredit (x capo : Nat) (vc : Bool) (cl : Nat) (s : State) : Res :=
  if (512 ≤ x ∧ x < 544) ∨ isBridge s x then
    .next { s with sw := { s.sw with pLimit := s.sw.pLimit.set (creditKey x, capo, vc) (cl % 65536) } }
  else .next s

/-! Calendars (R480). -/

/-- The window of a capo in the 10 µs frame: pinned capos ascending, then the shared window. -/
def calWindow (s : State) (capo : Nat) : Nat × Nat :=
  let l := s.prog.eff
  let pin := sortNat (pinnedCapos l)
  let upto := fun c => ((pin.filter (· < c)).map fun d => capoPortPct l d * 100).sum
  if capo ∈ pin then (upto capo, upto capo + capoPortPct l capo * 100)
  else ((pin.map fun d => capoPortPct l d * 100).sum, 10000)

/-- The time a slot takes on a port, in ps (R20, R369, R386; log entry 27). -/
def slotPs (port : Nat) : Nat := if port < 128 then 761 else if port < 130 then 191 else if port < 133 then 16 else if port < 135 then 8 else 128

/-- Whether n slots of a capo end before its window closes. -/
def calFits (s : State) (sx port capo n : Nat) : Bool :=
  if !calendared s sx port then true
  else
    let w := calWindow s capo
    let t := s.clk.now % 10000
    decide (w.1 ≤ t ∧ t * 1000 + n * slotPs port ≤ w.2 * 1000)

/-- Whether two capos share a window. -/
def sameWindow (s : State) (sx port a b : Nat) : Bool := !calendared s sx port || samePart s a b

/-! Bulks (R184). -/

/-- The bytes of a packet. -/
def pktBytes (p : Pkt) : Nat := pktFlits p * 64

/-- The head packets of a list that one bulk takes: at most 255, 65,536 bytes, one window, the credit and the time left. -/
def bulkTake (s : State) (sx port : Nat) (credit : Nat) (capo : Option Nat) : List QPkt → Nat → Nat → List QPkt
  | [], _, _ => []
  | q :: t, n, b =>
    let b' := b + pktBytes q.p
    let c := pktCapo q.p
    let win := match capo with
      | none => true
      | some c' => sameWindow s sx port c c'
    if win && decide (n < 255 ∧ b' ≤ 65536 ∧ (b' + 64 + 255) / 256 ≤ credit) && calFits s sx port c (1 + b' / 64) then
      q :: bulkTake s sx port credit (some c) t (n + 1) b'
    else []

/-- Whether the packets of a list fill a bulk, so that the next would not fit: 255 of them, or too few bytes left for a header flit. -/
def bulkFull (l : List QPkt) : Bool := decide (255 ≤ l.length) || decide (65536 < (l.map fun q => pktBytes q.p).sum + 64)

/-- The bulk a VC list of a bridge string can send now: its packets, if the bulk is ready (R184). -/
def bulkNow (s : State) (sx port cls : Nat) (vc : Bool) : List QPkt :=
  let l := queueOf s sx port cls vc
  match l with
  | [] => []
  | q :: _ =>
    if bulkFull l || decide ((linkNo sx port, cls, vc) ∈ s.sw.bulkReady) then
      bulkTake s sx port (creditAt s sx port cls (pktCapo q.p) vc) none l 0 0
    else []

/-- BULK_CLOSE: the head packet of a list has waited BRG_CLOSE since it was queued; its bulk is ready (R184). -/
def execBulkClose (str tc : Nat) (vc : Bool) (s : State) : Res :=
  if isBridge s str then
    match queueOf s (str / 128) (str % 128) tc vc with
    | [] => .next s
    | q :: _ =>
      if q.enq + brgClose s.prog.eff ≤ s.clk.now then
        .next { s with sw := { s.sw with bulkReady := insertOnce (str, tc, vc) s.sw.bulkReady } }
      else .next s
  else .next s

/-- A packet as it leaves on a bridge hop: VC and HOPS updated and the check recomputed (R182). -/
def bridged (vc : Bool) : Pkt → Pkt
  | .req r => .req (sealReq { r with vc := vc, hops := (r.hops + 1) % 16 })
  | .cmp c h => .cmp c h

/-- The bulk header flit of a list of packets on a bridge string (Table 6-5). -/
def bulkHdr (s : State) (str tc : Nat) (vc : Bool) (ps : List Pkt) : BulkHdr :=
  let dir := (str - 448) / 16
  let t := site s
  let w := max t.w 1
  let h := max t.h 1
  let toDx := if dir = 0 then (t.dx + 1) % w else if dir = 1 then (t.dx + w - 1) % w else t.dx
  let toDy := if dir = 2 then (t.dy + 1) % h else if dir = 3 then (t.dy + h - 1) % h else t.dy
  { bytes := (ps.map pktBytes).sum, count := ps.length, vc := vc, tc := tc, fromDy := t.dy, fromDx := t.dx, toDy := toDy,
    toDx := toDx, course := t.course, memberB := t.memberB, dir := dir, time := s.clk.now }

/-! What a bank error does (R148). -/

/-- A corrected error, counted in the bank of its cell. -/
def eccCorrected (sx : Nat) (banks : List Nat) (s : State) (h : EccHit) : State := bump s .sxBufCorr [sx, banks.getD h.cell 0]

/-- One that cannot be corrected: counted in the bank of the cell and written to the scroll; it discards the packet, or poisons a request
that it strikes outside its header flit. -/
def eccUncorrectable (sx : Nat) (banks : List Nat) (x : State × Option Pkt) (h : EccHit) : State × Option Pkt :=
  let bank := banks.getD h.cell 0
  (scroll (bump x.1 .sxBufUncorr [sx, bank]) 5 .bufUncorr (siteSX sx) [bank], x.2.bind fun p =>
    match p with
    | .cmp _ _ => none
    | .req r => if h.header then none else some (.req (sealReq { r with poison := true })))

/-- A packet read out of its cells with the errors that name it: the packet as it goes on, if it does. -/
def readOut (s : State) (sx : Nat) (ecc : EccMet) (i : Nat) (banks : List Nat) (p : Pkt) : State × Option Pkt :=
  let here := fun l : List EccHit => l.filter fun h => h.pkt == i
  (here ecc.uncorrectable).foldl (eccUncorrectable sx banks) ((here ecc.corrected).foldl (eccCorrected sx banks) s, some p)

/-- The packets of a bulk read out in order: those that go on. One that is discarded and is a copy of a multicast store fails its
destination (R144). -/
def readHeads (sx : Nat) (ecc : EccMet) : State → Nat → List QPkt → State × List Pkt
  | s, _, [] => (s, [])
  | s, i, q :: t =>
    let x := readOut s sx ecc i q.banks q.p
    match x.2 with
    | some p => let y := readHeads sx ecc x.1 (i + 1) t; (y.1, p :: y.2)
    | none => readHeads sx ecc (copyLost x.1 q.p) (i + 1) t

/-! Flits on their way out (R146, R150, R154). -/

/-- A transmission begins: the header flit leaves with the grant, and the packets keep their cells until the last flit has left (R146). -/
def beginSend (s : State) (sx port flits cls : Nat) (str : Option Nat) (ps : List QPkt) : State :=
  let w : Option Sending := if flits ≤ 1 then none else some { ps := ps, cls := cls, left := flits - 1, str := str }
  sendSlots { s with sw := { s.sw with sending := s.sw.sending.set (sx, port) w } } str [.head flits cls]

/-- Whether the next flit of a transmission is in the buffer: a packet that cuts through may still arrive (R151). -/
def flitHere (s : State) (sx : Nat) (w : Sending) : Bool :=
  match w.ps with
  | [q] => decide (pktFlits q.p < flitsIn s sx q.inPort q.stamp q.p + w.left)
  | _ => true

/-- The next flit of a transmission leaves at a flit boundary; with the last one its cells are free (R146). -/
def nextFlit (s : State) (sx port : Nat) (w : Sending) : State :=
  if flitHere s sx w then
    sendSlots { s with sw := { s.sw with sending := s.sw.sending.set (sx, port) (if w.left ≤ 1 then none else some { w with left := w.left - 1 }) } }
      w.str [.data]
  else s

/-- A bulk granted: its packets leave the list, its credit is taken, its counters rise (R184, R186, Table 6-7). A packet that a bank error
discards is no part of it (R148). -/
def sendBulk (s : State) (sx port cls : Nat) (vc : Bool) (ecc : EccMet) : State :=
  let qs := bulkNow s sx port cls vc
  let str := linkNo sx port
  let x := readHeads sx ecc (unready (setQueue s sx port cls vc ((queueOf s sx port cls vc).drop qs.length)) sx port cls vc) 0 qs
  let ps := x.2.map (bridged vc)
  if ps.isEmpty then x.1
  else
    let bytes := (ps.map pktBytes).sum
    let s1 := takeCredit x.1 sx port ((bytes + 64 + 255) / 256) (ps.headD (.req {})) vc
    let s1 := bump s1 .sxPktOut [sx, port, cls] ps.length
    let s1 := bump (bump s1 .brgBulkOut [str, ofB vc]) .brgBulkPkts [str, ofB vc] ps.length
    let s1 := if crossesDate s ((str - 448) / 16) then bump s1 .brgDateline [(str - 448) / 16] ps.length else s1
    emit (beginSend s1 sx port (1 + bytes / 64) cls (some str) qs) (.bulk str (bulkHdr s str cls vc ps) ps)

/-- The cells of credit each packet of a bulk returns: its share of ceil((B + 64) / 256) (R186). -/
def bulkShares : Nat → List Pkt → List Nat
  | _, [] => []
  | b, p :: t =>
    let b' := b + pktBytes p
    ((b' + 255) / 256 - (if b = 64 then 0 else (b + 255) / 256)) :: bulkShares b' t

/-- Whether a bulk passes its checks (R185): its BCRC, and packets that end exactly at BYTES and COUNT. -/
def bulkOk (h : BulkHdr) (ps : List Pkt) (bcrc : W32) : Bool :=
  decide (bcrc = bulkCrc h ∧ (ps.map pktBytes).sum = h.bytes ∧ ps.length = h.count ∧ 1 ≤ h.count ∧ h.count ≤ 255 ∧ h.bytes ≤ 65536)

/-- BULK_RECEIVE: a bulk on a bridge string is unpacked and each packet routed anew, or discarded whole with its credit
returned (R184, R185). -/
def execBulkReceive (str : Nat) (h : BulkHdr) (ps : List Pkt) (bcrc : W32) (s : State) : Res :=
  if !isBridge s str then .next s
  else if bulkOk h ps bcrc then
    .next ((ps.zip (bulkShares 64 ps)).foldl (fun s x => arrive s (str / 128) (str % 128) x.1 h.vc (some x.2)) s)
  else
    let cells := (h.bytes + 64 + 255) / 256
    let a := min cells (dNow s (str / 128) (str % 128) h.tc - heldCls s (str / 128) (str % 128) h.tc h.vc)
    .next (bump (freedAdd (freedAdd s str h.tc h.vc a) str 8 h.vc (cells - a)) .brgBulkErr [str])

/-! Arbiters (R152 to R154). -/

def arbOf (s : State) (sx port : Nat) : Arb := s.sw.arb.get (sx, port) {}
def setArb (s : State) (sx port : Nat) (a : Arb) : State := { s with sw := { s.sw with arb := s.sw.arb.set (sx, port) a } }

/-- Whether a port sends harmonic copies only (R157). -/
def isHarmonic (s : State) (sx port : Nat) : Bool :=
  decide (136 ≤ port ∧ port < 144) || (decide (port < 128) && strHarmonic s.prog.eff (linkNo sx port))

/-- The link that carries the copies of a harmonic port: a string, or string j of F16 of an OX of this SX. -/
def harmLink (sx port : Nat) : Nat := if port < 128 then linkNo sx port else 576 + 8 * sx + (port - 136)

/-- Whether an output can send at all: its link is Ready, a die-to-die link carries traffic (R41), a harmonic string's far end has locked
(R157). -/
def outputUp (s : State) (sx port : Nat) : Bool :=
  if isHarmonic s sx port then (linkOf s (harmLink sx port)).hlock
  else if port < 128 then strReady s (linkNo sx port) else if port < 130 then soundpostReady s sx port
  else if port < 133 then sxJoined s sx (peerOf sx port) else if port < 135 then !d2dDown s (14 + 2 * sx + (port - 133)) else hxLinked s sx

/-- Whether a head packet's flits are there to begin with: all of them, or where it cuts through its header flit and first cell (R150). -/
def mayStart (s : State) (sx : Nat) (q : QPkt) : Bool :=
  let n := flitsIn s sx q.inPort q.stamp q.p
  decide (pktFlits q.p ≤ n) || (q.ct && decide (4 ≤ n))

/-- The eligible requester of a class: the stamp of the head it would send, and its VC list, the one with the older head where both are
eligible (R153, R183). -/
def eligible (s : State) (sx port cls : Nat) : Option (Nat × Bool) :=
  if !outputUp s sx port then none
  else if isHarmonic s sx port then ((s.sw.hq.get (sx, port, cls) []).head?).map fun x => (x.stamp, false)
  else if port < 128 && isBridge s (linkNo sx port) then
    let st := fun vc => (bulkNow s sx port cls vc).head?.map fun q => (q.stamp, vc)
    match st false, st true with
    | some a, some b => if stampAge s a.1 < stampAge s b.1 then some b else some a
    | some a, none => some a
    | none, b => b
  else
    match queueOf s sx port cls false with
    | [] => none
    | q :: _ =>
      if q.cells ≤ creditAt s sx port cls (pktCapo q.p) false && calFits s sx port (pktCapo q.p) (pktFlits q.p) && mayStart s sx q then
        some (q.stamp, false) else none

/-- The cells of credit that the head of a list needs: on a bridge string those of a bulk of it alone (R169, R186). -/
def headCells (s : State) (sx port : Nat) (q : QPkt) : Nat :=
  if port < 128 && isBridge s (linkNo sx port) then (pktBytes q.p + 64 + 255) / 256 else q.cells

/-- Whether a head packet waits for credit (Table 6-7). -/
def waitsCredit (s : State) (sx port cls : Nat) : Bool :=
  !isHarmonic s sx port && [false, true].any fun vc =>
    match queueOf s sx port cls vc with
    | [] => false
    | q :: _ => decide (creditAt s sx port cls (pktCapo q.p) vc < headCells s sx port q)

/-- The score of a requester (R153): age, lost rounds and priority. -/
def arbScore (a : Arb) (now stamp i : Nat) : Nat :=
  min ((now + (2 ^ 32 - stamp)) % 2 ^ 32) 0x7FFFFFFF + a.lost.get i 0 * 2 ^ a.stepLog2 + a.prio.get i 0 * 2 ^ a.unitLog2

/-- The winner among requesters with their scores: the highest, the lower class on a tie. -/
def arbBest : List (Nat × Nat) → Option (Nat × Nat)
  | [] => none
  | x :: t =>
    match arbBest t with
    | none => some x
    | some y => if y.2 > x.2 then some y else some x

/-- The lost rounds after a grant: zero for the winner, one more, up to 255, for each other eligible requester. -/
def arbLost (a : Arb) (elig : List Nat) (best : Nat) : TMap Nat Nat :=
  elig.foldl (fun m i => m.set i (if i = best then 0 else min (a.lost.get i 0 + 1) 255)) a.lost

/-- A packet as it leaves on a soundpost port: one bound for another domain carries the virtual channel with which it enters the next ring
(R182; log entry 180). -/
def rechannel (s : State) (port : Nat) (vc : Bool) (p : Pkt) : Pkt :=
  match p with
  | .cmp _ _ => p
  | .req r => if (port == 128 || port == 129) && abroad s p && r.vc != vc then .req (sealReq { r with vc := vc }) else p

/-- A granted packet leaves on its output (R136, step 5); on a peer link it carries its route along (R162). -/
def transmit (s : State) (sx port cls : Nat) (ecc : EccMet) : State :=
  match queueOf s sx port cls false with
  | [] => s
  | q :: t =>
    let x := readOut (setQueue s sx port cls false t) sx ecc 0 q.banks q.p
    match x.2 with
    | none => copyLost x.1 q.p
    | some p =>
      let p := rechannel s port q.dest.2.2 p
      let s := bump (takeCredit x.1 sx port q.cells p false) .sxPktOut [sx, port, cls]
      let s := if 130 ≤ port ∧ port ≤ 132 then
          { s with sw := { s.sw with transit := s.sw.transit ++ [(peerOf sx port, p, q.dest, q.org)] } } else s
      emit (beginSend s sx port (pktFlits p) cls (portString s sx port (pktSeq p)) [q]) (.fwd p sx port)

/-- A harmonic copy leaves on its string: the analysis flit, the header flit and, unless it is cut short, the payload (R159). A bank error acts
on it as on a packet. -/
def transmitHarm (s : State) (sx port cls : Nat) (ecc : EccMet) : State :=
  match s.sw.hq.get (sx, port, cls) [] with
  | [] => s
  | x :: t =>
    let y := readOut { s with sw := { s.sw with hq := s.sw.hq.set (sx, port, cls) t } } sx ecc 0 x.banks x.c.p
    match y.2 with
    | none => y.1
    | some p => emit (bump y.1 .sxPktOut [sx, port, cls]) (.harmonic sx port (harmFlit x.c) p x.c.trunc)

/-- The message at the head of an emergency requester: debug injection only while debug is enabled (Table 5-4). -/
def emergency (s : State) (sx port : Nat) : Option Inject :=
  if port < 128 ∧ !s.sec.unlock then none
  else if 130 ≤ port then none
  else
    match s.sw.injected.get (sx, port) [] with
    | [] => none
    | x :: _ => if outputUp s sx port && calFits s sx port x.capo 1 then some x else none

/-- One flit of the emergency requester (R153, R154); with its last flit a mirror message has been sent. -/
def sendEmergency (s : State) (sx port : Nat) (x : Inject) : State :=
  let t := (s.sw.injected.get (sx, port) []).tail
  let l := if x.left ≤ 1 then t else { x with left := x.left - 1 } :: t
  let s := sendSlots s (portString s sx port 0) [if x.left = x.flits then .ehead x.flits else .edata]
  let a := arbOf s sx port
  let s := setArb { s with sw := { s.sw with injected := s.sw.injected.set (sx, port) l } } sx port { a with emergRun := a.emergRun + 1 }
  let s := bump s .sxEmergFlits [sx, port]
  match x.msg with
  | some m => if x.left ≤ 1 then emit s (.mirror m.1 sx port m.2) else s
  | none => s

/-- A grant to a class (R153). -/
def grantClass (s : State) (sx port cls : Nat) (vc : Bool) (ecc : EccMet) : State :=
  if isHarmonic s sx port then transmitHarm s sx port cls ecc
  else if port < 128 && isBridge s (linkNo sx port) then sendBulk s sx port cls vc ecc
  else transmit s sx port cls ecc

/-- A decision among the classes of an output that is free (R153). -/
def grantBest (s : State) (sx port : Nat) (ecc : EccMet) : State :=
  let a := arbOf s sx port
  let el := (List.range 8).filterMap fun i => (eligible s sx port i).map fun x => (i, x)
  match arbBest (el.map fun x => (x.1, arbScore a (stampNow s) x.2.1 x.1)) with
  | none => s
  | some b =>
    let vc := ((el.find? fun x => x.1 == b.1).map (·.2.2)).getD false
    grantClass (setArb s sx port { a with lost := arbLost a (el.map (·.1)) b.1, emergRun := 0 }) sx port b.1 vc ecc

/-- One cycle of an output arbiter (R153, R154): at a flit boundary of a busy output a flit of the emergency requester, which pre-empts the
transmission, or the transmission's next flit; on a free output a flit of the emergency requester or a grant to a class. -/
def arbiterDecision (s : State) (sx port : Nat) (boundary : Bool) (ecc : EccMet) : State :=
  let s := (List.range 8).foldl (fun s t => if waitsCredit s sx port t then bump s .sxCreditWait [sx, port, t] else s) s
  let w := sendingAt s sx port
  match if w.isNone || boundary then emergency s sx port else none with
  | some x => if (arbOf s sx port).emergRun < 256 then sendEmergency s sx port x
    else match w with
      | some w => nextFlit s sx port w
      | none => grantBest s sx port ecc
  | none =>
    match w with
    | some w => if boundary then nextFlit s sx port w else s
    | none => grantBest s sx port ecc

/-- ARBITER_DECISION: one cycle of an output arbiter, at a flit boundary or not. The lists give the bank errors that what is granted
meets (R148). -/
def execArbiterDecision (sx port : Nat) (boundary : Bool) (corrected uncorrectable : List EccHit) (s : State) : Res :=
  .next (if sx < 4 ∧ port < 144 then arbiterDecision s sx port boundary ⟨corrected, uncorrectable⟩ else s)

/-- DDR_ARBITER_DECISION: one decision of a DDR5 channel arbiter (R321): refresh pre-empts; else the read and write queues
contend by R153, reads winning a tie. `rdAge` and `wrAge` are the ages of their heads. -/
def execDdrArbiterDecision (hx ch : Nat) (busy : Bool) (rdAge wrAge : Option Nat) (refresh : Bool) (s : State) : Res :=
  if hx ≥ 2 ∨ ch ≥ 6 ∨ refresh ∨ busy then .next s
  else
    let k := 4 + hx
    let a := arbOf s k ch
    let sc := fun i (x : Option Nat) => x.map fun g =>
      (i, min g 0x7FFFFFFF + a.lost.get i 0 * 2 ^ a.stepLog2 + a.prio.get i 0 * 2 ^ a.unitLog2)
    let el := [sc 0 rdAge, sc 1 wrAge].filterMap id
    match arbBest el with
    | none => .next s
    | some b => .next (setArb s k ch { a with lost := arbLost a (el.map (·.1)) b.1 })

/-! A string goes down (R151, R167, R377). -/

/-- Packets queued to a port, in queue order: class by class, VC 0 before VC 1. -/
def queuedOn (s : State) (sx port : Nat) : List QPkt := (List.range 8).flatMap fun t => queueBoth s sx port t

def emptyPort (s : State) (sx port : Nat) : State :=
  (List.range 8).foldl (fun s t => unready (unready (setQueue (setQueue s sx port t false []) sx port t true []) sx port t false) sx port t true) s

/-- Packets whose transmission has not begun are routed again from where they entered, and keep their stamps; a packet whose transmission
has begun is lost with the link (R167). -/
def reroutePort (s : State) (sx port : Nat) (counted : Bool) : State :=
  let qs := queuedOn s sx port
  let s := emptyPort { s with sw := { s.sw with sending := s.sw.sending.set (sx, port) none } } sx port
  qs.foldl (fun s q =>
    let s := if counted then bump s .sxReroute [sx, port] else s
    takeRoute s (atInput sx q.inPort q.p q.stamp q.mc q.org.vc (some 0) q.org) (routeFrom s sx q.org q.p)) s

/-- The packet in progress from an input that goes down is lost; one that cuts through is ended by an ABORT slot on its output, and no
further flit of it leaves (R151, R377). -/
def cutInput (s : State) (sx port : Nat) (g : Nat × Pkt) : State :=
  let mine := fun (q : QPkt) => q.inPort == port && q.stamp == g.1 && q.p == g.2
  let outs := s.sw.sending.filterMap fun e => if e.1.1 == sx then e.2.bind fun w => if w.ps.any mine then some (e.1.2, w.str) else none else none
  let s := outs.foldl (fun s o =>
    let s := harmCopy (bump s .sxCtAbort [sx, o.1]) sx 3 o.1 g.2
    let s := sendSlots { s with sw := { s.sw with sending := s.sw.sending.set (sx, o.1) none } } o.2 [.abort false]
    emit s (.abort (linkNo sx o.1))) s
  let s := { s with sw := { s.sw with landing := s.sw.landing.filter fun x => !(x.sx == sx && x.port == port && x.stamp == g.1 && x.p == g.2) } }
  { s with sw := { s.sw with queues := s.sw.queues.map fun e => if e.1.1 = sx then (e.1, e.2.filter fun q => !mine q) else e } }

/-- Every credit toward and from a link is void (R377). -/
def voidCredits (s : State) (x : Nat) : State :=
  let k := creditKey x
  let f := fun m : TMap (Nat × Nat × Bool) Nat => m.filter fun e => e.1.1 != k
  { s with sw := { s.sw with sent := f s.sw.sent, limit := f s.sw.limit, freed := f s.sw.freed, advert := f s.sw.advert,
                             pSent := f s.sw.pSent, pLimit := f s.sw.pLimit } }

end Sys2Proof.Machine
end

