-- ==== Sys2Proof/Machine/Operands.lean ====
section
/-! DEFINITION. What a request's address names: the operand forms of the fabric (R44 to R50, R63 steps 5 to 7, R97, R98,
R115, R164, R309, R313). -/

namespace Sys2Proof.Machine

open Sys2Proof

/-! The region-table cache of an SX (R313, R482). -/

def cached (s : State) (sx capo rid : Nat) : Bool := decide ((capo, rid) ∈ s.mem.rcache.get sx [])

/-- An entry used: it becomes the most recent. -/
def cacheTouch (s : State) (sx capo rid : Nat) : State :=
  let l := s.mem.rcache.get sx []
  { s with mem := { s.mem with rcache := s.mem.rcache.set sx ((l.filter (· != (capo, rid))) ++ [(capo, rid)]) } }

/-- An entry fetched: the least recently used entry of its part goes when the part is full (R313, R482). -/
def cacheAdd (s : State) (sx capo rid : Nat) : State :=
  let l := (s.mem.rcache.get sx []).filter (· != (capo, rid))
  let part := l.filter fun e => samePart s e.1 capo
  let l := if part.length ≥ poolPart s 4096 capo then dropFirst (fun e => samePart s e.1 capo) l else l
  { s with mem := { s.mem with rcache := s.mem.rcache.set sx (l ++ [(capo, rid)]) } }

/-- A request that misses waits; a fetch starts when one of the 64 slots of its part is free (R313, R482). -/
def cacheMiss (s : State) (sx rid : Nat) (r : Req) (v : Via) : State :=
  let s := { s with mem := { s.mem with rwait := s.mem.rwait ++ [(sx, rid, r, v)] } }
  let mine := s.mem.rfetch.filter fun f => f.1 == sx && samePart s f.2.1 r.capo
  if s.mem.rfetch.any (fun f => f == (sx, r.capo, rid)) || decide (mine.length ≥ poolPart s 64 r.capo) then s
  else bump { s with mem := { s.mem with rfetch := s.mem.rfetch ++ [(sx, r.capo, rid)] } } .sxRcacheMiss [sx]

/-! Switch-resident memory. -/

/-- What the address of a switch-resident request names at this member. -/
inductive Found where
  | stop (s : State)
  | fail (d : Done)
  | scr (s : State) (key : Nat)
  | page (s : State) (g : Region) (key : Nat) (mirror : Bool)

/-- A translation that fails (step 6): counted per capo, with the first byte (Table 2-12, R313). -/
def xlateFault (s : State) (r : Req) (v : Via) (a : W64) : Done := ⟨bump s .sxXlateFault [viaSx v, r.capo], cmpErr r (mySrc s) .xlateFault a, []⟩

/-- An address of scratch: tile × 2^29 + byte. -/
def scrKey (n off : Nat) : Nat := n * 2 ^ 29 + off

/-- The scratch window of a tile of this member (R97, R98); that of a lost member completes with UNREACHABLE (DESIGN CHOICE, log entry 168). -/
def findScratch (s : State) (r : Req) (v : Via) (m n off : Nat) : Found :=
  if (m == 1) != (site s).memberB then
    if s.course.twinUp && !fromTwin v then .stop (arriveVia s r v) else .fail (refuse s .kojor r .unreachable)
  else if !scratchOpen s.prog.eff n then .fail (refuse s .kojor r .unreachable)
  else if (r.op != 1 && r.op != 2) || !scratchNames s.prog.eff n r.src r.capo then .fail (refuse s .kojor r .accDenied)
  else .scr s (scrKey n off)

/-- A write that the twin serves because the own copy is out of reach: that page of the own copy misses it (R318). -/
def noteMissed (s : State) (g : Region) (off : Nat) : State :=
  let p := placeOf g (off / 4096) true
  if backUp s p.1 || !isMine s off then s
  else { s with mem := { s.mem with missed := insertOnce p s.mem.missed } }

/-- The page an offset lies in, translated by the region table (R164, R309, R313) and served under R48, R317 and R318. -/
def findPage (s : State) (r : Req) (v : Via) (off : Nat) : Found :=
  match regionAt s.prog.eff r.capo (off / 4096) with
  | none => .fail (xlateFault s r v r.addr)
  | some g =>
    if !cached s (viaSx v) r.capo g.rid then .stop (cacheMiss s (viaSx v) g.rid r v)
    else
      let s := cacheTouch s (viaSx v) r.capo g.rid
      match serveAt s g off (fromTwin v) with
      | .here key m => .page (if fromTwin v && !isMine s off then degraded s g.rid else s) g key m
      | .forward => .stop (arriveVia (if opIsWrite r.op then noteMissed s g off else s) r v)
      | .unreachable => .fail (refuse s .kojor r .unreachable)

def findMem (s : State) (r : Req) (v : Via) : Found :=
  let off := aOff r.addr
  if !zerosOk r.addr then .fail (refuse s .kojor r .unreachable)
  else
    match scratchWin off with
    | some (m, n, o) => findScratch s r v m n o
    | none => if (tierOf off).isNone then .fail (refuse s .kojor r .unreachable) else findPage s r v off

/-- The destination range of a declared window of the capo that a range touches (R204). -/
def windowAt (s : State) (capo off n : Nat) : Option Window :=
  (s.wins.filterMap (·.2)).find? fun w =>
    w.d.capo == capo && decide (off < w.d.base + w.d.lenp * 4096 ∧ w.d.base < off + n)

/-! Leaf memory (R115, R116). -/

inductive Perm where
  | rd | wr | atm
deriving DecidableEq, Repr

/-- Whether the condition for which a scratchpad window was opened still holds: start-up ends when the Brola holds an ASSIGN (R99; log
entry 174). -/
def spadHolds (s : State) (w : AccWin) : Bool := !w.spad || w.why != .startUp || s.brola.asg.isNone

/-- Whether an open window grants a permission at a byte. -/
def permitted (s : State) (p : Perm) (a : Nat) : Bool :=
  s.brola.wins.any fun e =>
    let w := e.2
    w.isOpen && spadHolds s w && decide (w.base ≤ a ∧ a < w.base + w.len) && (match p with
      | .rd => w.rd
      | .wr => w.wr
      | .atm => w.atm)

/-- The first byte of a range that is not permitted: windows have 256-byte granularity (R65). -/
def firstForbidden (s : State) (p : Perm) (a n : Nat) : Option Nat :=
  if !permitted s p a then some a
  else ((List.range ((a + n - 1) / 256 - a / 256)).map fun i => (a / 256 + i + 1) * 256).find? fun b => !permitted s p b

/-- The permission an opcode needs (R115). -/
def permOf (op : Nat) : Perm := if op = 1 then .rd else if op = 2 then .wr else .atm

/-- The refusal of a leaf access, if any: ACC_DENIED from the first byte, ACC_SPLIT later (R65, R115). -/
def leafRefusal (s : State) (r : Req) : Option Done :=
  (firstForbidden s (permOf r.op) (aOff r.addr) r.len).map fun b =>
    if b = aOff r.addr then refuse s .brola r .accDenied
    else ⟨s, cmpErr r (brolaSrc s) .accSplit (r.addr + BitVec.ofNat 64 (b - aOff r.addr)), []⟩

/-- Whether an address is of the Brola's own leaf. -/
def ownLeaf (s : State) (a : W64) : Bool :=
  match s.brola.asg with
  | none => false
  | some g => (aKind a == 0 || (aKind a == 4 && !aSwitch a)) && aDy a == g.dy && aDx a == g.dx && aLy a == g.ly && aLx a == g.lx

/-! Entry: steps 1 to 4 of R63. -/

/-- Where a request stops before step 5, or the state with which it goes on. -/
inductive Entry where
  | stop (s : State)
  | fail (d : Done)
  | go (s : State)

/-- The counter of headers that fail, of formats refused, and of SEQ reuse, at a responder. -/
def bumpAt (s : State) (v : Via) (k b : CtrName) : State :=
  match v with
  | .brola n => bump s b [n]
  | _ => bump s k [viaSx v, viaPort v]

/-- Whether this Kojor is where a request is to be answered: its course's memory or control space, a multicast of this
domain, or an address that names nothing (R44, R45, R164, R175). -/
def answersHere (s : State) (r : Req) : Bool :=
  inDomain s r.addr && (ownCourse s r.addr || aKind r.addr == 3 || kindReserved r.addr)

/-- A window status word of another capo: CAPO_VIOLATION at step 2 (R283). -/
def foreignWindow (s : State) (r : Req) : Bool :=
  if aKind r.addr == 4 && aSwitch r.addr then
    match swLoc (aOff r.addr % 2 ^ 45) with
    | some (.win w _) => match s.wins.get w none with
      | some x => x.d.capo != r.capo
      | none => false
    | _ => false
  else false

/-! Host ports as sources (R171, R172). -/

/-- Whether a completion that a Kojor has sent, or handed to an HX port, answers a request of a host port for good. -/
def hostAnswers (r : Req) (c : Cmp) : Bool :=
  c.dst == r.src && c.tc == r.tc && c.seq == r.seq && destOf c.reqAddr == destOf r.addr && c.status != .retry && c.status != .energyDefer

/-- Whether a host port's request is outstanding: no such completion has left since it was issued. -/
def hostLive (s : State) (x : HostOut) : Bool := !(s.out.drop x.at_).any fun o =>
  match o with
  | .cmp c => hostAnswers x.r c
  | .fwd (.cmp c _) _ port => port == 135 && hostAnswers x.r c
  | _ => false

/-- What a host port has outstanding toward a destination (R171). -/
def hostOutAt (s : State) (p : Nat) (d : Dest) : List HostOut :=
  s.sw.hostOut.filter fun x => x.port == p && destOf x.r.addr == d && hostLive s x

/-- The window of a pair of a host port (R172). -/
def hostWindow (s : State) (r : Req) : Nat :=
  ((if inDomain s r.addr then capoLwin s.prog.eff r.capo else capoRwin s.prog.eff r.capo) + 1) * 65536

/-- Two requests of one SEQ of a stream: the later is a retransmission. -/
def sameIssue (a b : Req) : Bool := a.tc == b.tc && a.seq == b.seq && destOf a.addr == destOf b.addr

/-- Whether a new request of a host port waits at its source: its pair's window has no room for it, or an earlier one of its pair waits. -/
def hostWaits (s : State) (p : Nat) (r : Req) : Bool :=
  let d := destOf r.addr
  let l := hostOutAt s p d
  !l.any (fun x => sameIssue x.r r)
    && ((s.sw.hostWait.takeWhile fun x => !(x.1 == p && sameIssue x.2 r)).any (fun x => x.1 == p && destOf x.2.addr == d)
      || decide (hostWindow s r < (l.map fun x => 64 + x.r.len).sum + 64 + r.len))

/-- A request of a host port passes its window and is outstanding, or waits and is presented again (R171; log entry 178); what comes in on
another way has passed its source's. -/
def hostPass (s : State) (r : Req) (v : Via) : State × Bool :=
  match v with
  | .host p =>
    let held := s.sw.hostWait.any fun x => x.1 == p && sameIssue x.2 r
    if hostWaits s p r then
      (if held then s else { s with sw := { s.sw with hostWait := s.sw.hostWait ++ [(p, r)] } }, false)
    else
      let d := destOf r.addr
      let kept := s.sw.hostOut.filter (hostLive s)
      let new := if (hostOutAt s p d).any fun x => sameIssue x.r r then [] else [{ port := p, r := r, at_ := s.out.length : HostOut }]
      ({ s with sw := { s.sw with hostOut := kept ++ new, hostWait := dropFirst (fun x => x.1 == p && sameIssue x.2 r) s.sw.hostWait } }, true)
  | _ => (s, true)

/-- Absorption and the duplicate lookup (step 4, R72, R75). -/
def lookup (s : State) (w : Party) (r : Req) (v : Via) : Entry :=
  match findRunning s w r with
  | some x => .stop (setRunning s w { x with absorbed := x.absorbed + 1 })
  | none =>
    if opIdem r.op then .go s
    else
      match findDup s w r with
      | none => .go s
      | some e =>
        let c := cmpOf r (meOf s w) .duplicate
        if e.hcrc = dupCrc r then .stop (emit s (.cmp { c with origStatus := e.status, result := e.result }))
        else
          let s := match v with
            | .brola _ => bump s .brlSeqReuse [r.src]
            | _ => bump s .sxSeqReuse [viaSx v, viaPort v]
          .stop (emit s (.cmp { c with status := .accDenied }))

/-- Steps 3 and 4 at either responder, and what comes before them. A Kojor that does not serve, and a Brola without an ASSIGN, answer nothing
(R130, R399). -/
def entryAt (s : State) (r : Req) (v : Via) : Entry :=
  let w := partyOf v
  if w == .kojor && !answersHere s r then .stop (arriveVia s r v)
  else if (w == .kojor && !s.course.serving) || (w == .brola && s.brola.asg.isNone) then .stop s
  else if w == .kojor && foreignWindow s r then .stop (violation s r v)
  else if !formatOk s w r then .fail (refuse (bumpAt s v .sxFmtErr .brlFmtErr) w r .accDenied)
  else lookup s w r v

/-- Steps 1 to 4 at either responder; a host port's request passes its window on the way in (R171). -/
def entry (s : State) (r : Req) (v : Via) : Entry :=
  if !hdrOk r then .stop (bumpAt s v .sxHdrErr .brlHdrErr)
  else if partyOf v == .kojor && isFirst s v && (!(srcOk s r v && targetOk s r)) then .stop (violation s r v)
  else
    match hostPass s r v with
    | (s, false) => .stop s
    | (s, true) => entryAt s r v

/-! Deferral (R445) and resources (R392). -/

/-- Whether the ledger defers a request of a capo: shared capos while DEFER is 1, pinned capos at thermal level 2. -/
def deferred (s : State) (capo : Nat) : Bool :=
  if capoPinned s.prog.eff capo then s.elg.level == 2 && !elgCrm s.prog.eff else s.elg.defer

/-- ENERGY_DEFER: counted for the capo; RETRY_AFTER is the µs to the next 1 ms boundary plus 1. -/
def energyDefer (s : State) (r : Req) : Done :=
  ⟨bump s .elgDefer [r.capo], cmpLater r (mySrc s) .energyDefer ((1000000 - s.clk.now % 1000000) / 1000 + 1), []⟩

/-- RETRY with its delay in µs. -/
def retryIn (s : State) (w : Party) (r : Req) (us : Nat) : Done := ⟨s, cmpLater r (meOf s w) .retry us, []⟩

/-- No mirror message is free (R392). -/
def mirrorRetry (s : State) (r : Req) : Done := retryIn (bump s .courseMirrorFull []) .kojor r 2

end Sys2Proof.Machine
end

