-- ==== Sys2Proof/Machine/Flags.lean ====
section
/-! DEFINITION. Control space: flags, arrival counters, error records, and the words FTEST reads (R119, R120, R280 to R283,
R290, R291). -/

namespace Sys2Proof.Machine

open Sys2Proof

/-! Switch control space: a location is keyed by (member, capo, number) (R280). -/

/-- The member whose space a control address names: bit 46, true for B. -/
def ctlMember (a : W64) : Bool := bit (aLx a) 0

/-- Whether this Kojor serves the space of the member addressed: its own, and its twin's while ALONE. -/
def ctlHere (s : State) (a : W64) : Bool := ctlMember a == (site s).memberB || !s.course.twinUp

def flagOf (s : State) (k : Bool × Nat × Nat) : Bool := s.ctl.flags.get k false
def ctrOf (s : State) (k : Bool × Nat × Nat) : W64 := s.ctl.ctrs.get k 0
def setFlag (s : State) (k : Bool × Nat × Nat) (x : Bool) : State := { s with ctl := { s.ctl with flags := s.ctl.flags.set k x } }

/-! The wait network (R231, R233, R234). -/

def tileOf (s : State) (n : Nat) : Tile := s.tiles.get n {}
def setTile (s : State) (n : Nat) (t : Tile) : State := { s with tiles := s.tiles.set n t }
def setStr (s : State) (x : Stream) : State := { s with str := x }

/-- The stream cycle of the present: the count goes on in a stall, at 1.5 GHz (R226). -/
def nowCycle (s : State) : Nat :=
  match s.str.stall with
  | some (_, t, _) => s.str.cycle + (s.clk.now - t) * 3 / 2
  | none => s.str.cycle

/-- The counter comparison of an entry (R233). -/
def waitCond (s : State) (w : WaitEntry) : Bool :=
  match w.kind with
  | 0 => decide (w.target ≤ ctrOf s ((site s).memberB, s.str.capo, w.ctr))
  | 1 => s.str.tiles.all fun n => decide (w.target ≤ (tileOf s n).ec.get w.ecn 0)
  | 2 => decide (w.target ≤ (tileOf s w.tile).ec.get w.ecn 0)
  | _ => false

/-- A history without the changes that a later one of 32 cycles ago or more has made useless. -/
def trimHist (c : Nat) : List (Nat × Bool) → List (Nat × Bool)
  | a :: b :: t => if b.1 + 32 ≤ c then trimHist c (b :: t) else a :: b :: t
  | l => l

/-- A condition sampled in a cycle: a change is kept, the changes of the last 32 cycles and the one before them; the first cycle in which
an armed entry's condition holds is its release cycle (R231, R234). -/
def waitSample (c : Nat) (v : Bool) (w : WaitEntry) : WaitEntry :=
  if (w.hist.getLast?.map (·.2)) = some v then w
  else
    { w with
      hist := trimHist c (w.hist.filter fun h => decide (h.1 ≠ c)) ++ [(c, v)]
      met := if w.armed && v then w.met.or (some c) else w.met }

/-- The conditions of the present cycle are sampled and broadcast. -/
def sampleWaits (s : State) : State :=
  if s.str.running then
    setStr s { s.str with waits := s.str.waits.map fun x => (x.1, waitSample (nowCycle s) (waitCond s x.2) x.2) }
  else s

/-- The first cycle from a past one on in which an entry's condition held, if any yet (R234). -/
def metFrom (s : State) (w : WaitEntry) (c : Nat) : Option Nat :=
  let at_ := ((w.hist.filter fun h => decide (h.1 ≤ c)).getLast?.map (·.2)).getD (waitCond s w && w.hist.isEmpty)
  if at_ then some c else (w.hist.find? fun h => decide (c < h.1) && h.2).map (·.1)

/-- An arrival counter takes a value; the wait network samples it in this cycle (R76, R233). -/
def setCtr (s : State) (k : Bool × Nat × Nat) (x : W64) : State :=
  sampleWaits { s with ctl := { s.ctl with ctrs := s.ctl.ctrs.set k x } }

/-- A raise of an arrival counter of switch control space, with the message that mirrors it (R282, R393). -/
def raiseCtr (s : State) (k : Bool × Nat × Nat) (inc : Nat) : State × (Nat × MirrorBody) :=
  let x := ctrOf s k + BitVec.ofNat 64 inc
  (setCtr s k x, (k.2.2, .mstate (.counter k.1 k.2.1 k.2.2 x)))

/-- A raise that no completion waits for. -/
def raiseOwn (s : State) (k : Bool × Nat × Nat) (inc : Nat) : State :=
  let x := raiseCtr s k inc
  mirrorNote x.1 (k.2.2 % 4) x.2.1 k.2.1 x.2.2

/-- STATE of a window status word, Table 10-2. -/
def winStateCode : WinState → Nat
  | .idle => 0 | .active => 1 | .finalising => 2 | .poisoned => 3 | .expired => 4

/-- The window status words, Table 10-2. -/
def winWord (s : State) (w word : Nat) : Nat :=
  match s.wins.get w none with
  | none => if word = 0 then 7 else 0
  | some x =>
    if word = 0 then
      winStateCode x.st + ofB x.ovf * 8 + ofB x.pline * 16 + x.epoch % 65536 * 2 ^ 8 + x.lastF.getD 0 % 65536 * 2 ^ 24
        + x.finals % 2 ^ 24 * 2 ^ 40
    else if x.d.sr then x.d.seed.toNat else 0

/-- The word FTEST reads at a location of switch control space (Table 10-1). -/
def swWord (s : State) (m : Bool) (capo : Nat) : SwLoc → Nat
  | .flag f => ofB (flagOf s (m, capo, f))
  | .ctr k => (ctrOf s (m, capo, k)).toNat
  | .bar g => (s.ctl.bars.get (m, capo, g) {}).n
  | .win w word => winWord s w word
  | .grp g word => ((groupEntry s.prog.eff g capo).map (bits · (64 * word) 64)).getD 0
  | .copyQ => 0
  | .progQ => 0

/-- The record of a location whose change a read waits for (R77). -/
def swRecord (s : State) (m : Bool) (capo : Nat) : SwLoc → Option StateRec
  | .flag f => some (.flag m capo f false)
  | .ctr k => some (.counter m capo k 0)
  | .bar g => some (.barrier m capo g .idle 0 0 0 0 [])
  | .win w _ => (s.wins.get w none).map fun x => .window { d := x.d }
  | _ => none

/-- An uncorrectable flag word, found now or before (R62, R64; log entry 28). -/
def flagBad (s : State) (m : Bool) (capo : Nat) : SwLoc → Bool
  | .flag f => decide ((m, capo, f) ∈ s.ctl.latent ∨ (m, capo, f) ∈ s.ctl.poison)
  | _ => false

/-- The error of a flag word found: the word is marked poisoned (R62). -/
def flagFound (s : State) (m : Bool) (capo : Nat) : SwLoc → State
  | .flag f => { s with ctl := { s.ctl with
      latent := s.ctl.latent.filter (· != (m, capo, f)), poison := insertOnce (m, capo, f) s.ctl.poison } }
  | _ => s

/-- FSET, FCLR, FTEST or AADD performed at a location of switch control space; RESULT is the prior value (R58, R280). -/
def swPerform (s : State) (r : Req) (l : SwLoc) : Done :=
  let m := ctlMember r.addr
  let c := cmpOf r (mySrc s) .ok
  if flagBad s m r.capo l then ⟨flagFound s m r.capo l, cmpErr r (mySrc s) .eccUncorr r.addr, []⟩
  else
    let c := { c with result := BitVec.ofNat 64 (swWord s m r.capo l) }
    match l with
    | .flag f =>
      if r.op = 0x32 then ⟨s, c, []⟩
      else
        let x := r.op == 0x30
        ⟨setFlag s (m, r.capo, f) x, c, [(f, .mstate (.flag m r.capo f x))]⟩
    | .ctr k =>
      if r.op = 0x32 then ⟨s, c, []⟩
      else if r.op = 0x31 then ⟨setCtr s (m, r.capo, k) 0, c, [(k, .mstate (.counter m r.capo k 0))]⟩
      else
        let x := raiseCtr s (m, r.capo, k) r.op0.toNat
        ⟨x.1, c, [x.2]⟩
    | _ => ⟨s, c, []⟩

/-! Leaf control space (Table 4-2, Table 4-3). -/

/-- The ATTACH payload of Table 13-4, from its first byte and with b = 0, as the identity area (log entry 29). -/
def identBits (s : State) : Nat := 1 + s.brola.ident.toNat * 2 ^ 8 + s.brola.spadGiB % 1024 * 2 ^ 77

def lfWord (s : State) : LfLoc → Nat
  | .flag f => ofB (s.brola.flags.get f false)
  | .ctr k => (s.brola.ctrs.get k 0).toNat
  | .err k w =>
    let e := s.brola.errs.get k {}
    if w = 0 then e.status % 16 + min e.fails 65535 * 2 ^ 8 else e.errAddr.toNat
  | .copyQ => 0
  | .ident w => bits (identBits s) (64 * w) 64

/-- A raise of a leaf arrival counter. -/
def raiseLeaf (s : State) (k inc : Nat) : State :=
  { s with brola := { s.brola with ctrs := s.brola.ctrs.set k (s.brola.ctrs.get k 0 + BitVec.ofNat 64 inc) } }

/-- FSET, FCLR, FTEST or AADD performed in leaf control space (R119, R120). -/
def lfPerform (s : State) (r : Req) (l : LfLoc) : Done :=
  let bad := match l with
    | .flag f => if f ∈ s.brola.ctlLatent ∨ f ∈ s.brola.ctlPoison then some f else none
    | _ => none
  match bad with
  | some f =>
    ⟨{ s with brola := { s.brola with
        ctlLatent := s.brola.ctlLatent.filter (· != f), ctlPoison := insertOnce f s.brola.ctlPoison } }, cmpErr r (brolaSrc s) .eccUncorr r.addr, []⟩
  | none =>
    let c := { cmpOf r (brolaSrc s) .ok with result := BitVec.ofNat 64 (lfWord s l) }
    let b := s.brola
    match l with
    | .flag f => if r.op = 0x32 then ⟨s, c, []⟩ else ⟨{ s with brola := { b with flags := b.flags.set f (r.op == 0x30) } }, c, []⟩
    | .ctr k =>
      if r.op = 0x32 then ⟨s, c, []⟩
      else if r.op = 0x31 then ⟨{ s with brola := { b with ctrs := b.ctrs.set k 0 } }, c, []⟩
      else ⟨raiseLeaf s k r.op0.toNat, c, []⟩
    | .err k _ => if r.op = 0x31 then ⟨{ s with brola := { b with errs := b.errs.set k {} } }, c, []⟩ else ⟨s, c, []⟩
    | _ => ⟨s, c, []⟩

end Sys2Proof.Machine
end

