-- ==== Sys2Proof/Machine/Stores.lean ====
section
/-! DEFINITION. Stores, FINAL writes and the end of a performed request (R63 step 9, R70, R76 to R80, R85 to R88, R220,
R251). -/

namespace Sys2Proof.Machine

open Sys2Proof

/-! Shard counters (R220). -/

/-- The bytes of [a, a + n) inside [b, b + m). -/
def overlap (a n b m : Nat) : Nat := min (a + n) (b + m) - max a b

/-- A counted write raises CTR of every shard of its capo by its bytes inside the range (R220). -/
def shardRaise (s : State) (capo off n : Nat) : State :=
  (s.shards.filterMap (·.2)).foldl (fun s d =>
    let x := overlap off n d.base (d.len64 * 64)
    if d.capo = capo ∧ x ≠ 0 then raiseOwn s (d.memberB, capo, d.ctr) x else s) s

/-! The end of a request. -/

/-- The completion goes out once everything it waits for is done; a store's shard counters rise with it (R220). -/
def finishIf (s : State) (w : Party) (r : Req) : State :=
  match findRunning s w r with
  | none => s
  | some x =>
    match x.done with
    | none => s
    | some c =>
      if x.awaits.isEmpty && (x.counted || !countable x.r c) then
        let s := sendIfDone s w r
        if w == .kojor && r.op == 2 && aKind r.addr == 2 && c.status == .ok then shardRaise s r.capo (aOff r.addr) r.len else s
      else s

/-! Writes to memory. -/

/-- A page's bytes written at this member and, for a mirrored page, sent to the twin's copy (R76, R316, R391). -/
def pageWrite (s : State) (capo : Nat) (g : Region) (off key : Nat) (mirror : Bool) (bs : List Byte) (poison : Bool) :
    State × List (Nat × MirrorBody) :=
  let _ := capo
  let s := physWrite s key bs poison
  let twin := copyKey g off (!isMine s off)
  (s, if mirror || (g.mir && s.course.alone) then [(off / 4096, .mwrite twin bs poison none)] else [])

/-- Bytes written to scratch; poison follows the store (R79, R80, R100). -/
def scratchWrite (s : State) (k : Nat) (bs : List Byte) (poison : Bool) : State :=
  let ws := wordsOf k bs.length
  let p := clearWords s.scrPoison ws
  { s with scratch := Memory.writeN s.scratch k bs, scrPoison := if poison then markWords p ws else p,
           scrLatent := clearWords s.scrLatent ws }

/-- Bytes written to leaf memory. Whether a latent error survives there is the accelerator's own behaviour (R62): a free
value decides. -/
def leafWrite (s : State) (a : Nat) (bs : List Byte) (poison : Bool) : State :=
  let ws := wordsOf a bs.length
  let p := clearWords s.brola.poison ws
  let keep := (Config.freeBits s.free).getLsbD 0
  let hit := ws.any fun w => decide (w ∈ s.brola.latent)
  { s with
    free := if hit then s.free + 1 else s.free
    brola := { s.brola with
      mem := Memory.writeN s.brola.mem a bs
      poison := if poison then markWords p ws else p
      latent := if keep then s.brola.latent else clearWords s.brola.latent ws } }

/-! The program queue (R251, R479). -/

/-- The capo of an admission descriptor, Table 9-1. -/
def descCapo (d : Nat) : Nat := bits d 112 9

/-- Whether the queue takes one more descriptor: 16 entries, of which each pinned capo keeps one (R251, R479). -/
def queueTakes (s : State) (capo : Nat) : Bool :=
  let kept := ((pinnedCapos s.prog.eff).filter fun c => c != capo && s.prog.queue.all fun e => descCapo e.1 != c).length
  decide (s.prog.queue.length + kept < 16)

/-- The loader of a descriptor (R251): a host port of the course, or Rilash. -/
def loaderOf (r : Req) : Via := if srcIsHost r.src then .host (srcUnit r.src - 1) else .self

def progStore (s : State) (r : Req) : Done :=
  let d := ofLe (r.data.take 64)
  if !queueTakes s (descCapo d) then retryIn s .kojor r 100
  else ⟨{ s with prog := { s.prog with queue := s.prog.queue ++ [(d, loaderOf r)] } }, cmpOf r (mySrc s) .ok, []⟩

/-! A store at its target, with every check of steps 5 to 8 but the FINAL hold. -/

/-- What steps 5 to 8 leave of a request: it went elsewhere or waits, it is refused, or it may be performed as given. -/
inductive Ready where
  | stop (s : State)
  | fail (d : Done)
  | ok (s : State) (run : State → Done)

/-- A store at a switch-resident page or scratch window. -/
def storeMem (s : State) (r : Req) (v : Via) : Ready :=
  match findMem s r v with
  | .stop s => .stop s
  | .fail d => .fail d
  | .scr s k => .ok s fun s => ⟨scratchWrite s k r.data r.poison, cmpOf r (mySrc s) .ok, []⟩
  | .page s g key m =>
    if g.ro || (windowAt s r.capo (aOff r.addr) r.len).isSome then .fail (refuse s .kojor r .accDenied)
    else if m && mirrorFull s r.capo then .fail (mirrorRetry s r)
    else .ok s fun s =>
      let x := pageWrite s r.capo g (aOff r.addr) key m r.data r.poison
      ⟨x.1, cmpOf r (mySrc s) .ok, x.2⟩

/-- A request at a location of this Kojor's control space (steps 5 and 7). -/
def ctlReady (s : State) (r : Req) (v : Via) (run : SwLoc → State → Done) : Ready :=
  if !zerosOk r.addr then .fail (refuse s .kojor r .unreachable)
  else if !ctlHere s r.addr then
    (if fromTwin v then .fail (refuse s .kojor r .unreachable) else .stop (arriveVia s r v))
  else
    match swLoc (aOff r.addr % 2 ^ 45) with
    | none => .fail (refuse s .kojor r .unreachable)
    | some l =>
      if !swAccepts l r then .fail (refuse s .kojor r .accDenied)
      else if opMirrored r.op && l != .progQ && mirrorFull s r.capo then .fail (mirrorRetry s r)
      else .ok s (run l)

/-- A request at a location of leaf control space. -/
def lfReady (s : State) (r : Req) (run : LfLoc → State → Done) : Ready :=
  if !ownLeaf s r.addr then .fail (refuse s .brola r .unreachable)
  else
    match lfLoc (aOff r.addr % 2 ^ 45) with
    | none => .fail (refuse s .brola r .unreachable)
    | some l => if lfAccepts l r then .ok s (run l) else .fail (refuse s .brola r .accDenied)

/-- A store at either responder. -/
def storeReady (s : State) (r : Req) (v : Via) : Ready :=
  match v with
  | .brola _ =>
    if !ownLeaf s r.addr then .fail (refuse s .brola r .unreachable)
    else
      match leafRefusal s r with
      | some d => .fail d
      | none => .ok s fun s => ⟨leafWrite s (aOff r.addr) r.data r.poison, cmpOf r (brolaSrc s) .ok, []⟩
  | _ =>
    if kindReserved r.addr then .fail (refuse s .kojor r .unreachable)
    else if aKind r.addr == 4 then
      ctlReady s r v fun _ s =>
        if srcIsLeaf r.src then refuse s .kojor r .accDenied else progStore s r
    else storeMem s r v

/-- A flag operation or counter raise at either responder. -/
def flagReady (s : State) (r : Req) (v : Via) : Ready :=
  match v with
  | .brola _ => lfReady s r fun l s => lfPerform s r l
  | _ => if kindReserved r.addr then .fail (refuse s .kojor r .unreachable) else ctlReady s r v fun l s => swPerform s r l

/-- The FINAL-able operations: ST and FSET. -/
def writeReady (s : State) (r : Req) (v : Via) : Ready := if r.op = 2 then storeReady s r v else flagReady s r v

/-! FINAL requests. -/

/-- The change of a held FINAL request or a count, mirrored by a Kojor (R71, R393): the messages to wait for. -/
def finalChange (s : State) (w : Party) (r : Req) (b : StateRec) : State × List Nat :=
  match w with
  | .kojor => mirrorChange s (pairSx r.src r.epoch) (r.src + r.epoch) r.capo (.mstate b)
  | .brola => (s, [])

def noteFinal (s : State) (w : Party) (r : Req) (b : StateRec) : State := (finalChange s w r b).1

/-- A held FINAL request leaves its slot and the count of its pair returns to zero, here and at the twin (R70, R71). -/
def finalGone (s : State) (w : Party) (r : Req) : State × List Nat :=
  let x := finalChange (zeroCount (dropFinal s w r) w r.src r.epoch) w r (.dropFinal r.src r.tc r.seq)
  let y := finalChange x.1 w r (.countZero r.src r.epoch)
  (y.1, x.2 ++ y.2)

/-- A held store applied in switch-resident memory, to this member's copy and the twin's. It was judged when it arrived, so neither the
region-table cache nor a window is asked again (R70, R86; log entry 165). -/
def heldPage (s : State) (r : Req) : Done :=
  let off := aOff r.addr
  match scratchWin off with
  | some (_, n, o) => ⟨scratchWrite s (scrKey n o) r.data r.poison, cmpOf r (mySrc s) .ok, []⟩
  | none =>
    match regionAt s.prog.eff r.capo (off / 4096) with
    | none => xlateFault s r .self r.addr
    | some g =>
      let key := copyKey g off (isMine s off)
      if !g.mir && !backUp s (keyTarget key) then refuse s .kojor r .unreachable
      else ⟨homeWrite s key r.data r.poison, cmpOf r (mySrc s) .ok,
        if g.mir then [(off / 4096, .mwrite (copyKey g off (!isMine s off)) r.data r.poison none)] else []⟩

/-- What a FINAL request does when it is applied (R70). -/
def heldRun (s : State) (h : HeldFinal) : Done :=
  let off := aOff h.r.addr % 2 ^ 45
  match partyOf h.v with
  | .brola =>
    if h.r.op = 2 then ⟨leafWrite s (aOff h.r.addr) h.r.data h.r.poison, cmpOf h.r (brolaSrc s) .ok, []⟩
    else ((lfLoc off).map (lfPerform s h.r)).getD (refuse s .brola h.r .unreachable)
  | .kojor =>
    if h.r.op = 2 then (if aKind h.r.addr = 4 then progStore s h.r else heldPage s h.r)
    else ((swLoc off).map (swPerform s h.r)).getD (refuse s .kojor h.r .unreachable)

/-- Applies each held FINAL request of a pair whose count has been reached, oldest first; the count returns to zero each
time (R70, R88). -/
def applyFinals : Nat → State → Party → Nat → Nat → State
  | 0, s, _, _, _ => s
  | n + 1, s, w, src, epoch =>
    match dueFinal s w src epoch with
    | none => s
    | some h =>
      let g := finalGone s w h.r
      applyFinals n (finishIf (performedWith g.2 h.r h.v (heldRun g.1 h)) w h.r) w src epoch

def settleFinals (s : State) (w : Party) (src epoch : Nat) : State := applyFinals (respOf s w).finals.length s w src epoch

/-- What follows a request's performance: its count once its mirror messages are confirmed, the FINAL requests that the
count releases, and its completion (R70, R71, R391). -/
def afterDone (s : State) (w : Party) (r : Req) : State :=
  finishIf (settleFinals (countDone s w r) w r.src r.epoch) w r

/-- A request performed at its responder, to its completion or its wait for the twin. -/
def settle (r : Req) (v : Via) (d : Done) : State := afterDone (performed r v d) (partyOf v) r

/-- As `settle`, for a completion that also waits for messages sent before (R58). -/
def settleWith (more : List Nat) (r : Req) (v : Via) (d : Done) : State := afterDone (performedWith more r v d) (partyOf v) r

/-- Steps 5 to 9 of a request that is not held. -/
def runReady (r : Req) (v : Via) : Ready → State
  | .stop s => s
  | .fail d => settle r v d
  | .ok s run => settle r v (run s)

/-- A FINAL request held until its count is reached, or refused with RETRY when no slot is free (R70, R71). -/
def holdFinal (s : State) (r : Req) (v : Via) : State :=
  let w := partyOf v
  let slot := (countOf s w r.src r.epoch).isSome || countFree s w r
  let atOnce := (oldestFinal s w r.src r.epoch).isNone && decide (r.expect ≤ ((countOf s w r.src r.epoch).getD {}).n)
  if !atOnce && !(slot && finalFree s w r) then settle r v (retryIn s w r 10)
  else
    let p := respOf s w
    let s := setResp s w { p with finals := p.finals ++ [{ r := r, v := v, arrived := nowOf s w }] }
    let s := keepRunning s r v .final
    settleFinals (if atOnce then s else noteFinal s w r (.heldFinal r (nowOf s w))) w r.src r.epoch

/-- A write with or without FINAL. -/
def runWrite (r : Req) (v : Via) : Ready → State
  | .stop s => s
  | .fail d => settle r v d
  | .ok s run => if r.final then holdFinal s r v else settle r v (run s)

/-- A request that has crossed the link to its RT or HX leaves the landing reserve there, and its credit returns (R168). -/
def leaveDie (s : State) (r : Req) (v : Via) : State :=
  let mine := fun (d : DieHeld) => d.p == .req r
  if partyOf v == .kojor && s.sw.dieHeld.any mine then { s with sw := { s.sw with dieHeld := dropFirst mine s.sw.dieHeld } } else s

/-- The entry of a request and what its opcode does after step 4. -/
def runEntry (s : State) (r : Req) (v : Via) (go : State → State) : State :=
  match entry (leaveDie s r v) r v with
  | .stop s => s
  | .fail d => settle r v d
  | .go s => go s

/-! Loads and atomics. -/

/-- ERRADDR: the byte of a request's range at which a bad word begins (R62). -/
def errAt (r : Req) (key word : Nat) : W64 := r.addr + BitVec.ofNat 64 (word * 8 - key)

/-- A load that finds no error returns the bytes (R56, R76, R79). -/
def loadDone (s : State) (w : Party) (r : Req) (bs : List Byte) : Done :=
  ⟨s, { cmpOf r (meOf s w) .ok with len := r.len, data := bs }, []⟩

def loadScratch (s : State) (r : Req) (k : Nat) : Done :=
  match findBad s.scrPoison s.scrLatent k r.len with
  | some (st, w) =>
    let ws := latentIn s.scrLatent k r.len
    ⟨{ s with scrPoison := markWords s.scrPoison ws, scrLatent := clearWords s.scrLatent ws }, cmpErr r (mySrc s) st (errAt r k w), []⟩
  | none => loadDone s .kojor r (Memory.readN s.scratch k r.len)

def loadPage (s : State) (r : Req) (k : Nat) : Done :=
  match findBad s.mem.poison s.mem.latent k r.len with
  | some (st, w) =>
    let s' := if st = .poison then countPoison s k else physFind s k r.len
    ⟨countBytes s' k r.len false, cmpErr r (mySrc s) st (errAt r k w), []⟩
  | none => loadDone (countBytes s k r.len false) .kojor r (physRead s k r.len)

def loadLeaf (s : State) (r : Req) : Done :=
  let a := aOff r.addr
  match findBad s.brola.poison s.brola.latent a r.len with
  | some (st, w) =>
    let ws := latentIn s.brola.latent a r.len
    ⟨{ s with brola := { s.brola with poison := markWords s.brola.poison ws, latent := clearWords s.brola.latent ws } },
      cmpErr r (brolaSrc s) st (errAt r a w), []⟩
  | none => loadDone s .brola r (Memory.readN s.brola.mem a r.len)

/-- A load of a page whose newest write the twin does not yet hold waits (R77). -/
def loadUnheld (s : State) (g : Region) (r : Req) : Bool :=
  g.mir && mirrorOn s && writeUnheld s (copyKey g (aOff r.addr) (!isMine s (aOff r.addr))) r.len

/-- Steps 5 to 9 of a load. -/
def doLd (s : State) (r : Req) (v : Via) : State :=
  match v with
  | .brola _ =>
    if !ownLeaf s r.addr then settle r v (refuse s .brola r .unreachable)
    else
      match leafRefusal s r with
      | some d => settle r v d
      | none => settle r v (loadLeaf s r)
  | _ =>
    if kindReserved r.addr then settle r v (refuse s .kojor r .unreachable)
    else
      match findMem s r v with
      | .stop s => s
      | .fail d => settle r v d
      | .scr s k => settle r v (loadScratch s r k)
      | .page s g key _ => if loadUnheld s g r then keepRunning s r v .twinRead else settle r v (loadPage s r key)

/-- Steps 5 to 9 of a store. -/
def doSt (s : State) (r : Req) (v : Via) : State := runWrite r v (storeReady s r v)

/-- The new value of an integer atomic on a word of n bytes (R58, R59, R101). -/
def atomicNew (op : Nat) (sgn : Bool) (n old a b : Nat) : Nat :=
  let m := 2 ^ (8 * n)
  let a := a % m
  let lt := fun x y => if sgn then decide (signed x (8 * n) < signed y (8 * n)) else decide (x < y)
  match op with
  | 0x10 => (old + a) % m
  | 0x11 => old &&& a
  | 0x12 => old ||| a
  | 0x13 => old ^^^ a
  | 0x14 => a
  | 0x15 => if old = a then b % m else old
  | 0x16 => if lt old a then a else old
  | 0x17 => if lt a old then a else old
  | 0x18 => fpAddEnc fp32 old a
  | _ => fpAddEnc bf16 old a

def atomicOf (r : Req) (old : Nat) : Nat := atomicNew r.op (bit r.attr 1) r.len old r.op0.toNat r.op1.toNat

/-- The words of a codeword other than an atomic's own whose latent error its read finds (R62). -/
def atomicPage (s : State) (r : Req) (g : Region) (key : Nat) (mirror : Bool) : Done :=
  match findBad s.mem.poison s.mem.latent key r.len with
  | some (st, _) => ⟨if st = .poison then countPoison s key else physFind s key r.len, cmpErr r (mySrc s) st r.addr, []⟩
  | none =>
    let old := Memory.readLe s.mem.phys key r.len
    let bs := leBytes r.len (atomicOf r old)
    let lost := (partialFinds s.mem.latent (wordsOf key r.len)).eraseDups
    let s := lost.foldl (fun s w => memUncorr s (w * 8)) s
    let s := { s with mem := { s.mem with poison := markWords s.mem.poison lost, latent := clearWords s.mem.latent lost } }
    let s := physPoke s key bs
    let c := { cmpOf r (mySrc s) .ok with result := BitVec.ofNat 64 old }
    let off := aOff r.addr
    let word := off / 8 * 8
    ⟨s, c, if mirror || (g.mir && s.course.alone) then
      [(off / 4096, .mwrite (copyKey g word (!isMine s off)) (Memory.readN s.mem.phys (key / 8 * 8) 8) false none)] else []⟩

def atomicLeaf (s : State) (r : Req) : Done :=
  let a := aOff r.addr
  match findBad s.brola.poison s.brola.latent a r.len with
  | some (st, _) =>
    let ws := latentIn s.brola.latent a r.len
    ⟨{ s with brola := { s.brola with poison := markWords s.brola.poison ws, latent := clearWords s.brola.latent ws } },
      cmpErr r (brolaSrc s) st r.addr, []⟩
  | none =>
    let old := Memory.readLe s.brola.mem a r.len
    ⟨{ s with brola := { s.brola with mem := Memory.writeLe s.brola.mem a r.len (atomicOf r old) } },
      { cmpOf r (brolaSrc s) .ok with result := BitVec.ofNat 64 old }, []⟩

/-- Steps 5 to 8 of an atomic; AADD also reaches arrival counters. -/
def atomicReady (s : State) (r : Req) (v : Via) : Ready :=
  if !kindReserved r.addr && aKind r.addr == 4 then flagReady s r v
  else
    match v with
    | .brola _ =>
      if !ownLeaf s r.addr then .fail (refuse s .brola r .unreachable)
      else
        match leafRefusal s r with
        | some d => .fail d
        | none => .ok s fun s => atomicLeaf s r
    | _ =>
      if kindReserved r.addr then .fail (refuse s .kojor r .unreachable)
      else
        match findMem s r v with
        | .stop s => .stop s
        | .fail d => .fail d
        | .scr s _ => .fail (refuse s .kojor r .accDenied)
        | .page s g key m =>
          if g.ro || (windowAt s r.capo (aOff r.addr) r.len).isSome then .fail (refuse s .kojor r .accDenied)
          else if m && mirrorFull s r.capo then .fail (mirrorRetry s r)
          else .ok s fun s => atomicPage s r g key m

def doAtomic (s : State) (r : Req) (v : Via) : State := runReady r v (atomicReady s r v)

/-- Steps 5 to 9 of FSET, FCLR and FTEST. FTEST waits for the twin to hold the word's newest change (R77). -/
def flagUnheld (s : State) (r : Req) : Bool :=
  mirrorOn s && aSwitch r.addr &&
    match swLoc (aOff r.addr % 2 ^ 45) with
    | none => false
    | some l => match swRecord s (ctlMember r.addr) r.capo l with
      | none => false
      | some x => itemUnheld s x

def doFlag (s : State) (r : Req) (v : Via) : State :=
  match flagReady s r v with
  | .ok s run =>
    if r.final then holdFinal s r v
    else if r.op == 0x32 && partyOf v == .kojor && flagUnheld s r then keepRunning s r v .twinRead
    else settle r v (run s)
  | x => runWrite r v x

/-! The commands. A request whose opcode is not the command's is no such command. -/

/-- LD (R76, R77, R79, R80). It also stands for a request whose opcode Table 2-7 does not define, which ends at step 3 (R61). -/
def execLd (r : Req) (v : Via) (s : State) : Res :=
  .next (if r.op = 1 ∨ !opKnown r.op then runEntry s r v (fun s => doLd s r v) else s)

/-- ST (R76, R80, R84, R220, R251). -/
def execSt (r : Req) (v : Via) (s : State) : Res := .next (if r.op = 2 then runEntry s r v (fun s => doSt s r v) else s)

/-- An atomic command with its opcode. -/
def atomicCmd (op : Nat) (r : Req) (v : Via) (s : State) : State :=
  if r.op = op then runEntry s r v (fun s => doAtomic s r v) else s

/-- AADD (R101, R117, R120, R280). -/
def execAadd (r : Req) (v : Via) (s : State) : Res := .next (atomicCmd 0x10 r v s)
/-- AAND (R101). -/
def execAand (r : Req) (v : Via) (s : State) : Res := .next (atomicCmd 0x11 r v s)
/-- AOR (R101). -/
def execAor (r : Req) (v : Via) (s : State) : Res := .next (atomicCmd 0x12 r v s)
/-- AXOR (R101). -/
def execAxor (r : Req) (v : Via) (s : State) : Res := .next (atomicCmd 0x13 r v s)
/-- ASWAP (R101). -/
def execAswap (r : Req) (v : Via) (s : State) : Res := .next (atomicCmd 0x14 r v s)
/-- ACAS (R101). -/
def execAcas (r : Req) (v : Via) (s : State) : Res := .next (atomicCmd 0x15 r v s)
/-- AMAX (R101). -/
def execAmax (r : Req) (v : Via) (s : State) : Res := .next (atomicCmd 0x16 r v s)
/-- AMIN (R101). -/
def execAmin (r : Req) (v : Via) (s : State) : Res := .next (atomicCmd 0x17 r v s)
/-- FADD32 (R102). -/
def execFadd32 (r : Req) (v : Via) (s : State) : Res := .next (atomicCmd 0x18 r v s)
/-- FADDB16 (R102). -/
def execFaddb16 (r : Req) (v : Via) (s : State) : Res := .next (atomicCmd 0x19 r v s)

/-- A flag command with its opcode. -/
def flagCmd (op : Nat) (r : Req) (v : Via) (s : State) : State :=
  if r.op = op then runEntry s r v (fun s => doFlag s r v) else s

/-- FSET (R70, R290, R291). -/
def execFset (r : Req) (v : Via) (s : State) : Res := .next (flagCmd 0x30 r v s)
/-- FCLR (R58, R280). -/
def execFclr (r : Req) (v : Via) (s : State) : Res := .next (flagCmd 0x31 r v s)
/-- FTEST (R120, R280). -/
def execFtest (r : Req) (v : Via) (s : State) : Res := .next (flagCmd 0x32 r v s)

end Sys2Proof.Machine
end

