-- ==== Sys2Proof/Machine/Accum.lean ====
section
/-! DEFINITION. Accumulators of reduction windows: plain and exact modes, finalisation and rounding (R210 to R215, R298). -/

namespace Sys2Proof.Machine

open Sys2Proof

/-- Bits of an integer format. -/
def intBits (fmt : Nat) : Nat := 8 * fmtSize fmt

/-- One arrival of a plain accumulator with an operation (0 sum, 1 max, 2 min), R211. Floats are held as FP32. -/
def plainAdd (fmt rop : Nat) (a : Acc) (x : Nat) : Acc :=
  if fmtIsInt fmt then
    let m := 2 ^ intBits fmt
    let old := a.plain.toNat
    let lt := fun u v => decide (signed u (intBits fmt) < signed v (intBits fmt))
    let y := if !a.any then x % m else if rop = 0 then (old + x) % m
      else if rop = 1 then (if lt old x then x else old) else (if lt x old then x else old)
    { a with any := true, plain := BitVec.ofNat 64 y }
  else
    let f := fpConvert (fmtOf fmt) fp32 x
    let old := a.plain.toNat
    let y := if !a.any then f else if rop = 0 then fpAddEnc fp32 old f
      else if rop = 1 then fpMaxEnc fp32 old f else fpMinEnc fp32 old f
    { a with any := true, plain := BitVec.ofNat 64 y }

/-- The value of an arrival in units of 2^-149, with its special code (R212). -/
def exactOf (fmt x : Nat) : BitVec 2 × Int :=
  if fmtIsInt fmt then (0, signed x (intBits fmt) * 2 ^ 149)
  else
    match fpDecode (fmtOf fmt) x with
    | .nan => (3, 0)
    | .inf neg => (if neg then 2 else 1, 0)
    | .fin neg m e => (0, fpScaled neg m e (-149))

/-- One arrival of an exact accumulator (R212). -/
def exactAdd (fmt rop : Nat) (a : Acc) (x : Nat) : Acc :=
  let v := exactOf fmt x
  let neg := bit x ((fmtOf fmt).width) && !fmtIsInt fmt
  let zero := v.1 == 0 && v.2 == 0
  let b := { a with any := true, sawPos0 := a.sawPos0 || (zero && !neg), sawNeg0 := a.sawNeg0 || (zero && neg) }
  if v.1 = 3 ∨ a.special = 3 then { b with special := 3, value := 0 }
  else if rop = 0 then { b with special := a.special ||| v.1, value := a.value + v.2 }
  else
    let top : BitVec 2 := if rop = 1 then 1 else 2
    let low : BitVec 2 := if rop = 1 then 2 else 1
    if v.1 = top ∨ (a.any ∧ a.special = top) then { b with special := top, value := 0 }
    else if !a.any then { b with special := v.1, value := v.2 }
    else if v.1 = low then b
    else if a.special = low then { b with special := 0, value := v.2 }
    else { b with value := if rop = 1 then max a.value v.2 else min a.value v.2 }

/-- The most negative and most positive finite values of a format as encodings, and the identity of an operation (R298). -/
def ropIdentity (fmt rop : Nat) : Nat :=
  if rop = 0 then 0
  else if fmtIsInt fmt then (if rop = 1 then 2 ^ (intBits fmt - 1) else 2 ^ (intBits fmt - 1) - 1)
  else if rop = 1 then 2 ^ (fmtOf fmt).width + (fmtOf fmt).maxEnc else (fmtOf fmt).maxEnc

/-- The result of an element (R210, R213): its encoding, and whether an integer saturated. `dest` is the addend of INIT = DEST. -/
def finishAcc (fmt rop : Nat) (exact : Bool) (up : Bool → Nat → Nat → Nat → Bool) (a : Acc) (dest : Option Nat) : Nat × Bool :=
  let a := match dest with
    | none => a
    | some x => if exact then exactAdd fmt rop a x else plainAdd fmt rop a x
  if !a.any then (ropIdentity fmt rop, false)
  else if !exact then
    if fmtIsInt fmt then (a.plain.toNat, false) else (fpEncode (fmtOf fmt) up (fpDecode fp32 a.plain.toNat), false)
  else if fmtIsInt fmt then
    let n := a.value / 2 ^ 149
    let hi : Int := 2 ^ (intBits fmt - 1) - 1
    let lo : Int := -(2 ^ (intBits fmt - 1))
    if n > hi then (unsigned hi (intBits fmt), true) else if n < lo then (unsigned lo (intBits fmt), true)
    else (unsigned n (intBits fmt), false)
  else
    let p := fmtOf fmt
    if a.special = 3 then (fpNan p, false)
    else if a.special = 1 then (fpInf p false, false)
    else if a.special = 2 then (fpInf p true, false)
    else if a.value = 0 then
      let neg := if rop = 0 then false else if rop = 1 then !a.sawPos0 else a.sawNeg0
      (ofB neg * 2 ^ p.width, false)
    else (fpRound p up (decide (a.value < 0)) a.value.natAbs (-149), false)

/-- The elements of a payload: numbers of the format's size. -/
def elementsOf (size : Nat) : Nat → List Byte → List Nat
  | 0, _ => []
  | n + 1, bs => ofLe (bs.take size) :: elementsOf size n (bs.drop size)

/-- A payload accumulated from element `i` on. -/
def accumulate (fmt rop : Nat) (exact : Bool) (m : TMap Nat Acc) (i : Nat) (xs : List Nat) : TMap Nat Acc :=
  (xs.zipIdx i).foldl (fun m x =>
    let a := m.get x.2 {}
    m.set x.2 (if exact then exactAdd fmt rop a x.1 else plainAdd fmt rop a x.1)) m

end Sys2Proof.Machine
end

