-- ==== Sys2Proof/Machine/Reduce.lean ====
section
/-! DEFINITION. Reduction windows: contributions, states and their ends (R200 to R209, R216 to R219, R300). -/

namespace Sys2Proof.Machine

open Sys2Proof

/-! Tiles and placement (R200, R216, R218). -/

/-- An RT in service: its domain on, its links carrying traffic, and not taken out (R36, R41, R269). -/
def rtUp (s : State) (n : Nat) : Bool :=
  pdIsOn s (12 + n) && !d2dDown s (14 + n) && !d2dDown s (30 + n) && decide (n ∉ s.prog.rtOut) && decide (n ∉ s.prog.rtTest)

/-- The RT of a page for this member's copy: its stack's tile in tier A, else by OFFSET[15:13] with the exchange for a tile
that was out at the declaration (R200). -/
def pageRt (s : State) (rtOut : List Nat) (capo off : Nat) : Nat :=
  let n := bits off 13 3
  match regionAt s.prog.eff capo (off / 4096) with
  | some g => if g.tier = 0 then (placeOf g (off / 4096) (isMine s off)).1 else if n ∈ rtOut then n ^^^ 1 else n
  | none => if n ∈ rtOut then n ^^^ 1 else n

def winOf (s : State) (wid : Nat) : Option Window := s.wins.get wid none
def setWin (s : State) (w : Window) : State := { s with wins := s.wins.set w.d.wid (some w) }

/-- The pages of a window, as offsets. -/
def winPages (w : Window) : List Nat := (List.range w.d.lenp).map fun i => w.d.base + 4096 * i

/-- Whether a page is of this member's half: its own pages, and all while ALONE (R219). -/
def myHalf (s : State) (off : Nat) : Bool := isMine s off || !s.course.twinUp

/-- The RTs that hold lines of a window on this member (R218). -/
def winRts (s : State) (w : Window) : List Nat := sortNat ((winPages w).map fun o => pageRt s w.rtOut w.d.capo o).eraseDups

/-- The lowest-numbered in-service RT that holds lines (R222). -/
def winRt (s : State) (w : Window) : Nat := ((winRts s w).find? (rtUp s)).getD ((winRts s w).headD 0)

/-- Whether the window lies in a mirrored region. -/
def winMirrored (s : State) (w : Window) : Bool := ((regionAt s.prog.eff w.d.capo (w.d.base / 4096)).map (·.mir)).getD false

/-- Whether a page of a window is served by this member: its own, but those whose lines the twin serves while their RT is out, and the
twin's that this member serves (R205, R218). -/
def winOwn (s : State) (w : Window) (off : Nat) : Bool := (isMine s off && decide (off ∉ w.given)) || decide (off ∈ w.taken)

/-- Whether a page of a window is still this member's to finish: those it serves, and the lost member's whose record has not come (R219). -/
def winHalf (s : State) (w : Window) (off : Nat) : Bool := winOwn s w off || (!s.course.twinUp && !w.twinWritten && !w.twinEnded)

/-- Whether a page's results are still to be written by this member: those it serves once, and those of a lost member in a mirrored region
(R205, R218, R219). -/
def winToWrite (s : State) (w : Window) (off : Nat) : Bool :=
  if winOwn s w off then !w.ownWritten else winHalf s w off && winMirrored s w

/-! Completeness (R205). -/

/-- A window's record with a state of its instance (Table 14-2). -/
def winRec (w : Window) (st : WinState) : StateRec :=
  .window { d := w.d, st := st, epoch := w.epoch, fmt := w.fmt, exact := w.exact, op0 := w.sigOp0, conflict := w.conflict, openedAt := w.openedAt,
            lastF := w.lastF, finals := w.finals, ovf := w.ovf, pline := w.pline }

/-- The lines of this member's half. -/
def myLines (s : State) (w : Window) : Nat := ((winPages w).filter (winHalf s w)).length * 64

/-- Lines of this half that have received E × 64 bytes. -/
def fullLines (s : State) (w : Window) : Nat :=
  (w.lines.filter fun e => winHalf s w (w.d.base + 64 * e.1) && e.2.bytes == w.d.e * 64).length

/-- Whether the other half needs to report: it has pages and the twin serves them. -/
def twinHas (s : State) (w : Window) : Bool := s.course.twinUp && (winPages w).any fun o => !winOwn s w o

def winNote (s : State) (w : Window) (b : StateRec) : State := mirrorNote s (w.d.wid % 4) w.d.wid w.d.capo (.mstate b)

/-- Both halves complete: FINALISING (R205). -/
def winAdvance (s : State) (wid : Nat) : State :=
  match winOf s wid with
  | none => s
  | some w =>
    if w.st = .active ∧ w.ownDone ∧ (w.twinDone ∨ !twinHas s w) then
      winNote (setWin s { w with st := .finalising }) w (winRec w .finalising)
    else s

/-- This half complete: the twin is told (R205). -/
def winCheck (s : State) (wid : Nat) : State :=
  match winOf s wid with
  | none => s
  | some w =>
    if w.st = .active ∧ !w.ownDone ∧ fullLines s w = myLines s w then
      winAdvance (winNote (setWin s { w with ownDone := true }) w (.halfDone wid w.epoch w.taken)) wid
    else winAdvance s wid

/-! Ends of an instance. -/

/-- The SIG fields of a window instance (R205, R300, Table 2-9). -/
def sigOf (w : Window) (c : Cmp) (conflict : Nat) : Cmp :=
  { c with
    status := .collMismatch
    sigOp := if w.exact then 0x21 else 0x20
    sigFmt := w.fmt
    sigCount := w.d.lenp * 4096 / fmtSize w.fmt
    sigGepoch := if w.d.group = 0 then w.epoch else bits w.sigOp0.toNat 32 16
    conflict := conflict }

/-- A window without its instance's contents. -/
def clearInst (w : Window) : Window :=
  { w with lines := [], accs := [], held := [], ownDone := false, twinDone := false, twinWritten := false, twinEnded := false,
           ownWritten := false, waits := [], ovfNow := false, plineNow := false }

/-- An instance poisoned (R205): contents discarded, every held contribution answered. -/
def winPoison (s : State) (w : Window) (src : Nat) (tell : Bool) : State :=
  let s := bump s .rtWinPoison [winRt s w, w.d.capo]
  let s := setWin s { clearInst w with st := .poisoned, conflict := src, changedAt := s.clk.now }
  let s := if tell then winNote s w (winRec { w with conflict := src } .poisoned) else s
  w.held.foldl (fun s h => settle h.1 h.2 ⟨s, sigOf w (cmpOf h.1 (mySrc s) .ok) src, []⟩) s

/-- An instance expired (R207, R218): contents discarded, held contributions dropped without completion. -/
def winExpire (s : State) (w : Window) (tell : Bool) : State :=
  let s := bump s .rtWinExpire [winRt s w, w.d.capo]
  let s := setWin s { clearInst w with st := .expired, changedAt := s.clk.now }
  let s := if tell then winNote s w (winRec w .expired) else s
  w.held.foldl (fun s h => dropRunning s .kojor h.1) s

/-- The pages of an EACH window in a mirrored region whose lines the twin serves for this member: its own on an RT that is out (R218). -/
def givenNow (s : State) (w : Window) : List Nat :=
  if w.d.each && winMirrored s w && s.course.twinUp then
    (winPages w).filter fun o => isMine s o && !rtUp s (pageRt s w.rtOut w.d.capo o)
  else []

/-- Which member serves which lines of a window, settled anew when an RT leaves or returns: the twin is told, and each half is counted again
(R218). A FINALISING instance keeps its placement. -/
def winGive (s : State) (w : Window) : State :=
  let g := givenNow s w
  if g = w.given ∨ w.st = .finalising then s
  else
    let w := { w with given := g, ownDone := false, twinDone := false }
    winCheck (winNote (setWin s w) w (.linesMoved w.d.wid g)) w.d.wid

/-- A window after its instance: IDLE if it rearms, else RELEASED and removed (Table 7-7). -/
def winEnd (s : State) (w : Window) (tell : Bool) : State :=
  if w.d.rearm then
    let s := setWin s { clearInst w with st := .idle }
    let s := if tell then winNote s w (winRec w .idle) else s
    winGive s { clearInst w with st := .idle }
  else
    let s := { s with wins := s.wins.set w.d.wid none }
    if tell then winNote s w (.dropWindow w.d.wid) else s

/-- The twin's lines that this member serves from now on; both halves are counted again (R218). -/
def winTaken (s : State) (wid : Nat) (pages : List Nat) : State :=
  match winOf s wid with
  | none => s
  | some w => winCheck (setWin s { w with taken := pages, ownDone := false, twinDone := false }) wid

/-- The lines of every window, when an RT has left or returned (R218). -/
def placeLines (s : State) : State := (s.wins.filterMap (·.2)).foldl winGive s

/-- An RT leaves service while it holds lines (R218): ACTIVE instances of HOLD windows and of unmirrored regions expire; the twin serves the
lines of the others. -/
def rtLinesLost (s : State) (n : Nat) : State :=
  placeLines ((s.wins.filterMap (·.2)).foldl (fun s w =>
    if w.st = .active ∧ n ∈ winRts s w ∧ (!w.d.each ∨ !winMirrored s w) then winExpire s w true else s) s)

/-! Contributions. -/

/-- The lines of a range, with the bytes of the range in each. -/
def lineBytes (off n : Nat) : List (Nat × Nat) :=
  (List.range ((off + n - 1) / 64 - off / 64 + 1)).map fun i =>
    let l := off / 64 + i
    (l, overlap off n (64 * l) 64)

/-- The deadline of an instance in ns from its first arrival; 0 is none (R207). -/
def winDeadline (s : State) (d : WinDesc) : Nat :=
  (if d.deadline ≠ 0 then d.deadline else if d.each then 0 else min (capoCto s.prog.eff d.capo) 8000) * 1000

/-- The instance as an arrival opens it (R205, R207, R300). Its source stands as CONFLICT until a mismatch. -/
def openInst (s : State) (w : Window) (r : Req) : Window :=
  { clearInst w with
    st := .active, epoch := r.epoch, fmt := r.attr % 16, exact := r.op == 0x21, sigOp0 := r.op0, conflict := r.src,
    openedAt := s.clk.now, changedAt := s.clk.now, deadlineNs := winDeadline s w.d }

/-- An arrival that the window itself excludes (R205): a declared FMT or mode, or ROP, that differs. -/
def winDenies (w : Window) (r : Req) : Bool :=
  (w.d.fmt != 15 && w.d.fmt != r.attr % 16) || (w.d.mode == 0 && r.op != 0x20) || (w.d.mode == 1 && r.op != 0x21)
    || w.d.rop != r.attr / 16 % 4

/-- A mismatch in ACTIVE (R205, R300). -/
def winMismatch (w : Window) (r : Req) (off : Nat) : Bool :=
  r.epoch != w.epoch || w.fmt != r.attr % 16 || w.exact != (r.op == 0x21) || (w.d.group != 0 && w.sigOp0 != r.op0)
    || (lineBytes off r.len).any fun l => decide ((w.lines.get l.1 {}).bytes + l.2 > w.d.e * 64)

/-- The present cycle of the RTs, at 1.5 GHz (R189). -/
def rtCycle (s : State) : Nat := s.clk.now * 3 / 2

/-- A line's accumulators read (R217): a correctable error is counted; an uncorrectable one is counted, written to the scroll and marks
the line. -/
def accRead (s : State) (w : Window) (rt line : Nat) : State × Window :=
  let soft := decide (line ∈ w.accSoft)
  let hard := decide (line ∈ w.accHard)
  let x := w.lines.get line {}
  let s := if soft then bump s .rtAccCorr [rt] else s
  let s := if hard then scroll (bump s .rtAccUncorr [rt]) 5 .accUncorr (siteRT rt) [w.d.wid, line] (some w.d.capo) else s
  (s, { w with
    accSoft := w.accSoft.filter (· != line), accHard := w.accHard.filter (· != line)
    lines := if hard then w.lines.set line { x with poisoned := true } else w.lines })

/-- One line of a contribution: it waits until the line is free, which the RT counts (R201), and its bytes are received; poison marks it
(R217). -/
def lineAdd (rt : Nat) (poison : Bool) (x : State × Window) (l : Nat × Nat) : State × Window :=
  let y := accRead x.1 x.2 rt l.1
  let e := y.2.lines.get l.1 {}
  let c := rtCycle y.1
  let wait := e.free - c
  (if wait = 0 then y.1 else bump y.1 .rtLineWait [rt] wait,
    { y.2 with lines := y.2.lines.set l.1 { bytes := e.bytes + l.2, poisoned := e.poisoned || poison, free := max c e.free + 1 } })

/-- A contribution added to a window's lines and accumulators on an RT (R201, R210, R217). `off` is the offset in the window. -/
def winAdd (s : State) (rt : Nat) (w : Window) (r : Req) (off : Nat) : State × Window :=
  let size := fmtSize w.fmt
  let x := (lineBytes off r.len).foldl (lineAdd rt r.poison) (s, w)
  (x.1, { x.2 with accs := accumulate w.fmt w.d.rop w.exact w.accs (off / size) (elementsOf size (r.len / size) r.data) })

/-- The FP32 or integer accumulators of a range, as MACC carries them in plain mode (R206). -/
def accWords (w : Window) (off n : Nat) : List (Nat × W64) :=
  let size := fmtSize w.fmt
  (List.range (n / size)).map fun i => (off / size + i, (w.accs.get (off / size + i) {}).plain)

/-- Held-contribution records in use by a capo's part (R208, R482). -/
def heldUsed (s : State) (capo : Nat) : Nat :=
  ((s.wins.filterMap (·.2)).map fun w => (w.held.filter fun h => samePart s h.1.capo capo).length).sum

/-- Whether an arrival needs a held-contribution record: one that a HOLD instance would accept (R208). -/
def needsRecord (s : State) (w : Window) (r : Req) (off : Nat) : Bool :=
  !w.d.each &&
    match w.st with
    | .idle => w.lastF != some r.epoch && !winMismatch (openInst s w r) r off
    | .active => !winMismatch w r off
    | _ => false

/-- The RETRY_AFTER of an arrival that meets RETRY for want of a resource, step 8 of R63: a FINALISING instance of another EPOCH (Table
7-7), or no record free (R208). -/
def winRetry (s : State) (w : Window) (r : Req) (off : Nat) : Option Nat :=
  if w.st = .finalising ∧ r.epoch ≠ w.epoch then some 1
  else if needsRecord s w r off && decide (heldUsed s r.capo ≥ poolPart s 262144 r.capo) then some 10
  else none

/-- The COLL_MISMATCH of an arrival whose EPOCH equals the last finalised instance's: no open instance gives its SIG fields
(free values; log entry 30). -/
def staleCmp (s : State) (r : Req) : Done :=
  let f := Config.freeBits s.free
  let g := Config.freeBits (s.free + 1)
  let c := { cmpOf r (mySrc s) .collMismatch with
    sigOp := wbits f 0 8, sigFmt := wbits f 8 4, sigCount := wbits f 16 32, sigGepoch := wbits f 48 16, conflict := wbits g 0 16 }
  ⟨{ s with free := s.free + 2 }, c, []⟩

/-- A contribution accepted by an ACTIVE instance (R205, R206). -/
def winTake (s : State) (w : Window) (r : Req) (v : Via) (off : Nat) (opened : Bool) : State :=
  let rt := pageRt s w.rtOut w.d.capo (aOff r.addr)
  let x := winAdd s rt w r off
  let w := x.2
  let s := bump x.1 .rtLaneBytes [rt, ofB w.exact, w.d.capo] r.len
  let s := if opened then winNote s w (winRec w .active) else s
  if w.d.each then
    let s := setWin s w
    let m : List (Nat × MirrorBody) := if winMirrored s w then
        [(aOff r.addr / 4096, .macc w.d.wid w.epoch w.exact w.fmt off (if w.exact then r.data else [])
          (if w.exact then [] else accWords w off r.len) r.poison none)] else []
    winCheck (settle r v ⟨s, cmpOf r (mySrc s) .ok, m⟩) w.d.wid
  else
    winCheck (keepRunning (setWin s { w with held := w.held ++ [(r, v)] }) r v .window) w.d.wid

/-- An arrival at a window (Table 7-7), once `winRetry` lets it pass. -/
def winArrive (s : State) (w : Window) (r : Req) (v : Via) : State :=
  let off := aOff r.addr - w.d.base
  match w.st with
  | .idle =>
    if w.lastF = some r.epoch then settle r v (staleCmp s r)
    else
      let w' := openInst s w r
      if winMismatch w' r off then
        let s := winPoison (setWin s w') w' r.src true
        settle r v ⟨s, sigOf w' (cmpOf r (mySrc s) .ok) r.src, []⟩
      else winTake s w' r v off true
  | .active =>
    if winMismatch w r off then
      let s := winPoison s w r.src true
      settle r v ⟨s, sigOf w (cmpOf r (mySrc s) .ok) r.src, []⟩
    else winTake s w r v off false
  | .finalising => settle r v ⟨s, sigOf w (cmpOf r (mySrc s) .ok) r.src, []⟩
  | .poisoned => settle r v ⟨s, sigOf w (cmpOf r (mySrc s) .ok) w.conflict, []⟩
  | .expired => bump s .rtWinDrop [pageRt s w.rtOut w.d.capo (aOff r.addr), w.d.capo]

/-- The declared window of the capo that holds the first byte of a contribution. -/
def winAt (s : State) (capo off : Nat) : Option Window :=
  (s.wins.filterMap (·.2)).find? fun w => w.d.capo == capo && decide (w.d.base ≤ off ∧ off < w.d.base + w.d.lenp * 4096)

/-- A contribution to lines on an RT out of service goes over the soundpost (R218). -/
def toTwin (s : State) (r : Req) (v : Via) : State :=
  takeRoute s (entering (viaSx v) (viaPort v) (.req r) (stampNow s) 0 r.vc) (soundpostRoute s (viaSx v) r.seq)

/-- Steps 5 to 9 of a contribution (R63, R200, R205, R218). -/
def doRst (s : State) (r : Req) (v : Via) : State :=
  let off := aOff r.addr
  let no := fun st => settle r v (refuse s .kojor r st)
  if kindReserved r.addr || !zerosOk r.addr then no .unreachable
  else
    match scratchWin off with
    | some (m, n, o) =>
      match findScratch s r v m n o with
      | .fail d => settle r v d
      | .stop s => s
      | _ => no .accDenied
    | none =>
      if (tierOf off).isNone then no .unreachable
      else
        match regionAt s.prog.eff r.capo (off / 4096) with
        | none => settle r v (xlateFault s r v r.addr)
        | some g =>
          if !cached s (viaSx v) r.capo g.rid then cacheMiss s (viaSx v) g.rid r v
          else
            let s := cacheTouch s (viaSx v) r.capo g.rid
            let rt := pageRt s (((winAt s r.capo off).map (·.rtOut)).getD []) r.capo off
            let each := ((winAt s r.capo off).map (·.d.each)).getD false
            if !isMine s off && s.course.twinUp && !fromTwin v then arriveVia s r v
            else if !isMine s off && !g.mir && !s.course.twinUp then settle r v (refuse s .kojor r .unreachable)
            else if !rtUp s rt && (g.tier == 0 || (winAt s r.capo off).isSome) then
              (if each && g.mir && s.course.twinUp && !fromTwin v then toTwin s r v
               else settle r v (refuse s .kojor r .unreachable))
            else
              match winAt s r.capo off with
              | none => settle r v (refuse s .kojor r .accDenied)
              | some w =>
                let stop := w.d.base + w.d.lenp * 4096
                if off + r.len > stop then
                  let s := if w.d.group ≠ 0 ∧ w.st = .active then winPoison s w r.src true else s
                  settle r v ⟨s, cmpErr r (mySrc s) .accSplit (r.addr + BitVec.ofNat 64 (stop - off)), []⟩
                else if winDenies w r then settle r v (refuse s .kojor r .accDenied)
                else if (w.st == .idle || (w.d.each && w.st == .active)) && g.mir && mirrorFull s r.capo then settle r v (mirrorRetry s r)
                else
                  match winRetry s w r (off - w.d.base) with
                  | some us => settle r v (retryIn (if us = 10 then bump s .rtHeldFull [rt] else s) .kojor r us)
                  | none => if w.st != .expired && deferred s r.capo then settle r v (energyDefer s r) else winArrive s w r v

/-- RST: a plain contribution (R205, R211). -/
def execRst (r : Req) (v : Via) (s : State) : Res := .next (if r.op = 0x20 then runEntry s r v (fun s => doRst s r v) else s)

/-- RSTX: an exact contribution (R205, R212). -/
def execRstx (r : Req) (v : Via) (s : State) : Res := .next (if r.op = 0x21 then runEntry s r v (fun s => doRst s r v) else s)

/-! Finalisation (R205, R206, R210, R213 to R215, R217). -/

/-- The draw of an element under SR (R215): the count of instances finalised before this one. -/
def winUp (w : Window) (idx : Nat) : Bool → Nat → Nat → Nat → Bool :=
  if w.d.sr then srUp (srDraw w.d.seed.toNat idx w.d.wid w.epoch (w.finals % 2 ^ 32)) else rneUp

/-- The bytes of one line's result, and whether an integer saturated. `old` holds the destination's bytes. -/
def lineResult (w : Window) (line : Nat) (old : List Byte) : List Byte × Bool :=
  let size := fmtSize w.fmt
  let n := 64 / size
  let olds := elementsOf size n old
  let rs := (List.range n).map fun i =>
    let idx := line * n + i
    finishAcc w.fmt w.d.rop w.exact (winUp w idx) (w.accs.get idx {}) (if w.d.initDest then some (olds.getD i 0) else none)
  (rs.flatMap fun x => leBytes size x.1, rs.any (·.2))

/-- Writes one line at this member; the twin's key of the line and its bytes are returned for MFINAL (R206). -/
def finishLine (w : Window) (x : State × List (Nat × List Byte) × List Nat × Bool × Bool) (line : Nat) :
    State × List (Nat × List Byte) × List Nat × Bool × Bool :=
  let off := w.d.base + 64 * line
  match regionAt x.1.prog.eff w.d.capo (off / 4096) with
  | none => x
  | some g =>
    let y := accRead x.1 w (pageRt x.1 w.rtOut w.d.capo off) line
    let s := y.1
    let w := y.2
    let key := copyKey g off (isMine s off)
    let twin := copyKey g off (!isMine s off)
    let res := lineResult w line (physRead s key 64)
    let bad := (w.lines.get line {}).poisoned
    let s := homeWrite s key res.1 bad
    let s := if w.d.sr then bump s .rtSrDraws [pageRt s w.rtOut w.d.capo off, w.d.capo] (64 / fmtSize w.fmt) else s
    (s, x.2.1 ++ [(twin, res.1)], if bad then x.2.2.1 ++ wordsOf twin 64 else x.2.2.1, x.2.2.2.1 || res.2, x.2.2.2.2 || bad)

/-- The instance ends once this half is written and mirrored, its held completions sent, and the twin's half written: the status takes the
instance, FCTR rises, and the window rearms or is released (R205, R206, R283, Table 7-7). -/
def winFinish (s : State) (wid : Nat) : State :=
  match winOf s wid with
  | none => s
  | some w =>
    if w.st = .finalising ∧ !(winPages w).any (winToWrite s w) ∧ w.waits = [] ∧ (w.twinEnded ∨ !twinHas s w) then
      let s := bump s .rtWinFinal [winRt s w, w.d.capo]
      let w' := { w with lastF := some w.epoch, finals := w.finals + 1, ovf := w.ovfNow, pline := w.plineNow }
      let s := winEnd (setWin s w') w' (!s.course.twinUp)
      if w.d.fctrInc ≠ 0 then raiseOwn s ((site s).memberB, w.d.capo, w.d.fctr) w.d.fctrInc else s
    else s

/-- The twin has confirmed what it was sent of this half: it learns that the half is written (R205). -/
def winWritten (s : State) (wid : Nat) : State :=
  match winOf s wid with
  | none => s
  | some w =>
    if w.st = .finalising ∧ w.ownWritten ∧ w.waits = [] then winFinish (winNote s w (.winDone wid w.epoch w.ovfNow w.plineNow)) wid else s

/-- The results of this member's lines are written and mirrored with the duplicate entries of the held requests, which an unmirrored
region mirrors too; the held completions follow the twin's confirmation (R73, R205, R206). -/
def winFinalise (s : State) (w : Window) : State :=
  let lines := ((winPages w).filter (winToWrite s w)).flatMap fun o => (List.range 64).map fun i => (o - w.d.base) / 64 + i
  let x := lines.foldl (finishLine w) (s, [], [], false, false)
  let s := x.1
  let dups := w.held.map fun h => dupOf s h.2 h.1 (cmpOf h.1 (mySrc s) .ok)
  let m := if winMirrored s w then
      mirrorChange s (w.d.wid % 4) (w.d.base / 4096) w.d.capo (.mfinal w.d.wid w.epoch x.2.1 x.2.2.1 dups)
    else mirrorAll s (w.d.wid % 4) w.d.capo (dups.map fun e => (e.seq, .mstate (.dup e)))
  let s := setWin m.1 { w with
    held := [], accSoft := [], accHard := [], ownWritten := true, twinWritten := w.twinWritten || !s.course.twinUp, waits := w.waits ++ m.2
    ovfNow := w.ovfNow || x.2.2.2.1, plineNow := w.plineNow || x.2.2.2.2 }
  let s := w.held.foldl (fun s h =>
    let c := cmpOf h.1 (mySrc s) .ok
    let s := addDup s .kojor (dupOf s h.2 h.1 c)
    match findRunning s .kojor h.1 with
    | none => s
    | some run => afterDone (setRunning s .kojor { run with why := .mirror, awaits := m.2, done := some c }) .kojor h.1) s
  winWritten s w.d.wid

/-- WINDOW_FINALISED (R205). -/
def execWindowFinalised (wid : Nat) (s : State) : Res :=
  .next (match winOf s wid with
    | some w => if w.st = .finalising ∧ (winPages w).any (winToWrite s w) then winFinalise s w else s
    | none => s)

/-- WINDOW_DEADLINE: the deadline has run from the first arrival (R207). -/
def execWindowDeadline (wid : Nat) (s : State) : Res :=
  .next (match winOf s wid with
    | some w => if w.st = .active ∧ w.deadlineNs ≠ 0 ∧ w.openedAt + w.deadlineNs ≤ s.clk.now then winExpire s w true else s
    | none => s)

/-- WINDOW_RECOVER: the capo's completion timeout has run since the poisoning or the expiry (Table 7-7). -/
def execWindowRecover (wid : Nat) (s : State) : Res :=
  .next (match winOf s wid with
    | some w =>
      if (w.st = .poisoned ∨ w.st = .expired) ∧ w.changedAt + capoCto s.prog.eff w.d.capo * 1000 ≤ s.clk.now then winEnd s w true else s
    | none => s)

end Sys2Proof.Machine
end

