-- ==== Sys2Proof/Machine/Requester.lean ====
section
/-! DEFINITION. Requesters: streams and SEQ, the window, pacing, the string a Brola takes, transmission and
retransmission (R66 to R69, R108, R109, R112, R113, R171, R172). -/

namespace Sys2Proof.Machine

open Sys2Proof

def rqOf (s : State) : Party → Reqr
  | .kojor => s.rq
  | .brola => s.brola.rq
def setRq (s : State) (w : Party) (q : Reqr) : State :=
  match w with
  | .kojor => { s with rq := q }
  | .brola => { s with brola := { s.brola with rq := q } }

def findOut (s : State) (w : Party) (id : Nat) : Option Outst := (rqOf s w).out.find? fun o => o.id == id
def setOut (s : State) (w : Party) (o : Outst) : State :=
  let q := rqOf s w
  setRq s w { q with out := replaceFirst (fun x => x.id == o.id) (fun _ => o) q.out }
def dropOut (s : State) (w : Party) (id : Nat) : State :=
  let q := rqOf s w
  setRq s w { q with out := dropFirst (fun x => x.id == id) q.out }

/-! Issue (R67). -/

/-- The next SEQ of a stream: the previous plus one, modulo 2^24; a stream begins at 0 (log entry 31). -/
def nextSeq (q : Reqr) (d : Dest) (tc : Nat) : Nat :=
  match TMap.find q.seqs (d, tc) with
  | none => 0
  | some n => (n + 1) % 2 ^ 24

/-- A request issued by a party: its SEQ, its place in the order of issue, held until its release. -/
def issue (s : State) (w : Party) (r : Req) (ow : Owner) (wait : Option (Nat × Nat)) (xlate : Option Nat) : State :=
  let q := rqOf s w
  let d := destOf r.addr
  let n := nextSeq q d r.tc
  setRq s w { q with
    nextId := q.nextId + 1
    seqs := q.seqs.set (d, r.tc) n
    out := q.out ++ [{ id := q.nextId, r := { r with seq := n, vc := false, retry := false, hops := 0 }, dest := d, owner := ow,
                       accepted := nowOf s w, waitXlate := wait, xlateSrc := xlate }] }

/-! Holds (R68, R113, R171). -/

/-- A pair's charge: 64 + LENGTH for each request outstanding toward the destination (R171). -/
def pairCharge (q : Reqr) (d : Dest) : Nat := ((q.out.filter fun o => o.released && o.dest == d).map fun o => 64 + o.r.len).sum

/-- The window of a pair in bytes (R172): local in the source's own domain. A Brola takes both from ASSIGN. -/
def pairWindow (s : State) (w : Party) (r : Req) : Nat :=
  let here := match w with
    | .kojor => inDomain s r.addr
    | .brola => match s.brola.asg with
      | some a => aDy r.addr == a.dy && aDx r.addr == a.dx
      | none => true
  let n := match w with
    | .kojor => if here then capoLwin s.prog.eff r.capo else capoRwin s.prog.eff r.capo
    | .brola => match s.brola.asg with
      | some a => if here then a.lwin else a.rwin
      | none => 15
  (n + 1) * 65536

/-- Non-idempotent requests outstanding toward a destination (R68, R69). -/
def nonIdemOut (q : Reqr) (d : Dest) : Nat := (q.out.filter fun o => o.released && o.dest == d && !opIdem o.r.op).length

/-- Whether a SEQ of a stream may be issued: not within 16 ms of its previous issue, nor while outstanding (R68, R114). -/
def seqFree (q : Reqr) (now : Nat) (o : Outst) : Bool :=
  q.issued.all (fun x => !(x.1 == o.dest && x.2.1 == o.r.tc && x.2.2.1 == o.r.seq && decide (now < x.2.2.2 + dupHold)))
    && q.out.all (fun x => x.id == o.id || !x.released || x.dest != o.dest || x.r.tc != o.r.tc || x.r.seq != o.r.seq)

/-- Whether every hold lets a request pass (R108, R131, R171): an earlier request of its pair that waits holds it too. -/
def mayRelease (s : State) (w : Party) (o : Outst) : Bool :=
  let q := rqOf s w
  let now := nowOf s w
  let first := (q.out.takeWhile fun x => x.id != o.id).all fun x => x.released || x.dest != o.dest || x.waitXlate.isSome
  !o.released && o.waitXlate.isNone && decide (q.quietUntil ≤ now) && first
    && decide (pairCharge q o.dest + 64 + o.r.len ≤ pairWindow s w o.r)
    && (opIdem o.r.op || decide (nonIdemOut q o.dest < 4096)) && seqFree q now o

/-! The string a Brola takes (R108, R109, R132). -/

/-- The member a request of a course is for: R48, or bit 46 in control space, or the member of a scratch window. -/
def targetMember (a : W64) : Bool :=
  if aKind a == 4 then bit (aLx a) 0
  else match scratchWin (aOff a) with
    | some (m, _, _) => m == 1
    | none => ownerB (aOff a)

/-- The Ready strings to a member of a course: b div 2 mod K is the course and b odd is member B (R105). -/
def stringsTo (s : State) (k c : Nat) (mB : Bool) : List Nat :=
  sortNat (s.brola.ready.filter fun b => b / 2 % k == c && (b % 2 == 1) == mB)

/-- Whether the Brola takes a member as lost: by STEER, or because no string to it is Ready while one to its twin is (R132). -/
def memberLost (s : State) (k c : Nat) (mB : Bool) : Bool :=
  decide ((c, mB) ∈ s.brola.steered) || ((stringsTo s k c mB).isEmpty && !(stringsTo s k c (!mB)).isEmpty)

/-- The Ready strings a target uses, in the order of b (R108, R109): to one member of a course, or all of the leaf's strings. -/
def useStrings (s : State) (a : W64) : List Nat :=
  match s.brola.asg with
  | none => []
  | some g =>
    let k := max g.k 1
    let live := sortNat s.brola.ready
    if aKind a == 2 || (aKind a == 4 && aSwitch a) then
      let c := aLy a
      if k ≤ c then live
      else
        let m := targetMember a
        stringsTo s k c (if memberLost s k c m then !m else m)
    else live

/-- No Ready string holds an ASSIGN with a lower sweep number than another string's (R131). -/
def assignsAgree (s : State) : Bool :=
  let l := (s.brola.assigns.filterMap fun x => x.2.map fun a => (x.1, a.sweep))
  l.all fun x => decide (x.1 ∉ s.brola.ready) || l.all fun y => decide (y.2 ≤ x.2)

/-! Transmission. -/

/-- The tag under which the copies of one multicast store share their cells (R146). -/
def mcOf : Owner → Nat
  | .mcast id _ => id
  | _ => 0

/-- A Kojor's own request enters its switch at port 135 of SX0 (log entry 23). -/
def kSend (s : State) (r : Req) (mc : Nat) : State :=
  let p := Pkt.req r
  takeRoute (bump (emit s (.req .kojor r 135)) .sxPktIn [0, 135, r.tc]) (entering 0 135 p (stampNow s) mc false) (route s 0 135 p false)

/-- Sends an outstanding request, if a string of its target is Ready and has credit for it, and the strings agree (R108, R131, R169);
otherwise its transmission stays due. A Kojor's own requests always go. -/
def transmitReq (s : State) (w : Party) (o : Outst) : State :=
  match w with
  | .kojor =>
    let r := sealReq { o.r with src := mySrc s }
    kSend (setOut s .kojor { o with r := r, port := some 135, sent := true }) r (mcOf o.owner)
  | .brola =>
    if s.brola.asg.isNone || !assignsAgree s then setOut s .brola { o with due := true }
    else
      let l := useStrings s o.r.addr
      match l[o.r.seq % l.length]? with
      | none => setOut s .brola { o with due := true }
      | some b =>
        let r := sealReq { o.r with src := brolaSrc s, capo := (s.brola.asg.map (·.capo)).getD 0 }
        let n := pktCells (.req r)
        let x := 544 + b
        if clsCredit s x r.tc false + clsCredit s x 8 false < n then setOut s .brola { o with due := true }
        else
          emit (sendSlots (linkTake (setOut s .brola { o with r := r, port := some b, sent := true, due := false }) x r.tc n false)
            (some x) (pktSlots (pktFlits (.req r)) r.tc)) (.req .brola r b)

/-- The length of a completion-timeout period in ns (R35, R112). -/
def ctoPeriod (s : State) (w : Party) (r : Req) : Nat :=
  let cto := match w with
    | .kojor => capoCto s.prog.eff r.capo
    | .brola => (s.brola.asg.map (·.cto)).getD 8000
  (if opIdem r.op then cto else min cto 8000) * 1000

/-- The release of a request: outstanding, charged, its timeout running, its first transmission (R69, R108, R112). -/
def releaseNow (s : State) (w : Party) (o : Outst) : State :=
  let q := rqOf s w
  let now := nowOf s w
  let non := !opIdem o.r.op
  let k := q.issueNo.get o.dest 0
  let o' := { o with released := true, firstAt := now, sentAt := now, period := ctoPeriod s w o.r,
                     issueNo := k, outAt := nonIdemOut q o.dest }
  let s := setRq s w { q with
    issued := (q.issued.filter fun x => decide (now < x.2.2.2 + dupHold)) ++ [(o.dest, o.r.tc, o.r.seq, now)]
    issueNo := if non then q.issueNo.set o.dest (k + 1) else q.issueNo }
  transmitReq (setOut s w o') w o'

def releaseTry (s : State) (w : Party) (id : Nat) : State :=
  match findOut s w id with
  | none => s
  | some o => if mayRelease s w o then releaseNow s w o else s

/-- Every request that its holds now let pass, in order of issue. -/
def releaseAll (s : State) (w : Party) : State := ((rqOf s w).out.map (·.id)).foldl (fun s id => releaseTry s w id) s

/-- A Kojor issues a request of its own and releases it as soon as its holds allow. -/
def kIssue (s : State) (r : Req) (ow : Owner) : State := releaseAll (issue s .kojor { r with src := mySrc s } ow none none) .kojor

/-- Whether a non-idempotent request may be retransmitted (R69). -/
def mayRepeat (s : State) (w : Party) (o : Outst) : Bool :=
  let q := rqOf s w
  decide (nowOf s w ≤ o.firstAt + 8000000) && decide (q.issueNo.get o.dest 0 - (o.issueNo + 1) + o.outAt < 4096)

/-- A retransmission with RETRY = 1 and the same SEQ; a new period runs (R112). -/
def repeatReq (s : State) (w : Party) (o : Outst) : State :=
  let o := { o with r := { o.r with retry := true }, sentAt := nowOf s w, resendAt := none }
  transmitReq (setOut s w o) w o

/-- RETRY_RESEND: the delay of a RETRY or ENERGY_DEFER has passed; the request goes again with its SEQ, and its period runs on
(R66). -/
def execRetryResend (w : Party) (id : Nat) (s : State) : Res :=
  .next (match findOut s w id with
    | none => s
    | some o =>
      match o.resendAt with
      | none => s
      | some t =>
        if t ≤ nowOf s w then
          let o := { o with r := { o.r with retry := true }, resendAt := none }
          transmitReq (setOut s w o) w o
        else s)

/-- SOURCE_RESET: a source keeps no record of its SEQs and sends nothing for 16 ms (R67). A Brola also loses its held FINAL
requests (R118). -/
def execSourceReset (w : Party) (s : State) : Res :=
  let q := rqOf s w
  let s := setRq s w { nextId := q.nextId, quietUntil := nowOf s w + dupHold }
  .next (match w with
    | .kojor => s
    | .brola => { s with brola := { s.brola with resp := { s.brola.resp with
        finals := [], running := s.brola.resp.running.filter fun x => x.why != .final } } })

end Sys2Proof.Machine
end

