-- ==== Sys2Proof/Machine/Links.lean ====
section
/-! DEFINITION. String links: slots in sequence, bring-up, electrical idle, and the ways down (R157, R173, R370 to R385). -/

namespace Sys2Proof.Machine

open Sys2Proof

/-! What a Kojor sends when a string reaches Ready (R180, R377, R429). -/

/-- The group table digest: bits [63:0] of the SHA-384 digest of every group entry, by CAPO and then GROUP (R289). -/
def groupDigest (l : Entries) : W64 :=
  let es := sortBy (fun a b => decide (bits a 12 9 * 4096 + bits a 0 12 ≤ bits b 12 9 * 4096 + bits b 0 12)) (tblAll l 0x0F)
  BitVec.ofNat 64 (ofLe ((sha384 (es.flatMap fun e => leBytes 128 e)).take 8))

/-- The ASSIGN for a leaf index: its capo's timeouts and windows, with the final sweep number (Table 13-4, R429). -/
def assignFor (s : State) (i : Nat) : Option Assign :=
  let l := s.prog.eff
  if !leafPresent l i then none
  else (capoOfLeaf l i).map fun c =>
    { sweep := s.disc.finalSweep, dy := (site s).dy, dx := (site s).dx, ly := i / 32, lx := i % 32, k := (site s).k, capo := c,
      cto := capoCto l c, bto := capoBto l c, lwin := capoLwin l c, rwin := capoRwin l c, digest := groupDigest l }

/-- ASSIGN sent on a leaf string. -/
def sendAssign (s : State) (n : Nat) : State :=
  match assignFor s (stringLeaf s n) with
  | none => s
  | some a => sendFrame { s with disc := { s.disc with sweepReg := a.sweep % 65536 } } n (.assign a)

/-- The BRIDGE_HELLO of this Kojor on a bridge string (R180). -/
def myBridgeHello (s : State) (n : Nat) : BridgeHello :=
  let t := site s
  { dy := t.dy, dx := t.dx, course := t.course, memberB := t.memberB, dir := (n - 448) / 16, k := t.k, w := t.w, h := t.h }

/-- A string enters a stage. Without the reference a Kojor's string stays down, and comes up after the relock (R25). -/
def enterStage (s : State) (x st : Nat) : State :=
  let l := linkOf s x
  if s.clk.refLost && !brolaEnd x then setLink s x { l with stage := 0, cause := .refclk, restartAt := none }
  else setLink s x { l with stage := st, stageAt := linkNow s x }

/-- Strings that are down for some causes, and that the string map does not turn off, begin bring-up. -/
def raiseStrings (s : State) (causes : List DownCause) : State :=
  (List.range 512).foldl (fun s n =>
    let l := linkOf s n
    if l.stage = 0 ∧ l.cause ∈ causes ∧ ((strEntry s.prog.eff n).map (bit · 9)).getD true then enterStage s n 1
    else s) s

/-- An excluded member whose soundpost string reaches Ready goes on with the package phases and joins its course as a rebuild target
(R416, R434): its leaf strings come up again. -/
def joinTwin (s : State) : State :=
  if s.disc.excl then
    let s := { s with disc := { s.disc with excl := false, joining := true, phase := 5 }, course := { s.course with rebuildTgt := true } }
    raiseStrings s [.disabled, .none]
  else s

/-- STRING_READY (R377): each party sends its current ATTACH, ASSIGN and BRIDGE_HELLO anew. A Kojor sends ASSIGN once it
serves (R429, R434). The capability bits of ATTACH are zero at stepping A0 (Table 13-4). -/
def stringReady (s : State) (x : Nat) : State :=
  if x < 512 then
    if isBridge s x then sendFrame s x (.bridgeHello (myBridgeHello s x))
    else if s.course.serving then sendAssign s x else s
  else if x < 544 then sendFrame (joinTwin s) x (.bridgeHello (myBridgeHello s 448))
  else
    let b := x - 544
    let s := { s with brola := { s.brola with ready := insertOnce b s.brola.ready } }
    sendFrame s x (.attach s.brola.ident b s.brola.spadGiB 0)

/-! The ways down (Table 13-9). -/

def causeCode : DownCause → Nat
  | .none => 0 | .noLight => 1 | .peg => 2 | .symbol => 3 | .fec => 4 | .silent => 5 | .replay => 6 | .train => 7
  | .miswire => 8 | .partner => 9 | .disabled => 10 | .refclk => 11

/-- Where bring-up restarts after a cause: the stage, and the delay in ns; without a delay it waits for an event. -/
def restartOf : DownCause → Nat × Option Nat
  | .noLight => (1, some 0) | .peg => (2, some 1000000000) | .symbol => (3, some 0) | .fec => (3, some 0) | .silent => (3, some 0)
  | .replay => (7, some 0) | .train => (1, some 10000000) | .partner => (3, some 0)
  | .none => (1, some 0) | .miswire => (1, none) | .disabled => (1, none) | .refclk => (1, none)

/-- The lane set of a link's own end; a Brola sends back on the one it receives (R333). -/
def laneSet (s : State) (x : Nat) : Nat :=
  let k := (site s).k
  if x < 512 then
    if isBridge s x || strHarmonic s.prog.eff x then x % 4
    else
      let m := ofB (site s).memberB
      if 2 ≤ k then (x % 4 + 2 * ((site s).course % 2) + m) % 4 else (x % 4 + 2 * (m % 2)) % 4
  else if brolaEnd x then (linkOf s x).lsetRx
  else x % 4

/-- TRAIN as an end sends it (Table 13-5, R380). -/
def myTrain (s : State) (x : Nat) (down : Bool) : Train :=
  let l := linkOf s x
  let now := linkNow s x
  { confirm := l.confTx, down := down, time := now, echo := l.echoTime, hold := if l.echoTime = 0 then 0 else now - l.echoAt,
    peer := if brolaEnd x then x - 544 else x % 512, peerBrola := brolaEnd x, lset := laneSet s x, replay := strReplay s.prog.eff x }

/-- The state of a link that has gone down for a cause. -/
def downLink (l : Link) (c : DownCause) (now : Nat) : Link :=
  let r := restartOf c
  { stage := if r.2 = some 0 then r.1 else 0
    cause := c
    stageAt := now
    restartAt := if r.2 = some 0 then none else r.2.map (now + ·)
    restartStage := r.1
    attach := l.attach
    attachB := l.attachB
    peer := l.peer
    rtt := l.rtt
    lit := l.lit && c != .noLight
    moved := l.moved || l.stage == 9 }

/-- What a soundpost port's or string's packets do when it goes down (R151, R167, R377). The last soundpost string down opens
a gap in a rebuild (R404). -/
def portDown (s : State) (x : Nat) (inProgress : Option (Nat × Pkt)) : State :=
  if x < 512 then
    let s := match inProgress with
      | some g => cutInput s (x / 128) (x % 128) g
      | none => s
    reroutePort (voidCredits s x) (x / 128) (x % 128) true
  else
    let n := x - 512
    let sx := n / 8
    let port := 128 + n / 4 % 2
    let s := match inProgress with
      | some g => cutInput s sx port g
      | none => s
    if soundpostReady s sx port then s
    else
      let s := if s.course.copying && (List.range 32).all (fun i => !strReady s (512 + i)) && s.course.gapFrom.isNone then
          { s with course := { s.course with gapFrom := some s.clk.now } } else s
      reroutePort (voidCredits s x) sx port true

/-- A Brola's string is no longer Ready: its ASSIGN goes with it (R131; log entry 37). -/
def brolaStringDown (s : State) (b : Nat) : State :=
  voidCredits { s with brola := { s.brola with ready := s.brola.ready.filter (· != b), assigns := s.brola.assigns.set b none } } (544 + b)

/-- The OX of a string or soundpost string of this Kojor, or of a string of F16. -/
def oxOf (x : Nat) : Nat := if x < 512 then x / 64 else if x < 544 then (x - 512) / 4 else (x - 576) / 4

/-- STRING_DOWN: held slots, packets in progress and credits are discarded; the cause is recorded, counted and written to
the scroll (R377, R384). Lane moves of the string end. -/
def stringDown (s : State) (x : Nat) (c : DownCause) : State :=
  let l := linkOf s x
  let s := if c = .noLight ∨ c = .refclk then s else emit s (.link x (.train (myTrain s x true)))
  let s := bump s .lnkDown [x, causeCode c]
  let s := if brolaEnd x then s else scroll s 3 .linkDown (siteOX (oxOf x)) [x, causeCode c]
  let s := setLink s x (downLink l c (linkNow s x))
  let s := { s with opt := { s.opt with moves := s.opt.moves.set x none } }
  if l.stage = 9 then (if brolaEnd x then brolaStringDown s (x - 544) else portDown s x (inHand l)) else s

/-! Receiving slots (R370, R371, R373 to R375). -/

/-- The most flits a packet may have on a link: 1 + 64 payload flits, or a bulk of 65,536 bytes with its header flit (R52,
R184). -/
def framable (s : State) (x flits : Nat) : Bool :=
  decide (1 ≤ flits ∧ flits ≤ (if x < 512 ∧ isBridge s x then 1025 else 65))

/-- The packet that comes in on a Kojor's link is lost; where it cuts through it ends with an ABORT on its output (R151). -/
def cutLink (s : State) (x : Nat) (g : Option (Nat × Pkt)) : State :=
  match g with
  | none => s
  | some g => if x < 544 then cutInput s (linkInput x).1 (linkInput x).2 g else s

/-- A packet that the Brola has taken whole leaves its landing reserve at once: its cells are free, its class's share first (R168). -/
def brolaFrees (s : State) (x tc flits : Nat) : State :=
  if brolaEnd x then
    let n := (flits * 64 + 255) / 256
    freedAdd (freedAdd s x tc false (min n (linkSize s x tc))) x 8 false (n - linkSize s x tc)
  else s

/-- A framing error: the packet in progress is discarded and counted (R370). -/
def framing (s : State) (x : Nat) (e : Bool) : State :=
  let l := linkOf s x
  let s := setLink s x (if e then { l with ePktLeft := none } else { l with pktLeft := none, pktIn := none })
  bump (if e then s else cutLink s x (inHand l)) .lnkFraming [x]

/-- A header slot of a packet of n flits of a class (R370). -/
def takeHead (s : State) (x n tc : Nat) (e : Bool) : State :=
  let l := linkOf s x
  let busy := if e then l.ePktLeft.isSome else l.pktLeft.isSome
  if busy || !framable s x n then framing s x e
  else
    let left := if n = 1 then none else some (n - 1)
    if e then setLink s x { l with ePktLeft := left }
    else
      let s := setLink s x { l with pktLeft := left, pktLen := n, pktTc := tc, pktIn := none }
      if n = 1 then brolaFrees s x tc n else s

/-- The next flit of a packet in progress. -/
def takeData (s : State) (x : Nat) (e : Bool) : State :=
  let l := linkOf s x
  match (if e then l.ePktLeft else l.pktLeft) with
  | none => bump s .lnkFraming [x]
  | some n =>
    let left := if n ≤ 1 then none else some (n - 1)
    let s := setLink s x (if e then { l with ePktLeft := left } else { l with pktLeft := left })
    if n ≤ 1 && !e then brolaFrees s x l.pktTc l.pktLen else s

/-- The packet in progress is discarded; one that cuts through ends with an ABORT on its output (R151, R370). -/
def takeAbort (s : State) (x : Nat) (e : Bool) : State :=
  let l := linkOf s x
  if e then setLink s x { l with ePktLeft := none }
  else if l.pktLeft.isNone then s
  else cutLink (setLink s x { l with pktLeft := none, pktIn := none }) x (inHand l)

/-- A slot accepted in order. What a control frame does is a command of its own, as is a packet that has arrived whole. -/
def takeBody (s : State) (x : Nat) : SlotBody → State
  | .idle => s
  | .head n tc => takeHead s x n tc false
  | .data => takeData s x false
  | .ehead n => takeHead s x n 0 true
  | .edata => takeData s x true
  | .ctrl _ => s
  | .ctrlReserved => bump s .lnkFraming [x]
  | .abort e => takeAbort s x e
  | .linkReserved => s

/-- The index under which SX_LINK_DUP counts a link: its port. -/
def portIx (x : Nat) : List Nat :=
  if x < 544 then [(linkInput x).1, (linkInput x).2] else [x]

/-- A sequenced slot: accepted, a duplicate, or a gap (R373). -/
def takeSequenced (s : State) (x : Nat) (sl : Slot) : State :=
  let l := linkOf s x
  let d := (l.rxNext + (2 ^ 14 - sl.lseq % 2 ^ 14)) % 2 ^ 14
  if d = 0 then takeBody (setLink s x { l with rxNext := (l.rxNext + 1) % 2 ^ 14 }) x sl.body
  else if d ≤ 8192 then bump s .sxLinkDup (portIx x)
  else
    let s := bump s .lnkGap [x]
    let now := linkNow s x
    if (l.lastReq.map fun t => decide (t + l.rtt ≤ now)).getD true then
      emit (setLink s x { l with lastReq := some now }) (.link x (.replayReq l.rxNext))
    else s

/-- A lane's block is decoded (R362, R363, R385): the symbols corrected, the codewords that could not be, and the guard symbols removed are
counted, once for each block by its block count. -/
def takeBlock (x : Nat) (s : State) (b : LaneBlock) : State :=
  let l := linkOf s x
  let r := readBlock 32 (l.lanes.getD b.lane (4 * laneSet s x + b.lane, 0)).1 (l.inv.getLsbD b.lane) b.syms
  let cnt := (r.mark.map (·.bcnt)).getD ((l.blockSeen.get b.lane 0 + 1) % 128)
  if l.blockSeen.find b.lane = some cnt then s
  else
    let bad := (r.words.filter Option.isNone).length
    let fixed := (r.words.map fun w => (w.map (·.2)).getD 0).sum
    let run := if bad = 0 then l.goodCw.get b.lane 0 + r.words.length else (r.words.reverse.takeWhile Option.isSome).length
    let now := linkNow s x
    let s := setLink s x { l with
      blockSeen := l.blockSeen.set b.lane cnt
      goodCw := l.goodCw.set b.lane run
      uncorr := (l.uncorr.filter fun u => decide (now < u.2.1 + 1000000)) ++ (if bad = 0 then [] else [(b.lane, now, bad)]) }
    bump (bump (bump s .lnkFecCorr [x, b.lane] fixed) .lnkFecUncorr [x, b.lane] bad) .lnkGuard [x, b.lane] r.guards

/-- Whether a slot may be used: its SCRC is right, and no codeword from which it takes a bit was uncorrectable (R373). -/
def slotOkFor (s : State) (x : Nat) (sl : Slot) : Bool :=
  sl.scrc == slotCrc sl && sl.blocks.all fun b =>
    let l := linkOf s x
    let r := readBlock 32 (l.lanes.getD b.lane (4 * laneSet s x + b.lane, 0)).1 (l.inv.getLsbD b.lane) b.syms
    (cwsOf b.lo b.hi).all fun i => (r.words.getD i none).isSome

def slotReceive (s : State) (x : Nat) (sl : Slot) : State :=
  let ok := slotOkFor s x sl
  let s := sl.blocks.foldl (takeBlock x) s
  if !ok then bump s .lnkSlotCrc [x]
  else
    let s := setLink s x { linkOf s x with quietSince := linkNow s x }
    let s := if sl.body = .linkReserved then bump s .lnkFraming [x] else s
    if (linkOf s x).stage < 8 then s
    else
      let s := takeAck s x sl.ack
      if sl.body = .idle ∨ sl.body = .linkReserved then s else takeSequenced s x sl

/-- SLOT_RECEIVE (R372, R373). -/
def execSlotReceive (x : Nat) (sl : Slot) (s : State) : Res := .next (if x < 576 then slotReceive s x sl else s)

/-- SLOT_ABORT: an ABORT slot makes the receiver discard the packet in progress (R370). -/
def execSlotAbort (x : Nat) (e : Bool) (s : State) : Res := .next (if x < 576 then takeAbort s x e else s)

/-- A replay, or the way down after eight that released nothing (R374). -/
def replayOrDown (s : State) (x : Nat) : State :=
  if (linkOf s x).barren ≥ 8 then stringDown s x .replay else replay s x

/-- REPLAY_TIMER_EXPIRY (R374, R375). -/
def execReplayTimerExpiry (x : Nat) (s : State) : Res :=
  let l := linkOf s x
  .next (match l.timerAt with
    | none => s
    | some t =>
      if t ≤ linkNow s x ∧ !l.held.isEmpty ∧ l.stage = 9 then
        replayOrDown (setLink s x { l with timerAt := some (linkNow s x + replayNs s x) }) x
      else s)

/-- REPLAY_REQ: starts a replay unless one runs (R374, R375). -/
def execReplayReq (x lseq : Nat) (s : State) : Res :=
  let l := linkOf s x
  let _ := lseq
  .next (if l.stage = 9 ∧ l.replayUntil ≤ linkNow s x ∧ !l.held.isEmpty then replayOrDown s x else s)

/-! Training (R372, R380). -/

/-- TRAIN on a link whose FEC is locked: the far end goes down, or the round trip, the lane set and CONFIRM are taken, and
the end answers. -/
def train (s : State) (x : Nat) (t : Train) : State :=
  let l := linkOf s x
  if l.stage < 7 ∨ 9 < l.stage then s
  else if t.down then stringDown s x .partner
  else
    let now := linkNow s x
    let rtt := if t.echo = 0 then l.rtt else now - t.echo - t.hold
    let same := brolaEnd x || t.lset % 4 == laneSet s x
    let l := { l with lsetRx := t.lset % 4, rtt := rtt, echoTime := t.time, echoAt := now, peer := some (t.peerBrola, t.peer),
                      confTx := l.confTx || same, confRx := l.confRx || t.confirm }
    let s := noteSubst (setLink s x l) x
    if l.stage = 7 then emit s (.link x (.train (myTrain s x false))) else s

/-- TRAIN (R380). -/
def execTrain (x : Nat) (t : Train) (s : State) : Res := .next (if x < 576 then train s x t else s)

/-! Electrical idle (R381, R382). -/

/-- Nothing held or queued to send on a string (R381). -/
def idleReady (s : State) (x : Nat) : Bool :=
  let l := linkOf s x
  let port := linkInput x
  l.held.isEmpty && l.txQ.isEmpty && (decide (x ≥ 544) || (List.range 8).all fun t => (queueBoth s port.1 port.2 t).isEmpty)

/-- EI_ENTRY: the idle-entry time has passed with nothing to send; EI_ENTER goes out and the drive is parked (R381). EIDLE = 0
turns idle off (Table 13-8). -/
def execEiEntry (x : Nat) (s : State) : Res :=
  let l := linkOf s x
  .next (if x < 576 ∧ l.stage = 9 ∧ !l.eiTx ∧ strEidle s.prog.eff x ≠ 0 ∧ idleReady s x then
      bump (emit (setLink s x { l with eiTx := true }) (.link x .eiEnter)) .lnkEiEntry [x, 0]
    else s)

/-- EI_ENTER: the receiver suspends the SYMBOL and SILENT conditions (R381). -/
def execEiEnter (x : Nat) (s : State) : Res :=
  let l := linkOf s x
  .next (if x < 576 ∧ l.stage = 9 ∧ !l.eiRx then bump (setLink s x { l with eiRx := true }) .lnkEiEntry [x, 1] else s)

/-- EI_EXIT: a direction leaves idle with a training burst and a new block; the receiver's conditions apply again (R382). -/
def execEiExit (x : Nat) (s : State) : Res :=
  let l := linkOf s x
  .next (if x < 576 ∧ (l.eiTx ∨ l.eiRx) then setLink s x { l with eiTx := false, eiRx := false, quietSince := linkNow s x } else s)

/-! Bring-up (Table 13-6). -/

/-- The stage's limit in ns; none for stages 1 and 9. -/
def stageLimit (st : Nat) : Option Nat :=
  match st with
  | 2 => some 20000000 | 3 => some 1000000 | 4 => some 10000 | 5 => some 20000000 | 6 => some 100000 | 7 => some 1000000
  | 8 => some 100000 | _ => none

/-- The transmit fibre of a string as the string map gives it, else its own. -/
def txFibreOf (s : State) (x : Nat) : Nat := if (strEntry s.prog.eff x).isSome then strTxFibre s.prog.eff x else x % 64 / 4

/-- What stage 5 finds in HEARD (R379): the paired fibre; another fibre of this OX, which waits for the string map; miswired. -/
inductive HeardRes where
  | ok | wait | miswired
deriving DecidableEq, Repr

def heardRes (s : State) (x : Nat) (h : Option Nat) : HeardRes :=
  match h with
  | none => .wait
  | some h =>
    if 512 ≤ x then .ok
    else if h / 64 ≠ x / 64 then .miswired
    else if h % 64 / 4 = txFibreOf s x then .ok else .wait

/-- An OX serves while its domain is on and its SX–OX link carries traffic (Table 1-13). -/
def oxUp (s : State) (n : Nat) : Bool := pdIsOn s (4 + n) && !d2dDown s (6 + n)

/-- A string whose stage's own conditions hold in the state: its OX serves, CONFIRM both ways in stage 7, CREDIT both ways in stage 8.
A harmonic string stays at stage 6 (R157). -/
def mayAdvance (s : State) (x : Nat) : Bool :=
  let l := linkOf s x
  decide (1 ≤ l.stage ∧ l.stage ≤ 8) && (brolaEnd x || oxUp s (oxOf x)) && (decide (x < 576) || fibreHarmonic s.prog.eff (oxOf x)) && (l.stage != 7 || (l.confTx && l.confRx)) && (l.stage != 8 || (l.creditTx && l.creditRx))

/-- Whether a link is a harmonic string's: a string designated so, or one of F16 of an OX (R157). -/
def harmEnd (s : State) (x : Nat) : Bool := (decide (x < 512) && strHarmonic s.prog.eff x) || decide (576 ≤ x)

/-- The HEARD of stage 5, where the lanes' markers meet its conditions (R379). -/
def heardOf (s : State) (x : Nat) (ls : List LaneSeen) : Option Nat :=
  let ms := laneMarks (linkOf s x).inv ls
  if ms.all Option.isSome ∧ lanesAgree (ms.filterMap id) ls then ((ms.headD none).bind (·.heard)) else none

/-- The inverted lanes of a string, by position. -/
def inverted (ps : List Bool) : BitVec 4 := BitVec.ofNat 4 (bitsNat ps)

/-- A stage completes (R376 to R380), by what the receiver has seen of the four lanes in stages 3 to 5 and by the codewords it has decoded on
them in stage 6. -/
def stageComplete (s : State) (x : Nat) (ls : List LaneSeen) : State :=
  let l := linkOf s x
  if !mayAdvance s x then s
  else if l.stage = 1 then enterStage (setLink s x { l with lit := true }) x 2
  else if l.stage = 3 then (if (lanePolarity ls).isSome then enterStage s x 4 else s)
  else if l.stage = 4 then
    match lanePolarity ls with
    | some ps => enterStage (setLink s x { l with inv := inverted ps }) x 5
    | none => s
  else if l.stage = 5 then
    let h := heardOf s x ls
    match heardRes s x h with
    | .ok => enterStage (setLink s x { l with
        lanes := (laneMarks l.inv ls).map fun m => ((m.getD {}).wl, (m.getD {}).q), delays := (deskew ls).getD [], goodCw := [], blockSeen := [] }) x 6
    | .wait => h.elim s fun h => setLink s x { l with heard := some h }
    | .miswired => stringDown s x .miswire
  else if l.stage = 6 then
    if (List.range 4).any (fun q => decide (l.goodCw.get q 0 < 64)) then s
    else if harmEnd s x then setLink s x { l with hlock := true }
    else
      let s := enterStage s x 7
      emit s (.link x (.train (myTrain s x false)))
  else if l.stage = 7 then
    enterStage (setLink s x { l with
      txNext := 0, rxNext := 0, held := [], txQ := [], timerAt := none, barren := 0, lastReq := none, pktLeft := none, pktIn := none, ePktLeft := none }) x 8
  else if l.stage = 8 then
    stringReady (enterStage (setLink s x { l with quietSince := linkNow s x, moved := true }) x 9) x
  else enterStage s x (l.stage + 1)

/-- STAGE_LIMIT: a stage has exceeded its limit (R376); in stage 5 a wiring that R379 rejects is MISWIRE. -/
def execStageLimit (x : Nat) (miswire : Bool) (s : State) : Res :=
  let l := linkOf s x
  .next (match stageLimit l.stage with
    | none => s
    | some t =>
      if x < 608 ∧ !l.hlock ∧ (l.stageAt + t ≤ linkNow s x ∨ (miswire ∧ l.stage = 5)) then
        stringDown s x (if l.stage = 2 then .peg else if miswire ∧ l.stage = 5 then .miswire else .train)
      else s)

/-- BRINGUP_RESTART: the delay of a down cause has passed (R376, Table 13-9). -/
def execBringupRestart (x : Nat) (s : State) : Res :=
  let l := linkOf s x
  .next (match l.restartAt with
    | none => s
    | some t =>
      if x < 608 ∧ l.stage = 0 ∧ t ≤ linkNow s x then
        enterStage (setLink s x { l with restartAt := none }) x (if l.lit then l.restartStage else 1)
      else s)

/-- LIGHT_LOSS: the light of all lanes absent for 10 µs (Table 13-9). A MISWIRE string leaves its hold. -/
def lightLoss (s : State) (x : Nat) : State :=
  let l := linkOf s x
  if 2 ≤ l.stage then stringDown s x .noLight
  else if l.stage = 0 ∧ l.cause = .miswire then enterStage (setLink s x { l with lit := false }) x 1
  else setLink s x { l with lit := false }

def execLightLoss (x : Nat) (s : State) : Res := .next (if x < 608 then lightLoss s x else s)

/-- SILENT_TIMEOUT: no slot has passed SCRC for 50 µs (Table 13-9); suspended in electrical idle (R381). -/
def execSilentTimeout (x : Nat) (s : State) : Res :=
  let l := linkOf s x
  .next (if x < 576 ∧ 7 ≤ l.stage ∧ !l.eiRx ∧ l.quietSince + 50000 ≤ linkNow s x ∧ l.stageAt + 50000 ≤ linkNow s x then
      stringDown s x .silent else s)

/-- ALIGNMENT_MARKER_LOSS: four consecutive AMs missing on a lane, or none after an idle exit (R382, Table 13-9); suspended
while the direction is in idle. -/
def execAlignmentMarkerLoss (x : Nat) (s : State) : Res :=
  let l := linkOf s x
  .next (if x < 608 ∧ 4 ≤ l.stage ∧ !l.eiRx then stringDown s x .symbol else s)

/-- The uncorrectable codewords of a lane within the last millisecond. -/
def uncorrNow (s : State) (x lane : Nat) : Nat :=
  (((linkOf s x).uncorr.filter fun u => u.1 == lane && decide (linkNow s x < u.2.1 + 1000000)).map (·.2.2)).sum

/-- FEC_UNCORR_LIMIT: more than 64 uncorrectable codewords on a lane within 1 ms take the string down (Table 13-9). The blocks that came
in without a slot are decoded first. -/
def execFecUncorrLimit (x lane : Nat) (bs : List LaneBlock) (s : State) : Res :=
  .next (if x < 608 ∧ lane < 4 ∧ 6 ≤ (linkOf s x).stage then
      let s := bs.foldl (takeBlock x) s
      if 64 < uncorrNow s x lane then stringDown s x .fec else s
    else s)

end Sys2Proof.Machine
end

