-- ==== Sys2Proof/Machine/Optics.lean ====
section
/-! DEFINITION. Optical engines: the peg loop, probes, lane moves and laser modules (R332 to R361); stages of bring-up completed and receive
fibres exchanged (R376 to R380). -/

namespace Sys2Proof.Machine

open Sys2Proof

/-! Which fibres, wavelengths and rings a string uses (R332, Tables 12-4, 13-8). -/

/-- The OX and string-in-fibre place of a link: strings by R9, soundpost strings on F17 (R386). -/
def ownFibre (x : Nat) : Nat := if x < 512 then x % 64 / 4 else 17

/-- A string's entry of the string map, Table 13-8; a soundpost string, of which table 0x04 holds none, has its own (log entry 142). -/
def laneEntry (s : State) (x : Nat) : Option Nat := if x < 512 then strEntry s.prog.eff x else s.opt.spMap.get x none
def rxFibreOf (s : State) (x : Nat) : Nat := ((laneEntry s x).map (bits · 15 5)).getD (ownFibre x)
def txFibre (s : State) (x : Nat) : Nat := ((laneEntry s x).map (bits · 10 5)).getD (ownFibre x)

/-- The wavelength that carries lane q, and the ring that serves position i of the set; without an entry those of R332. -/
def txWlOf (s : State) (x q : Nat) : Nat := ((laneEntry s x).map (bits · (24 + 5 * q) 5)).getD (4 * laneSet s x + q)
def rxRingOf (s : State) (x i : Nat) : Nat := ((laneEntry s x).map (bits · (52 + 5 * i) 5)).getD (4 * laneSet s x + i)

/-- Every Kojor link whose fibre of a direction is (ox, f). -/
def linksOn (s : State) (ox f : Nat) (rx : Bool) : List Nat :=
  (((List.range 64).map (· + 64 * ox)) ++ ((List.range 4).map (· + 512 + 4 * ox))).filter fun x =>
    (if rx then rxFibreOf s x else txFibre s x) == f

/-- The string and lane that a ring carries, if any. -/
def carried (s : State) (ox f : Nat) (bus : Bool) (ring : Nat) : Option (Nat × Nat) :=
  (linksOn s ox f bus).findSome? fun x =>
    ((List.range 4).find? fun q => (if bus then rxRingOf s x q else txWlOf s x q) == ring).map fun q => (x, q)

/-- Whether a fibre carries traffic: a string of it is Ready (R342, R343). -/
def fibreBusy (s : State) (ox f : Nat) : Bool := (linksOn s ox f true ++ linksOn s ox f false).any (strReady s)

/-- ROLE and WL of a weight-bank ring: what a lane move gave it, else its map entry, else DATA on its own wavelength for
rings 0–15 and PROBE for 16 and 17 (log entry 38). -/
def wbEntry (l : Entries) (f ring : Nat) : Option Nat := tblFind l 5 (f + 32 * ring)
def wbRole (s : State) (ox f ring : Nat) : Nat × Nat :=
  match s.opt.live.get (ox, f, ring) none with
  | some x => x
  | none =>
    match wbEntry s.prog.eff f ring with
    | some e => (bits e 15 3, bits e 10 5)
    | none => if ring < 16 then (1, ring) else (3, ring)

/-- The target of a weight-bank ring: W of 255 (default 235; a PROBE 255). -/
def wbWeight (s : State) (ox f ring : Nat) : Nat :=
  if (wbRole s ox f ring).1 = 3 then 255 else ((wbEntry s.prog.eff f ring).map (bits · 18 8)).getD 235

/-! Pegs. -/

abbrev RingKey := Nat × Nat × Bool × Nat

def pegOf (s : State) (k : RingKey) : Peg := s.opt.pegs.get k {}
def setPeg (s : State) (k : RingKey) (p : Peg) : State := { s with opt := { s.opt with pegs := s.opt.pegs.set k p } }

/-- Whether a ring has a role to serve: a modulator ring whose wavelength carries a lane, or is a spare in use; a weight-bank
ring not PARK; a ring that seeks its other flank (R336, R337, R345). -/
def ringNeeded (s : State) (k : RingKey) : Bool :=
  if k ∈ s.opt.reflank then true
  else if k.2.2.1 then (wbRole s k.1 k.2.1 k.2.2.2).1 != 0
  else (carried s k.1 k.2.1 false k.2.2.2).isSome ||
    (linksOn s k.1 k.2.1 false).any fun x =>
      ((laneEntry s x).map fun e => bit e 44 && bits e 47 5 == k.2.2.2).getD false

/-- The error of a loop step in units of 1/261,120: the target is 0.50 or W/255 (R342). -/
def pegErr (s : State) (k : RingKey) (measured : Nat) : Int :=
  (measured : Int) - (if k.2.2.1 then (wbWeight s k.1 k.2.1 k.2.2.2 * 1024 : Nat) else (130560 : Nat))

/-- d = round(e × 256), a half away from zero (log entry 39). -/
def pegStep (e : Int) : Int := if 0 ≤ e then (2 * e + 1020) / 2040 else -((2 * (-e) + 1020) / 2040)

def clampInt (lo hi x : Int) : Int := max lo (min hi x)

/-- The loop step of R342. -/
def loopStep (p : Peg) (e : Int) : Peg :=
  let d := pegStep e
  let d := if p.flankU then d else -d
  { p with code := (clampInt 0 4095 ((p.code : Int) + clampInt (-8) 8 d)).toNat, err := e / 255 }

def withinFine (e : Int) : Bool := decide (e.natAbs * 50 ≤ 261120)
def beyondBad (e : Int) : Bool := decide (e.natAbs * 10 > 261120)

/-- A ring parked: a modulator ring on resonance, a weight-bank ring 100 GHz, 74 codes, above its line (R336, R338, Tables 12-5 and 12-7). -/
def parkPeg (bus : Bool) (p : Peg) : Peg := { p with st := .park, wl := 31, code := if bus then p.pred - 74 else p.pred }

/-- A seek begins at P − 96 (R342). -/
def seekFrom (p : Peg) : Peg := { p with st := .seek, code := p.pred - 96, left := 0, good := 0, bad := 0 }

/-! Lane moves (R350 to R353). -/

def moveOf (s : State) (x : Nat) : Option Move := s.opt.moves.get x none
def setMove (s : State) (x : Nat) (m : Option Move) : State := { s with opt := { s.opt with moves := s.opt.moves.set x m } }

/-- Whether a string runs point to point (R333, R334). -/
def pointToPoint (s : State) (x : Nat) : Bool := decide (512 ≤ x) || isBridge s x || strHarmonic s.prog.eff x

/-- The spares that may serve a string: its spare partner, or either on a point-to-point fibre (R334, R350). -/
def sparesOf (s : State) (x : Nat) : List Nat :=
  if pointToPoint s x then [16, 17] else if laneSet s x = 0 then [16] else if laneSet s x = 1 then [17] else []

/-- Whether a spare is used in a direction of a string's fibre (R350). -/
def spareUsed (s : State) (x : Nat) (rx : Bool) (sp : Nat) : Bool :=
  let f := if rx then rxFibreOf s x else txFibre s x
  (linksOn s (oxOf x) f rx).any fun y =>
    (List.range 4).any (fun q => (if rx then rxRingOf s y q else txWlOf s y q) == sp)
      || (match moveOf s y with
        | some m => m.m.spare == sp && (m.m.rx == m.mine) == rx
        | none => false)

def freeSpare (s : State) (x : Nat) (rx : Bool) : Option Nat := (sparesOf s x).find? fun sp => !spareUsed s x rx sp

/-- Whether a lane already runs on a spare. -/
def onSpare (s : State) (x q : Nat) (rx : Bool) : Bool := decide (16 ≤ (if rx then rxRingOf s x q else txWlOf s x q))

/-- A failed lane without a spare takes its string down (R350, Table 13-9); causes 0 to 2 are failures. -/
def laneFailed (s : State) (x cause : Nat) : State := if cause < 3 ∧ 2 ≤ (linkOf s x).stage then stringDown s x .peg else s

/-- A move is started: LANE_MOVE goes out (R350, R351). While another lane of the string moves no spare qualifies. -/
def startMove (s : State) (x q : Nat) (rx : Bool) (cause : Nat) : State :=
  if !strReady s x then laneFailed s x cause
  else
    match moveOf s x, (if onSpare s x q rx then none else freeSpare s x rx) with
    | some v, _ => if v.m.q = q ∧ (v.m.rx == v.mine) = rx then s else laneFailed s x cause
    | none, none => laneFailed s x cause
    | none, some sp =>
      let m := { str := x, rx := rx, q := q, spare := sp, cause := cause : LaneMsg }
      sendFrame (setMove s x (some { m := m, mine := true, askedAt := s.clk.now })) x (.laneMove m)

/-- A return of a lane to its own wavelength, the roles exchanged (R345, R352). -/
def startReturn (s : State) (x q : Nat) (rx : Bool) (sp : Nat) : State :=
  if (moveOf s x).isSome || !strReady s x then s
  else
    let m := { str := x, rx := rx, q := q, spare := sp, cause := 4, ret := true : LaneMsg }
    sendFrame (setMove s x (some { m := m, mine := true, askedAt := s.clk.now })) x (.laneMove m)

/-- A string's own map entry, written out from the defaults where it has none (Table 13-8). -/
def fullEntry (s : State) (x : Nat) : Nat :=
  (laneEntry s x).getD
    (x % 512 + 2 ^ 9 + ownFibre x * 2 ^ 10 + ownFibre x * 2 ^ 15 + laneSet s x * 2 ^ 20
      + ((List.range 4).map fun q => txWlOf s x q * 2 ^ (24 + 5 * q)).sum
      + ((List.range 4).map fun i => rxRingOf s x i * 2 ^ (52 + 5 * i)).sum + 4 * 2 ^ 72 + 2 * 2 ^ 78)

/-- A number with `len` bits from `lo` on replaced. -/
def putBits (e lo len v : Nat) : Nat := e - bits e lo len * 2 ^ lo + v % 2 ^ len * 2 ^ lo

/-- What tuning commits in the string map for a move, with its record in the scroll (R346, R352): it takes effect inside the step (log entry 40). -/
def mapPut (s : State) (x : Nat) (f : Nat → Nat) : State :=
  if x < 512 then
    scroll { s with prog := { s.prog with eff := TMap.set s.prog.eff (4, x) (f (fullEntry s x)) } } 6 .commitRecord (siteMC s) [2, 4, x]
  else { s with opt := { s.opt with spMap := s.opt.spMap.set x (some (f (fullEntry s x))) } }

/-! A receive fibre that carries the strings of another (R379). -/

/-- Two strings exchange their receivers: what bring-up has found stays with the fibre. -/
def swapLinks (s : State) (x y : Nat) : State :=
  let a := linkOf s x
  let b := linkOf s y
  setLink (setLink s x { b with attach := a.attach, attachB := a.attachB, attachOk := a.attachOk, moved := a.moved }) y
    { a with attach := b.attach, attachB := b.attachB, attachOk := b.attachOk, moved := b.moved }

/-- Tuning commits a string map that serves the strings of fibre g from receive fibre f, and the strings of f from that of g (R346, R379;
log entry 143). -/
def swapFibres (s : State) (ox f g : Nat) : State :=
  let a := linksOn s ox f true
  let b := linksOn s ox g true
  let pairs := a.filterMap fun x => (linkOf s x).heard.map fun h => (x, h)
  let s := a.foldl (fun s x => mapPut s x fun e => putBits e 15 5 g) s
  let s := b.foldl (fun s x => mapPut s x fun e => putBits e 15 5 f) s
  pairs.foldl (fun s p => swapLinks s p.1 p.2) s

/-- A string that waits in stage 5: its fibre is served anew once every string of it names strings of one other fibre of this OX;
names of more than one are MISWIRE (R379). -/
def rewire (s : State) (x : Nat) : State :=
  match (linkOf s x).heard with
  | none => s
  | some h =>
    let f := rxFibreOf s x
    let named := (linksOn s (oxOf x) f true).map fun y => (linkOf s y).heard.map (· % 64 / 4)
    if named.any (fun n => n != none && n != some (h % 64 / 4)) then stringDown s x .miswire
    else if named.all (· == some (h % 64 / 4)) then swapFibres s (oxOf x) f (h % 64 / 4)
    else s

/-- STAGE_COMPLETE (R376 to R380). In stage 6 the blocks that came in without a slot are decoded first: a harmonic string takes no slot
before its lock (R157). -/
def execStageComplete (x : Nat) (ls : List LaneSeen) (bs : List LaneBlock) (s : State) : Res :=
  .next (if x < 608 then
      let s := if mayAdvance s x ∧ (linkOf s x).stage = 6 then bs.foldl (takeBlock x) s else s
      let s' := stageComplete s x ls
      if mayAdvance s x ∧ (linkOf s x).stage = 5 ∧ (linkOf s' x).stage = 5 ∧ heardOf s x ls ≠ none ∧ x < 512 then rewire s' x else s'
    else s)

/-! Lane moves. -/

def setRole (s : State) (x ring role wl : Nat) : State :=
  { s with opt := { s.opt with live := s.opt.live.set (oxOf x, rxFibreOf s x, ring) (some (role, wl)) } }

/-- The wavelengths of a move in order: where the lane is, where it goes. -/
def moveWls (s : State) (x : Nat) (m : LaneMsg) : Nat × Nat :=
  let own := 4 * laneSet s x + m.q
  if m.ret then (m.spare, own) else (own, m.spare)

/-- The ring at which a granted move's lane arrives seeks its line; a ring that waits in LOCKED for its lane to return does not (R345,
R352). -/
def wakeRing (s : State) (k : RingKey) (m : LaneMsg) : State :=
  if m.ret ∧ (pegOf s k).st = .locked then s else setPeg s k (seekFrom { pegOf s k with wl := k.2.2.2 })

/-- Step 1 or 2 of a granted move: the duplicate is sent, or the new ring becomes PREP (R352). `rx` is this end's. -/
def moveBegin (s : State) (x : Nat) (m : LaneMsg) (rx : Bool) : State :=
  let w := (moveWls s x m).2
  if rx then wakeRing (setRole s x w 2 w) (oxOf x, rxFibreOf s x, true, w) m
  else wakeRing (mapPut s x fun e => putBits (putBits (putBits e 44 1 1) 45 2 m.q) 47 5 w) (oxOf x, txFibre s x, false, w) m

/-- The ring that a lane has left: it parks, or seeks the other flank of its line; the ring of a lane that has returned is done (R345,
R352). -/
def leaveRing (s : State) (x : Nat) (m : LaneMsg) (rx : Bool) : State :=
  let w := moveWls s x m
  let f := if rx then rxFibreOf s x else txFibre s x
  let k := (oxOf x, f, rx, w.1)
  let s := { s with opt := { s.opt with reflank := s.opt.reflank.filter (· != (oxOf x, f, rx, w.2)) } }
  let again := decide (k ∈ s.opt.reflank)
  let s := if rx then setRole s x w.1 (if 16 ≤ w.1 then 3 else if again then 2 else 0) w.1 else s
  setPeg s k (if again then seekFrom { pegOf s k with wl := w.1 } else parkPeg rx (pegOf s k))

def markSpare (s : State) (x q : Nat) (v : Bool) : State :=
  let l := linkOf s x
  let b := BitVec.ofNat 4 (2 ^ (q % 4))
  setLink s x { l with spare := if v then l.spare ||| b else l.spare &&& ~~~b }

/-- The move is complete at the receiving end: the lane is taken from the new ring, the old one is parked, LANE_DONE goes out
(R352, steps 3 and 4). -/
def moveTaken (s : State) (x : Nat) (m : LaneMsg) : State :=
  let w := moveWls s x m
  let s := leaveRing (setRole s x w.2 1 w.2) x m true
  let s := mapPut s x fun e => putBits e (52 + 5 * m.q) 5 w.2
  let s := bump s .oxLaneMove [oxOf x, rxFibreOf s x, 1]
  let s := markSpare (setMove s x none) x m.q (!m.ret)
  sendFrame s x (.laneDone { m with rx := true })

/-- The move is complete at the transmitting end: the old wavelength stops and its ring is parked (R352, step 4). -/
def moveSent (s : State) (x : Nat) (m : LaneMsg) : State :=
  let w := moveWls s x m
  let s := mapPut s x fun e => putBits (putBits (putBits e 44 8 0) 44 1 0) (24 + 5 * m.q) 5 w.2
  let s := leaveRing s x m false
  let s := bump s .oxLaneMove [oxOf x, txFibre s x, 0]
  setMove s x none

/-- The original mapping is committed back (R353). -/
def moveUndo (s : State) (x : Nat) (m : LaneMsg) (rx : Bool) : State :=
  let w := (moveWls s x m).2
  if rx then setRole s x w (if 16 ≤ w then 3 else if (oxOf x, rxFibreOf s x, true, w) ∈ s.opt.reflank then 2 else 0) w else mapPut s x fun e => putBits e 44 8 0

/-- LANE_MOVE: granted, or refused because the spare is in use, its ring has failed, or a move runs (Table 12-6). -/
def laneMoveIn (s : State) (x : Nat) (m : LaneMsg) : State :=
  if !strReady s x then s
  else
    let rx := !m.rx
    let f := if rx then rxFibreOf s x else txFibre s x
    let no := fun r => bump (sendFrame s x (.laneRefuse { m with reason := r })) .oxLaneRefuse [oxOf x, f, ofB rx]
    if (moveOf s x).isSome then no 3
    else if !m.ret && (spareUsed s x rx m.spare || decide (m.spare ∉ sparesOf s x)) then no 1
    else if (pegOf s (oxOf x, f, rx, (moveWls s x m).2)).st = .failed then no 2
    else
      let s := setMove s x (some { m := m, mine := false, askedAt := s.clk.now, grantedAt := some s.clk.now })
      moveBegin (sendFrame s x (.laneGrant m)) x m rx

def execLaneMove (m : LaneMsg) (s : State) : Res := .next (laneMoveIn s m.str m)

/-- LANE_GRANT: the far end grants the move that this end asked for (R352). -/
def execLaneGrant (m : LaneMsg) (s : State) : Res :=
  .next (match moveOf s m.str with
    | none => s
    | some v =>
      if v.mine ∧ v.grantedAt.isNone ∧ v.m.q = m.q ∧ v.m.spare = m.spare then
        moveBegin (setMove s m.str (some { v with grantedAt := some s.clk.now })) m.str v.m v.m.rx
      else s)

/-- The ring of a lane where no spare runs: what a re-flank is for. -/
def laneRing (s : State) (x q : Nat) (rx : Bool) : RingKey :=
  if rx then (oxOf x, rxFibreOf s x, true, rxRingOf s x q) else (oxOf x, txFibre s x, false, txWlOf s x q)

/-- A ring seeks its other flank without a spare: its string is retrained from the polarity stage (R345). -/
def retrain (s : State) (k : RingKey) (x : Nat) : State :=
  let l := linkOf s x
  let s := setPeg s k (seekFrom (pegOf s k))
  if l.stage < 4 then s
  else
    let s := enterStage s x 4
    if l.stage = 9 then portDown s x (inHand l) else s

/-- A move that was refused, or had no answer: it ends, and the other spare is asked for if it qualifies; else a failed lane takes its
string down, and a re-flank goes on without a spare (R345, R350, R353). -/
def moveRefused (s : State) (x : Nat) (v : Move) : State :=
  let s := setMove s x none
  if v.m.cause = 3 ∨ v.m.ret then s
  else
    match (sparesOf s x).find? fun sp => decide (v.m.spare < sp) && !spareUsed s x v.m.rx sp with
    | some sp =>
      let m := { v.m with spare := sp }
      sendFrame (setMove s x (some { m := m, mine := true, askedAt := s.clk.now })) x (.laneMove m)
    | none => if v.m.cause < 3 then laneFailed s x v.m.cause else retrain s (laneRing s x v.m.q v.m.rx) x

/-- LANE_REFUSE (R351). -/
def execLaneRefuse (m : LaneMsg) (s : State) : Res :=
  .next (match moveOf s m.str with
    | none => s
    | some v =>
      if v.mine ∧ v.grantedAt.isNone then
        let f := if v.m.rx then rxFibreOf s m.str else txFibre s m.str
        moveRefused (bump s .oxLaneRefuse [oxOf m.str, f, ofB v.m.rx]) m.str v
      else s)

/-- LANE_DONE: the receiving end of the direction takes the lane from the new wavelength (R352, step 4). -/
def execLaneDone (m : LaneMsg) (s : State) : Res :=
  .next (match moveOf s m.str with
    | none => s
    | some v => if v.grantedAt.isSome ∧ v.m.rx ≠ v.mine ∧ v.m.q = m.q then moveSent s m.str v.m else s)

/-- LANE_MOVE_NO_ANSWER: a LANE_MOVE without an answer for 1 ms is treated as refused (R353). -/
def execLaneMoveNoAnswer (x : Nat) (s : State) : Res :=
  .next (match moveOf s x with
    | none => s
    | some v => if v.mine ∧ v.grantedAt.isNone ∧ v.askedAt + 1000000 ≤ s.clk.now then moveRefused s x v else s)

/-- LANE_MOVE_ABANDON: a move without LANE_DONE for 20 ms after its grant is abandoned (R353). -/
def execLaneMoveAbandon (x : Nat) (s : State) : Res :=
  .next (match moveOf s x with
    | none => s
    | some v =>
      match v.grantedAt with
      | none => s
      | some t =>
        if t + 20000000 ≤ s.clk.now then
          let rx := v.m.rx == v.mine
          let f := if rx then rxFibreOf s x else txFibre s x
          let s := moveUndo (setMove s x none) x v.m rx
          let s := if v.m.ret then s else { s with opt := { s.opt with reflank := s.opt.reflank.filter (· != laneRing s x v.m.q rx) } }
          bump s .oxLaneAbandon [oxOf x, f]
        else s)

/-! What a peg's end means for its lane. -/

/-- A ring has FAILED (Table 12-5): counted; the lane it carries is moved, or its string goes down (R350). -/
def pegFail (s : State) (k : RingKey) (p : Peg) : State :=
  let s := bump (setPeg s k { p with st := .failed, code := 0 }) .oxPegFail [k.1, k.2.1, ofB k.2.2.1, k.2.2.2]
  let s := { s with opt := { s.opt with reflank := s.opt.reflank.filter (· != k) } }
  if k.2.2.1 && (wbRole s k.1 k.2.1 k.2.2.2).1 != 1 then s
  else
    match carried s k.1 k.2.1 k.2.2.1 k.2.2.2 with
    | none => s
    | some (x, q) => startMove s x q k.2.2.1 (if k.2.2.1 then 2 else 0)

/-- RE_FLANK (R345): the lane moves to a spare and the ring seeks the other flank; without a spare the string is retrained
from the polarity stage. -/
def reFlank (s : State) (k : RingKey) (p : Peg) : State :=
  let s := bump s .oxReflank [k.1, k.2.1, ofB k.2.2.1, k.2.2.2]
  let s := { s with opt := { s.opt with reflank := insertOnce k s.opt.reflank } }
  match carried s k.1 k.2.1 k.2.2.1 k.2.2.2 with
  | none => setPeg s k (seekFrom p)
  | some (x, q) =>
    if strReady s x && (moveOf s x).isNone && (freeSpare s x k.2.2.1).isSome && !onSpare s x q k.2.2.1 then
      startMove s x q k.2.2.1 4
    else retrain s k x

/-- A ring in LOCKED: a PREP ring completes its move (R352, step 3); a re-flanked ring takes its lane back (R345). `fresh` is true when
a seek has just ended: a re-flank that needed no spare is then done. -/
def pegLocked (s : State) (k : RingKey) (fresh : Bool) : State :=
  let mv := (linksOn s k.1 k.2.1 k.2.2.1).findSome? fun x => (moveOf s x).bind fun v =>
    if k.2.2.1 && v.m.rx == v.mine && v.grantedAt.isSome && (moveWls s x v.m).2 == k.2.2.2 then some (x, v.m) else none
  match mv with
  | some (x, m) => moveTaken s x m
  | none =>
    if k ∈ s.opt.reflank then
      let lanes := (linksOn s k.1 k.2.1 k.2.2.1).findSome? fun x =>
        ((List.range 4).find? fun q => 4 * laneSet s x + q == k.2.2.2 && onSpare s x q k.2.2.1).map fun q => (x, q)
      match lanes with
      | some (x, q) => startReturn s x q k.2.2.1 (if k.2.2.1 then rxRingOf s x q else txWlOf s x q)
      | none => if fresh then { s with opt := { s.opt with reflank := s.opt.reflank.filter (· != k) } } else s
    else s

/-- A period of SEEK (Table 12-5): a usable point of the wanted flank ends it; at P + 96 the line is sought at ± 3,276 codes
while the fibre carries no traffic, else the ring fails. -/
def pegSeek (s : State) (k : RingKey) (p : Peg) (found : Bool) : State :=
  let u := decide (p.pred < p.code)
  let other := decide (k ∈ s.opt.reflank)
  let wanted := !other || u != p.flankU
  let usable := decide (256 ≤ p.code ∧ p.code ≤ 3839)
  if found && wanted && usable then setPeg s k { p with st := .trim, flankU := u, left := 0, good := 0, bad := 0 }
  else
    let p := if found then { p with bad := 1 } else p
    if p.pred + 96 ≤ p.code then
      if p.bad = 1 ∧ !fibreBusy s k.1 k.2.1 ∧ (p.pred + 3276 + 96 ≤ 4095 ∨ 3276 + 96 ≤ p.pred) then
        setPeg s k (seekFrom { p with pred := if p.pred + 3276 + 96 ≤ 4095 then p.pred + 3276 else p.pred - 3276 })
      else pegFail s k p
    else setPeg s k { p with code := p.code + 4, left := p.left + 1 }

/-- A period of TRIM or RECOVER: 16 fine periods lock, 64 without fail. -/
def pegTrim (s : State) (k : RingKey) (p : Peg) (e : Int) : State :=
  let fresh := decide (p.st = .trim)
  let p := loopStep p e
  let p := if p.st = .recover then { p with code := max (p.lastLock - 64) (min (p.lastLock + 64) p.code) } else p
  let p := { p with left := p.left + 1, good := if withinFine e then p.good + 1 else 0 }
  if p.good ≥ 16 then pegLocked (setPeg s k { p with st := .locked, lastLock := p.code, pred := p.pred, left := 0, good := 0, bad := 0 }) k fresh
  else if p.left ≥ 64 then pegFail s k p
  else setPeg s k p

/-- A period of LOCKED. -/
def pegHoldLock (s : State) (k : RingKey) (p : Peg) (e : Int) (light : Bool) : State :=
  if !light then setPeg s k { p with st := .hold, left := 0, bad := 0 }
  else
    let p := loopStep p e
    let p := { p with bad := if beyondBad e then p.bad + 1 else 0, lastLock := if beyondBad e then p.lastLock else p.code }
    if p.bad ≥ 4 then
      bump (setPeg s k { p with st := .recover, left := 0, good := 0, bad := 0 }) .oxPegRecover [k.1, k.2.1, ofB k.2.2.1, k.2.2.2]
    else if (p.code < 128 ∨ 3967 < p.code) ∧ k ∉ s.opt.reflank then reFlank (setPeg s k p) k p
    else pegLocked (setPeg s k p) k false

/-- The heater energy of a period: 12 mW at code 4,095 over 4 µs, counted by whole µJ (R339, Table 12-12). -/
def heatUp (s : State) (ox code : Nat) : State :=
  let n := (s.opt.heat.get ox 0 + code) * 48
  let s := bump s .oxPegHeatUj [ox] (n / 4095000)
  { s with opt := { s.opt with heat := s.opt.heat.set ox (n % 4095000 / 48) } }

/-- One period of a ring's loop (Table 12-5). `measured` is in units of 1/261,120; `light` is the input at the ring;
`found` says that the scan meets a flank point of the line at the present code. -/
def pegLoop (s : State) (k : RingKey) (measured : Nat) (light found : Bool) : State :=
  let p := pegOf s k
  let e := pegErr s k measured
  let s := heatUp s k.1 p.code
  match p.st with
  | .off => if light then setPeg s k (seekFrom { p with wl := if k.2.2.1 then (wbRole s k.1 k.2.1 k.2.2.2).2 else k.2.2.2 }) else s
  | .seek => pegSeek s k p found
  | .trim => pegTrim s k p e
  | .locked =>
    if ringNeeded s k then pegHoldLock s k p e light else setPeg s k (parkPeg k.2.2.1 p)
  | .recover => pegTrim s k p e
  | .hold =>
    if light then
      bump (setPeg s k { p with st := .recover, left := 0, good := 0 }) .oxPegRecover [k.1, k.2.1, ofB k.2.2.1, k.2.2.2]
    else if p.left + 1 ≥ 25000 then setPeg s k { p with st := .off, code := 0, left := 0 }
    else setPeg s k { p with left := p.left + 1 }
  | .park =>
    if ringNeeded s k then setPeg s k (seekFrom { p with wl := if k.2.2.1 then (wbRole s k.1 k.2.1 k.2.2.2).2 else k.2.2.2 }) else s
  | .failed => setPeg s k { p with code := 0 }

/-- PEG_LOOP (R342). -/
def execPegLoop (ox fibre : Nat) (bus : Bool) (ring : Nat) (measured : Nat) (light found : Bool) (s : State) : Res :=
  .next (if ox < 8 ∧ fibre < 18 ∧ ring < 18 then pegLoop s (ox, fibre, bus, ring) measured light found else s)

/-- Whether a downstream ring may probe a line (R348). -/
def mayProbe (s : State) (ox f ring wl : Nat) : Bool :=
  let d := fun r => (wbRole s ox f r).1 == 1 || (wbRole s ox f r).1 == 2
  (ring == 16 && !d 16 && !(d 17 && wl == (wbRole s ox f 17).2)) || (ring == 17 && !d 17) || (d 16 && d 17)

/-- PROBE_DWELL: a probe reads a line's residual OMA, eye heights and symbol error ratio (R348); while both downstream rings
are DATA the readings are the lane's own receiver's, without the OMA. -/
def execProbeDwell (ox fibre ring wl oma : Nat) (eyes : List Nat) (ser : Nat) (s : State) : Res :=
  let both := (wbRole s ox fibre 16).1 == 1 && (wbRole s ox fibre 17).1 == 1
  .next (if ox < 8 ∧ fibre < 18 ∧ wl < 18 ∧ mayProbe s ox fibre ring wl then
      { s with opt := { s.opt with probes := s.opt.probes.set (ox, fibre, wl) (if both then 0 else oma, eyes, ser) } }
    else s)

/-! Equalising the lanes of a string (R347). -/

/-- A weight-bank ring's whole entry, as it is in effect. -/
def wbFull (s : State) (ox f ring : Nat) : Nat :=
  (wbEntry s.prog.eff f ring).getD
    (f + ring * 2 ^ 5 + (wbRole s ox f ring).2 * 2 ^ 10 + (wbRole s ox f ring).1 * 2 ^ 15 + wbWeight s ox f ring * 2 ^ 18)

/-- Whether a level lies more than 1.0 dB above another: their ratio is above 10^(1/10). -/
def above1dB (a m : Nat) : Bool := decide (10 * m ^ 10 < a ^ 10)

/-- W of a DATA ring whose lane comes in at a level, lowered one by one until the lane lies within 1.0 dB of the weakest, and not below
128; `k` bounds the steps. -/
def lowerW (lvl w m : Nat) : Nat → Nat → Nat
  | 0, v => v
  | k + 1, v => if decide (128 < v) && above1dB (lvl * v) (m * w) then lowerW lvl w m k (v - 1) else v

/-- Tuning lowers W on the stronger DATA rings of a string, which it commits on the Kojor's own behalf: the change is watched, and waits while a
loader's commit is pending; one withdrawn in the last 64 h is not made (R346, R347, R349; log entry 183). -/
def equalise (s : State) (x : Nat) (levels : List Nat) : State :=
  if 544 ≤ x ∨ (linkOf s x).stage ≠ 9 ∨ levels.length ≠ 4 ∨ !s.prog.commits.isEmpty then s
  else
    let ox := oxOf x
    let f := rxFibreOf s x
    let m := levels.foldl min (levels.headD 0)
    levels.zipIdx.foldl (fun s l =>
      let ring := rxRingOf s x l.2
      let w := wbWeight s ox f ring
      let v := lowerW l.1 w m 256 w
      let held := s.opt.suppressed.any fun h => h.1 == f && h.2.1 == ring && decide (s.clk.now < h.2.2)
      if (wbRole s ox f ring).1 ≠ 1 ∨ v = w ∨ held then s
      else
        let e := wbFull s ox f ring
        let s := { s with
          prog := { s.prog with eff := TMap.set s.prog.eff (5, f + 32 * ring) (putBits e 18 8 v) }
          opt := { s.opt with changed := s.opt.changed.set (f, ring) (some (s.clk.now, e)) } }
        scroll s 6 .commitRecord (siteMC s) [2, 5, f + 32 * ring]) s

/-- LANE_BER_CHECK: a lane's bit errors over 1 ms; above 2 × 10^-5 within 1 ms of a weight change the change is withdrawn
(TUNE_REVERT, R349). Otherwise tuning equalises the lanes of the string by the levels at which its receivers take them (R347). -/
def execLaneBerCheck (x q : Nat) (ber : BitErrors) (levels : List Nat) (s : State) : Res :=
  let f := rxFibreOf s x
  let ring := rxRingOf s x q
  .next (match s.opt.changed.get (f, ring) none with
    | none => equalise s x levels
    | some (t, old) =>
      if x < 544 ∧ q < 4 ∧ ber.errs * 50000 > ber.bits ∧ s.clk.now ≤ t + 1000000 then
        let s := scroll (bump s .oxTuneRevert [oxOf x, f]) 6 .commitRecord (siteMC s) [2, 5, f + 32 * ring]
        { s with
          prog := { s.prog with eff := TMap.set s.prog.eff (5, f + 32 * ring) old }
          opt := { s.opt with changed := s.opt.changed.set (f, ring) none,
                              suppressed := s.opt.suppressed ++ [(f, ring, s.clk.now + 64 * 3600 * 1000000000)] } }
      else equalise (if t + 1000000 < s.clk.now then { s with opt := { s.opt with changed := s.opt.changed.set (f, ring) none } } else s) x levels)

/-- LANE_BER_WINDOW: a lane's bit errors over 100 ms; above 5 × 10^-5 the receiver starts a move (R350). -/
def execLaneBerWindow (x q errs nbits : Nat) (s : State) : Res :=
  .next (if x < 544 ∧ q < 4 ∧ errs * 20000 > nbits ∧ !onSpare s x q true then startMove s x q true 3 else s)

/-! Laser modules (R355 to R357). -/

def laserOf (s : State) (lm : Nat) : Laser := s.opt.lasers.get lm {}
def setLaser (s : State) (lm : Nat) (l : Laser) : State := { s with opt := { s.opt with lasers := s.opt.lasers.set lm l } }

/-- The transmit fibres that a module feeds (R355). -/
def laserFibres (lm : Nat) : List Nat := if lm % 2 = 0 then [0, 1, 2, 3, 4, 5, 6, 7, 16] else [8, 9, 10, 11, 12, 13, 14, 15, 17]
def laserLinks (s : State) (lm : Nat) : List Nat := (laserFibres lm).flatMap fun f => linksOn s (lm / 2) f false

/-- A line below 7.0 dBm for 10 ms has failed on each fibre it feeds: each affected lane is moved (R350, R357). -/
def lineFailed (s : State) (lm lane : Nat) : State :=
  let l := laserOf s lm
  if lane ∈ l.dark then s
  else
    let s := scroll (setLaser s lm { l with dark := insertOnce lane l.dark }) 3 .laserFail (siteOX (lm / 2)) [lm, lane]
    (laserLinks s lm).foldl (fun s x =>
      (List.range 4).foldl (fun s q => if txWlOf s x q = lane then startMove s x q false 1 else s) s) s

/-- A line in warning: counted, and its setpoint raised by 0.5 dB, up to 1.5 dB, written to the scroll (R357). -/
def lineWarn (s : State) (lm lane : Nat) : State :=
  let l := laserOf s lm
  let new := decide (lane ∉ l.warn)
  let s := setLaser s lm { l with warn := insertOnce lane l.warn }
  let s := if new then bump s .oxLaserWarn [lm, lane] else s
  let l := laserOf s lm
  let r := l.raises.get lane 0
  if r < 3 then scroll (setLaser s lm { l with raises := l.raises.set lane (r + 1) }) 3 .laserRaise (siteOX (lm / 2)) [lm, lane, r + 1] else s

/-- LASER_MONITOR: one reading of a line's power in hundredths of a dBm, and for how long it has been below 7.0 dBm (R357). -/
def execLaserMonitor (lm lane centiDbm : Nat) (lowMs : Nat) (alarm : Bool) (s : State) : Res :=
  .next (if 16 ≤ lm ∨ 18 ≤ lane ∨ !(laserOf s lm).ready then s
    else
      let s := setLaser s lm { laserOf s lm with alarm := alarm }
      let s :=
        if centiDbm < 800 then lineWarn s lm lane
        else setLaser s lm { laserOf s lm with warn := (laserOf s lm).warn.filter (· != lane) }
      if centiDbm < 700 ∧ 10 ≤ lowMs then lineFailed s lm lane
      else if 700 ≤ centiDbm then setLaser s lm { laserOf s lm with dark := (laserOf s lm).dark.filter (· != lane) }
      else s)

/-- LASER_MODULE_REMOVE: its rings enter HOLD and its strings go down (R357; log entry 41). -/
def execLaserModuleRemove (lm : Nat) (s : State) : Res :=
  .next (if 16 ≤ lm then s
    else
      let s := setLaser s lm {}
      let s := (laserFibres lm).foldl (fun s f => (List.range 18).foldl (fun s r =>
        let k := (lm / 2, f, false, r)
        if (pegOf s k).st = .locked ∨ (pegOf s k).st = .recover then setPeg s k { pegOf s k with st := .hold, left := 0 } else s) s) s
      (laserLinks s lm).foldl (fun s x => if 2 ≤ (linkOf s x).stage then stringDown s x .noLight else s) s)

/-- LASER_MODULE_INSERT: a module with 18 lanes on the grid is enabled and its rings are acquired afresh; any other is not
(R356, R357). -/
def execLaserModuleInsert (lm lanes : Nat) (onGrid : Bool) (s : State) : Res :=
  .next (if 16 ≤ lm then s
    else if lanes < 18 ∨ !onGrid then
      scroll (setLaser s lm { present := true }) 3 .laserRefused (siteOX (lm / 2)) [lm, lanes]
    else
      let s := setLaser s lm { present := true, ready := true }
      (laserFibres lm).foldl (fun s f => (List.range 18).foldl (fun s r =>
        let k := (lm / 2, f, false, r)
        setPeg s k (seekFrom { pegOf s k with wl := r })) s) s)

end Sys2Proof.Machine
end

