-- ==== Sys2Proof/Machine/Services.lean ====
section
/-! DEFINITION. What a Kojor or Brola does for MST, BARR, CPYD, INV and PFA (R121, R126, R127, R175 to R178, R292 to R296,
R314, R324 to R328). -/

namespace Sys2Proof.Machine

open Sys2Proof

/-! Multicast (R175 to R178). -/

/-- The copy of a multicast store for one leaf (R176). -/
def mcastCopy (s : State) (r : Req) (leaf : Nat) : Req :=
  { op := 2, tc := r.tc, poison := r.poison, capo := r.capo, epoch := r.epoch, len := r.len, data := r.data,
    src := mySrc s, addr := mkAddr 0 (aDy r.addr) (aDx r.addr) (leaf / 32) (leaf % 32) (aOff r.addr) }

/-- The replicator's work (R175, R176). -/
def doMst (s : State) (r : Req) (v : Via) : State :=
  if kindReserved r.addr || !zerosOk r.addr then settle r v (refuse s .kojor r .unreachable)
  else
    let l := mcastSet s r.addr r.capo
    if l.isEmpty then settle r v (refuse (bump s .capoViol [sourceCapo s r v]) .kojor r .capoViolation)
    else
      let id := s.sw.nextMc
      let s := { s with
        sw := { s.sw with nextMc := id + 1 }
        mcasts := s.mcasts ++ [{ id := id, r := r, v := v, arrived := s.clk.now, waiting := l.map (·.1) }] }
      let s := keepRunning s r v .mcast
      l.foldl (fun s p => kIssue s (mcastCopy s r p.2) (.mcast id p.1)) s

/-- MST (R175). -/
def execMst (r : Req) (v : Via) (s : State) : Res := .next (if r.op = 0x28 then runEntry s r v (fun s => doMst s r v) else s)

/-- MCAST_COPY_TIMEOUT: half the capo's completion timeout has run since the MST arrived; the copies without a completion
fail (R177). -/
def execMcastCopyTimeout (id : Nat) (s : State) : Res :=
  .next (match s.mcasts.find? fun m => m.id == id with
    | none => s
    | some m =>
      if m.arrived + capoCto s.prog.eff m.r.capo * 500 ≤ s.clk.now then
        let s := { s with rq := { s.rq with out := s.rq.out.filter fun o =>
          match o.owner with
          | .mcast i _ => i != id
          | _ => true } }
        m.waiting.foldl (fun s p => mcastFail s id p) s
      else s)

/-! Barriers (R292 to R296). -/

abbrev BarKey := Bool × Nat × Nat

def barOf (s : State) (k : BarKey) : Barrier := s.ctl.bars.get k {}
def setBar (s : State) (k : BarKey) (b : Barrier) : State := { s with ctl := { s.ctl with bars := s.ctl.bars.set k b } }

/-- The mirrored record of a barrier (R296). -/
def barRec (k : BarKey) (b : Barrier) : MirrorBody :=
  .mstate (.barrier k.1 k.2.1 k.2.2 b.st b.epoch b.stated b.n b.openedAt (b.held.map (·.1)))

/-- The barrier's record mirrored, with the message to wait for. -/
def barChange (s : State) (k : BarKey) : State × List Nat := mirrorChange s (k.2.2 % 4) k.2.2 k.2.1 (barRec k (barOf s k))

def barNote (s : State) (k : BarKey) : State := (barChange s k).1

/-- Completes every held BARR with one completion form, once the twin holds the barrier's record (R58). -/
def barAnswer (x : State × List Nat) (b : Barrier) (f : Cmp → Cmp) : State :=
  b.held.foldl (fun s h => settleWith x.2 h.1 h.2 ⟨s, f (cmpOf h.1 (mySrc s) .ok), []⟩) x.1

/-- The SIG fields of a barrier (Table 10-4). -/
def barSig (b : Barrier) (conflict : Nat) (c : Cmp) : Cmp :=
  { c with status := .collMismatch, sigOp := 0x34, sigFmt := 0, sigCount := b.stated, sigGepoch := b.epoch, conflict := conflict }

/-- A barrier ends in a state, and its held BARRs get their answer (R293). -/
def barEnd (s : State) (k : BarKey) (b : Barrier) (st : BarState) (conflict : Nat) (f : Cmp → Cmp) : State :=
  barAnswer (barChange (setBar s k { b with
    st := st, changedAt := s.clk.now, held := [], conflict := conflict, up := false, n := if st = .idle then 0 else b.n }) k) b f

/-- The count at which a barrier releases or reports upward (R293). -/
def barTarget (s : State) (k : BarKey) (e : Nat) : Nat :=
  if grpRdy e = (site s).dy ∧ grpRdx e = (site s).dx then
    grpNloc e + (if grpXdom e then Config.otherDomains k.2.2 k.2.1 else 0)
  else grpNloc e

/-- The BARR a domain counter sends to the root domain (R295), in the class of the arrival that completed the count (log
entry 34). -/
def barUpReq (s : State) (k : BarKey) (e : Nat) (b : Barrier) (tc : Nat) : Req :=
  { op := 0x34, tc := tc, capo := k.2.1, epoch := b.epoch, len := 8, group := k.2.2, op0 := BitVec.ofNat 64 (grpNtot e),
    addr := mkAddr 4 (grpRdy e) (grpRdx e) (site s).course (ofB k.1) (2 ^ 45 + 0x100000 + 8 * k.2.2) }

/-- The target reached: released in one cycle, or one BARR goes to the root domain (R293, R295). -/
def barCheck (s : State) (k : BarKey) (e tc : Nat) : State :=
  let b := barOf s k
  if b.st = .counting ∧ barTarget s k e ≤ b.n ∧ !b.up then
    if grpXdom e && !(grpRdy e == (site s).dy && grpRdx e == (site s).dx) then
      kIssue (setBar s k { b with up := true }) (barUpReq s k e b tc) (.barrUp k.2.1 k.2.2)
    else barEnd s k b .idle 0 id
  else s

/-- Whether a record for a barrier instance or a held BARR is free (R296, R482). -/
def barFree (s : State) (k : BarKey) : Bool :=
  let open_ := s.ctl.bars.filter fun e => e.2.st != .idle && samePart s e.1.2.1 k.2.1
  let held := ((s.ctl.bars.filter fun e => samePart s e.1.2.1 k.2.1).map fun e => e.2.held.length).sum
  ((barOf s k).st != .idle || decide (open_.length < poolPart s 16384 k.2.1)) && decide (held < poolPart s 65536 k.2.1)

/-- A BARR at its counter (R293). -/
def barArrive (s : State) (k : BarKey) (e : Nat) (r : Req) (v : Via) : State :=
  let b := barOf s k
  let stated := wbits r.op0 0 32
  match b.st with
  | .idle =>
    let b := { b with epoch := r.epoch, stated := stated, n := 1, openedAt := s.clk.now, held := [(r, v)], up := false }
    let s := keepRunning s r v .barrier
    if stated ≠ grpNtot e then barEnd s k b .poisoned r.src (barSig b r.src)
    else barCheck (barNote (setBar s k { b with st := .counting }) k) k e r.tc
  | .counting =>
    if r.epoch = b.epoch ∧ stated = b.stated then
      let s := keepRunning s r v .barrier
      barCheck (barNote (setBar s k { b with n := b.n + 1, held := b.held ++ [(r, v)] }) k) k e r.tc
    else
      let s := barEnd s k b .poisoned r.src (barSig b r.src)
      settle r v ⟨s, barSig b r.src (cmpOf r (mySrc s) .ok), []⟩
  | .poisoned => settle r v ⟨s, barSig b b.conflict (cmpOf r (mySrc s) .ok), []⟩
  | .expired => settle r v (refuse s .kojor r .timeout)

/-- Steps 5 to 9 of a BARR (R292, R296). -/
def doBarr (s : State) (r : Req) (v : Via) : State :=
  if kindReserved r.addr then settle r v (refuse s .kojor r .unreachable)
  else
    match ctlReady s r v (fun _ s => refuse s .kojor r .ok) with
    | .stop s => s
    | .fail d => settle r v d
    | .ok s _ =>
      match swLoc (aOff r.addr % 2 ^ 45), groupEntry s.prog.eff r.group r.capo with
      | some (.bar g), some e =>
        let k := (ctlMember r.addr, r.capo, g)
        if r.group ≠ g then settle r v (refuse s .kojor r .accDenied)
        else if ((barOf s k).st == .idle || (barOf s k).st == .counting) && !barFree s k then settle r v (retryIn s .kojor r 10)
        else barArrive s k e r v
      | _, _ => settle r v (refuse s .kojor r .accDenied)

/-- BARR (R293). -/
def execBarr (r : Req) (v : Via) (s : State) : Res := .next (if r.op = 0x34 then runEntry s r v (fun s => doBarr s r v) else s)

/-- The upward BARR of a domain counter has completed: its status passes to the held arrivals (R295). -/
def barUpDone (s : State) (capo g : Nat) (c : Cmp) : State :=
  [false, true].foldl (fun s m =>
    let k := (m, capo, g)
    let b := barOf s k
    if b.st = .counting ∧ b.up then
      let st := if c.status = .ok then BarState.idle else if c.status = .timeout then .expired else .poisoned
      barEnd s k b st c.conflict (fun x => { x with
        status := c.status, sigOp := c.sigOp, sigFmt := c.sigFmt, sigCount := c.sigCount, sigGepoch := c.sigGepoch, conflict := c.conflict })
    else s) s

/-- BARRIER_TIMEOUT: the capo's barrier timeout has run since the first arrival (R293). -/
def execBarrierTimeout (capo group : Nat) (s : State) : Res :=
  .next ([false, true].foldl (fun s m =>
    let k := (m, capo, group)
    let b := barOf s k
    if b.st = .counting ∧ b.openedAt + capoBto s.prog.eff capo * 1000000 ≤ s.clk.now then
      barEnd s k b .expired b.conflict (fun c => { c with status := .timeout })
    else s) s)

/-- BARRIER_RECOVER: the capo's completion timeout has run since the poisoning or the expiry (Table 10-4). -/
def execBarrierRecover (capo group : Nat) (s : State) : Res :=
  .next ([false, true].foldl (fun s m =>
    let k := (m, capo, group)
    let b := barOf s k
    if (b.st = .poisoned ∨ b.st = .expired) ∧ b.changedAt + capoCto s.prog.eff capo * 1000 ≤ s.clk.now then
      barNote (setBar s k {}) k
    else s) s)

/-! Copies (R89 to R92, R121, R122). -/

/-- The first byte of a range that no region of the capo maps. -/
def unmappedAt (s : State) (capo off n : Nat) : Option Nat :=
  ((List.range ((off + n - 1) / 4096 - off / 4096 + 1)).find? fun i => (regionAt s.prog.eff capo (off / 4096 + i)).isNone).map fun i =>
    max off ((off / 4096 + i) * 4096)

/-- The first byte of a range that may not be written: an RO region or a declared window (R204). -/
def unwritableAt (s : State) (capo off n : Nat) : Option Nat :=
  ((List.range ((off + n - 1) / 4096 - off / 4096 + 1)).find? fun i =>
    ((regionAt s.prog.eff capo (off / 4096 + i)).map (·.ro)).getD false || (windowAt s capo ((off / 4096 + i) * 4096) 4096).isSome).map
    fun i => max off ((off / 4096 + i) * 4096)

def addrPlus (a : W64) (lo b : Nat) : W64 := a + BitVec.ofNat 64 (b - lo)

/-- The validation of both ranges at a Kojor (R60): what it can judge is its own course's memory. -/
def copyBadK (s : State) (r : Req) (v : Via) : Option Done :=
  let c := copyDesc r
  let d := aOff c.dst
  let x := if ownCourse s c.src then (unmappedAt s r.capo (aOff c.src) c.len).map fun b => addrPlus c.src (aOff c.src) b else none
  let y := (unmappedAt s r.capo d c.len).map fun b => addrPlus c.dst d b
  match x, y with
  | some a, _ => some (xlateFault s r v a)
  | none, some a => some (xlateFault s r v a)
  | none, none => (unwritableAt s r.capo d c.len).map fun b =>
      if b = d then refuse s .kojor r .accDenied else ⟨s, cmpErr r (mySrc s) .accSplit (addrPlus c.dst d b), []⟩

/-- The validation at a Brola: the destination against the access windows, and the source where it is this leaf's (R60, R115). -/
def copyBadB (s : State) (r : Req) : Option Done :=
  let c := copyDesc r
  let chk := fun p (a : W64) => (firstForbidden s p (aOff a) c.len).map fun b =>
    if b = aOff a then refuse s .brola r .accDenied else ⟨s, cmpErr r (brolaSrc s) .accSplit (addrPlus a (aOff a) b), []⟩
  match (if aKind c.src == 0 && ownLeaf s c.src then chk .rd c.src else none) with
  | some d => some d
  | none => chk .wr c.dst

/-- Steps 5 to 9 of a CPYD: the descriptor is queued (R58, R121). -/
def doCpyd (s : State) (r : Req) (v : Via) : State :=
  match v with
  | .brola _ =>
    runReady r v (match lfReady s r (fun _ s => refuse s .brola r .ok) with
      | .ok s _ =>
        match copyBadB s r with
        | some d => .fail d
        | none =>
          if s.brola.copyQ.length ≥ 1024 then .fail (retryIn s .brola r 10)
          else .ok s fun s => ⟨{ s with brola := { s.brola with copyQ := s.brola.copyQ ++ [r] } }, cmpOf r (brolaSrc s) .ok, []⟩
      | x => x)
  | _ =>
    if kindReserved r.addr then settle r v (refuse s .kojor r .unreachable)
    else
      runReady r v (match ctlReady s r v (fun _ s => refuse s .kojor r .ok) with
        | .ok s _ =>
          match copyBadK s r v with
          | some d => .fail d
          | none =>
            if deferred s r.capo then .fail (energyDefer s r)
            else .ok s fun s => ⟨{ s with ctl := { s.ctl with copyQ := s.ctl.copyQ ++ [r] } }, cmpOf r (mySrc s) .ok,
              [(0, .mstate (.copyQueued r))]⟩
        | x => x)

/-- CPYD (R121). -/
def execCpyd (r : Req) (v : Via) (s : State) : Res := .next (if r.op = 0x38 then runEntry s r v (fun s => doCpyd s r v) else s)

/-- The bytes of the next block of a copy: up to 4 KiB, within one 4 KiB block of the source and of the destination (R51, R121). -/
def copyBlock (c : CopyDesc) (o : Nat) : Nat :=
  min (c.len - o) (min (4096 - (c.src.toNat + o) % 4096) (4096 - (c.dst.toNat + o) % 4096))

/-- Whether the ranges lie in one leaf or course and overlap (R91). -/
def copyOverlaps (c : CopyDesc) : Bool :=
  destOf c.src == destOf c.dst && decide (overlap c.src.toNat c.len c.dst.toNat c.len ≠ 0)

/-- Whether an engine reads the whole source before it writes: the ranges overlap (R91), or the source lies elsewhere, so that only its
reads can validate it (R60; log entry 166). -/
def copyWhole (s : State) (w : Party) (c : CopyDesc) : Bool :=
  copyOverlaps c || !(match w with
    | .kojor => ownCourse s c.src
    | .brola => aKind c.src == 0 && ownLeaf s c.src)

def copiesOf (s : State) : Party → List CopyRun
  | .kojor => s.ctl.copies
  | .brola => s.brola.copies
def setCopies (s : State) (w : Party) (l : List CopyRun) : State :=
  match w with
  | .kojor => { s with ctl := { s.ctl with copies := l } }
  | .brola => { s with brola := { s.brola with copies := l } }
def findCopy (s : State) (w : Party) (id : Nat) : Option CopyRun := (copiesOf s w).find? fun c => c.id == id
def setCopy (s : State) (w : Party) (c : CopyRun) : State :=
  setCopies s w (replaceFirst (fun x => x.id == c.id) (fun _ => c) (copiesOf s w))

/-- Issues a request of a party; a Brola's waits for REQUEST_RELEASE. -/
def issueAs (s : State) (w : Party) (r : Req) (ow : Owner) : State :=
  match w with
  | .kojor => kIssue s r ow
  | .brola => issue s .brola { r with src := brolaSrc s, capo := (s.brola.asg.map (·.capo)).getD 0 } ow none none

/-- Reads the next block of a copy, unless it has failed (R121). -/
def copyRead (s : State) (w : Party) (id : Nat) : State :=
  match findCopy s w id with
  | none => s
  | some x =>
    let c := copyDesc x.desc
    if x.fail.isSome || decide (c.len ≤ x.next) then s
    else
      let n := copyBlock c x.next
      let s := setCopy s w { x with next := x.next + n, left := x.left + 1 }
      issueAs s w { op := 1, tc := c.tc, capo := x.desc.capo, len := n, addr := c.src + BitVec.ofNat 64 x.next } (.copy id x.next false)

/-- A block written at its destination: into the Brola's own memory, or by an ST of the Kojor (R121). -/
def copyWrite (s : State) (w : Party) (id : Nat) (o : Nat) (bs : List Byte) : State :=
  match findCopy s w id with
  | none => s
  | some x =>
    let c := copyDesc x.desc
    match w with
    | .brola => leafWrite s (aOff c.dst + o) bs false
    | .kojor =>
      issueAs (setCopy s .kojor { x with left := x.left + 1 }) .kojor
        { op := 2, tc := c.tc, capo := x.desc.capo, len := bs.length, data := bs, addr := c.dst + BitVec.ofNat 64 o } (.copy id o true)

/-- An error record after one more failed copy: the first status and ERRADDR stay (R122, Table 4-3). -/
def errAdd (e : ErrRec) (f : Status × W64) : ErrRec :=
  let e := if e.status = 0 then { e with status := statusCode f.1, errAddr := f.2 } else e
  { e with fails := min (e.fails + 1) 65535 }

/-- The error record of a counter after a failed copy (R90, R122). -/
def copyError (s : State) (k : Nat) (f : Status × W64) : State :=
  { s with brola := { s.brola with errs := s.brola.errs.set k (errAdd (s.brola.errs.get k {}) f) } }

/-- The same at a Kojor's mover, against its counter of switch control space; Table 10-1 gives no location that reads it (R90; log entry
81). -/
def copyErrorK (s : State) (k : Bool × Nat × Nat) (f : Status × W64) : State :=
  { s with ctl := { s.ctl with copyErrs := s.ctl.copyErrs.set k (errAdd (s.ctl.copyErrs.get k {}) f) } }

/-- The counter that a Kojor's copy raises: of the destination course's two control spaces, that of the member whose mover runs the copy
(DESIGN CHOICE, log entry 167). -/
def copyCtr (s : State) (x : CopyRun) : Bool × Nat × Nat := ((site s).memberB, x.desc.capo, (copyDesc x.desc).ctr)

/-- A copy ends once nothing is outstanding: CTR rises after every write completed OK, or its error is recorded (R89, R90). -/
def copyEnd (s : State) (w : Party) (id : Nat) : State :=
  match findCopy s w id with
  | none => s
  | some x =>
    let c := copyDesc x.desc
    if x.left ≠ 0 ∨ (x.fail.isNone ∧ (x.next < c.len ∨ !x.buf.isEmpty)) then s
    else
      let s := setCopies s w ((copiesOf s w).filter fun y => y.id != id)
      match w, x.fail with
      | .brola, none => raiseLeaf s c.ctr c.inc
      | .brola, some f => copyError s c.ctr f
      | .kojor, none => mirrorNote (raiseOwn s (copyCtr s x) c.inc) 0 0 x.desc.capo (.mstate (.copyEnded x.desc))
      | .kojor, some f => mirrorNote (copyErrorK s (copyCtr s x) f) 0 0 x.desc.capo (.mstate (.copyEnded x.desc))

/-- The first byte that failed (Table 4-3): the completion's ERRADDR where its status gives one (Table 2-9), else the first byte of the
request that failed. -/
def failAddr (c : CopyDesc) (o : Nat) (wr : Bool) (cm : Cmp) : W64 :=
  if cm.status = .accSplit ∨ cm.status = .xlateFault ∨ cm.status = .poison ∨ cm.status = .eccUncorr then cm.errAddr
  else (if wr then c.dst else c.src) + BitVec.ofNat 64 o

/-- A request of a copy has completed. -/
def copyDone (s : State) (w : Party) (id o : Nat) (wr : Bool) (cm : Cmp) : State :=
  match findCopy s w id with
  | none => s
  | some x =>
    let x := { x with left := x.left - 1 }
    if cm.status ≠ .ok then
      copyEnd (setCopy s w { x with fail := some (x.fail.getD (cm.status, failAddr (copyDesc x.desc) o wr cm)), buf := [] }) w id
    else if wr then copyEnd (setCopy s w x) w id
    else if copyWhole s w (copyDesc x.desc) then
      let x := { x with buf := x.buf ++ [(o, cm.data)] }
      let s := copyRead (setCopy s w x) w id
      match findCopy s w id with
      | none => s
      | some y =>
        if y.left = 0 then
          copyEnd (y.buf.foldl (fun s b => copyWrite s w id b.1 b.2) (setCopy s w { y with buf := [] })) w id
        else s
    else copyEnd (copyRead (copyWrite (setCopy s w x) w id o cm.data) w id) w id

/-- COPY_START: a free engine takes the next descriptor in queue order (R121, R122): 16 at a Brola (Table 4-1), the two tier
movers of each HX at a Kojor (R326). -/
def execCopyStart (w : Party) (s : State) : Res :=
  let q := match w with
    | .kojor => s.ctl.copyQ
    | .brola => s.brola.copyQ
  let free := match w with
    | .kojor => decide (s.ctl.copies.length < 4)
    | .brola => decide (s.brola.copies.length < 16)
  .next (match q with
    | [] => s
    | r :: t =>
      if !free then s
      else
        match w with
        | .kojor =>
          let id := s.ctl.nextCopy
          let s := { s with ctl := { s.ctl with copyQ := t, nextCopy := id + 1, copies := s.ctl.copies ++ [{ id := id, desc := r }] } }
          (List.range 8).foldl (fun s _ => copyRead s .kojor id) s
        | .brola =>
          let id := s.brola.nextCopy
          let s := { s with brola := { s.brola with copyQ := t, nextCopy := id + 1, copies := s.brola.copies ++ [{ id := id, desc := r }] } }
          (List.range 8).foldl (fun s _ => copyRead s .brola id) s)

/-! Invalidations (R96, R126, R127, R314). -/

/-- A discard command to the accelerator (R127): its number and whether it is a kernel's (with the tag) or an INV's. -/
def discardCmd (s : State) (lo len : Nat) (ktag : Option Nat) : State × Nat :=
  let id := s.brola.nextDiscard
  (emit { s with brola := { s.brola with
      nextDiscard := id + 1, discards := s.brola.discards ++ [(id, match ktag with
        | some k => k + 1
        | none => 0)] } } (.discard id lo len), id)

/-- Discards every translation copy in a range; the requests translated through one (R126). -/
def dropXlates (s : State) (lo len : Nat) : State × List Nat :=
  let hit := fun x : Nat × AtsXlate => decide (overlap lo len x.2.vbase x.2.size ≠ 0)
  let ids := (s.brola.xlates.filter hit).map (·.1)
  ({ s with brola := { s.brola with xlates := s.brola.xlates.filter fun x => !hit x } },
    (s.brola.rq.out.filter fun o => match o.xlateSrc with
      | some i => decide (i ∈ ids)
      | none => false).map (·.id))

/-- Whether a further invalidation is processed at once: up to 32 are (R126). -/
def invRoom (s : State) : Bool := decide ((s.brola.atsInv.filter (·.begun)).length < 32)

/-- An invalidation taken in: with room it begins, and discards its copies; a 33rd waits its turn in order of arrival (R126; log entry
173). -/
def invAdd (s : State) (i : Inval) : State × Inval :=
  let x := dropXlates s i.lo i.len
  let y := if invRoom s then (x.1, { i with begun := true, waits := x.2 }) else (s, i)
  ({ y.1 with brola := { y.1.brola with atsInv := y.1.brola.atsInv ++ [y.2] } }, y.2)

/-- An INV of SCOPE 0b01 that no outstanding request holds up. -/
def invFree (s : State) (r : Req) : Bool := invRoom s && (dropXlates s r.op0.toNat r.op1.toNat).2.isEmpty

/-- An INV at its location, steps 5 to 9. -/
def doInv (s : State) (r : Req) (v : Via) : State :=
  match v with
  | .brola _ =>
    match lfReady s r (fun _ s => refuse s .brola r .ok) with
    | .stop s => s
    | .fail d => settle r v d
    | .ok s _ =>
      if r.attr % 4 = 0 then
        let x := discardCmd s r.op0.toNat r.op1.toNat none
        keepRunning x.1 r v (.discard x.2)
      else if r.attr % 4 = 1 then
        if invFree s r then settle r v (refuse (dropXlates s r.op0.toNat r.op1.toNat).1 .brola r .ok)
        else keepRunning (invAdd s { inv := some (r, v), lo := r.op0.toNat, len := r.op1.toNat }).1 r v .drain
      else settle r v (refuse s .brola r .ok)
  | _ =>
    if kindReserved r.addr then settle r v (refuse s .kojor r .unreachable)
    else
      match ctlReady s r v (fun _ s => refuse s .kojor r .ok) with
      | .stop s => s
      | .fail d => settle r v d
      | .ok s _ =>
        let s := { s with mem := { s.mem with drains := s.mem.drains ++ [{ r := r, v := v }] } }
        let s := keepRunning s r v .drain
        if mirrorOn s && !fromTwin v then
          let p := mirrorPath s (viaSx v) 0
          emit s (.fwd (.req r) p.1 p.2)
        else s

/-- An INV command of one SCOPE; a reserved SCOPE ends at step 3. -/
def invCmd (scopes : List Nat) (r : Req) (v : Via) (s : State) : State :=
  if r.op = 0x3C ∧ r.attr % 4 ∈ scopes then runEntry s r v (fun s => doInv s r v) else s

/-- INV_LEAF_LINES (R96, R127). -/
def execInvLeafLines (r : Req) (v : Via) (s : State) : Res := .next (invCmd [0, 3] r v s)
/-- INV_TRANSLATION (R126). -/
def execInvTranslation (r : Req) (v : Via) (s : State) : Res := .next (invCmd [1] r v s)
/-- INV_REGION_CACHE (R314). -/
def execInvRegionCache (r : Req) (v : Via) (s : State) : Res := .next (invCmd [2] r v s)

/-- Whether a request translated at this member before an INV still executes in its range (R314). -/
def drainBusy (s : State) (r : Req) : Bool :=
  let hit := fun (a : W64) n => aKind a == 2 && decide (overlap (aOff a) n r.op0.toNat r.op1.toNat ≠ 0)
  (s.resp.running.takeWhile (fun x => !sameReq x.r r)).any (fun x => x.r.capo == r.capo && hit x.r.addr (max x.r.len 1))
    || s.mem.pfas.any (fun x => x.r.capo == r.capo && (hit x.r.addr x.r.op1.toNat || hit x.r.op0 x.r.op1.toNat))
    || s.ctl.copies.any fun x =>
      let c := copyDesc x.desc
      x.desc.capo == r.capo && (hit c.src c.len || hit c.dst c.len)

/-- The INV completes OK when both members have drained (R314). -/
def drainCheck (s : State) (d : Drain) : State :=
  if d.ownDone && (d.twinDone || !s.course.twinUp || fromTwin d.v) then
    settle d.r d.v (refuse { s with mem := { s.mem with drains := s.mem.drains.filter fun x => !sameReq x.r d.r } } .kojor d.r .ok)
  else { s with mem := { s.mem with drains := replaceFirst (fun x => sameReq x.r d.r) (fun _ => d) s.mem.drains } }

/-- INV_DRAIN_COMPLETE: this member has drained for an INV of SCOPE 0b10 (R314). -/
def execInvDrainComplete (src tc seq : Nat) (s : State) : Res :=
  .next (match s.mem.drains.find? fun d => d.r.src == src && d.r.tc == tc && d.r.seq == seq with
    | none => s
    | some d => if drainBusy s d.r then s else drainCheck s { d with ownDone := true })

/-! PFA (R324 to R328). -/

/-- The pages of a PFA, by index from the range start. -/
def pfaPages (r : Req) : List Nat := List.range (r.op1.toNat / 4096)

/-- The offset of page i of the range at an address. -/
def pfaOff (a : W64) (i : Nat) : Nat := aOff a + 4096 * i

/-- The translation of both ranges (R325): the first byte that fails. -/
def pfaXlate (s : State) (r : Req) : Option W64 :=
  let n := r.op1.toNat
  match unmappedAt s r.capo (aOff r.addr) n with
  | some b => some (addrPlus r.addr (aOff r.addr) b)
  | none =>
    if r.attr % 16 = 2 then none
    else
      match unmappedAt s r.capo (aOff r.op0) n with
      | some b => some (addrPlus r.op0 (aOff r.op0) b)
      | none => ((pfaPages r).find? fun i => ((regionAt s.prog.eff r.capo (pfaOff r.op0 i / 4096)).map (·.ro)).getD true).map fun i =>
          r.op0 + BitVec.ofNat 64 (4096 * i)

/-- The pages this member executes (R326). -/
def pfaMine (s : State) (r : Req) : List Nat := (pfaPages r).filter fun i => myHalf s (pfaOff r.addr i)

/-- Whether a page of this half is out of reach. -/
def pfaLost (s : State) (r : Req) (a : W64) (i : Nat) : Bool :=
  match regionAt s.prog.eff r.capo (pfaOff a i / 4096) with
  | none => false
  | some g => match serveAt s g (pfaOff a i) true with
    | .here _ _ => false
    | _ => true

/-- Whether this member can no longer serve a page of a PFA (R317, R318). -/
def pfaGone (s : State) (r : Req) (i : Nat) : Bool := pfaLost s r r.addr i || (r.attr % 16 == 0 && pfaLost s r r.op0 i)

/-- A PFA addressed to a scratch window: UNREACHABLE at a closed one, ACC_DENIED at an open one (R97, R98). -/
def pfaScratch (s : State) (r : Req) (v : Via) : State :=
  match scratchWin (aOff r.addr) with
  | none => s
  | some (m, n, o) =>
    match findScratch s r v m n o with
    | .stop s => s
    | .fail d => settle r v d
    | _ => settle r v (refuse s .kojor r .accDenied)

/-- Steps 5 to 8 of a PFA and its start (R325, R326). No PFA acts on the destination range of a declared window (R204). -/
def doPfa (s : State) (r : Req) (v : Via) : State :=
  let no := fun st => settle r v (refuse s .kojor r st)
  if kindReserved r.addr || !zerosOk r.addr then no .unreachable
  else if (scratchWin (aOff r.addr)).isSome then pfaScratch s r v
  else if (tierOf (aOff r.addr)).isNone then no .unreachable
  else
    match pfaXlate s r with
    | some a => settle r v (xlateFault s r v a)
    | none =>
      if (pfaMine s r).any (pfaGone s r) then no .unreachable
      else if (windowAt s r.capo (aOff r.op0) r.op1.toNat).isSome then no .accDenied
      else if mirrorFull s r.capo then settle r v (mirrorRetry s r)
      else if deferred s r.capo then settle r v (energyDefer s r)
      else
        let s := { s with mem := { s.mem with pfas := s.mem.pfas ++ [{ r := r, v := v, left := pfaMine s r, twinDone := !mirrorOn s || fromTwin v }] } }
        let s := keepRunning s r v .pfa
        if mirrorOn s && !fromTwin v then
          let p := mirrorPath s (viaSx v) 0
          emit s (.fwd (.req r) p.1 p.2)
        else s

/-- A PFA command of its ADVICE codes; reserved codes end at step 3 (R61, Table 11-3). -/
def pfaCmd (ok : Nat → Bool) (r : Req) (v : Via) (s : State) : State :=
  if r.op = 0x3E && ok (r.attr % 16) then runEntry s r v (fun s => doPfa s r v) else s

/-- PFA_FETCH (R324). -/
def execPfaFetch (r : Req) (v : Via) (s : State) : Res := .next (pfaCmd (fun a => a == 0 || decide (3 ≤ a)) r v s)
/-- PFA_ZERO (R324). -/
def execPfaZero (r : Req) (v : Via) (s : State) : Res := .next (pfaCmd (· == 1) r v s)
/-- PFA_SCRUB (R324). -/
def execPfaScrub (r : Req) (v : Via) (s : State) : Res := .next (pfaCmd (· == 2) r v s)

/-- What one page of a PFA gave: the state, the mirror messages its completion waits for, and why it ends the PFA, if it does, with the
byte at which translation fails. -/
structure PfaStep where
  s : State
  waits : List Nat := []
  stop : Option (Status × W64) := none

/-- A page of a mirrored destination sent to the twin, and its poisoned words after it (R76, R326). -/
def pfaMirror (s : State) (r : Req) (h : Region) (dst key : Nat) (bs : List Byte) (bad : List Nat) : State × List Nat :=
  if !h.mir then (s, [])
  else
    let twin := copyKey h dst (!isMine s dst)
    mirrorAll s 0 r.capo ((dst / 4096, .mwrite twin bs false none) :: bad.map fun w =>
      (dst / 4096, .mwrite (w * 8 - key + twin) (Memory.readN s.mem.phys (w * 8) 8) true none))

/-- One page of a PFA (R324, R326, R328). A window declared since covers its page: that page may not be written (R204). -/
def pfaPage (r : Req) (s : State) (i : Nat) : PfaStep :=
  let src := pfaOff r.addr i
  let dst := pfaOff r.op0 i
  match regionAt s.prog.eff r.capo (src / 4096), regionAt s.prog.eff r.capo (dst / 4096) with
  | some g, some h =>
    let ks := copyKey g src (isMine s src)
    let kd := copyKey h dst (isMine s dst)
    if pfaGone s r i then { s := s, stop := some (.unreachable, 0) }
    else if (windowAt s r.capo dst 4096).isSome then { s := s, stop := some (.accDenied, 0) }
    else if r.attr % 16 = 2 then { s := countBytes (physFind s ks 4096) ks 4096 false }
    else
      let s := if r.attr % 16 = 0 then countBytes (physFind s ks 4096) ks 4096 false else s
      let bs := if r.attr % 16 = 0 then physRead s ks 4096 else List.replicate 4096 0
      let bad := (if r.attr % 16 = 0 then poisonIn s.mem.poison ks 4096 else []).map fun w => w - ks / 8 + kd / 8
      let s := physWrite s kd bs false
      let s := { s with mem := { s.mem with poison := markWords s.mem.poison bad } }
      let m := pfaMirror s r h dst kd bs bad
      { s := bump (bump m.1 .memPfaBytes [r.capo] 4096) .memPfaPoison [r.capo] bad.length, waits := m.2 }
  | none, _ => { s := s, stop := some (.xlateFault, r.addr + BitVec.ofNat 64 (4096 * i)) }
  | _, none => { s := s, stop := some (.xlateFault, r.op0 + BitVec.ofNat 64 (4096 * i)) }

/-- The pages of a PFA in order, until one ends it; the twin is told of each page done (R393). `ws` are the messages of the pages before. -/
def pfaRun (r : Req) : List Nat → List Nat → State → PfaStep
  | [], ws, s => { s := s, waits := ws }
  | i :: t, ws, s =>
    let x := pfaPage r s i
    match x.stop with
    | some a => { s := x.s, waits := ws ++ x.waits, stop := some a }
    | none => pfaRun r t (ws ++ x.waits) (mirrorNote x.s 0 i r.capo (.mstate (.pfaPage r.src r.tc r.seq i)))

/-- The messages of a list that the twin has not confirmed. -/
def stillWaits (s : State) (qs : List Nat) : List Nat := qs.filter fun q => s.course.unconf.any fun u => u.mseq == q

/-- A PFA that ends: it runs no longer, and its completion follows the twin's confirmation of its pages (R58, R326). -/
def pfaEnd (s : State) (p : PfaRun) (c : Cmp) : State :=
  settleWith (stillWaits s p.waits) p.r p.v ⟨{ s with mem := { s.mem with pfas := s.mem.pfas.filter fun x => !sameReq x.r p.r } }, c, []⟩

/-- A PFA completes OK once both members have performed their halves (R326). -/
def pfaCheck (s : State) (p : PfaRun) : State :=
  if p.left.isEmpty && p.twinDone then pfaEnd s p (cmpOf p.r (mySrc s) .ok)
  else { s with mem := { s.mem with pfas := replaceFirst (fun x => sameReq x.r p.r) (fun _ => p) s.mem.pfas } }

/-- PFA_COMPLETE: this member performs the pages of its half that remain (R326, R328), in a window of its capo on the SX–HX port (R480). -/
def execPfaComplete (src tc seq : Nat) (s : State) : Res :=
  .next (match s.mem.pfas.find? fun p => p.r.src == src && p.r.tc == tc && p.r.seq == seq with
    | none => s
    | some p =>
      if !calFits s 0 135 p.r.capo 0 then s else
      let x := pfaRun p.r p.left p.waits s
      let p := { p with left := [], waits := x.waits }
      match x.stop with
      | some e =>
        let d := if e.1 = .xlateFault then xlateFault x.s p.r p.v e.2 else refuse x.s .kojor p.r e.1
        pfaEnd d.s p d.c
      | none => pfaCheck x.s p)

end Sys2Proof.Machine
end

