-- ==== Sys2Proof/Machine/Redo.lean ====
section
/-! DEFINITION. Requests taken up again: after a region-table fetch (R313), after the twin's confirmation (R77, R391). -/

namespace Sys2Proof.Machine

open Sys2Proof

/-- What a request's opcode does after step 4 of R63. -/
def redo (s : State) (r : Req) (v : Via) : State :=
  if r.op = 1 then doLd s r v
  else if r.op = 2 then doSt s r v
  else if opIsAtomic r.op then doAtomic s r v
  else if opIsRed r.op then doRst s r v
  else if r.op = 0x28 then doMst s r v
  else if opIsFlag r.op then doFlag s r v
  else if r.op = 0x34 then doBarr s r v
  else if r.op = 0x38 then doCpyd s r v
  else if r.op = 0x3C then doInv s r v
  else doPfa s r v

/-- A fetch that has a free slot starts for the oldest waiting entry of each part that has none under way (R313). -/
def fetchNext (s : State) (sx : Nat) : State :=
  (s.mem.rwait.filter fun w => w.1 == sx).foldl (fun s w =>
    let capo := w.2.2.1.capo
    let f := (sx, capo, w.2.1)
    let mine := s.mem.rfetch.filter fun g => g.1 == sx && samePart s g.2.1 capo
    if s.mem.rfetch.any (· == f) || decide (mine.length ≥ poolPart s 64 capo) then s
    else bump { s with mem := { s.mem with rfetch := s.mem.rfetch ++ [f] } } .sxRcacheMiss [sx]) s

/-- RCACHE_FETCH_COMPLETE: the region entry has come from the MC, and the twin is told of it as a hint; the requests that wait for it go on
from step 4 (R313, R393). -/
def execRcacheFetchComplete (sx capo rid : Nat) (s : State) : Res :=
  .next (if s.mem.rfetch.any (· == (sx, capo, rid)) then
      let mine := fun w : Nat × Nat × Req × Via => w.1 == sx && w.2.1 == rid && w.2.2.1.capo == capo
      let ws := s.mem.rwait.filter mine
      let s := cacheAdd { s with mem := { s.mem with
        rfetch := s.mem.rfetch.filter (· != (sx, capo, rid)), rwait := s.mem.rwait.filter fun w => !mine w } } sx capo rid
      let s := mirrorNote s sx rid capo (.mstate (.rcache sx capo rid))
      let s := ws.foldl (fun s w => match lookup s (partyOf w.2.2.2) w.2.2.1 w.2.2.2 with
        | .stop s => s
        | .fail d => settle w.2.2.1 w.2.2.2 d
        | .go s => redo s w.2.2.1 w.2.2.2) s
      fetchNext s sx
    else s)

/-- Requests that wait for the twin to hold what they read (R77). -/
def reRead (s : State) : State :=
  (s.resp.running.filter fun x => x.why == .twinRead).foldl (fun s x => redo s x.r x.v) s

/-- What no longer waits for some mirror messages completes, and messages that waited for them leave (R389, R391). -/
def confirmed (s : State) (qs : List Nat) : State :=
  let rs := (s.resp.running.filter fun x => x.awaits.any fun q => decide (q ∈ qs)).map (·.r)
  let s := releaseHeld { s with
    course := { s.course with unconf := s.course.unconf.filter fun u => decide (u.mseq ∉ qs) }
    resp := { s.resp with running := s.resp.running.map fun x => { x with awaits := x.awaits.filter fun q => decide (q ∉ qs) } } }
  let s := rs.foldl (fun s r => afterDone s .kojor r) s
  let ws := (s.wins.filterMap (·.2)).filter fun w => w.waits.any fun q => decide (q ∈ qs)
  reRead (ws.foldl (fun s w => winWritten (setWin s { w with waits := w.waits.filter fun q => decide (q ∉ qs) }) w.d.wid) s)

end Sys2Proof.Machine
end

