-- ==== Sys2Proof/Machine/Course.lean ====
section
/-! DEFINITION. The course: mirror messages of the twin, heartbeats, takeover, the split, and the rebuild (R390 to R406). -/

namespace Sys2Proof.Machine

open Sys2Proof

/-! Applying the twin's messages (R391, R393). -/

/-- Whether messages of the twin are applied: while it serves, and at a rebuild target (R396, R399). -/
def takesMirror (s : State) : Bool := s.course.twinUp || s.course.rebuildTgt

/-- MCONFIRM sent for a message; it is not confirmed itself (R390, R391). -/
def confirmTwin (s : State) (mseq : Nat) : State :=
  let q := nextMseq s
  mirrorSend { s with course := { s.course with mseq := (q + 1) % 2 ^ 32 } } q 0 mseq 0 (.mconfirm [mseq])

/-- A mirrored duplicate entry: it takes the place of one of its request, and the source's oldest goes beyond 4,096 (R73, R74). -/
def takeDup (s : State) (e : DupEntry) : State :=
  addDup { s with resp := { s.resp with dups := s.resp.dups.filter fun x => !(x.src == e.src && x.tc == e.tc && x.seq == e.seq) } }
    .kojor { e with twins := true }

def takeDups (s : State) (es : List DupEntry) : State := es.foldl takeDup s

/-- The window that a record of the twin describes. -/
def recWindow (s : State) (w : Window) (r : WinRec) : Window :=
  { clearInst w with
    d := r.d, st := r.st, epoch := r.epoch, fmt := r.fmt, exact := r.exact, sigOp0 := r.op0, conflict := r.conflict, openedAt := r.openedAt,
    changedAt := s.clk.now, deadlineNs := winDeadline s r.d }

/-- Whether an instance that the twin has opened is the one open here (R205, R300). -/
def sameInst (w : Window) (r : WinRec) : Bool :=
  w.epoch == r.epoch && w.fmt == r.fmt && w.exact == r.exact && (w.d.group == 0 || w.sigOp0 == r.op0)

/-- A window taken whole from a record: a declaration, or an item at a rebuild target (R203, R400). -/
def wholeWindow (s : State) (w : Window) (r : WinRec) : State :=
  let same := w.st == .active && r.st == .active && w.epoch == r.epoch
  setWin s { recWindow s w r with
    lastF := r.lastF, finals := r.finals, ovf := r.ovf, pline := r.pline
    lines := if same then w.lines else [], accs := if same then w.accs else [] }

/-- A window record of the twin (R205, R393). Two instances that the members opened at once and that differ are a mismatch. -/
def takeWindow (s : State) (r : WinRec) : State :=
  match winOf s r.d.wid with
  | none => wholeWindow s { d := r.d, rtOut := (List.range 8).filter fun n => !rtUp s n } r
  | some w =>
    if s.course.rebuildTgt then wholeWindow s w r
    else match r.st with
    | .idle => if w.st = .poisoned ∨ w.st = .expired then setWin s { clearInst w with st := .idle } else s
    | .active =>
      if w.st = .idle then winCheck (setWin s (recWindow s w r)) w.d.wid
      else if w.st = .active ∧ !sameInst w r then winPoison s w r.conflict false else s
    | .finalising => if w.st = .active then setWin s { w with st := .finalising } else s
    | .poisoned =>
      if w.st = .active then winPoison s w r.conflict false
      else if w.st = .idle then winPoison s (recWindow s w r) r.conflict false else s
    | .expired => if w.st = .active then winExpire s w false else if w.st = .idle then winExpire s (recWindow s w r) false else s

/-- The physical pages that a region uses on one member, own and mirror copies, in the order of R309. -/
def regionPlaces (g : Region) (own : Bool) : List (Nat × Nat) :=
  (List.range (g.npages / 2)).map fun i => placeOf g (g.vpage + 2 * i) own

/-- The Ready leaf strings. -/
def leafStrings (s : State) : List Nat := (List.range 512).filter fun n => strReady s n && !isBridge s n && !strHarmonic s.prog.eff n

/-- A region removed: this member's pages of it are marked for scrub, and the SX dies drop it (R312, R313). -/
def regionGone (s : State) (g : Region) : State :=
  let ps := regionPlaces g true ++ (if g.mir then regionPlaces g false else [])
  { s with mem := { s.mem with
      scrubMarks := (s.mem.scrubMarks ++ ps).eraseDups
      missed := s.mem.missed.filter fun x => decide (x ∉ ps) } }

/-- Every SX drops the cached entries of a region that a commit changes (R313). -/
def cacheDrop (s : State) (capo rid : Nat) : State :=
  { s with mem := { s.mem with rcache := s.mem.rcache.map fun c => (c.1, c.2.filter (· != (capo, rid))) } }

/-- The leaf strings whose ASSIGN a commit changes take a new one (R429). -/
def assignAgain (old s : State) : State :=
  (leafStrings s).foldl (fun s n => if assignFor old (stringLeaf s n) = assignFor s (stringLeaf s n) then s else sendAssign s n) s

/-- An entry of the twin's tables takes effect here too: a region that goes is scrubbed and its cached entries dropped, and the leaves take a
changed ASSIGN (R272, R312, R313, R429). Windows and shards come as records of their own. -/
def takeTable (s : State) (t k e : Nat) : State :=
  let s' := { s with prog := { s.prog with eff := tblApply s.prog.eff t e } }
  if t = 0x0C then
    match tblFind s.prog.eff t k with
    | none => s'
    | some o =>
      let s' := if tblRemoves t e then regionGone s' (regionOf o) else s'
      cacheDrop s' (bits o 16 9) (bits e 0 16)
  else if t = 1 ∨ t = 2 ∨ t = 0x0A ∨ t = 0x0F then assignAgain s s'
  else s'

/-- A state record of the twin applied (Table 14-2). -/
def takeRec (s : State) : StateRec → State
  | .flag m c k v => setFlag s (m, c, k) v
  | .counter m c k v => setCtr s (m, c, k) v
  | .dup e => takeDup s e
  | .count src e n seen last => settleFinals (setCount s .kojor src e { n := n, seen := seen, last := last }) .kojor src e
  | .counted src e seq => settleFinals (twinCount s src e seq) .kojor src e
  | .countZero src e => settleFinals (zeroCount s .kojor src e) .kojor src e
  | .heldFinal r t => { s with resp := { s.resp with finals := s.resp.finals ++ [{ r := r, v := .self, arrived := t, mine := false }] } }
  | .dropFinal src tc seq =>
    { s with resp := { s.resp with finals := dropFirst (fun h => h.r.src == src && h.r.tc == tc && h.r.seq == seq) s.resp.finals } }
  | .barrier m c g st e stated n t held =>
    setBar s (m, c, g) { barOf s (m, c, g) with
      st := st, epoch := e, stated := stated, n := n, openedAt := t, held := held.map fun r => (r, Via.self), changedAt := s.clk.now }
  | .window r => takeWindow s r
  | .dropWindow w => { s with wins := s.wins.set w none }
  | .shard d => { s with shards := s.shards.set d.shard (some d) }
  | .dropShard k => { s with shards := s.shards.set k none }
  | .table t k e staged =>
    if staged then { s with prog := { s.prog with twinStaged := TMap.set s.prog.twinStaged (t, k) e } }
    else takeTable s t k e
  | .copyQueued r => { s with ctl := { s.ctl with twinCopies := s.ctl.twinCopies ++ [r] } }
  | .copyEnded r => { s with ctl := { s.ctl with twinCopies := dropFirst (sameReq r) s.ctl.twinCopies } }
  | .linesMoved wid pages => winTaken s wid pages
  | .halfDone wid e taken =>
    match winOf s wid with
    | none => s
    | some w => if w.epoch = e ∧ w.given = taken then winAdvance (setWin s { w with twinDone := true }) wid else s
  | .winDone wid e ovf pline =>
    match winOf s wid with
    | none => s
    | some w =>
      if w.epoch = e ∧ w.st = .finalising then
        winFinish (setWin s { w with twinEnded := true, ovfNow := w.ovfNow || ovf, plineNow := w.plineNow || pline }) wid
      else s
  | .accum wid lines accs =>
    match winOf s wid with
    | none => s
    | some w => setWin s { w with lines := lines, accs := accs }
  | .rcache sx capo rid =>
    if (regions s.prog.eff).any fun g => g.capo == capo && g.rid == rid then cacheAdd s sx capo rid else s
  | .pfaPage src tc seq i =>
    { s with mem := { s.mem with pfas := s.mem.pfas.map fun p =>
        if p.r.src = src ∧ p.r.tc = tc ∧ p.r.seq = seq then { p with twinPages := insertOnce i p.twinPages } else p } }

/-- A contribution of the twin to an EACH window: exact payload is added, plain accumulators replace (R206). -/
def takeAcc (s : State) (wid epoch : Nat) (exact : Bool) (fmt off : Nat) (bytes : List Byte) (accs : List (Nat × W64)) (poison : Bool) : State :=
  match winOf s wid with
  | none => s
  | some w =>
    if w.st ≠ .active ∨ w.epoch ≠ epoch then s
    else
      let size := fmtSize fmt
      let n := if exact then bytes.length else accs.length * size
      let ls := (lineBytes off n).foldl (fun (m : TMap Nat Line) l =>
        let x := m.get l.1 {}
        m.set l.1 { x with bytes := x.bytes + l.2, poisoned := x.poisoned || poison }) w.lines
      let w := { w with lines := ls }
      let w :=
        if exact then { w with accs := accumulate fmt w.d.rop true w.accs (off / size) (elementsOf size (n / size) bytes) }
        else { w with accs := accs.foldl (fun (m : TMap Nat Acc) a => m.set a.1 { m.get a.1 {} with any := true, plain := a.2 }) w.accs }
      winCheck (setWin s w) wid

/-- A finalisation record of the twin: its result lines, their poison, and the duplicate entries (R206, R219). -/
def takeFinal (s : State) (wid epoch : Nat) (ws : List (Nat × List Byte)) (poisoned : List Nat) (dups : List DupEntry) : State :=
  let s := ws.foldl (fun s w => homeWrite s w.1 w.2 false) s
  let s := takeDups { s with mem := { s.mem with poison := markWords s.mem.poison poisoned } } dups
  match winOf s wid with
  | none => s
  | some w =>
    if w.epoch = epoch ∧ (w.st = .active ∨ w.st = .finalising) then setWin s { w with twinWritten := true, plineNow := w.plineNow || !poisoned.isEmpty } else s

/-- A message applied and confirmed. -/
def takeMirror (s : State) (mseq : Nat) (f : State → State) : State := if takesMirror s then confirmTwin (f s) mseq else s

/-- MWRITE (R391). -/
def execMwrite (mseq key : Nat) (bytes : List Byte) (poison : Bool) (dup : Option DupEntry) (s : State) : Res :=
  .next (takeMirror s mseq fun s => dup.elim (homeWrite s key bytes poison) (takeDup (homeWrite s key bytes poison)))

/-- MSTATE (R393). -/
def execMstate (mseq : Nat) (r : StateRec) (s : State) : Res := .next (takeMirror s mseq fun s => takeRec s r)

/-- MACC (R206). -/
def execMacc (mseq : Nat) (m : MirrorBody) (s : State) : Res :=
  .next (match m with
    | .macc wid e x fmt off bs accs p dup =>
      takeMirror s mseq fun s => let s := takeAcc s wid e x fmt off bs accs p; dup.elim s (takeDup s)
    | _ => s)

/-- MFINAL (R206). -/
def execMfinal (mseq : Nat) (m : MirrorBody) (s : State) : Res :=
  .next (match m with
    | .mfinal wid e ws ps ds => takeMirror s mseq fun s => takeFinal s wid e ws ps ds
    | _ => s)

/-- An item of a rebuild applied at the target (R400). -/
def takeItem (s : State) : CopyItem → State
  | .state r => takeRec s r
  | .page _ _ k bs pz =>
    let s := physWrite s k bs false
    let at_ := (keyTarget k, keyPage k)
    { s with mem := { s.mem with poison := markWords s.mem.poison pz, missed := s.mem.missed.filter (· != at_) } }

/-- A page that a backing which has returned still lacks (R318). -/
def copiesBack (s : State) : CopyItem → Bool
  | .page _ _ k _ _ => s.course.twinUp && pageStale s k
  | .state _ => false

/-- MCOPY (R400); it also carries the pages copied back to a backing that has returned (R318, log entry 49). -/
def execMcopy (mseq : Nat) (i : CopyItem) (s : State) : Res :=
  .next (if s.course.rebuildTgt || copiesBack s i then confirmTwin (takeItem s i) mseq else s)

/-! The journal (R403, Table 14-4). -/

/-- The region and page at the front, and the phase of a record. -/
def frontAt (s : State) : Nat × Nat × Nat :=
  match s.course.front with
  | .page rid i _ _ _ :: _ => (rid, i, 3)
  | .state _ :: _ => (0, 0, 2)
  | [] => (0, 0, 3)

/-- A record written by the active MC to itself and the standby, and sent to the target (R403). -/
def journalRecord (s : State) (phase : Nat) : State :=
  let f := frontAt s
  let j := { rbid := s.course.rbid, phase := phase, ckpt := s.course.ckpt, rid := f.1, page := f.2.1, bytes := s.course.copied, time := s.clk.now : Journal }
  (mirrorOut { s with course := { s.course with journal := s.course.journal ++ [j] } } 0 0 0 (.mjournal j)).1

/-! Items (R400). -/

/-- The state records of Table 14-2 as this member holds them. -/
def stateItems (s : State) : List StateRec :=
  s.resp.dups.map .dup
    ++ s.resp.counts.map (fun c => .count c.1.1 c.1.2 c.2.n c.2.seen c.2.last)
    ++ s.resp.finals.map (fun h => .heldFinal h.r h.arrived)
    ++ s.ctl.flags.map (fun f => .flag f.1.1 f.1.2.1 f.1.2.2 f.2)
    ++ s.ctl.ctrs.map (fun c => .counter c.1.1 c.1.2.1 c.1.2.2 c.2)
    ++ s.ctl.bars.map (fun b => .barrier b.1.1 b.1.2.1 b.1.2.2 b.2.st b.2.epoch b.2.stated b.2.n b.2.openedAt (b.2.held.map (·.1)))
    ++ (s.wins.filterMap (·.2)).map (fun w => winRec w w.st)
    ++ ((s.wins.filterMap (·.2)).filter fun w => w.d.each && w.st == .active).map (fun w => .accum w.d.wid w.lines w.accs)
    ++ (s.shards.filterMap (·.2)).map .shard
    ++ (s.prog.eff.filter fun e => tblDomain e.1.1 || tblCourse e.1.1).map (fun e => .table e.1.1 e.1.2 e.2 false)
    ++ s.prog.commits.flatMap (fun c => (c.entries.filter fun e => tblDomain e.1.1 || tblCourse e.1.1).map fun e => .table e.1.1 e.1.2 e.2 true)
    ++ (s.ctl.copyQ ++ s.ctl.copies.map (·.desc)).map .copyQueued
    ++ s.mem.rcache.flatMap (fun c => c.2.map fun e => .rcache c.1 e.1 e.2)

/-- The pages of mirrored regions, by ascending RID and page, with the target's key of each. -/
def pageItems (s : State) : List CopyItem :=
  (sortBy (fun a b => decide (a.rid ≤ b.rid)) ((regions s.prog.eff).filter (·.mir))).flatMap fun g =>
    (List.range g.npages).map fun i =>
      let off := (g.vpage + i) * 4096
      .page g.rid i (copyKey g off (!isMine s off)) [] []

def allItems (s : State) : List CopyItem := (stateItems s).map .state ++ pageItems s

/-- Records that say that something has ended, and are no item of their own. -/
def recEnds : StateRec → Bool
  | .dropFinal _ _ _ | .dropWindow _ | .dropShard _ | .copyEnded _ | .linesMoved _ _ | .halfDone _ _ _ | .winDone _ _ _ _
  | .pfaPage _ _ _ _ => true
  | _ => false

/-- An item as it is read whole: a state record as it stands now, if there still is one, or what ended in a gap; a page from this
member's own copy (R400, R404). -/
def fillItem (s : State) : CopyItem → Option CopyItem
  | .state r => if recEnds r then some (.state r) else ((stateItems s).find? (sameItem r)).map .state
  | .page rid i k _ _ =>
    match (regions s.prog.eff).find? fun g => g.rid == rid with
    | none => some (.page rid i k [] [])
    | some g =>
      let off := (g.vpage + i) * 4096
      let key := copyKey g off (isMine s off)
      some <| .page rid i k (physRead s key 4096) ((poisonIn s.mem.poison key 4096).map fun w => w - key / 8 + k / 8)

/-- REBUILD_START: a rebuild begins at checkpoint 0 with a new RBID (R399, R403). -/
def rebuildStart (s : State) (again : Bool) : State :=
  let its := allItems s
  let s := { s with course := { s.course with
    copying := true, rbid := (s.course.rbid + 1) % 2 ^ 32, front := its, passed := 0, total := its.length, copied := 0, ckpt := 0,
    ckptBytes := 0, ckptPassed := 0, gap := [], gapRecs := [], gapFrom := none, unconf := [] } }
  journalRecord (if again then bump s .courseRbRestart [] else s) 1

/-- The rebuild goes on from the last checkpoint, after the items that changed in a gap (R404). -/
def rebuildResume (s : State) : State :=
  let its := allItems s
  let again := s.course.gapRecs.map CopyItem.state ++ its.filter fun i => match i with
    | .page _ _ k _ _ => decide (k / 4096 ∈ s.course.gap)
    | .state _ => false
  { s with course := { s.course with
      front := again ++ its.drop s.course.ckptPassed, passed := s.course.ckptPassed, copied := s.course.ckptBytes,
      total := its.length, gap := [], gapRecs := [], gapFrom := none, unconf := [] } }

def soundpostUp (s : State) : Bool := (List.range 32).any fun i => strReady s (512 + i)

/-- REBUILD_COPY: the item at the front is read whole and sent; the front moves on (R400). -/
def execRebuildCopy (s : State) : Res :=
  .next (if !s.course.copying || !soundpostUp s || s.course.gapFrom.isSome then s
    else
      match s.course.front with
      | [] => s
      | i :: t =>
        let s' := { s with course := { s.course with front := t, passed := s.course.passed + 1 } }
        match fillItem s i with
        | none => s'
        | some i =>
          let key := match i with
            | .page _ _ k _ _ => k / 4096
            | .state _ => 0
          (mirrorOut s' 0 key 0 (.mcopy i)).1)

/-- The payload bytes of a copy message. -/
def copyBytes : MirrorBody → Nat
  | .mcopy (.page _ _ _ bs _) => bs.length
  | .mcopy (.state _) => 64
  | _ => 0

/-- JOURNAL_RECORD: one for each whole 256 MiB confirmed (R403). -/
def checkpoint (s : State) : State :=
  if s.course.copying && decide ((s.course.ckpt + 1) * 268435456 ≤ s.course.copied) then
    let s := { s with course := { s.course with
      ckpt := s.course.copied / 268435456, ckptBytes := s.course.copied, ckptPassed := s.course.passed } }
    journalRecord s (frontAt s).2.2
  else s

/-- MCONFIRM: the twin has applied up to 48 messages (R391); confirmed copy payload counts toward the checkpoints (R403). -/
def execMconfirm (mseqs : List Nat) (s : State) : Res :=
  let qs := mseqs.take 48
  let n := ((s.course.unconf.filter fun u => decide (u.mseq ∈ qs)).map fun u => copyBytes u.body).sum
  let s := if n = 0 then s else bump { s with course := { s.course with copied := s.course.copied + n } } .courseRbBytes [] n
  .next (checkpoint (confirmed s qs))

/-! RESTORE, STEER and the leaf strings. -/

/-- A frame sent on every Ready leaf string. -/
def toLeaves (s : State) (f : Frame) : State := (leafStrings s).foldl (fun s n => sendFrame s n f) s

/-- REBUILD_END: the front has passed the last item and every message is confirmed; both members serve again (R402). -/
def execRebuildEnd (s : State) : Res :=
  .next (if s.course.copying && s.course.front.isEmpty && s.course.unconf.isEmpty && s.course.gapFrom.isNone then
      let s := journalRecord s 4
      let s := { s with course := { s.course with
        copying := false, alone := false, twinUp := true, takeover := 0, lost := false, changes := 0, changeCapos := [], lastHb := s.clk.now } }
      toLeaves (placeLines s) (.restore (site s).course (!(site s).memberB))
    else s)

/-- The boot control record in force: the valid copy with the higher SEQ, and whether it is copy 1 (R411). -/
def bootRec (d : Disc) : Option (BootRec × Bool) :=
  if d.bcr0.valid && (!d.bcr1.valid || decide (d.bcr1.seq ≤ d.bcr0.seq)) then some (d.bcr0, false)
  else if d.bcr1.valid then some (d.bcr1, true)
  else none

/-- A new boot control record, written to the other copy with SEQ plus 1 (R411). -/
def bootWrite (d : Disc) (pref : Bool) (tries : Nat) : Disc :=
  match bootRec d with
  | some (r, true) => { d with bcr0 := { valid := true, seq := (r.seq + 1) % 2 ^ 32, prefB := pref, tries := tries } }
  | some (r, false) => { d with bcr1 := { valid := true, seq := (r.seq + 1) % 2 ^ 32, prefB := pref, tries := tries } }
  | none => { d with bcr1 := { valid := true, seq := 1, prefB := pref, tries := tries } }

/-- Rilash writes TRIES = 0 when the domain reaches Ready (R412). -/
def bootReady (d : Disc) : Disc := bootWrite d (((bootRec d).map (·.1.prefB)).getD false) 0

/-- Every word of this member's pages of unmirrored regions is poisoned: what they held is lost (R317). -/
def poisonBare (s : State) : State :=
  let ps := ((regions s.prog.eff).filter fun g => !g.mir).flatMap fun g => regionPlaces g true
  { s with mem := { s.mem with poison := markWords s.mem.poison (ps.flatMap fun x => wordsOf (physKey x.1 x.2 0) 4096) } }

/-- MJOURNAL: the target keeps the record; the end record makes it serve, with the accumulator store of the tables in effect and its
unmirrored pages poisoned; leaf strings that a split took down come up again (R191, R317, R398, R402, R403, R434). -/
def execMjournal (mseq : Nat) (j : Journal) (s : State) : Res :=
  .next (if !s.course.rebuildTgt then s
    else
      let s := confirmTwin { s with course := { s.course with journal := s.course.journal ++ [j], tgtCkpt := j.ckpt } } mseq
      if j.phase = 4 then
        let s := poisonBare s
        let s := placeLines { s with
          accMib := accStore s.prog.eff
          course := { s.course with rebuildTgt := false, serving := true, twinUp := true, leaving := false, lastHb := s.clk.now }
          disc := bootReady { s.disc with phase := 9, joining := false } }
        let s := toLeaves s (.restore (site s).course (site s).memberB)
        raiseStrings ((leafStrings s).foldl sendAssign s) [.disabled]
      else s)

/-! Heartbeats (R394, R395). -/

/-- The HEARTBEAT this member sends (Table 14-3). -/
def myHeartbeat (s : State) : Heartbeat :=
  { serving := s.course.serving, alone := s.course.alone, leaving := s.course.leaving, failing := s.course.failing,
    rebuildTgt := s.course.rebuildTgt, takeover := if s.course.alone then s.course.takeover else 0, hbCount := s.course.hbOut,
    ckpt := if s.course.rebuildTgt then s.course.tgtCkpt else s.course.ckpt }

/-- HEARTBEAT_SEND: a HEARTBEAT on every Ready soundpost string (R394). -/
def sendHeartbeats (s : State) : State :=
  let h := myHeartbeat s
  let s' := { s with course := { s.course with hbOut := (s.course.hbOut + 1) % 65536 } }
  emits s' (((List.range 32).filter fun i => strReady s (512 + i)).map fun i => Out.link (512 + i) (.heartbeat h))

def execHeartbeatSend (s : State) : Res := .next (sendHeartbeats s)

/-- The survivor holds the FINAL requests that it mirrored: they still execute here, and those whose count is reached are applied (R71,
R75). -/
def takeFinals (s : State) : State :=
  let fs := s.resp.finals.filter fun h => !h.mine
  let s := { s with resp := { s.resp with finals := s.resp.finals.map fun h => { h with mine := true } } }
  let s := fs.foldl (fun s h => keepRunning s h.r h.v .final) s
  fs.foldl (fun s h => settleFinals s .kojor h.r.src h.r.epoch) s

/-- What the survivor takes over besides memory: FINAL requests, windows, PFAs, drains and copies of the lost half (R71, R219, R393,
R396). -/
def takeHalf (s : State) : State :=
  let s := takeFinals s
  let s := (s.wins.filterMap (·.2)).foldl (fun s w =>
    let w := { w with given := [], taken := [] }
    let s := setWin s w
    let done := fullLines s w == myLines s w
    if w.st = .active then winAdvance (setWin s { w with ownDone := done }) w.d.wid
    else if w.st = .finalising ∧ winMirrored s w ∧ !done then setWin s { w with st := .active, ownDone := false }
    else winFinish s w.d.wid) s
  let ps := s.mem.pfas.map fun p =>
    let more := if p.twinDone && !fromTwin p.v then [] else
      (pfaPages p.r).filter fun i => !isMine s (pfaOff p.r.addr i) && decide (i ∉ p.twinPages)
    { p with twinDone := true, left := p.left ++ more }
  let s := { s with mem := { s.mem with pfas := ps } }
  let s := { s with ctl := { s.ctl with copyQ := s.ctl.copyQ ++ s.ctl.twinCopies, twinCopies := [] } }
  s.mem.drains.foldl (fun s d => drainCheck s { d with twinDone := true }) s

/-- Requests forwarded to the twin are abandoned (R396, step 4). -/
def dropForwarded (s : State) : State :=
  let own := fun p : Pkt => match p with
    | .req _ => false
    | .cmp _ _ => true
  { s with sw := { s.sw with queues := s.sw.queues.map fun e =>
      if 128 ≤ e.1.2.1 ∧ e.1.2.1 < 130 then (e.1, e.2.filter fun q => own q.p) else e } }

/-- The rank of a member in a domain: courses in order, A before B (R421). -/
def rankOf (course : Nat) (memberB : Bool) : Nat := 2 * course + ofB memberB

/-- A member that is lost to its course is lead member no longer: its twin is, without a step in fabric time (R31). -/
def dropLead (s : State) (toTwin : Bool) : State :=
  if s.disc.amLead then
    { s with disc := { s.disc with
        amLead := false, lead := if toTwin then rankOf (site s).course (!(site s).memberB) else s.disc.lead } }
  else s

/-- TWIN_LOST: the takeover of R396. -/
def twinLost (s : State) : State :=
  if !s.course.twinUp then s
  else
    let s := { s with course := { s.course with
      alone := true, twinUp := false, lost := true, takeover := s.clk.now, changes := 0, changeCapos := [] } }
    let s := bump s .courseTakeover []
    let qs := s.course.unconf.map (·.mseq)
    let s := confirmed s qs
    let s := takeHalf (dropForwarded s)
    let s := toLeaves s (.steer (site s).course (!(site s).memberB))
    let s := if s.disc.lead = rankOf (site s).course (!(site s).memberB) then
        { s with disc := { s.disc with lead := rankOf (site s).course (site s).memberB, amLead := true } } else s
    scroll s 4 .twinLost (siteMC s) [(site s).course, s.clk.now]

/-- COURSE_SPLIT: both members are ALONE; the one whose TAKEOVER is later leaves, member B on equal times (R398). -/
def courseSplit (s : State) (theirs : Nat) : State :=
  let mine := s.course.takeover
  if mine < theirs ∨ (mine = theirs ∧ !(site s).memberB) then s
  else
    let s := { s with course := { s.course with leaving := true } }
    let s := ((List.range 512).filter fun n => !isBridge s n && decide (2 ≤ (linkOf s n).stage)).foldl (fun s n => stringDown s n .disabled) s
    let s := scroll s 4 .splitCount (siteMC s) (s.course.changes :: s.course.changeCapos)
    let s := alarm { s with course := { s.course with split := true } } 4 .courseSplit (siteMC s) []
    let s := dropLead s true
    { s with course := { s.course with alone := false, serving := false, rebuildTgt := true, copying := false, takeover := 0, front := [], unconf := [] } }

/-- What a HEARTBEAT means to a rebuild (R399, R404). -/
def rebuildHeard (s : State) (h : Heartbeat) : State :=
  if !s.course.alone || !h.rebuildTgt then s
  else if !s.course.copying then rebuildStart s false
  else
    match s.course.gapFrom with
    | none => s
    | some t =>
      if t + 100000000 < s.clk.now ∨ 1048576 < s.course.gap.length + s.course.gapRecs.length ∨ (h.ckpt = 0 ∧ s.course.ckpt ≠ 0) then
        rebuildStart s true
      else rebuildResume s

/-- HEARTBEAT: the miss count starts again and the twin's flags are read (R394, R395, R398, R399). -/
def heartbeat (s : State) (h : Heartbeat) : State :=
  let s := { s with course := { s.course with lastHb := s.clk.now, hbIn := h.hbCount, twinAlone := h.alone, paired := true } }
  if (h.leaving || h.failing) && s.course.twinUp then twinLost s
  else if h.alone && s.course.alone then courseSplit s h.takeover
  else rebuildHeard s h

/-- The periods that have ended on a soundpost string since its last HEARTBEAT are counted (Table 14-8). -/
def hbPeriods (s : State) (sp n : Nat) : State :=
  let s := if n = 0 then s else bump s .courseHbMiss [sp] n
  { s with course := { s.course with hbAt := s.course.hbAt.set sp s.clk.now } }

/-- HEARTBEAT (R395). -/
def execHeartbeat (sp : Nat) (h : Heartbeat) (s : State) : Res :=
  .next (if sp < 32 then heartbeat (hbPeriods s sp ((s.clk.now - s.course.hbAt.get sp s.clk.now) / 500 - 1)) h else s)

/-- HEARTBEAT_MISS: eight consecutive 500 ns periods from the last HEARTBEAT have ended without one on any soundpost string;
the twin is declared lost (R395). -/
def execHeartbeatMiss (s : State) : Res :=
  .next (if s.course.lastHb + 4000 ≤ s.clk.now then
      let s := (List.range 32).foldl (fun s i => hbPeriods s i (max 8 ((s.clk.now - s.course.hbAt.get i s.clk.now) / 500))) s
      twinLost s
    else s)

/-- SOUNDPOST_GAP_TIMEOUT: all soundpost strings have been down for 100 ms; the rebuild restarts from checkpoint 0 (R404). -/
def execSoundpostGapTimeout (s : State) : Res :=
  .next (match s.course.gapFrom with
    | none => s
    | some t => if s.course.copying ∧ t + 100000000 ≤ s.clk.now then rebuildStart s true else s)

end Sys2Proof.Machine
end

