-- ==== Sys2Proof/Machine/Ledger.lean ====
section
/-! DEFINITION. The energy ledger's decisions: the effective budget, the duty granted to a segment, and ballast (R439 to
R446, R451). -/

namespace Sys2Proof.Machine

open Sys2Proof

/-- The derate of a throttle level in hundredths; constant-rate mode has none (Table 16-2, R451). -/
def derate (s : State) : Nat :=
  if elgCrm s.prog.eff then 100 else if s.elg.level = 0 then 100 else if s.elg.level = 1 then 85 else 60

/-- The duty cap of the level (Table 16-2, R451). -/
def dutyCap (s : State) : Nat := if s.elg.level = 2 && !elgCrm s.prog.eff then 8 else 16

/-- The effective budget in hundredths of a W (R441). -/
def effBudget (s : State) : Nat := elgBudget s.prog.eff * derate s

/-- The base of the last closed epoch. -/
def bLast (s : State) : Int := (s.elg.pLast : Int) - s.elg.sLast

/-- The room for a capo's segment in hundredths of a W (R441). -/
def elgRoom (s : State) (capo : Nat) : Int :=
  let l := s.prog.eff
  if capoPinned l capo then (elgShare l capo * derate s : Nat)
  else if elgCrm l then (elgBudget l * 100 : Nat) - (elgFixed l * 100 : Nat)
  else (effBudget s : Nat) - (s.elg.bhat * 100 : Nat)

/-- The rise the ramp limit leaves, in hundredths of a W (R441). -/
def elgRise (s : State) : Int := ((s.elg.pLast + elgRamp s.prog.eff : Nat) - bLast s) * 100

/-- The duty that R441 computes for a segment of peak S, before the constant-rate rule; none for S = 0, which the rule
divides by. -/
def rawDuty (s : State) (capo peak : Nat) : Option Nat :=
  if peak = 0 then none
  else
    let x := 16 * min (elgRoom s capo) (elgRise s)
    some (if x < 0 then 0 else min (x.toNat / (100 * peak)) (min 16 (dutyCap s)))

/-- A grant: the duty, when R441 grants the segment. A segment of peak 0 takes a free value for d (log entry 42). -/
def ledgerGrant (s : State) (capo peak : Nat) : State × Option Nat :=
  let l := s.prog.eff
  let d := rawDuty s capo peak
  let f := (Config.freeBits s.free).toNat % 17
  let s' := if d.isNone then { s with free := s.free + 1 } else s
  let d := d.getD (min f (dutyCap s))
  let d := if elgCrm l then (if elgCrDuty l ≤ d then elgCrDuty l else 0) else d
  (s', if (if elgCrm l then elgCrDuty l else elgMinDuty l) ≤ d then some d else none)

/-- The draw the ledger has granted the running stream: S × D / 16 (R441). -/
def grantedDraw (s : State) : Nat :=
  if s.str.running then
    match s.str.seg with
    | some g => (s.str.segs.getD g (0, 0)).1 * ((s.str.dutyAt.getLast?.map (·.2)).getD s.str.duty) / 16
    | none => 0
  else 0

/-- An RT may give ballast at levels 0 and 1 if its own highest sample lies below its level-1 threshold; at level 2 none may
(Table 16-2, R446). In constant-rate mode a level changes nothing of the RTs' draw (R451, log entry 144). -/
def ballastRt (s : State) (n : Nat) : Bool :=
  rtUp s n && (elgCrm s.prog.eff || s.elg.level != 2 && !s.elg.lastTmax.any fun x => x.1 == 12 + n && decide (95 ≤ x.2))

/-- Ballast capacity: up to 100 W for each RT less its share of the stream's draw, at most BALLAST_MAX (R446). -/
def ballastCap (s : State) : Nat :=
  let rts := (List.range 8).filter (ballastRt s)
  let each := if s.str.tiles.length = 0 then 0 else grantedDraw s / s.str.tiles.length
  min ((rts.map fun n => 100 - (if n ∈ s.str.tiles then each else 0)).sum) (elgBallastMax s.prog.eff)

/-- The constant level of the RTs' draw: the budget for streams, at most 100 W for each RT and BALLAST_MAX (R451). -/
def constLevel (s : State) : Nat :=
  min (elgBudget s.prog.eff - elgFixed s.prog.eff) (min (100 * ((List.range 8).filter (ballastRt s)).length) (elgBallastMax s.prog.eff))

/-- The ballast of R446, or in constant-rate mode of R451. -/
def ballastNow (s : State) : Nat :=
  let l := s.prog.eff
  if elgCrm l then min (constLevel s - grantedDraw s) (ballastCap s)
  else
    let expected := bLast s + (grantedDraw s : Int)
    min ((s.elg.pLast : Int) - elgRamp l - expected).toNat (ballastCap s)

/-- An expected fall of the draw sets ballast at once (R446). -/
def setBallast (s : State) : State := { s with elg := { s.elg with ballast := ballastNow s } }

end Sys2Proof.Machine
end

