-- ==== Sys2Proof/Machine/Declare.lean ====
section
/-! DEFINITION. Declaring and removing windows and shards (R202, R203, R208, R209, R216, R220, R245, R483). -/

namespace Sys2Proof.Machine

open Sys2Proof

/-- Bytes of accumulators that one 64-byte line reserves (R216). -/
def lineCost (d : WinDesc) : Nat :=
  let size := if d.fmt = 15 then 1 else fmtSize d.fmt
  let exact := d.mode != 0 || d.fmt == 15
  64 / size * (if exact then 40 else if d.fmt = 6 then 8 else 4)

/-- The RT of a page's copy: `own` for the owner's copy (R200). -/
def copyRt (s : State) (rtOut : List Nat) (capo off : Nat) (own : Bool) : Nat :=
  let n := bits off 13 3
  let n' := if n ∈ rtOut then n ^^^ 1 else n
  match regionAt s.prog.eff capo (off / 4096) with
  | some g => if g.tier = 0 then (placeOf g (off / 4096) own).1 else n'
  | none => n'

/-- Lines that a window reserves on an RT, of this member (`here`) or of its twin. -/
def linesOnRt (s : State) (w : Window) (rt : Nat) (here : Bool) : Nat :=
  ((winPages w).filter fun o => copyRt s w.rtOut w.d.capo o (isMine s o == here) == rt).length * 64

/-- What declared windows of other WIDs that share a window's part reserve on an RT: accumulator bytes and lines (R203, R216, R483). -/
def reserved (s : State) (d : WinDesc) (rt : Nat) (here : Bool) : Nat × Nat :=
  ((s.wins.filterMap (·.2)).filter fun w => w.d.wid != d.wid && samePart s w.d.capo d.capo).foldl (fun x w =>
    let n := linesOnRt s w rt here
    (x.1 + n * lineCost w.d, x.2 + n)) (0, 0)

/-- The accumulator bytes and line-table entries a capo's part may reserve on one RT (R191, R483). -/
def reserveLimit (s : State) (capo : Nat) : Nat × Nat :=
  let l := s.prog.eff
  let pin := ((pinnedCapos l).map (capoAccMib l)).sum
  if capoPinned l capo then (capoAccMib l capo * 1048576, capoAccMib l capo * 4096)
  else ((s.accMib - pin) * 1048576, 1048576 - pin * 4096)

def fitsReserve (s : State) (w : Window) : Bool :=
  (List.range 8).all fun rt => [true, false].all fun here =>
    let u := reserved s w.d rt here
    let n := linesOnRt s w rt here
    n == 0 || decide (u.1 + n * lineCost w.d ≤ (reserveLimit s w.d.capo).1 ∧ u.2 + n ≤ (reserveLimit s w.d.capo).2)

/-- A range that is wholly mapped pages of one tier of the capo. -/
def oneTier (s : State) (w : Window) : Bool :=
  match regionAt s.prog.eff w.d.capo (w.d.base / 4096) with
  | none => false
  | some g => decide (w.d.base % 4096 = 0 ∧ 0 < w.d.lenp) && (winPages w).all fun o =>
      match regionAt s.prog.eff w.d.capo (o / 4096) with
      | none => false
      | some h => h.tier == g.tier

/-- DEADLINE in µs within its range (Table 7-6). -/
def deadlineOk (d : WinDesc) : Bool :=
  d.deadline == 0 || decide (100 ≤ d.deadline ∧ d.deadline ≤ (if d.each then 1000000 else 8000))

/-- The nine conditions of R203, in the order it lists them. -/
def winConditions (s : State) (w : Window) : List Bool :=
  let d := w.d
  let others := (s.wins.filterMap (·.2)).filter fun x => x.d.wid != d.wid
  let lw := min (capoLwin s.prog.eff d.capo) (capoRwin s.prog.eff d.capo)
  [ !oneTier s w
  , others.any fun x => x.d.capo == d.capo && decide (overlap x.d.base (x.d.lenp * 4096) d.base (d.lenp * 4096) ≠ 0)
  , !fitsReserve s w
  , d.group != 0 && d.each
  , (d.fmt == 15 || d.mode == 2) && d.group == 0
  , d.sr && (fmtIsInt d.fmt || d.rop != 0)
  , !deadlineOk d
  , !d.each && decide ((lw + 1) * 65536 < d.lenp * 4160)
  , match winOf s d.wid with
    | some x => x.d != d
    | none => false ]

/-- The number of the first condition of R203 that refuses a declaration (R245). -/
def winRefusal (s : State) (w : Window) : Option Nat :=
  ((winConditions s w).findIdx? id).map (· + 1)

/-- The window that a declaration makes: the RTs out of service now decide its exchanges (R200). -/
def newWindow (s : State) (d : WinDesc) : Window := { d := d, rtOut := (List.range 8).filter fun n => !rtUp s n }

/-- The window declared, unless it already is; both members hold it once the twin confirms (R203, R245). -/
def declareWin (s : State) (d : WinDesc) : State :=
  match winOf s d.wid with
  | some _ => s
  | none => winNote (setWin s (newWindow s d)) (newWindow s d) (winRec (newWindow s d) .idle)

/-- A declared window that is neither ACTIVE nor FINALISING is removed (R245). -/
def removable (s : State) (wid capo : Nat) : Bool :=
  match winOf s wid with
  | none => false
  | some w => w.d.capo == capo && w.st != .active && w.st != .finalising

def removeWin (s : State) (wid : Nat) : State :=
  match winOf s wid with
  | none => s
  | some w => winNote { s with wins := s.wins.set wid none } w (.dropWindow wid)

/-- Whether every page of a shard is owned by the member that consumes it (R220, R245). -/
def shardOwned (d : ShardDesc) : Bool :=
  decide (d.base % 64 = 0 ∧ 1 ≤ d.len64 ∧ d.len64 ≤ 16777216)
    && (List.range ((d.base + d.len64 * 64 - 1) / 4096 - d.base / 4096 + 1)).all fun i =>
      ownerB ((d.base / 4096 + i) * 4096) == d.memberB

def shardNote (s : State) (capo : Nat) (r : StateRec) : State := mirrorNote s 0 0 capo (.mstate r)

def declareShard (s : State) (d : ShardDesc) : State :=
  shardNote { s with shards := s.shards.set d.shard (some d) } d.capo (.shard d)

def removeShard (s : State) (k capo : Nat) : State := shardNote { s with shards := s.shards.set k none } capo (.dropShard k)

/-- Whether the twin holds a declaration or removal: no message of it is unconfirmed (R245). -/
def bothHold (s : State) (d : Decl) : Bool :=
  !s.course.unconf.any fun u =>
    match u.body with
    | .mstate (.window w) => (d.win.map (·.wid)) == some w.d.wid
    | .mstate (.dropWindow k) => d.remWin == some k
    | .mstate (.shard x) => (d.shard.map (·.shard)) == some x.shard
    | .mstate (.dropShard k) => d.remShard == some k
    | _ => false

end Sys2Proof.Machine
end

