-- ==== Sys2Proof/Machine/Elements.lean ====
section
/-! DEFINITION. Elements of the matrix and vector units: formats, operand pairs, rows with their block scales, the buffers of an ME and
the sums of one step (R194 to R198, R238 to R240). -/

namespace Sys2Proof.Machine

open Sys2Proof

/-! Formats and operand pairs. -/

def isMx (fmt : Nat) : Bool := decide (fmt ≤ 2)

/-- The element format of a matrix FMT code (Table 8-7). -/
def matFmt (fmt : Nat) : FpFmt :=
  match fmt with
  | 0 => e2m1 | 1 => e4m3 | 2 => e5m2 | 3 => e4m3 | 4 => e5m2 | 5 => bf16 | _ => fp16

/-- The bytes of 256 elements, without scales (Table 7-4). -/
def rowBytes (fmt : Nat) : Nat := if fmt = 0 then 128 else if fmt ≤ 4 then 256 else 512

/-- Cycles per step of an operand pair (Table 7-5). -/
def stepCycles (w x : Nat) : Option Nat :=
  if w = 0 then (if x = 0 then some 1 else if x ≤ 2 then some 2 else none)
  else if w ≤ 4 then (if x ≤ 4 then some 2 else none)
  else if w = x ∧ w ≤ 6 then some 4
  else none

/-- Cycles in which a tile loads (Table 8-8). -/
def loadCycles (fmt : Nat) : Nat := if fmt = 0 then 17 else if fmt ≤ 4 then 33 else 64

/-- Element i of a row, without its block scale. -/
def elemAt (fmt : Nat) (bs : List Byte) (i : Nat) : Fp :=
  let b (k : Nat) : Nat := (bs.getD k 0).toNat
  if fmt = 0 then fpDecode e2m1 (bits (b (i / 2)) (4 * (i % 2)) 4)
  else if fmt ≤ 4 then fpDecode (matFmt fmt) (b i)
  else fpDecode (matFmt fmt) (b (2 * i) + 256 * b (2 * i + 1))

/-- Element i of a row with its block scale applied; 32 elements share one (R194). -/
def scaledAt (fmt : Nat) (bs sc : List Byte) (i : Nat) : Fp :=
  if isMx fmt then fpMul (e8m0Decode (sc.getD (i / 32) 0).toNat) (elemAt fmt bs i) else elemAt fmt bs i

def activeBuf (e : Me) : WBuf := if e.act1 then e.b1 else e.b0
def idleBuf (e : Me) : WBuf := if e.act1 then e.b0 else e.b1
def setIdle (e : Me) (b : WBuf) : Me := if e.act1 then { e with b0 := b } else { e with b1 := b }
def meOfTile (t : Tile) (m : Nat) : Me := t.mes.get m {}
/-- The sums of one step on one ME (R197): 128 rows, each an exact dot product added with one rounding. -/
def stepSums (e : Me) (fmt : Nat) (x sc : List Byte) (old : List W32) : List (Nat × W32) :=
  let w := activeBuf e
  let len := rowBytes w.fmt
  (List.range 128).map fun r =>
    let row := (w.els.drop (r * len)).take len
    let rs := (w.scales.drop (r * 8)).take 8
    (r, BitVec.ofNat 32 (stepAcc (old.getD r 0).toNat
      ((List.range 256).map fun i => fpMul (scaledAt w.fmt row rs i) (scaledAt fmt x sc i))))

/-- The element format of a vector FMT code (Table 8-9). -/
def vecFmt (fmt : Nat) : FpFmt :=
  match fmt with
  | 0 => fp32 | 1 => bf16 | 2 => fp16 | 3 => e4m3 | 4 => e5m2 | 5 => e4m3 | 6 => e2m1 | _ => e5m2

def vecMx (fmt : Nat) : Bool := decide (5 ≤ fmt)

/-- Element i of a vector operand, converted exactly to FP32; a block scale multiplies it (R194, R240). -/
def vecElem (fmt : Nat) (bs sc : List Byte) (i : Nat) : W32 :=
  let b (k : Nat) : Nat := (bs.getD k 0).toNat
  let v :=
    if fmt = 0 then fpDecode fp32 (ofLe ((bs.drop (4 * i)).take 4))
    else if fmt ≤ 2 then fpDecode (vecFmt fmt) (b (2 * i) + 256 * b (2 * i + 1))
    else if fmt = 6 then fpDecode e2m1 (bits (b (i / 2)) (4 * (i % 2)) 4)
    else fpDecode (vecFmt fmt) (b i)
  let v := if vecMx fmt then fpMul (e8m0Decode (sc.getD (i / 32) 0).toNat) v else v
  BitVec.ofNat 32 (fpEncode fp32 rneUp v)

end Sys2Proof.Machine
end

