-- ==== Sys2Proof/Machine/Stream.lean ====
section
/-! DEFINITION. The chip stream: issue, exceptions, waits, energy checkpoints and control operations (R224 to R237, R246
to R250). -/

namespace Sys2Proof.Machine

open Sys2Proof

/-! Results become readable (R230). -/

def pendDue : PendW → Nat
  | .vreg d _ _ => d
  | .acc d _ _ => d
  | .scr d _ _ => d
  | .fa d _ _ => d
  | .fattr d _ _ => d
  | .areg d _ _ => d
  | .sreg d _ _ => d
  | .vlen d _ => d
  | .read d _ => d

/-- Lanes of a vector register written over the old ones. -/
def setLanes (old new : List (Nat × W32)) : List (Nat × W32) := new.foldl (fun m x => TMap.set m x.1 x.2) old

/-- A result that becomes readable later. -/
def addPend (s : State) (n : Nat) (w : PendW) : State :=
  let t := tileOf s n
  setTile s n { t with pend := t.pend ++ [w] }

def scrBytes (s : State) (n a len : Nat) : List Byte := Memory.readN s.scratch (scrKey n a) len

/-- An op that reads several cycles has read its last bytes in cycle `c`: a STEP's sums are readable 8 cycles after it ends, a tile stands
in the idle buffer, the lanes of a VLD are readable 4 cycles after the last (Tables 8-8 and 8-10). -/
def readEnd (s : State) (n c : Nat) (r : ReadRun) : State :=
  match r.what with
  | .step m fmt old => addPend s n (.acc (c + 9) m (stepSums (meOfTile (tileOf s n) m) fmt r.els r.scales old))
  | .ldw m =>
    let t := tileOf s n
    let e := meOfTile t m
    setTile s n { t with mes := t.mes.set m (setIdle e { idleBuf e with els := r.els, scales := r.scales }) }
  | .vld reg fmt k => addPend s n (.vreg (c + 4) reg ((List.range k).map fun i => (i, vecElem fmt r.els r.scales i)))

/-- The next part of such an op is read in cycle `c`. -/
def readPart (s : State) (n c : Nat) (r : ReadRun) : State :=
  match r.parts with
  | [] => readEnd s n c r
  | p :: t =>
    let r := { r with parts := t, els := r.els ++ scrBytes s n p.1 p.2.1, scales := r.scales ++ scrBytes s n p.2.2.1 p.2.2.2 }
    if t.isEmpty then readEnd s n c r else addPend s n (.read (c + 1) r)

/-- One result takes effect. -/
def takePend (s : State) (n : Nat) (w : PendW) : State :=
  let t := tileOf s n
  match w with
  | .vreg _ r l => setTile s n { t with v := t.v.set r (setLanes (t.v.get r []) l) }
  | .acc _ m l => setTile s n { t with acc := l.foldl (fun a x => TMap.set a (m, x.1) x.2) t.acc }
  | .scr _ a bs => scratchWrite s (scrKey n a) bs false
  | .fa _ r a => setTile s n { t with fa := t.fa.set r a }
  | .fattr _ r b => setTile s n { t with fattr := t.fattr.set r b }
  | .areg _ r v => setTile s n { t with ad := t.ad.set r v }
  | .sreg _ r v => setTile s n { t with stride := t.stride.set r v }
  | .vlen _ k => setTile s n { t with vlen := k }
  | .read c r => readPart s n c r

/-- The steps that the pending results of a tile may still take: each once, and a reading op once for each part. -/
def pendSteps (t : Tile) : Nat :=
  (t.pend.map fun w => match w with
    | .read _ r => r.parts.length + 2
    | _ => 1).sum

/-- The order of pending results: by cycle, and in one cycle the writes before the ops that read a part (R230). -/
def pendRank (w : PendW) : Nat :=
  2 * pendDue w + (match w with
    | .read _ _ => 1
    | _ => 0)

/-- The first of the pending results in that order, with its place; the one issued first among equals. -/
def firstPend : List PendW → Option (Nat × PendW)
  | [] => none
  | w :: t =>
    match firstPend t with
    | some (i, v) => if pendRank v < pendRank w then some (i + 1, v) else some (0, w)
    | none => some (0, w)

/-- The results of a tile that are due by a cycle, in the order of their cycles; of one cycle in the order issued (log entry 44). -/
def settleSteps (c n : Nat) : Nat → State → State
  | 0, s => s
  | k + 1, s =>
    let t := tileOf s n
    match firstPend t.pend with
    | some (i, w) =>
      if pendDue w ≤ c then settleSteps c n k (takePend (setTile s n { t with pend := t.pend.eraseIdx i }) n w) else s
    | none => s

def settleTile (s : State) (c n : Nat) : State :=
  let t := tileOf s n
  if t.pend.all fun w => decide (c < pendDue w) then s
  else settleSteps c n (pendSteps t) (setTile s n { t with ports := t.ports.filter fun p => decide (c ≤ p.1) })

/-- The stream reaches a cycle: what is due by then takes effect. -/
def atCycle (s : State) (c : Nat) : State :=
  s.str.tiles.foldl (fun s n => settleTile s c n) (setStr s { s.str with cycle := c })

/-! Issue (R226, R237, R248). -/

/-- Whether the bundle at the issue point issues in the present cycle: the stream runs, nothing stalls it, the address
lies in the image, its words could be read, and no exception has stopped it (R224, R226, R231, R248; log entry 181). -/
def bundleOk (s : State) : Bool :=
  s.str.running && !s.str.ending && s.str.stall.isNone && !s.str.fetchBad && decide (s.str.pc < s.str.imageLen)
    && (s.str.stopAt.all fun c => decide (s.str.cycle ≤ c))

/-- A slot op of an in-service tile (R226). -/
def slotOk (s : State) (n : Nat) : Bool := bundleOk s && decide (n ∈ s.str.tiles)

/-- The duty in effect in a cycle (R237). -/
def dutyNow (s : State) (c : Nat) : Nat :=
  match (s.str.dutyAt.filter fun d => decide (d.1 ≤ c)).getLast? with
  | some d => d.2
  | none => s.str.duty

/-- The first cycle from c on in which the duty lets a bundle issue (R237). -/
def dutyFrom (s : State) : Nat → Nat → Nat
  | 0, c => c
  | k + 1, c => if c % 16 < dutyNow s c then c else dutyFrom s k (c + 1)

def dutyNext (s : State) (c : Nat) : Nat := dutyFrom s 16 c

/-- The duties that still matter from a cycle on. -/
def dutyTrim (x : Stream) (c : Nat) : Stream :=
  match (x.dutyAt.filter fun d => decide (d.1 ≤ c)).getLast? with
  | some d => { x with duty := d.2, dutyAt := x.dutyAt.filter fun d => decide (c < d.1) }
  | none => x

/-! Exceptions (R247, R248). -/

/-- The order of exceptions of one cycle: the head, then the lowest tile, and within a tile the parts in order. -/
def excRank (e : ExcRec) : Nat := if e.part = 0 then 0 else 1 + e.tile * 8 + e.part

/-- Handlers are stopped (R248). -/
def stopHandlers (s : State) : State :=
  { s with tiles := s.tiles.map fun x => (x.1, { x.2 with
      launchQ := [], handlers := [], cores := x.2.cores.map fun c => (c.1, { c.2 with running := none, waiting := false, xfers := [] }) }) }

/-- An exception record arises: that of the earliest cycle is kept, of one cycle the first by R248's order, the others are counted. -/
def raiseRec (s : State) (e : ExcRec) : State :=
  if !s.str.running then s
  else
    match s.str.exc with
    | none => stopHandlers (setStr s { s.str with exc := some e, stopAt := some (e.cycle + 12) })
    | some o =>
      let n := min (o.others + 1) 65535
      if e.cycle < o.cycle ∨ (o.cycle = e.cycle ∧ excRank e < excRank o) then
        setStr s { s.str with exc := some { e with others := n }, stopAt := some (e.cycle + 12) }
      else setStr s { s.str with exc := some { o with others := n } }

/-- An exception in the present stream cycle. -/
def raiseExc (s : State) (cause tile part : Nat) (errAddr : W64 := 0) (detail : Nat := 0) (status : Nat := 0) : State :=
  raiseRec s { cause := cause, tile := tile, part := part, pc := s.str.pc, status := status, cycle := nowCycle s, time := s.clk.now,
               errAddr := errAddr, detail := detail }

def headExc (s : State) (cause : Nat) (detail : Nat := 0) : State := raiseExc s cause 0 0 0 detail

/-! Waits (R233 to R235). -/

def waitOf (s : State) (we : Nat) : WaitEntry := s.str.waits.get we {}
def setWait (s : State) (we : Nat) (w : WaitEntry) : State := setStr s { s.str with waits := s.str.waits.set we w }

/-- The condition an entry broadcast 12 cycles before the present one (R231); none before the first sample. -/
def waitSeen (s : State) (w : WaitEntry) : Bool :=
  (((w.hist.filter fun h => decide (h.1 + 12 ≤ s.str.cycle)).getLast?).map (·.2)).getD false

/-- An entry armed in a cycle (R234). -/
def armWait (s : State) (we c : Nat) : State :=
  let w := waitOf s we
  setWait s we { w with armed := true, armAt := c, met := metFrom s w c }

/-! Reserved encodings of the bundle that issues (R225, R231, R238, R240, R242, R245). -/

def slotBits (b n lo len : Nat) : Nat := bits b (64 + 120 * n + lo) len

def headReserved (b : Nat) : Bool := bit b 23 || bits b 40 2 == 3 || bits b 59 5 != 0 || decide (10 ≤ bits b 0 4)

/-- The parts of a tile slot that hold a reserved opcode or a reserved bit that is not zero. -/
def slotReserved (b n : Nat) : List Nat :=
  let m := slotBits b n 0 4
  let v := slotBits b n 40 5
  let mv := slotBits b n 72 4
  let sy := slotBits b n 104 4
  let unused := if sy = 0 then 12 else if sy = 1 then 0 else if sy = 3 then 8 else 4
  (if decide (6 ≤ m) || slotBits b n 21 19 != 0 then [1] else [])
    ++ (if decide (10 ≤ v) || slotBits b n 69 3 != 0 then [2] else [])
    ++ (if mv == 4 || decide (9 ≤ mv) then [3] else [])
    ++ (if decide (8 ≤ sy) || slotBits b n (120 - unused) unused != 0 then [4] else [])

/-- The bundle at the issue point raises ILLEGAL for each reserved encoding it holds. -/
def bundleChecks (s : State) : State :=
  let b := (s.str.store.get s.str.pc 0).toNat
  if b = 0 then s
  else
    let s := if headReserved b then headExc s 1 else s
    s.str.tiles.foldl (fun s n => (slotReserved b n).foldl (fun s p => raiseExc s 1 n p) s) s

/-! The end of a bundle (R231, R232). -/

/-- The bundle at the issue point is fetched from every replica: a corrected word is counted, and one that cannot be corrected raises
STORE_UNCORR with its tile (R224, log entry 181). -/
def fetchBundle (s : State) : State :=
  let here (n : Nat) (l : List (Nat × Nat × Nat)) : Nat := (l.filter fun x => x.1 == n && x.2.1 == s.str.pc).length
  s.str.tiles.foldl (fun s n =>
    let s := bump s .rtStoreCorr [n] (here n s.str.soft)
    if here n s.str.hard = 0 then s
    else
      let s := bump s .rtStoreUncorr [n] (here n s.str.hard)
      raiseExc (setStr s { s.str with fetchBad := true }) 0x0C n 7) s

/-- The next bundle reaches issue after the cycles lost and is held by the duty; one beyond the image raises ILLEGAL. -/
def reachIssue (s : State) (pc lost : Nat) : State :=
  let arr := s.str.cycle + 1 + lost
  let c := dutyNext s arr
  let s := atCycle (setStr s (dutyTrim { s.str with arr := arr, pc := pc, declSeen := [] } c)) c
  let s := bump s .rtSeqDuty [s.str.capo] (c - arr)
  if s.str.pc < s.str.imageLen then fetchBundle s else headExc s 1

/-- The bundle issues: it is counted, the conditions of its cycle are broadcast, and its address goes to the wait network, where it is
compared 12 cycles later (R227). -/
def bundleIssued (s : State) : State :=
  let s := bundleChecks (sampleWaits s)
  let c := s.str.cycle
  bump (setStr s { s.str with
      lastPc := s.str.pc, issued := (s.str.issued.filter fun x => decide (c ≤ x.1 + 12)) ++ [(c, s.str.pc)] }) .rtSeqIssue [s.str.capo]

/-- A control operation: the bundle issues, then the next one is `pc`, after the cycles lost. -/
def control (s : State) (f : State → State × Nat × Nat) : State :=
  if bundleOk s then
    let s := bundleIssued s
    let x := f s
    reachIssue x.1 x.2.1 x.2.2
  else s

def nextPc (s : State) : Nat := s.str.pc + 1

/-- NEXT: the next bundle is b + 1 (R231). -/
def execNext (s : State) : Res := .next (control s fun s => (s, nextPc s, 0))

/-- BR: the next bundle is TGT; two cycles are lost (R231). -/
def execBr (tgt : Nat) (s : State) : Res := .next (control s fun s => (s, tgt % 65536, 2))

/-- A branch on the condition broadcast 12 cycles earlier; an unused entry raises ILLEGAL and does not branch (R231, R233). -/
def branchOn (want : Bool) (we tgt : Nat) (s : State) : State × Nat × Nat :=
  if (waitOf s we).kind = 3 then (headExc s 1, nextPc s, 0)
  else if waitSeen s (waitOf s we) == want then (s, tgt % 65536, 2)
  else (s, nextPc s, 0)

/-- BRC: TGT if the condition of the entry was true 12 cycles earlier (R231). -/
def execBrc (we tgt : Nat) (s : State) : Res := .next (control s (branchOn true we tgt))

/-- BRNC: TGT if that condition was false (R231). -/
def execBrnc (we tgt : Nat) (s : State) : Res := .next (control s (branchOn false we tgt))

/-- LOOP: a loop counter takes IMM; 0 raises ILLEGAL and has no effect (R231). -/
def execLoop (lc imm : Nat) (s : State) : Res :=
  .next (control s fun s =>
    (if imm % 65536 = 0 then headExc s 1 else setStr s { s.str with lc := s.str.lc.set (lc % 8) (imm % 65536) }, nextPc s, 0))

/-- ENDL: the counter falls by 1 and TGT is next while it is not 0; a counter of 0 raises STACK (R231). -/
def execEndl (lc tgt : Nat) (s : State) : Res :=
  .next (control s fun s =>
    let n := s.str.lc.get (lc % 8) 0
    if n = 0 then (headExc s 9, nextPc s, 0)
    else
      let s' := setStr s { s.str with lc := s.str.lc.set (lc % 8) (n - 1) }
      if n = 1 then (s', nextPc s, 0) else (s', tgt % 65536, 0))

/-- CALL: b + 1 is pushed and TGT is next; a ninth push raises STACK (R231). -/
def execCall (tgt : Nat) (s : State) : Res :=
  .next (control s fun s =>
    if 8 ≤ s.str.rstack.length then (headExc s 9, nextPc s, 0)
    else (setStr s { s.str with rstack := nextPc s :: s.str.rstack }, tgt % 65536, 2))

/-- RET: the address popped is next; an empty stack raises STACK (R231). -/
def execRet (s : State) : Res :=
  .next (control s fun s =>
    match s.str.rstack with
    | [] => (headExc s 9, nextPc s, 0)
    | a :: t => (setStr s { s.str with rstack := t }, a, 2))

/-- HALT: no further bundle issues (R231, R246). -/
def execHalt (s : State) : Res :=
  .next (if bundleOk s then
    let s := bundleIssued s
    setStr s { s.str with ending := true, declSeen := [] }
  else s)

/-- WRST: TARGET returns to TARGET0 and the entry is unarmed (R231). -/
def execWrst (we : Nat) (s : State) : Res :=
  .next (control s fun s =>
    let w := waitOf s we
    (sampleWaits (setWait s we { w with target := w.target0, armed := false, met := none }), nextPc s, 0))

/-- ARM: an unarmed entry is armed in this cycle; one of KIND 0b11 raises ILLEGAL (R233, R234). -/
def execArm (we : Nat) (s : State) : Res :=
  let w := waitOf s we
  .next (if !bundleOk s then s
  else if w.kind = 3 then headExc s 1
  else if w.armed then s
  else armWait s we s.str.cycle)

/-- WAIT: the entry is armed if it is not, as the bundle reaches issue, and the bundle stalls until its release (R234). -/
def execWait (we : Nat) (s : State) : Res :=
  let w := waitOf s we
  .next (if !bundleOk s then s
  else if w.kind = 3 then headExc s 1
  else
    let s := if w.armed then s else armWait s we s.str.arr
    setStr s { s.str with stall := some (1, s.clk.now, we) })

/-- The stalled bundle issues at the latest of its arrival and a cycle, when the duty lets it. -/
def issueFrom (s : State) (c : Nat) (k : CtrName) : State :=
  let at_ := max s.str.cycle c
  let n := dutyNext s at_
  let s' := bump (bump s k [s.str.capo] (at_ - s.str.cycle)) .rtSeqDuty [s.str.capo] (n - at_)
  atCycle (setStr s' { dutyTrim s'.str n with stall := none }) n

/-- WAIT_RELEASE: the condition of the entry that the bundle waits on has held since its arming, first in cycle r, and the bundle issues
at max(t, r + 12); TARGET rises by STEP and the entry is unarmed (R234). `cycle` is the cycle in which the command comes: before r + 12
it changes nothing (log entry 7). -/
def execWaitRelease (we cycle : Nat) (s : State) : Res :=
  let w := waitOf s we
  .next (match s.str.stall, w.met with
    | some (1, _, e), some r =>
      if s.str.running && e == we && w.armed && decide (r + 12 ≤ cycle) then
        sampleWaits (issueFrom (setWait s we { w with target := w.target + w.step, armed := false, met := none }) (r + 12) .rtSeqWait)
      else s
    | _, _ => s)

/-- WAIT_TIMEOUT: a stall longer than the barrier timeout raises the exception (R235). -/
def execWaitTimeout (we : Nat) (s : State) : Res :=
  .next (match s.str.stall with
    | some (1, t, e) =>
      if s.str.running && e == we && decide (t + capoBto s.prog.eff s.str.capo * 1000000 < s.clk.now) then headExc s 7 we else s
    | _ => s)

/-! Energy checkpoints (R236, R237). -/

/-- A segment granted in a cycle: its duty takes effect 12 cycles later, when the bundle may issue. -/
def grantSegment (s : State) (seg duty g : Nat) : State :=
  let s := setStr s { s.str with seg := some seg, segReq := none, dutyAt := s.str.dutyAt ++ [(g + 12, duty)] }
  setBallast (issueFrom { s with elg := { s.elg with segUsed := 0, overD1 := false } } (g + 12) .rtSeqChkpt)

/-- ECHK: the bundle asks the ledger for a segment; granted at once it issues 12 cycles later, else it stalls (R236, R441). -/
def execEchk (seg : Nat) (s : State) : Res :=
  .next (if !bundleOk s then s
  else if s.str.segs.length ≤ seg then headExc s 1
  else
    let x := ledgerGrant s s.str.capo (s.str.segs.getD seg (0, 0)).1
    match x.2 with
    | some d => grantSegment x.1 seg d s.str.arr
    | none => setStr x.1 { s.str with stall := some (2, s.clk.now, seg), segReq := some (seg, s.clk.now) })

/-- CHECKPOINT_TIMEOUT: a checkpoint not granted within the barrier timeout raises ENERGY (R236). -/
def execCheckpointTimeout (s : State) : Res :=
  .next (match s.str.stall with
    | some (2, t, _) =>
      if s.str.running && decide (t + capoBto s.prog.eff s.str.capo * 1000000 ≤ s.clk.now) then headExc s 8 else s
    | _ => s)

/-- LOCKSTEP_COMPARE: the addresses the sequencers issued in a cycle, compared 12 cycles later; a difference raises LOCKSTEP with the
stream cycle and the bundle of the differing issue (R227). -/
def execLockstepCompare (addrs : List Nat) (cycle : Nat) (s : State) : Res :=
  .next (match s.str.issued.find? fun x => x.1 == cycle with
    | none => s
    | some x =>
      if nowCycle s < cycle + 12 then s
      else
        let s := setStr s { s.str with issued := s.str.issued.filter fun y => y.1 != cycle }
        if addrs.all fun a => a == addrs.headD 0 then s
        else raiseRec s { cause := 0x0D, part := 7, pc := x.2, cycle := cycle, time := s.clk.now })

end Sys2Proof.Machine
end

