-- ==== Sys2Proof/Machine/Matrix.lean ====
section
/-! DEFINITION. Scratch accesses of slot ops and the matrix engines (R189, R190, R194 to R198, R229, R230, R238, R239). -/

namespace Sys2Proof.Machine

open Sys2Proof

/-! Scratch accesses. -/

/-- The first byte beyond general scratch (Table 7-2). -/
def scrTop (s : State) : Nat := 0x1C000000 - s.accMib * 0x100000

/-- The first range that does not lie in general scratch (R229). -/
def outOfScratch (s : State) (l : List (Nat × Nat)) : Option Nat :=
  (l.find? fun x => decide (scrTop s < x.1 + x.2)).map (·.1)

/-- Whether ops that would move bytes fit beside those still running (R229): entries are (cycle, read, written). -/
def portFits (s : State) (n : Nat) (l : List (Nat × Nat × Nat)) : Bool :=
  let ps := (tileOf s n).ports ++ l
  (l.map (·.1)).eraseDups.all fun c =>
    let now := ps.filter fun p => p.1 == c
    decide ((now.map (·.2.1)).sum ≤ 57344 ∧ (now.map (·.2.2)).sum ≤ 57344)

/-- The bytes that an op moves in each cycle from c on: `rate` a cycle, and what is left in the last. -/
def spread (c rate total : Nat) : Nat → List (Nat × Nat)
  | 0 => []
  | k + 1 => (c, min rate total) :: spread (c + 1) rate (total - rate) k

def portTake (s : State) (n : Nat) (l : List (Nat × Nat × Nat)) : State :=
  let t := tileOf s n
  setTile s n { t with ports := t.ports ++ l }

/-- The scratch checks of an op: its ranges, then the ports; what it raises, or the state with its port use. -/
def scrCheck (s : State) (n part : Nat) (ranges : List (Nat × Nat)) (ports : List (Nat × Nat × Nat)) (go : State → State) : State :=
  match outOfScratch s ranges with
  | some a => raiseExc s 2 n part (BitVec.ofNat 64 a)
  | none => if portFits s n ports then go (portTake s n ports) else raiseExc s 3 n part

/-- An address register moved on; it takes effect in the next cycle (R238, R242). -/
def adAdvance (s : State) (n r by_ : Nat) : State :=
  addPend s n (.areg (s.str.cycle + 1) r (((tileOf s n).ad.get r 0 + by_) % 2 ^ 29))

/-- The address of ME m: AD + m × STRIDE (R238), in 64 bits, so that one below 0 or beyond the 29 bits of AD lies outside scratch. -/
def meAddr (t : Tile) (r m : Nat) : Nat := unsigned ((t.ad.get r 0 : Int) + (m : Int) * t.stride.get r 0) 64

/-! Groups. -/

/-- The MEs an op applies to (R238). -/
def groupMes (o : MatOp) : Option (List Nat) :=
  if o.grp = 0 then some (List.range 32)
  else if o.grp ≤ 4 then some ((List.range 8).map (· + 8 * (o.grp - 1)))
  else if o.grp = 5 then some [o.me % 32]
  else none

def setMe (s : State) (n m : Nat) (e : Me) : State :=
  let t := tileOf s n
  setTile s n { t with mes := t.mes.set m e }

/-- An accumulator as the newest op left it: steps are applied in the order issued (R197). -/
def newestAcc (t : Tile) (m : Nat) : Nat → W32 :=
  let last := (t.pend.filterMap fun w => match w with
    | .acc _ k l => if k = m then some l else none
    | _ => none).getLast?
  fun r => match last with
    | some l => TMap.get l r 0
    | none => t.acc.get (m, r) 0

/-- What a matrix op moves and needs per ME. -/
def needs (o : MatOp) (t : Tile) (ms : List Nat) (len slen : Nat) : List (Nat × Nat) :=
  ms.flatMap fun m => (meAddr t o.areg m, len) :: (if slen = 0 then [] else [(meAddr t (o.areg + 1) m, slen)])

def postInc (s : State) (n : Nat) (o : MatOp) (by_ : Nat) : State :=
  if o.pi then
    let s := adAdvance s n o.areg by_
    if isMx o.fmt then adAdvance s n (o.areg + 1) 8 else s
  else s

/-- FMT 7, a reserved group and an odd AREG with an MX format are ILLEGAL (R238). -/
def matIllegal (o : MatOp) : Bool :=
  (groupMes o).isNone || decide (7 ≤ o.fmt ∨ 16 ≤ o.areg) || (isMx o.fmt && o.areg % 2 == 1)

/-- A matrix op of an in-service tile, after the checks that every op makes. -/
def matrixOp (s : State) (n : Nat) (o : MatOp) (usesFmt : Bool) (busy : Me → Bool) (go : List Nat → State → State) : State :=
  if !slotOk s n then s
  else
    let o' := if usesFmt then o else { o with fmt := 3 }
    if matIllegal o' then raiseExc s 1 n 1
    else
      let ms := (groupMes o).getD []
      if ms.any fun m => busy (meOfTile (tileOf s n) m) then raiseExc s 4 n 1 else go ms s

/-- NOP of the matrix slot: no action (R238). -/
def execNop (_tile : Nat) (s : State) : Res := .next s

/-- The buffer a STEP uses: with FLIP the idle one becomes active first (R239). -/
def stepMe (o : MatOp) (e : Me) : Me := if o.flip then { e with act1 := !e.act1 } else e

/-- The parts in which a step of k cycles reads its input: equal parts of the row and of its scales, in order (log entry 43). -/
def stepParts (a row sa sl k : Nat) : List (Nat × Nat × Nat × Nat) :=
  (List.range k).map fun j => (a + j * (row / k), row / k, sa + j * (sl / k), sl / k)

/-- One step on one ME begins (R197). -/
def stepOne (n : Nat) (o : MatOp) (s : State) (m : Nat) : State :=
  let t := tileOf s n
  let e := stepMe o (meOfTile t m)
  let w := activeBuf e
  let k := (stepCycles w.fmt o.fmt).getD 1
  let old := newestAcc t m
  let s := bump (setMe s n m { e with busy := s.str.cycle + k, steps := e.steps + 1 }) .rtMeSteps [n, m, w.fmt, o.fmt]
  readPart s n s.str.cycle
    { what := .step m o.fmt ((List.range 128).map old)
      parts := stepParts (meAddr t o.areg m) (rowBytes o.fmt) (meAddr t (o.areg + 1) m) (if isMx o.fmt then 8 else 0) k }

/-- STEP (R197, R238, R239): the operand pair must be one of Table 7-5; a FLIP before the idle buffer's load has ended is
UNIT_BUSY. -/
def execStep (tile : Nat) (o : MatOp) (s : State) : Res :=
  let t := tileOf s tile
  let bad := ((groupMes o).getD []).any fun m => (stepCycles (activeBuf (stepMe o (meOfTile t m))).fmt o.fmt).isNone
  .next (if slotOk s tile && bad then raiseExc s 1 tile 1
  else matrixOp s tile o true (fun e => decide (s.str.cycle < e.busy) || (o.flip && decide (s.str.cycle < (idleBuf e).ready))) fun ms s =>
    let sl := if isMx o.fmt then 8 else 0
    let ks := ms.map fun m => (stepCycles (activeBuf (stepMe o (meOfTile t m))).fmt o.fmt).getD 1
    let ports := (List.range 4).map fun j =>
      (s.str.cycle + j, ((ks.filter fun k => decide (j < k)).map fun k => (rowBytes o.fmt + sl) / k).sum, 0)
    scrCheck s tile 1 (needs o t ms (rowBytes o.fmt) sl) ports fun s =>
      postInc (ms.foldl (stepOne tile o) s) tile o (rowBytes o.fmt))

/-- The parts in which an LDW reads a tile: 1,024 bytes a cycle, the rows and then the scales (log entry 43). -/
def loadParts (a els sa sl k : Nat) : List (Nat × Nat × Nat × Nat) :=
  (List.range k).map fun j => (a + 1024 * j, min 1024 (els - 1024 * j), sa, if els ≤ 1024 * j then sl else 0)

/-- The load of one ME's idle buffer begins; the buffer is ready when the load ends. -/
def loadOne (n : Nat) (o : MatOp) (s : State) (m : Nat) : State :=
  let t := tileOf s n
  let s := setMe s n m (setIdle (meOfTile t m) { fmt := o.fmt, ready := s.str.cycle + loadCycles o.fmt })
  readPart s n s.str.cycle
    { what := .ldw m
      parts := loadParts (meAddr t o.areg m) (128 * rowBytes o.fmt) (meAddr t (o.areg + 1) m) (if isMx o.fmt then 1024 else 0)
        (loadCycles o.fmt) }

/-- LDW: a 128 × 256 tile into the idle buffer, 1,024 bytes per cycle (R198, R230, R238, R239). -/
def execLdw (tile : Nat) (o : MatOp) (s : State) : Res :=
  .next (matrixOp s tile o true (fun e => decide (s.str.cycle < (idleBuf e).ready)) fun ms s =>
    let t := tileOf s tile
    let els := 128 * rowBytes o.fmt
    let sl := if isMx o.fmt then 1024 else 0
    let ports := (spread s.str.cycle 1024 (els + sl) (loadCycles o.fmt)).map fun p => (p.1, p.2 * ms.length, 0)
    scrCheck s tile 1 (needs o t ms els sl) ports fun s => postInc (ms.foldl (loadOne tile o) s) tile o els)

def meBusy (s : State) (e : Me) : Bool := decide (s.str.cycle < e.busy)

/-- ZACC on one ME: every accumulator +0, readable in the next cycle; what older steps would still deliver is gone. -/
def zaccOne (n : Nat) (s : State) (m : Nat) : State :=
  let t := tileOf s n
  let c := s.str.cycle
  let keep := t.pend.filter fun w => match w with
    | .acc d k _ => k != m || decide (d ≤ c + 1)
    | _ => true
  let s := setTile s n { t with pend := keep ++ [.acc (c + 1) m ((List.range 128).map fun r => (r, 0))] }
  setMe s n m { meOfTile t m with busy := c + 1 }

/-- ZACC (R238). -/
def execZacc (tile : Nat) (o : MatOp) (s : State) : Res :=
  .next (matrixOp s tile o false (meBusy s) fun ms s => ms.foldl (zaccOne tile) s)

/-- STACC on one ME: the 128 accumulators as they read now, written as FP32 (R230, R238). -/
def staccOne (n : Nat) (o : MatOp) (s : State) (m : Nat) : State :=
  let t := tileOf s n
  let bs := (List.range 128).flatMap fun r => leBytes 4 (t.acc.get (m, r) 0).toNat
  setMe (addPend s n (.scr (s.str.cycle + 6) (meAddr t o.areg m) bs)) n m { meOfTile t m with busy := s.str.cycle + 1 }

/-- STACC (R238). -/
def execStacc (tile : Nat) (o : MatOp) (s : State) : Res :=
  .next (matrixOp s tile o false (meBusy s) fun ms s =>
    scrCheck s tile 1 (needs o (tileOf s tile) ms 512 0) (ms.map fun _ => (s.str.cycle, 0, 512)) fun s =>
      postInc (ms.foldl (staccOne tile o) s) tile { o with fmt := 5 } 512)

/-- LDACC on one ME: 128 FP32 words, readable after 8 cycles. -/
def ldaccOne (n : Nat) (o : MatOp) (s : State) (m : Nat) : State :=
  let t := tileOf s n
  let a := meAddr t o.areg m
  let l := (List.range 128).map fun r => (r, BitVec.ofNat 32 (ofLe (scrBytes s n (a + 4 * r) 4)))
  setMe (addPend s n (.acc (s.str.cycle + 8) m l)) n m { meOfTile t m with busy := s.str.cycle + 1 }

/-- LDACC (R238). -/
def execLdacc (tile : Nat) (o : MatOp) (s : State) : Res :=
  .next (matrixOp s tile o false (meBusy s) fun ms s =>
    scrCheck s tile 1 (needs o (tileOf s tile) ms 512 0) (ms.map fun _ => (s.str.cycle, 512, 0)) fun s =>
      postInc (ms.foldl (ldaccOne tile o) s) tile { o with fmt := 5 } 512)

end Sys2Proof.Machine
end

