-- ==== Sys2Proof/Machine/Vector.lean ====
section
/-! DEFINITION. The vector unit of a tile (R199, R230, R240, R241). -/

namespace Sys2Proof.Machine

open Sys2Proof

/-- Bytes of n elements, without scales. -/
def vecBytes (fmt n : Nat) : Nat := if fmt = 0 then 4 * n else if fmt ≤ 2 then 2 * n else if fmt = 6 then n / 2 else n

def vecScales (fmt n : Nat) : Nat := if vecMx fmt then n / 32 else 0

/-- A lane of a register. -/
def laneOf (t : Tile) (r i : Nat) : W32 := TMap.get (t.v.get (r % 16) []) i 0

/-- Reserved fields, a VLEN that no MX block divides, and an odd AREG with an MX format are ILLEGAL (R240, R241). -/
def vecIllegal (t : Tile) (o : VecOp) (mem : Bool) : Bool :=
  mem && (decide (8 ≤ o.fmt ∨ 16 ≤ o.areg) || (vecMx o.fmt && (t.vlen % 32 != 0 || o.areg % 2 == 1)))

/-- A vector op of an in-service tile: ILLEGAL and UNIT_BUSY are checked, then it runs. -/
def vectorOp (s : State) (n : Nat) (o : VecOp) (mem : Bool) (go : State → State) : State :=
  if !slotOk s n then s
  else if vecIllegal (tileOf s n) o mem then raiseExc s 1 n 2
  else if s.str.cycle < (tileOf s n).vBusy then raiseExc s 4 n 2
  else go s

def vecBusyFor (s : State) (n k : Nat) : State :=
  let t := tileOf s n
  setTile s n { t with vBusy := s.str.cycle + k }

/-- Cycles in which bytes move, 32,768 a cycle (Table 8-10). -/
def vecCycles (bytes : Nat) : Nat := (bytes + 32767) / 32768

/-- The ranges a VLD or VST touches. -/
def vecRanges (t : Tile) (o : VecOp) : List (Nat × Nat) :=
  (t.ad.get o.areg 0, vecBytes o.fmt t.vlen) :: (if vecMx o.fmt then [(t.ad.get (o.areg + 1) 0, vecScales o.fmt t.vlen)] else [])

def vecPost (s : State) (n : Nat) (o : VecOp) (by_ sc : Nat) : State :=
  if o.pi then
    let s := adAdvance s n o.areg by_
    if vecMx o.fmt then adAdvance s n (o.areg + 1) sc else s
  else s

/-- VNOP: no action (R240). -/
def execVnop (_tile : Nat) (s : State) : Res := .next s

/-- What a VLD or VST moves in each of its cycles: up to 32,768 bytes, scales among them (Table 8-10). -/
def vecPorts (c n sc : Nat) : List (Nat × Nat) := (spread c 32768 n (vecCycles n)).map fun p => (p.1, min 32768 (p.2 + sc))

/-- The parts of a VLD's elements: 32,768 bytes a cycle. Only a format of one cycle has scales (Table 8-9). -/
def vldParts (a n sa sc : Nat) : List (Nat × Nat × Nat × Nat) :=
  (List.range (vecCycles n)).map fun j => (a + 32768 * j, min 32768 (n - 32768 * j), sa, if j = 0 then sc else 0)

/-- VLD (R230, R240): VLEN elements, readable 4 cycles after the last. -/
def execVld (tile : Nat) (o : VecOp) (s : State) : Res :=
  .next (vectorOp s tile o true fun s =>
    let t := tileOf s tile
    let n := vecBytes o.fmt t.vlen
    let sc := vecScales o.fmt t.vlen
    scrCheck s tile 2 (vecRanges t o) ((vecPorts s.str.cycle n sc).map fun p => (p.1, p.2, 0)) fun s =>
      let s := readPart (vecBusyFor s tile (vecCycles n)) tile s.str.cycle
        { what := .vld (o.vd % 16) o.fmt t.vlen, parts := vldParts (t.ad.get o.areg 0) n (t.ad.get (o.areg + 1) 0) sc }
      vecPost s tile o n sc)

/-- The largest magnitude of a block, as a value; none where a lane is NaN or infinite (R241). -/
def blockMax : List Fp → Option (Nat × Int)
  | [] => some (0, 0)
  | .fin _ m e :: t =>
    match blockMax t with
    | none => none
    | some (m', e') => if fpLt (.fin false m' e') (.fin false m e) then some (m, e) else some (m', e')
  | _ :: _ => none

/-- emax of an MX element format (R241). -/
def mxEmax (fmt : Nat) : Int := if fmt = 5 then 8 else if fmt = 6 then 2 else 15

/-- The scale code of a block (R241); 0xFF where a lane is NaN or infinite. -/
def mxScale (fmt : Nat) (l : List Fp) : Nat :=
  match blockMax l with
  | none => 0xFF
  | some (m, e) => if m = 0 then 0 else min (e + (Nat.log2 m : Int) - mxEmax fmt + 127).toNat 254

/-- An element of a block under its scale: v × 2^(127 − X), to nearest even, saturated to the largest finite value; zero
in a block of scale 0xFF (R241). -/
def mxElem (fmt x : Nat) : Fp → Nat
  | .fin neg m e =>
    if x = 255 then 0
    else
      let p := vecFmt fmt
      fpRound { p with hasInf := false } rneUp neg m (e + 127 - (x : Int))
  | _ => 0

/-- Bytes of MXFP4 elements: element 2i in bits [3:0] of byte i (Table 7-4). -/
def packNibbles : List Nat → List Byte
  | a :: b :: t => BitVec.ofNat 8 (a + 16 * b) :: packNibbles t
  | [a] => [BitVec.ofNat 8 a]
  | [] => []

/-- One block of 32 lanes as MX elements and its scale. -/
def mxBlock (fmt : Nat) (l : List Fp) : List Byte × Nat :=
  let x := mxScale fmt l
  let es := l.map (mxElem fmt x)
  (if fmt = 6 then packNibbles es else es.map (BitVec.ofNat 8), x)

/-- The bytes and scales that a VST writes (R193, R241). -/
def vstBytes (t : Tile) (o : VecOp) : List Byte × List Byte :=
  let lane (i : Nat) : Fp := fpDecode fp32 (laneOf t o.va i).toNat
  if vecMx o.fmt then
    let blocks := (List.range (t.vlen / 32)).map fun k => mxBlock o.fmt ((List.range 32).map fun i => lane (32 * k + i))
    (blocks.flatMap (·.1), blocks.map fun b => BitVec.ofNat 8 b.2)
  else ((List.range t.vlen).flatMap fun i => leBytes (vecBytes o.fmt 1) (fpEncode (vecFmt o.fmt) rneUp (lane i)), [])

/-- Bytes written 32,768 a cycle from the present cycle on; those of a cycle are readable from the sixth after it (R230). -/
def vstWrites (s : State) (n a : Nat) (bs : List Byte) : State :=
  (List.range (vecCycles bs.length)).foldl (fun s j =>
    addPend s n (.scr (s.str.cycle + j + 6) (a + 32768 * j) ((bs.drop (32768 * j)).take 32768))) s

/-- VST (R230, R240, R241): VLEN lanes of VA, as they read now, converted and written. -/
def execVst (tile : Nat) (o : VecOp) (s : State) : Res :=
  .next (vectorOp s tile o true fun s =>
    let t := tileOf s tile
    let n := vecBytes o.fmt t.vlen
    let sc := vecScales o.fmt t.vlen
    scrCheck s tile 2 (vecRanges t o) ((vecPorts s.str.cycle n sc).map fun p => (p.1, 0, p.2)) fun s =>
      let x := vstBytes t o
      let s := vstWrites s tile (t.ad.get o.areg 0) x.1
      let s := if vecMx o.fmt then vstWrites s tile (t.ad.get (o.areg + 1) 0) x.2 else s
      vecPost (vecBusyFor s tile (vecCycles n)) tile o n sc)

/-- A lane-by-lane operation on lanes 0 to VLEN − 1, readable after 6 cycles (Table 8-10). -/
def vecArith (s : State) (n : Nat) (o : VecOp) (f : Nat → Nat → Nat → Nat) : State :=
  vectorOp s n o false fun s =>
    let t := tileOf s n
    let l := (List.range t.vlen).map fun i =>
      (i, BitVec.ofNat 32 (f (laneOf t o.va i).toNat (laneOf t o.vb i).toNat (laneOf t o.vc i).toNat))
    addPend (vecBusyFor s n 1) n (.vreg (s.str.cycle + 6) (o.vd % 16) l)

/-- VFMA: VA × VB + VC with one rounding (R199, R240). -/
def execVfma (tile : Nat) (o : VecOp) (s : State) : Res := .next (vecArith s tile o fun a b c => fpFmaEnc fp32 a b c)

/-- VADD (R240). -/
def execVadd (tile : Nat) (o : VecOp) (s : State) : Res := .next (vecArith s tile o fun a b _ => fpAddEnc fp32 a b)

/-- VMUL (R240). -/
def execVmul (tile : Nat) (o : VecOp) (s : State) : Res := .next (vecArith s tile o fun a b _ => fpMulEnc fp32 a b)

/-- VMAX: +0 is above −0 and a NaN operand gives NaN (R240). -/
def execVmax (tile : Nat) (o : VecOp) (s : State) : Res := .next (vecArith s tile o fun a b _ => fpMaxEnc fp32 a b)

/-- VMIN (R240). -/
def execVmin (tile : Nat) (o : VecOp) (s : State) : Res := .next (vecArith s tile o fun a b _ => fpMinEnc fp32 a b)

/-- VSPLAT: every active lane takes the FP32 word at AD, readable after 4 cycles (R240). -/
def execVsplat (tile : Nat) (o : VecOp) (s : State) : Res :=
  .next (vectorOp s tile { o with fmt := 0 } true fun s =>
    let t := tileOf s tile
    let a := t.ad.get o.areg 0
    scrCheck s tile 2 [(a, 4)] [(s.str.cycle, 4, 0)] fun s =>
      let x := BitVec.ofNat 32 (ofLe (scrBytes s tile a 4))
      let s := addPend s tile (.vreg (s.str.cycle + 4) (o.vd % 16) ((List.range t.vlen).map fun i => (i, x)))
      vecPost (vecBusyFor s tile 1) tile { o with fmt := 0 } 4 0)

/-- VACC: the accumulators of the MEs of the group in VB, 128 lanes each, into the lane block VA; a lane block above 7 is
ILLEGAL. Lanes from VLEN on are left unchanged (R240). -/
def execVacc (tile : Nat) (o : VecOp) (s : State) : Res :=
  .next (if slotOk s tile && decide (8 ≤ o.va) then raiseExc s 1 tile 2
  else vectorOp s tile o false fun s =>
    let t := tileOf s tile
    let ms := if bit o.vb 2 then (List.range 8).map (· + 8 * (o.vb % 4)) else List.range 32
    let l := ms.flatMap fun m => (List.range 128).map fun r => (4096 * o.va + 128 * m + r, t.acc.get (m, r) 0)
    addPend (vecBusyFor s tile 1) tile (.vreg (s.str.cycle + 6) (o.vd % 16) (l.filter fun x => decide (x.1 < t.vlen))))

end Sys2Proof.Machine
end

