-- ==== Sys2Proof/Machine/Mover.lean ====
section
/-! DEFINITION. The mover slot and the sync slot of the chip stream (R220, R229, R242 to R245, R264, R265, R276). -/

namespace Sys2Proof.Machine

open Sys2Proof

/-! Tile registers (R242). -/

/-- MNOP: no action (R242). -/
def execMnop (_tile : Nat) (s : State) : Res := .next s

/-- A register op of an in-service tile: it takes effect in the next cycle. -/
def registerOp (s : State) (n : Nat) (w : PendW) : State := if slotOk s n then addPend s n w else s

/-- SETA: AD = IMM × 32, in its 29 bits (R228, R242). -/
def execSeta (tile reg imm : Nat) (s : State) : Res :=
  .next (registerOp s tile (.areg (s.str.cycle + 1) (reg % 16) (imm % 2 ^ 24 * 32)))

/-- ADDA: AD += sign-extended IMM × 32, modulo 2^29 (R242). -/
def execAdda (tile reg imm : Nat) (s : State) : Res :=
  .next (registerOp s tile (.areg (s.str.cycle + 1) (reg % 16)
    (unsigned (((tileOf s tile).ad.get (reg % 16) 0 : Int) + signed (imm % 2 ^ 24) 24 * 32) 29)))

/-- SETS: STRIDE = sign-extended IMM × 32 (R242). -/
def execSets (tile reg imm : Nat) (s : State) : Res :=
  .next (registerOp s tile (.sreg (s.str.cycle + 1) (reg % 16) (signed (imm % 2 ^ 24) 24 * 32)))

/-- SETL: VLEN = IMM; a value outside 1–32,768 raises ILLEGAL (R242). -/
def execSetl (tile imm : Nat) (s : State) : Res :=
  .next (if slotOk s tile && !decide (1 ≤ imm % 2 ^ 24 ∧ imm % 2 ^ 24 ≤ 32768) then raiseExc s 1 tile 3
  else registerOp s tile (.vlen (s.str.cycle + 1) (imm % 2 ^ 24)))

/-- LDFA: FA and FATTR from 16 bytes at a 16-aligned address, readable after 6 cycles (R242). -/
def execLdfa (tile areg freg : Nat) (s : State) : Res :=
  let a := (tileOf s tile).ad.get (areg % 16) 0
  .next (if !slotOk s tile then s
  else if a % 16 ≠ 0 then raiseExc s 1 tile 3
  else scrCheck s tile 3 [(a, 16)] [(s.str.cycle, 16, 0)] fun s =>
    addPend (addPend s tile (.fa (s.str.cycle + 6) (freg % 16) (BitVec.ofNat 64 (ofLe (scrBytes s tile a 8))))) tile
      (.fattr (s.str.cycle + 6) (freg % 16) (BitVec.ofNat 64 (ofLe (scrBytes s tile (a + 8) 8)))))

/-! Engines (R243, R244). -/

def engOf (s : State) (n e : Nat) : List MovRun := (tileOf s n).eng.get e []
def setEng (s : State) (n e : Nat) (l : List MovRun) : State :=
  let t := tileOf s n
  setTile s n { t with eng := t.eng.set e l }

/-- The pieces of a transfer: up to 4 KiB each, none across a 4 KiB block of the fabric address (R243); as (offset, length). -/
def pieces : Nat → Nat → Nat → Nat → List (Nat × Nat)
  | 0, _, _, _ => []
  | k + 1, fa, off, left =>
    if left = 0 then []
    else
      let n := min left (4096 - (fa + off) % 4096)
      (off, n) :: pieces k fa (off + n) (left - n)

/-- One request of an operation (R243, R245). A PUT sends poison when a word it reads is poisoned (log entry 45). -/
def movReq (s : State) (n : Nat) (m : MovRun) (p : Nat × Nat) : Req :=
  let f := m.fattr.toNat
  let base : Req := { tc := bits f 8 3, capo := s.str.capo, epoch := bits f 32 16, addr := m.fa + BitVec.ofNat 64 p.1, len := p.2 }
  if m.kind = 1 then { base with op := 1 }
  else if m.kind = 2 then
    let k := scrKey n (m.scr + p.1)
    { base with
      op := bits f 0 8
      attr := if opIsRed (bits f 0 8) then bits f 11 4 + 16 * bits f 15 2 else 0
      data := Memory.readN s.scratch k p.2
      poison := (wordsOf k p.2).any fun w => decide (w ∈ s.scrPoison ∨ w ∈ s.scrLatent) }
  else { base with op := 0x10, attr := 1, op0 := 1, len := 8 }

/-- The first operation of an engine starts, if it has not (R244): its requests are issued. -/
def engStart (s : State) (n e : Nat) : State :=
  match engOf s n e with
  | [] => s
  | m :: t =>
    if m.started then s
    else
      let ps := if m.kind = 3 then [(0, 8)] else pieces 66 m.fa.toNat 0 m.bytes
      let s := setEng s n e ({ m with started := true, left := ps.length } :: t)
      ps.foldl (fun s p => kIssue s (movReq s n m p) (.mover n e m.opid (if m.kind = 1 then some (m.scr + p.1) else none))) s

/-- A request of a mover operation has completed (R90, R244): the data of a GET are written; any status but OK raises
MOVER_FAULT, with the status and ERRADDR, of the sync op where it is a SIGNAL's. -/
def moverDone (s : State) (n e opid : Nat) (scr : Option Nat) (c : Cmp) : State :=
  match engOf s n e with
  | [] => s
  | m :: t =>
    if m.opid ≠ opid then s
    else if c.status == .ok then
      let s := match scr with
        | some a => scratchWrite s (scrKey n a) c.data false
        | none => s
      setEng s n e ({ m with left := m.left - 1 } :: t)
    else
      let s := setEng s n e ({ m with left := m.left - 1, fail := m.fail.or (some (c.status, c.errAddr)) } :: t)
      raiseExc s 6 n (if m.kind = 3 then 4 else 3) c.errAddr 0 (statusCode c.status)

/-- An operation waits in its engine's queue; a ninth raises MOVER_QFULL (R244). -/
def engPush (s : State) (n e part : Nat) (m : MovRun) : State :=
  let l := engOf s n e
  if 8 ≤ l.length then raiseExc s 5 n part
  else
    let s := setStr s { s.str with nextOp := s.str.nextOp + 1 }
    engStart (setEng s n e (l ++ [{ m with opid := s.str.nextOp }])) n e

/-- Reserved bits of FATTR; for PUT also an OPCODE outside Table 8-12. -/
def fattrBad (put : Bool) (f : Nat) : Bool :=
  bits f 17 15 != 0 || bits f 48 16 != 0 ||
    (put && !(bits f 0 8 == 2 || bits f 0 8 == 0x20 || bits f 0 8 == 0x21 || bits f 0 8 == 0x28))

/-- GET or PUT (R242 to R244): checked, queued, and both address registers moved on. -/
def transferOp (s : State) (n : Nat) (o : MovOp) (put : Bool) : State :=
  let t := tileOf s n
  let a := t.ad.get (o.areg % 16) 0
  let fa := t.fa.get (o.freg % 16) 0
  let f := t.fattr.get (o.freg % 16) 0
  let len := (if o.len % 4096 = 0 then 4096 else o.len % 4096) * 64
  if !slotOk s n then s
  else if a % 64 ≠ 0 ∨ fa.toNat % 64 ≠ 0 then raiseExc s 1 n 3
  else if fattrBad put f.toNat then raiseExc s 1 n 3
  else
    match outOfScratch s [(a, len)] with
    | some x => raiseExc s 2 n 3 (BitVec.ofNat 64 x)
    | none =>
      if 8 ≤ (engOf s n (o.eng % 16)).length then raiseExc s 5 n 3
      else
        let s := adAdvance s n (o.areg % 16) len
        let s := addPend s n (.fa (s.str.cycle + 1) (o.freg % 16) (fa + BitVec.ofNat 64 len))
        engPush s n (o.eng % 16) 3
          { opid := 0, kind := if put then 2 else 1, ec := o.ec % 16, fa := fa, fattr := f, scr := a, bytes := len }

/-- GET: LEN × 64 bytes at FA into scratch at AD (R242). -/
def execGet (tile : Nat) (o : MovOp) (s : State) : Res := .next (transferOp s tile o false)

/-- PUT: LEN × 64 bytes from AD to FA, with the opcode of FATTR (R242). -/
def execPut (tile : Nat) (o : MovOp) (s : State) : Res := .next (transferOp s tile o true)

/-- An event counter raised; the raise is noted with its cycle (R245). -/
def raiseEc (s : State) (n ec by_ : Nat) : State :=
  let t := tileOf s n
  let r := t.raised.get ec (0, 0)
  let c := nowCycle s
  let k := if r.1 = c then r.2 + by_ else by_
  sampleWaits (setTile s n { t with ec := t.ec.set ec (t.ec.get ec 0 + BitVec.ofNat 64 by_), raised := t.raised.set ec (c, k) })

/-- A SIGNAL whose engine has a failed operation before it is not sent (R245). -/
def dropSignals (s : State) (n e : Nat) : State :=
  if e ∈ (tileOf s n).bad then
    match engOf s n e with
    | m :: t => if m.kind = 3 ∧ !m.started then setEng s n e (t.dropWhile fun m => m.kind == 3) else s
    | [] => s
  else s

/-- MOVER_OP_COMPLETE: every request of an engine's first operation has completed; if all were OK its event counter rises.
The next operation starts (R244). -/
def execMoverOpComplete (tile eng : Nat) (s : State) : Res :=
  .next (match engOf s tile eng with
    | [] => s
    | m :: t =>
      if m.started && m.left == 0 then
        let s := setEng s tile eng t
        let s :=
          if m.fail.isNone then (if m.kind = 3 then s else raiseEc s tile m.ec 1)
          else setTile s tile { tileOf s tile with bad := insertOnce eng (tileOf s tile).bad }
        engStart (dropSignals s tile eng) tile eng
      else s)

/-! The sync slot (R245). -/

/-- SNOP: no action (R245). -/
def execSnop (_tile : Nat) (s : State) : Res := .next s

/-- SIGNAL: queued on its engine; an AADD of 1 follows the engine's earlier operations (R245). -/
def execSignal (tile freg eng : Nat) (s : State) : Res :=
  let t := tileOf s tile
  let fa := t.fa.get (freg % 16) 0
  .next (if !slotOk s tile then s
  else if fattrBad false (t.fattr.get (freg % 16) 0).toNat then raiseExc s 1 tile 4
  else if 8 ≤ (engOf s tile (eng % 16)).length then raiseExc s 5 tile 4
  else if eng % 16 ∈ t.bad ∧ (engOf s tile (eng % 16)).isEmpty then s
  else engPush s tile (eng % 16) 4
    { opid := 0, kind := 3, ec := 0, fa := fa, fattr := t.fattr.get (freg % 16) 0, scr := 0, bytes := 8 })

/-- ECLR: the event counter is cleared before any raise of the same cycle (R245). -/
def execEclr (tile ec : Nat) (s : State) : Res :=
  let t := tileOf s tile
  let r := t.raised.get (ec % 16) (0, 0)
  .next (if slotOk s tile then
    sampleWaits (setTile s tile { t with ec := t.ec.set (ec % 16) (if r.1 = s.str.cycle then BitVec.ofNat 64 r.2 else 0) })
  else s)

/-- The work item of a LAUNCH: that of the op record which the binder placed in this slot (R257, R264); at a slot that holds none, the first
item of the tile (R259). -/
def itemOf (s : State) (t : Nat) : Nat := s.str.items.get (s.str.pc, t) (s.str.tiles.takeWhile (· != t)).length

/-- LAUNCH: a handler joins the tile's launch queue; a full queue raises HANDLER_FAULT (R245, R265). A handler that the table
does not hold is ILLEGAL. -/
def execLaunch (tile h ec : Nat) (s : State) : Res :=
  let t := tileOf s tile
  .next (if !slotOk s tile then s
  else if (TMap.find s.str.handlers (h % 256)).isNone then raiseExc s 1 tile 4
  else if 8 ≤ t.launchQ.length then raiseExc s 0x0B tile 4 0 (h % 256)
  else setTile s tile { t with launchQ := t.launchQ ++ [{ h := h % 256, ec := ec % 16, item := itemOf s tile }] })

/-- Reserved bits and values of a window descriptor (Table 8-14). -/
def winFormOk (e : Nat) : Bool :=
  let d := winDescOf e
  bits e 13 3 == 0 && bits e 62 2 == 0 && bits e 110 2 == 0 && bits e 124 4 == 0 && bits e 169 23 == 0 && bits e 212 12 == 0
    && bits e 240 16 == 0 && bits e 298 22 == 0 && bits e 384 128 == 0 && decide (d.fmt ≤ 6 ∨ d.fmt = 15) && decide (d.rop ≤ 2)
    && decide (d.mode ≤ 2) && decide (1 ≤ d.e ∧ d.e ≤ 2 ^ 40)

/-- Reserved bits of a shard descriptor (Table 8-15). -/
def shardFormOk (e : Nat) : Bool := bits e 12 4 == 0 && bits e 62 2 == 0 && bits e 89 7 == 0 && bits e 122 134 == 0

/-- The entries of accepted commits for a table: they count as declared (R276). -/
def pendingEntries (s : State) (t : Nat) : List Nat :=
  s.prog.commits.flatMap fun p => (p.entries.filter fun e => e.1.1 == t && !tblRemoves t e.2).map (·.2)

/-- The windows with those of accepted commits (R276). -/
def withPending (s : State) : State :=
  (pendingEntries s 0x0D).foldl (fun s e =>
    let d := winDescOf e
    if (winOf s d.wid).isNone then setWin s (newWindow s d) else s) s

/-- A declaration or removal op: once in a bundle, its descriptor read from scratch; malformed fields are ILLEGAL. -/
def declOp (s : State) (n sop areg len : Nat) (ok : Nat → Bool) (go : Nat → State → State) : State :=
  let a := (tileOf s n).ad.get (areg % 16) 0
  if !slotOk s n then s
  else if s.str.declSeen.any fun x => x.1 == sop then raiseExc s 1 n 4
  else scrCheck (setStr s { s.str with declSeen := s.str.declSeen ++ [(sop, n)] }) n 4 [(a, len)] [(s.str.cycle, len, 0)] fun s =>
    let e := ofLe (scrBytes s n a len)
    if ok e then go e s else raiseExc s 1 n 4

/-- A declaration or removal under way, until both members hold it (R245). -/
def declWait (s : State) (d : Decl) : State := { s with decls := s.decls ++ [{ d with id := s.nextDecl }], nextDecl := s.nextDecl + 1 }

/-- WDECL: the window at AD is declared for the stream's capo with the stream's seed, or refused (R203, R245, R276). -/
def execWdecl (tile areg ec : Nat) (s : State) : Res :=
  .next (declOp s tile 4 areg 64 winFormOk fun e s =>
    let d := { winDescOf e with capo := s.str.capo, seed := s.str.seed }
    match winRefusal (withPending s) (newWindow s d) with
    | some k => raiseExc s 0x0A tile 4 0 k
    | none => declWait (declareWin s d) { id := 0, tile := tile, ec := ec % 16, win := some d })

/-- WREM: the window named at AD is removed; one ACTIVE, FINALISING or not declared is refused (R245). -/
def execWrem (tile areg ec : Nat) (s : State) : Res :=
  .next (declOp s tile 5 areg 8 (fun _ => true) fun e s =>
    if removable s (e % 8192) s.str.capo then
      declWait (removeWin s (e % 8192)) { id := 0, tile := tile, ec := ec % 16, remWin := some (e % 8192) }
    else raiseExc s 0x0A tile 4)

/-- SHDECL: the shard at AD is declared for the stream's capo and this member; one whose pages the member does not own is
refused with DETAIL 1 (R220, R245). -/
def execShdecl (tile areg ec : Nat) (s : State) : Res :=
  .next (declOp s tile 6 areg 32 shardFormOk fun e s =>
    let d := { shardDescOf e with capo := s.str.capo, memberB := (site s).memberB }
    if shardOwned d then declWait (declareShard s d) { id := 0, tile := tile, ec := ec % 16, shard := some d }
    else raiseExc s 0x0A tile 4 0 1)

/-- SHREM: the shard named at AD is removed (R245). -/
def execShrem (tile areg ec : Nat) (s : State) : Res :=
  .next (declOp s tile 7 areg 8 (fun _ => true) fun e s =>
    declWait (removeShard s (e % 4096) s.str.capo) { id := 0, tile := tile, ec := ec % 16, remShard := some (e % 4096) })

/-- DECLARATION_COMPLETE: both members hold it; the event counter of its tile rises (R245). -/
def execDeclarationComplete (id : Nat) (s : State) : Res :=
  .next (match s.decls.find? fun d => d.id == id with
    | none => s
    | some d =>
      if bothHold s d then raiseEc { s with decls := dropFirst (fun d => d.id == id) s.decls } d.tile d.ec 1 else s)

end Sys2Proof.Machine
end

