-- ==== Sys2Proof/Machine/SmallCore.lean ====
section
/-! DEFINITION. Small-core handlers (R264 to R268). -/

namespace Sys2Proof.Machine

open Sys2Proof

def coreOf (s : State) (t c : Nat) : Core := (tileOf s t).cores.get c {}
def setCore (s : State) (t c : Nat) (x : Core) : State :=
  let y := tileOf s t
  setTile s t { y with cores := y.cores.set c x }

/-- A register; x0 reads zero (R266). -/
def xreg (x : Core) (r : Nat) : W64 := if r % 32 = 0 then 0 else x.xs.get (r % 32) 0

/-- A register written; a write of x0 is ignored (R266). -/
def setX (x : Core) (r : Nat) (v : W64) : Core := if r % 32 = 0 then x else { x with xs := x.xs.set (r % 32) v }

/-- Bytes of local store. -/
def localSize : Nat := 0x40000

/-- A byte of core c's local store in its tile's scratch (Table 7-2). -/
def localKey (t c a : Nat) : Nat := scrKey t (0x1C000000 + c % 256 * localSize + a)

def handlerOf (s : State) (h : Nat) : Handler := s.str.handlers.get h {}

/-- HANDLER_FAULT with the handler in DETAIL (R268). -/
def handlerFault (s : State) (t h : Nat) : State := raiseExc s 0x0B t 7 0 h

/-- One instruction of a core that runs: its cycle is counted and its effect applied; the default next PC is the next word. A
PC beyond local store faults. -/
def coreStep (s : State) (t c : Nat) (f : State → Core → State) : State :=
  let x := coreOf s t c
  match x.running with
  | none => s
  | some h =>
    if x.waiting || decide ((handlerOf s h).maxcyc ≤ x.cycles) then s
    else if localSize < x.pc + 4 then handlerFault s t h
    else f s { x with cycles := x.cycles + 1, pc := x.pc + 4 }

/-- An instruction that writes RD. -/
def coreSet (s : State) (t c rd : Nat) (f : Core → W64) : State := coreStep s t c fun s x => setCore s t c (setX x rd (f x))

/-- ADD (R266). -/
def execAdd (t c rd ra rb : Nat) (s : State) : Res := .next (coreSet s t c rd fun x => xreg x ra + xreg x rb)
/-- SUB (R266). -/
def execSub (t c rd ra rb : Nat) (s : State) : Res := .next (coreSet s t c rd fun x => xreg x ra - xreg x rb)
/-- AND (R266). -/
def execAnd (t c rd ra rb : Nat) (s : State) : Res := .next (coreSet s t c rd fun x => xreg x ra &&& xreg x rb)
/-- OR (R266). -/
def execOr (t c rd ra rb : Nat) (s : State) : Res := .next (coreSet s t c rd fun x => xreg x ra ||| xreg x rb)
/-- XOR (R266). -/
def execXor (t c rd ra rb : Nat) (s : State) : Res := .next (coreSet s t c rd fun x => xreg x ra ^^^ xreg x rb)

/-- The shift amount: RB[5:0] (R266). -/
def shamt (x : Core) (rb : Nat) : Nat := (xreg x rb).toNat % 64

/-- SHL (R266). -/
def execShl (t c rd ra rb : Nat) (s : State) : Res := .next (coreSet s t c rd fun x => xreg x ra <<< shamt x rb)
/-- SHR (R266). -/
def execShr (t c rd ra rb : Nat) (s : State) : Res := .next (coreSet s t c rd fun x => xreg x ra >>> shamt x rb)
/-- SRA (R266). -/
def execSra (t c rd ra rb : Nat) (s : State) : Res := .next (coreSet s t c rd fun x => (xreg x ra).sshiftRight (shamt x rb))
/-- MUL, modulo 2^64 (R266). -/
def execMul (t c rd ra rb : Nat) (s : State) : Res := .next (coreSet s t c rd fun x => xreg x ra * xreg x rb)
/-- ADDI: RA + IMM16, signed (R266). -/
def execAddi (t c rd ra : Nat) (imm : BitVec 16) (s : State) : Res :=
  .next (coreSet s t c rd fun x => xreg x ra + imm.signExtend 64)
/-- LUI: IMM16 << 16 (R266). -/
def execLui (t c rd : Nat) (imm : BitVec 16) (s : State) : Res := .next (coreSet s t c rd fun _ => imm.signExtend 64 <<< 16)

/-- Width and local-store address of an LD or ST: IMM11 bits [1:0] give the width and are cleared (R266). -/
def lsWidth (imm : BitVec 11) : Nat := 2 ^ (imm.toNat % 4)
def lsAddr (x : Core) (ra : Nat) (imm : BitVec 11) : Nat := (xreg x ra + (imm &&& 0x7FC).signExtend 64).toNat

/-- An access within local store and aligned to its width; a misaligned one is taken as HANDLER_FAULT too (log entry 46). -/
def lsOk (a n : Nat) : Bool := decide (a + n ≤ localSize ∧ a % n = 0)

/-- LD of a small core, zero-extended (R266, R268). -/
def execScLd (t c rd ra : Nat) (imm : BitVec 11) (s : State) : Res :=
  .next (coreStep s t c fun s x =>
    let a := lsAddr x ra imm
    let n := lsWidth imm
    if lsOk a n then setCore s t c (setX x rd (BitVec.ofNat 64 (Memory.readLe s.scratch (localKey t c a) n)))
    else handlerFault s t (x.running.getD 0))

/-- ST of a small core (R266, R268). -/
def execScSt (t c rd ra : Nat) (imm : BitVec 11) (s : State) : Res :=
  .next (coreStep s t c fun s x =>
    let a := lsAddr x ra imm
    let n := lsWidth imm
    if lsOk a n then setCore (scratchWrite s (localKey t c a) (leBytes n (xreg x rd).toNat) false) t c x
    else handlerFault s t (x.running.getD 0))

/-- A program counter moved by a signed number of words. -/
def pcPlus (pc : Nat) (d : Int) : Nat := unsigned ((pc : Int) + d * 4) 64

/-- A branch: taken, PC += IMM11 × 4 from the branch's own address (R266). -/
def branchIf (s : State) (t c rd ra : Nat) (imm : BitVec 11) (f : W64 → W64 → Bool) : State :=
  coreStep s t c fun s x =>
    setCore s t c (if f (xreg x rd) (xreg x ra) then { x with pc := pcPlus (x.pc - 4) imm.toInt } else x)

/-- BEQ (R266). -/
def execBeq (t c rd ra : Nat) (imm : BitVec 11) (s : State) : Res := .next (branchIf s t c rd ra imm fun a b => a == b)
/-- BNE (R266). -/
def execBne (t c rd ra : Nat) (imm : BitVec 11) (s : State) : Res := .next (branchIf s t c rd ra imm fun a b => a != b)
/-- BLT, signed (R266). -/
def execBlt (t c rd ra : Nat) (imm : BitVec 11) (s : State) : Res := .next (branchIf s t c rd ra imm fun a b => a.slt b)
/-- BGE, signed (R266). -/
def execBge (t c rd ra : Nat) (imm : BitVec 11) (s : State) : Res := .next (branchIf s t c rd ra imm fun a b => !a.slt b)
/-- JMP: PC = RA + IMM16 × 4 (R266). -/
def execJmp (t c ra : Nat) (imm : BitVec 16) (s : State) : Res :=
  .next (coreStep s t c fun s x => setCore s t c { x with pc := pcPlus (xreg x ra).toNat imm.toInt })

/-- The value of the low bits of a register in a format: the codes of Table 7-3, FP4 E2M1 7, E8M0 8 (R266). -/
def cvtIn (f : Nat) (v : W64) : Fp :=
  let n := v.toNat
  let int (x : Int) : Fp := .fin (decide (x < 0)) x.natAbs 0
  match f with
  | 0 => fpDecode fp32 (n % 2 ^ 32)
  | 1 => fpDecode bf16 (n % 2 ^ 16)
  | 2 => fpDecode fp16 (n % 2 ^ 16)
  | 3 => fpDecode e4m3 (n % 2 ^ 8)
  | 4 => fpDecode e5m2 (n % 2 ^ 8)
  | 5 => int (signed n 32)
  | 6 => int (signed n 64)
  | 7 => fpDecode e2m1 (n % 16)
  | _ => e8m0Decode n

/-- The integer a value is, if it is one and fits the width. -/
def fpInteger (w : Nat) : Fp → Option Int
  | .fin neg m e =>
    let q := if 0 ≤ e then m * 2 ^ e.toNat else m / 2 ^ (-e).toNat
    let exact := decide (0 ≤ e) || m % 2 ^ (-e).toNat == 0
    let x : Int := if neg then -(q : Int) else q
    if exact && decide (-(2 ^ (w - 1) : Nat) ≤ x) && decide (x < (2 ^ (w - 1) : Nat)) then some x else none
  | _ => none

/-- A value in a format; none where R193 states no result: an integer format and a value that is no integer of its range, or a
code the table does not list (log entry 47). -/
def cvtOut (f : Nat) (v : Fp) : Option Nat :=
  match f with
  | 0 => some (fpEncode fp32 rneUp v)
  | 1 => some (fpEncode bf16 rneUp v)
  | 2 => some (fpEncode fp16 rneUp v)
  | 3 => some (fpEncode e4m3 rneUp v)
  | 4 => some (fpEncode e5m2 rneUp v)
  | 5 => (fpInteger 32 v).map fun x => unsigned x 32
  | 6 => (fpInteger 64 v).map fun x => unsigned x 64
  | 7 => some (fpEncode e2m1 rneUp v)
  | 8 => some (e8m0Encode v)
  | _ => none

/-- CVT (R193, R266); a result the manual does not state is a free value. -/
def execCvt (t c rd ra : Nat) (fr toFmt : Nat) (s : State) : Res :=
  .next (coreStep s t c fun s x =>
    match (if fr % 16 ≤ 8 then cvtOut (toFmt % 16) (cvtIn (fr % 16) (xreg x ra)) else none) with
    | some n => setCore s t c (setX x rd (BitVec.ofNat 64 n))
    | none => setCore { s with free := s.free + 1 } t c (setX x rd (Config.freeBits s.free)))

/-! Transfers (R267). -/

/-- A transfer of RB bytes between general scratch and local store starts; it must lie in both, and its length must be one
R266 allows (log entry 46). -/
def coreXfer (s : State) (t c : Nat) (out : Bool) (dst src len : Core → Nat) : State :=
  coreStep s t c fun s x =>
    let n := len x
    let loc := if out then src x else dst x
    let scr := if out then dst x else src x
    if decide (n ≤ 4096 ∧ n % 8 = 0 ∧ loc + n ≤ localSize ∧ scr + n ≤ scrTop s) then
      setCore s t c { x with xfers := x.xfers ++ [(out, dst x, src x, n)] }
    else handlerFault s t (x.running.getD 0)

/-- SCIN: RB bytes from general scratch at RA to local store at RD (R266). -/
def execScin (t c rd ra rb : Nat) (s : State) : Res :=
  .next (coreXfer s t c false (fun x => (xreg x rd).toNat) (fun x => (xreg x ra).toNat) (fun x => (xreg x rb).toNat))

/-- SCOUT: RB bytes from local store at RA to general scratch at RD (R266). -/
def execScout (t c rd ra rb : Nat) (s : State) : Res :=
  .next (coreXfer s t c true (fun x => (xreg x rd).toNat) (fun x => (xreg x ra).toNat) (fun x => (xreg x rb).toNat))

/-- SCWAIT: waits until the core's transfers have ended (R266). -/
def execScwait (t c : Nat) (s : State) : Res :=
  .next (coreStep s t c fun s x => setCore s t c { x with waiting := !x.xfers.isEmpty })

/-- SC_TRANSFER_END: a core's oldest transfer has moved its bytes; with the last one a waiting core goes on (R266, R267). -/
def execScTransferEnd (t c : Nat) (s : State) : Res :=
  let x := coreOf s t c
  .next (match x.xfers with
    | [] => s
    | (out, dst, src, n) :: r =>
      let fr := if out then localKey t c src else scrKey t src
      let to_ := if out then scrKey t dst else localKey t c dst
      setCore (scratchWrite s to_ (Memory.readN s.scratch fr n) false) t c { x with xfers := r, waiting := x.waiting && !r.isEmpty })

/-- HALT of a small core: the handler ends on this core (R266). -/
def execScHalt (t c : Nat) (s : State) : Res := .next (coreStep s t c fun s x => setCore s t c { x with running := none })

/-- FAULT, and every reserved instruction: HANDLER_FAULT (R266, R268). -/
def execScFault (t c : Nat) (s : State) : Res := .next (coreStep s t c fun s x => handlerFault s t (x.running.getD 0))

/-! Handlers (R264, R265). -/

/-- The cores of a handler's range. -/
def handlerCores (h : Handler) : List Nat := (List.range (h.count + 1)).map (· + h.first)

def coreFree (s : State) (t c : Nat) : Bool := (coreOf s t c).running.isNone && (coreOf s t c).xfers.isEmpty

/-- A handler starts on a core: PC at ENTRY, x1 to x4 as R264 gives them, everything else zero. -/
def startCore (t h : Nat) (e : Handler) (item : Nat) (s : State) (c : Nat) : State :=
  setCore s t c
    { xs := [(1, BitVec.ofNat 64 (c - e.first)), (2, BitVec.ofNat 64 item), (3, e.param), (4, s.str.seed)]
      pc := e.entry, cycles := 0, running := some h, waiting := false, xfers := [] }

/-- HANDLER_START: the first handler of a tile's launch queue starts once every core of its range is free (R264, R265). -/
def execHandlerStart (tile : Nat) (s : State) : Res :=
  let t := tileOf s tile
  .next (match t.launchQ with
    | [] => s
    | l :: r =>
      let e := handlerOf s l.h
      if (handlerCores e).all (coreFree s tile) then
        (handlerCores e).foldl (startCore tile l.h e l.item) (setTile s tile { t with launchQ := r, handlers := t.handlers ++ [l] })
      else s)

/-- HANDLER_END: each core of a handler has executed HALT; its event counter rises (R265). -/
def execHandlerEnd (tile h : Nat) (s : State) : Res :=
  let t := tileOf s tile
  .next (match t.handlers.find? fun l => l.h == h with
    | none => s
    | some l =>
      if (handlerCores (handlerOf s h)).all (coreFree s tile) then
        raiseEc (setTile s tile { t with handlers := dropFirst (fun l => l.h == h) t.handlers }) tile l.ec 1
      else s)

/-- HANDLER_MAXCYC: a core that reaches MAXCYC raises HANDLER_FAULT (R268). -/
def execHandlerMaxcyc (tile core : Nat) (s : State) : Res :=
  .next (match (coreOf s tile core).running with
    | none => s
    | some h => if (handlerOf s h).maxcyc ≤ (coreOf s tile core).cycles then handlerFault s tile h else s)

end Sys2Proof.Machine
end

