-- ==== Sys2Proof/Machine/FuseCells.lean ====
section
/-! DEFINITION. The fuse arrays: cell pairs, records and their copies, and how a record is read (R454 to R462). -/

namespace Sys2Proof.Machine

open Sys2Proof

/-! Cell pairs (R454, R455). -/

/-- The reading of a cell pair from its true and its complement cell, Table 17-1. -/
def pairOf (t c : Bool) : CellPair :=
  if t then (if c then .invalid else .one) else if c then .zero else .unprogrammed

/-- The cells of word w of a copy: true cells and complement cells; words that nothing has programmed have none. -/
def wordCells (cells : List (W64 × W64)) (w : Nat) : W64 × W64 := cells.getD w (0, 0)

/-- The pair of bit i of word w of a copy. -/
def pairAt (cells : List (W64 × W64)) (w i : Nat) : CellPair :=
  pairOf ((wordCells cells w).1.getLsbD i) ((wordCells cells w).2.getLsbD i)

/-- The cells that programming gives the words of a record: a 1 has its true cell programmed, a 0 its complement cell. -/
def cellsOf (ws : List W64) : List (W64 × W64) := ws.map fun w => (w, ~~~w)

/-- Every pair of n words satisfies a test. -/
def allPairs (p : CellPair → Bool) (cells : List (W64 × W64)) (n : Nat) : Bool :=
  (List.range n).all fun w => (List.range 64).all fun i => p (pairAt cells w i)

/-! Records (R456). -/

/-- The words of a record: its header and its payload. -/
def recWords (r : FuseRec) : Nat := 1 + r.words.length

/-- Bits [31:0] of a header word (Table 17-2). -/
def hdrLow (r : FuseRec) : Nat := r.ty % 2 ^ 8 + r.site % 2 ^ 5 * 2 ^ 8 + r.gen % 2 ^ 8 * 2 ^ 13 + r.words.length % 2 ^ 6 * 2 ^ 21

/-- The CRC of a record: over bits [31:0] of its header and then its payload words. -/
def fuseCrc (low : Nat) (ws : List W64) : Nat := (crc32c (leBytes 4 low ++ ws.flatMap fun w => leBytes 8 w.toNat)).toNat

/-- A record as it is programmed, word by word. -/
def recordWords (r : FuseRec) : List W64 := BitVec.ofNat 64 (hdrLow r + fuseCrc (hdrLow r) r.words * 2 ^ 32) :: r.words

/-- What the words of a copy say: the record of their header, if the CRC passes. -/
def recordOf : List W64 → Option FuseRec
  | [] => none
  | h :: ws =>
    if wbits h 32 32 = fuseCrc (wbits h 0 32) ws then
      some { ty := wbits h 0 8, site := wbits h 8 5, gen := wbits h 13 8, words := ws }
    else none

/-- The cells of copy i of a record, 2 × MC + copy. -/
def copyCells (r : FuseRec) (i : Nat) : List (W64 × W64) := r.copies.getD i []

/-- How copy i reads apart from sense faults (R460, R462). -/
def cellsRead (r : FuseRec) (i : Nat) : CopyRead :=
  let cells := copyCells r i
  let n := recWords r
  if allPairs (· == .unprogrammed) cells n then .blank
  else if allPairs (fun p => p == .one || p == .zero) cells n && (recordOf ((List.range n).map fun w => (wordCells cells w).1)).isSome then .good
  else .bad

/-! Reading a record (R459, R460). -/

/-- The records with the word at which each begins: one after another from word 0 (R456). -/
def recsAt : Nat → List FuseRec → List (Nat × FuseRec)
  | _, [] => []
  | w, r :: t => (w, r) :: recsAt (w + recWords r) t

/-- The column of bit i of word w in a copy (R454). -/
def columnOf (copy1 : Bool) (w i : Nat) : Nat := 64 * (w % 64) + i + 4096 * ofB copy1

/-- Whether a copy of n words from word w has a bit in a sense-faulty column (R454, R459): word w lies in columns
64 × (w mod 64) to + 63 of copy 0, and 4,096 columns higher in copy 1. -/
def touchesSense (cols : List (Bool × Nat)) (mc1 copy1 : Bool) (w n : Nat) : Bool :=
  cols.any fun c => c.1 == mc1 && decide (c.2 / 4096 = ofB copy1) && (List.range n).any fun i => (w + i) % 64 == c.2 % 4096 / 64

/-- The copies in the order that the MC tries them: own 0 and 1, the other MC's 0 and 1 (R460). -/
def copyOrder (s : State) : List (Bool × Bool) :=
  let a := s.mc.active1
  [(a, false), (a, true), (!a, false), (!a, true)]

/-- What reading a record gives: whether a copy was skipped for a sense fault, whether one for another reason, and the first valid copy
(R460). -/
def readCopies (s : State) (w : Nat) (r : FuseRec) : List (Bool × Bool) → Bool × Bool × Option Nat
  | [] => (false, false, none)
  | c :: t =>
    let x := readCopies s w r t
    let i := 2 * ofB c.1 + ofB c.2
    if touchesSense s.fuse.senseCols c.1 c.2 w (recWords r) then (true, x.2.1, x.2.2)
    else if cellsRead r i = .good then (false, false, some i)
    else (x.1, true, x.2.2)

def readRec (s : State) (w : Nat) (r : FuseRec) : Bool × Bool × Option Nat := readCopies s w r (copyOrder s)
def recValid (s : State) (x : Nat × FuseRec) : Bool := (readRec s x.1 x.2).2.2.isSome

/-- A record as its valid copy gives it. -/
def recRead (s : State) (x : Nat × FuseRec) : Option FuseRec :=
  (readRec s x.1 x.2).2.2.bind fun i => recordOf ((copyCells x.2 i).map (·.1))

/-! Programming (R458, R462). -/

/-- A copy of a record, numbered 2 × MC + copy, can be programmed: its MC is in service (R458). -/
def copyReach (s : State) (i : Nat) : Bool := pdIsOn s (30 + i / 2)

/-- A record that is valid in some copy is programmed into the copies that are not, but in the array of an MC that is out of service:
it has its turn when that MC returns (R458, R462). -/
def completeRec (s : State) (r : FuseRec) (ws : List W64) : FuseRec :=
  { r with copies := (List.range 4).map fun i => if cellsRead r i = .blank && copyReach s i then cellsOf ws else copyCells r i }

/-- Every record completed so. -/
def completeRecs (s : State) : List FuseRec :=
  (recsAt 0 s.fuse.recs).map fun x => match recRead s x with
    | some r => completeRec s x.2 (recordWords r)
    | none => x.2

/-- What the four copies hold after programming: the record's cells, but for the words that `odd` names by copy and word. -/
def programmed (s : State) (r : FuseRec) (odd : List (Nat × Nat × W64 × W64)) : FuseRec :=
  { r with copies := (List.range 4).map fun i =>
      if copyReach s i then
        (cellsOf (recordWords r)).mapIdx fun w c => match odd.find? fun o => o.1 == i && o.2.1 == w with
          | some o => o.2.2
          | none => c
      else [] }

/-- Copy i of the record that begins at word w is verified by reading back; sense-faulty columns are skipped (R458). -/
def copyVerified (s : State) (w : Nat) (r : FuseRec) (i : Nat) : Bool :=
  let want := cellsOf (recordWords r)
  copyReach s i && (List.range (recWords r)).all fun k => (List.range 64).all fun j =>
    decide ((decide (2 ≤ i), columnOf (i % 2 == 1) (w + k) j) ∈ s.fuse.senseCols) || pairAt (copyCells r i) k j == pairAt want k j

/-- A record that begins at word w is in effect once one copy is verified (R458). -/
def anyVerified (s : State) (w : Nat) (r : FuseRec) : Bool := (List.range 4).any (copyVerified s w r)

/-- The word at which the next record begins. -/
def nextWord (l : List FuseRec) : Nat := (l.map recWords).sum

end Sys2Proof.Machine
end

