-- ==== Sys2Proof/Machine/MemoryTiers.lean ====
section
/-! DEFINITION. Backings of switch-resident memory: scrubbing, a backing that goes out of reach and returns, CXL devices
(R310, R312, R317, R318, R322, R323). -/

namespace Sys2Proof.Machine

open Sys2Proof

/-- The target of CXL port p. -/
def cxlTarget (p : Nat) : Nat := 10 + p

/-- Whether a physical page is marked for scrub and not yet zeroed (R312): the start-up scrub zeroes ascending pages. -/
def underScrub (s : State) (t p : Nat) : Bool := decide (s.mem.scrubAt.get t 0 ≤ p ∨ (t, p) ∈ s.mem.scrubMarks)

/-- A page zeroed, without poison (R312). -/
def zeroPage (s : State) (t p : Nat) : State :=
  let k := physKey t p 0
  { s with mem := { s.mem with
      phys := Memory.zero s.mem.phys k 4096
      poison := clearWords s.mem.poison (wordsOf k 4096)
      latent := clearWords s.mem.latent (wordsOf k 4096) } }

/-- Physical page spans of a region: per target, the first page and the count (R309). -/
def regionSpans (g : Region) : List (Nat × Nat × Nat) :=
  let q := if g.mir then g.npages else g.npages / 2
  let s := popBelow g.place 8
  ((List.range 8).filter (bit g.place)).map fun n => (tierBase g.tier + n, g.pbase, (q + s - 1) / max s 1)

/-- Whether a region in force places on a physical page. -/
def pagePlaced (s : State) (t p : Nat) : Bool :=
  (regions s.prog.eff).any fun g => (regionSpans g).any fun x => x.1 == t && decide (x.2.1 ≤ p ∧ p < x.2.1 + x.2.2)

/-- PAGE_SCRUB: the next page of a target's scrub, or a page of a removed region, is zeroed (R312). The scrub passes a page on which a
region in force places: such a page has returned with its copy or its poison (R317, R318, log entry 141). -/
def execPageScrub (target page : Nat) (s : State) : Res :=
  .next (if (target, page) ∈ s.mem.scrubMarks then
    let s := zeroPage s target page
    { s with mem := { s.mem with scrubMarks := s.mem.scrubMarks.filter (· != (target, page)) } }
  else if page = s.mem.scrubAt.get target 0 ∧ page < targetPages s target then
    let s := if pagePlaced s target page then s else zeroPage s target page
    { s with mem := { s.mem with scrubAt := s.mem.scrubAt.set target (page + 1) } }
  else s)

/-- A backing goes out of reach (R318). -/
def backingOut (s : State) (t : Nat) : State := { s with mem := { s.mem with backOut := insertOnce t s.mem.backOut } }

/-- The copies of a region that lie on a target, of this member: its own pages' own copies, its twin's pages' mirror copies. -/
def copiesOn (s : State) (t : Nat) : List (Nat × Nat) :=
  ((regions s.prog.eff).filter (·.mir)).flatMap fun g =>
    (regionPlaces g true ++ regionPlaces g false).filter fun x => x.1 == t

/-- The pages of unmirrored regions that lie on a target. -/
def bareOn (s : State) (t : Nat) : List (Nat × Nat) :=
  ((regions s.prog.eff).filter fun g => !g.mir).flatMap fun g => (regionPlaces g true).filter fun x => x.1 == t

/-- A target in service again: every page of a mirrored region on it waits for its copy from the twin, and every word of an
unmirrored region's pages is poisoned (R317, R318). Without a twin only the pages that missed a write wait. -/
def backingBack (s : State) (t : Nat) : State :=
  if t ∈ s.mem.backOut then
    let stale := if s.course.twinUp then copiesOn s t else []
    let words := (bareOn s t).flatMap fun x => wordsOf (physKey x.1 x.2 0) 4096
    { s with mem := { s.mem with
        backOut := s.mem.backOut.filter (· != t)
        missed := stale.foldl (fun l x => insertOnce x l) s.mem.missed
        poison := markWords s.mem.poison words } }
  else s

/-- BACKING_RETURN (R317, R318). -/
def execBackingReturn (target : Nat) (s : State) : Res := .next (backingBack s target)

/-- Pages of the CXL devices below a port, and the most that a member places: 4 TB (R322). -/
def cxlBelow (s : State) (port : Nat) : Nat := ((List.range port).map fun p => s.mem.pages.get (cxlTarget p) 0).sum
def cxlMost : Nat := 4000000000000 / 4096

/-- What is never placed is counted from the highest-numbered port downward: the ports above one give way (R322). -/
def cxlClip (s : State) (port : Nat) : State :=
  ((List.range 8).filter fun p => decide (port < p)).foldl (fun s p =>
    { s with mem := { s.mem with pages := s.mem.pages.set (cxlTarget p) (min (s.mem.pages.get (cxlTarget p) 0) (cxlMost - cxlBelow s p)) } }) s

/-- CXL_ENUMERATE: a supported device on a CXL port is enumerated, up to the member's 4 TB, and its pages are marked for scrub;
an unsupported one is refused and written to the scroll (R312, R322). A device whose copies were out of reach has returned (R318). -/
def execCxlEnumerate (port gb : Nat) (supported : Bool) (s : State) : Res :=
  .next (if 8 ≤ port ∨ !portIsCxl s.prog.eff port then s
  else if !supported then scroll s 5 .cxlRefused (siteHX (port / 4)) [port]
  else
    let n := min (gb * 1000000000 / 4096) (cxlMost - cxlBelow s port)
    let s := backingBack s (cxlTarget port)
    cxlClip { s with
      pwr := { s.pwr with portTrain := s.pwr.portTrain.filter (· != port) }
      mem := { s.mem with pages := s.mem.pages.set (cxlTarget port) n, scrubAt := s.mem.scrubAt.set (cxlTarget port) 0 } } port)

/-- A CXL port goes down: its copies fall out of reach (R318, R323). -/
def cxlDown (s : State) (port : Nat) : State := scroll (backingOut s (cxlTarget port)) 5 .cxlDown (siteHX (port / 4)) [port]

/-- CXL_LINK_DOWN (R323). -/
def execCxlLinkDown (port : Nat) (s : State) : Res :=
  .next (if port < 8 ∧ portIsCxl s.prog.eff port then cxlDown s port else s)

end Sys2Proof.Machine
end

