-- ==== Sys2Proof/Machine/Power.lean ====
section
/-! DEFINITION. Power domains, die-to-die links, supply pins and resets (R36 to R42, R190, R218, R260, R407 to R409, R539 to
R543). -/

namespace Sys2Proof.Machine

open Sys2Proof

/-! Requirements (Table 1-7). -/

/-- Whether what a domain requires is on. An SX needs its own HX, or the other through a peer SX link; an MC needs VAON, which is absent
while AON runs on the cell (R38). -/
def pdMet (s : State) (n : Nat) : Bool :=
  let on := pdIsOn s
  if n < 4 then
    let h := n / 2
    on (28 + h) || (on (29 - h) && (List.range 4).any fun m => m / 2 != h && on m && !d2dDown s (d2dSxSx n m))
  else if n < 12 then on ((n - 4) / 2)
  else if n < 20 then on ((n - 12) / 2)
  else if n < 28 then on (n - 8)
  else if n < 30 then on 30 || on 31
  else if n < 32 then !s.pwr.onCell
  else on (28 + n % 2)

def setPd (s : State) (n : Nat) (b : Bool) : State :=
  { s with pwr := { s.pwr with pdOn := if b then s.pwr.pdOn ||| BitVec.ofNat 36 (2 ^ n) else s.pwr.pdOn &&& ~~~ BitVec.ofNat 36 (2 ^ n) } }

/-- The die site of a domain, as the scroll names it. -/
def pdSite (s : State) (n : Nat) : Nat :=
  if n < 4 then siteSX n else if n < 12 then siteOX (n - 4) else if n < 20 then siteRT (n - 12) else if n < 28 then siteHB (n - 20)
  else if n < 30 then siteHX (n - 28) else if n < 32 then n else if n < 36 then siteHX (n % 2) else siteMC s

/-! What leaves service (Table 1-13, R218, R260, R318). -/

/-- The strings and soundpost strings of an OX go down. -/
def oxOut (s : State) (n : Nat) : State :=
  let l := ((List.range 64).map (· + 64 * n)) ++ ((List.range 4).map (· + 512 + 4 * n))
  l.foldl (fun s x => if (linkOf s x).stage = 0 then s else stringDown s x .noLight) s

/-- An RT leaves service: instances with lines on it end by R218, a stream bound to it ends with TILE_LOST, and its HB stack is out
of reach. -/
def rtGone (s : State) (n : Nat) : State :=
  let s := backingOut (rtLinesLost s n) n
  if s.str.running ∧ n ∈ s.str.tiles then raiseExc s 0x0E n 7 else s

/-- An HX leaves service: tier B, its CXL ports and its host ports. -/
def hxOut (s : State) (h : Nat) : State :=
  (List.range 4).foldl (fun s p => backingOut s (cxlTarget (4 * h + p))) (backingOut s (8 + h))

/-- The packets in an SX are gone. -/
def sxOut (s : State) (n : Nat) : State :=
  { s with sw := { s.sw with
      landing := s.sw.landing.filter fun x => x.sx != n
      queues := s.sw.queues.filter fun q => q.1.1 != n
      sending := s.sw.sending.filter fun q => q.1.1 != n
      dieHeld := s.sw.dieHeld.filter fun d => d.sx != n } }

/-- The pegs of an OX are off. -/
def pegsOff (s : State) (n : Nat) : State := { s with opt := { s.opt with pegs := s.opt.pegs.filter fun p => p.1.1 != n } }

/-- The effect of a domain's going off. -/
def pdGone (s : State) (n : Nat) : State :=
  if n < 4 then sxOut s n
  else if n < 12 then pegsOff (oxOut s (n - 4)) (n - 4)
  else if n < 20 then rtGone s (n - 12)
  else if n < 28 then backingOut s (n - 20)
  else if n < 30 then hxOut s (n - 28)
  else if n < 32 then s
  else if n < 34 then backingOut s (8 + n % 2)
  else (List.range 4).foldl (fun s p => backingOut s (cxlTarget (4 * (n % 2) + p))) s

def pdOff (s : State) (n : Nat) : State := if pdIsOn s n then pdGone (setPd s n false) n else s

/-- The order in which domains go after what they require: HX, SX, OX and RT, HB, the PHY groups (R37). -/
def pdOrder : List Nat :=
  [28, 29] ++ List.range 4 ++ (List.range 16).map (· + 4) ++ (List.range 8).map (· + 20) ++ [32, 33, 34, 35]

/-- Every domain whose requirement is no longer met goes off (R37). -/
def pdCascade (s : State) : State := pdOrder.foldl (fun s n => if pdIsOn s n && !pdMet s n then pdOff s n else s) s

/-- MC_PD_FAULT (Table 1-10). -/
def pdLatch (p : Pwr) (n : Nat) : Pwr :=
  let p := { p with faultLast := n }
  if n < 12 then { p with fault := p.fault ||| BitVec.ofNat 18 (2 ^ n) }
  else if n < 20 then { p with fault := p.fault ||| BitVec.ofNat 18 (2 ^ (12 + (n - 12) / 2)) }
  else if n < 28 then { p with fault := p.fault ||| BitVec.ofNat 18 (2 ^ (16 + (n - 20) / 4)) }
  else if n < 32 then { p with faultMid := p.faultMid ||| BitVec.ofNat 4 (2 ^ (n - 28)) }
  else { p with faultHi := p.faultHi ||| BitVec.ofNat 4 (2 ^ (n - 32)) }

/-- Sessions that end, all but those that `keep` names: what they wrote stays, UNLOCK clears when its session ends, and what they
waited for is forgotten (R516, R528). -/
def endSessions (s : State) (keep : Nat → Sess → Bool) : State :=
  let l := s.sec.sess.filter fun x => keep x.1 x.2
  let held := fun c => l.any fun x => x.1 == c
  { s with sec := { s.sec with
      sess := l
      waiters := s.sec.waiters.filter fun w => decide (w < 2) || held (w - 2)
      unlock := s.sec.unlock && s.sec.unlocker.all held } }

/-- An MC falls out: the standby takes over, within 50 ms, the role of an active one, and every SPDM session closes (R41, R521); before
Rilash runs, the other MC selects an image itself (R412). -/
def mcFell (s : State) (m : Nat) : State :=
  if (m == 1) != s.mc.active1 then { s with mc := { s.mc with standbyOk := false } }
  else if s.disc.phase = 1 then { s with mc := { s.mc with active1 := !s.mc.active1 } }
  else if s.mc.standbyOk then endSessions { s with mc := { s.mc with swapping := true } } fun _ _ => false
  else s

/-- A member leaves its course: it stops serving, and its HEARTBEATs say LEAVING, or FAILING when a fault of R37 or R41, or a worn die,
stops it (R395, R469). -/
def leaveCourse (s : State) (failing : Bool) : State :=
  let s := dropLead s s.course.twinUp
  sendHeartbeats { s with course := { s.course with
    leaving := s.course.leaving || !failing, failing := s.course.failing || failing, serving := false, twinUp := false } }

/-- A domain faults: it goes off, with every domain whose requirement it alone met; the fault is latched and written to the
scroll (R37). An SX takes its member out of the course (Table 1-7), an MC hands over. -/
def pdFault (s : State) (n : Nat) : State :=
  if n < 36 ∧ (pdIsOn s n ∨ s.disc.phase = 1 ∧ (n = 30 ∨ n = 31)) then
    let was := pdIsOn s
    let s := pdCascade (pdOff { s with pwr := pdLatch s.pwr n, elg := { s.elg with dieFell := true } } n)
    let s := if 30 ≤ n ∧ n < 32 then mcFell s (n - 30) else s
    let s := if (List.range 4).any (fun x => was x && !pdIsOn s x) && s.course.serving && s.course.twinUp then leaveCourse s true else s
    scroll s 1 .domainFault (pdSite s n) [n]
  else s

/-- A domain switched on. An RT zeroes its scratch before it serves, and serves its lines again (R190, R218). -/
def pdOnAct (s : State) (n : Nat) : State :=
  let s := setPd s n true
  if 12 ≤ n ∧ n < 20 then
    let t := n - 12
    placeLines { s with
      scratch := Memory.zero s.scratch (scrKey t 0) (2 ^ 29)
      scrPoison := s.scrPoison.filter fun w => decide (w * 8 / 2 ^ 29 ≠ t)
      scrLatent := s.scrLatent.filter fun w => decide (w * 8 / 2 ^ 29 ≠ t) }
  else s

/-- A control program's request for a domain on or off: refused while a domain that requires it is on, or what it requires is
off (R37); nothing changes then. -/
def pdRequest (s : State) (n : Nat) (on : Bool) : Option State :=
  if 36 ≤ n then none
  else if on then (if pdMet s n then some (if pdIsOn s n then s else pdOnAct s n) else none)
  else
    let s' := setPd s n false
    if pdOrder.any fun m => m != n && pdIsOn s m && pdMet s m && !pdMet s' m then none else some (pdOff s n)

/-! Die-to-die links (R40 to R42). -/

def d2dOf (s : State) (i : Nat) : D2d := s.pwr.d2d.get i {}
def setD2d (s : State) (i : Nat) (d : D2d) : State := { s with pwr := { s.pwr with d2d := s.pwr.d2d.set i d } }

/-- The die site of a link's first end. -/
def d2dSite (i : Nat) : Nat :=
  if i < 3 then siteSX 0 else if i < 5 then siteSX 1 else if i < 6 then siteSX 2
  else if i < 14 then siteSX ((i - 6) / 2) else if i < 22 then siteSX ((i - 14) / 2) else if i < 26 then siteSX (i - 22)
  else if i < 30 then siteHX ((i - 26) / 2) else siteRT (i - 30)

/-- The two SX links of an HX: SX 2h and SX 2h + 1. -/
def hxCut (s : State) (h : Nat) : Bool := d2dDown s (22 + 2 * h) && d2dDown s (23 + 2 * h)

/-- The two SX dies of SX–SX link i. -/
def sxPair (i : Nat) : Nat × Nat := if i < 3 then (0, i + 1) else if i < 5 then (1, i - 1) else (2, 3)

/-- A link goes down: service around it as Table 1-13 states. -/
def d2dLost (s : State) (i : Nat) : State :=
  if i < 6 then
    let e := sxPair i
    reroutePort (reroutePort s e.1 (peerPort e.1 e.2) false) e.2 (peerPort e.2 e.1) false
  else if i < 14 then oxOut s (i - 6)
  else if i < 22 then rtGone s (i - 14)
  else if i < 26 then
    let s := reroutePort s (i - 22) 135 false
    if hxCut s ((i - 22) / 2) then hxOut s ((i - 22) / 2) else s
  else if i < 30 then (if d2dDown s (26 + i % 2) && d2dDown s (28 + i % 2) then mcFell s (i % 2) else s)
  else rtGone s (i - 30)

/-- One sample of a link against Table 1-12: temperatures in tenths of a degree, supplies in mV. An RT whose link carries traffic again
serves its lines again (R218). -/
def d2dSample (s : State) (x : D2dSample) : State :=
  let d := d2dOf s x.link
  let within := decide (x.dT ≤ 350 ∧ x.dV ≤ 150)
  let fine := decide (x.dT ≤ 315 ∧ x.dV ≤ 135)
  if 700 < x.dT ∨ 300 < x.dV then
    if d.st = 2 then setD2d s x.link { d with good := 0 }
    else d2dLost (scroll (setD2d s x.link { st := 2 }) 1 .d2dDown (d2dSite x.link) [x.link]) x.link
  else if d.st = 2 then
    if !within then setD2d s x.link { d with good := 0 }
    else if d.good + 1 < 100 then setD2d s x.link { d with good := d.good + 1 }
    else placeLines (scroll (setD2d s x.link { st := 1 }) 1 .d2dDegraded (d2dSite x.link) [x.link])
  else if !within then
    let s := if d.st = 0 then scroll s 1 .d2dDegraded (d2dSite x.link) [x.link] else s
    setD2d s x.link { st := 1 }
  else if d.st = 1 then
    if !fine then setD2d s x.link { d with good90 := 0 }
    else if d.good90 + 1 < 1000 then setD2d s x.link { d with good90 := d.good90 + 1 }
    else scroll (setD2d s x.link {}) 1 .d2dNormal (d2dSite x.link) [x.link]
  else s

/-- The end of a die-to-die link that counts its retries and repairs: the owning SX and the number of the end there, 0 to 2 its peers, 3 and
4 its RTs, 5 its HX, as Table 5-1 orders their ports, and 6 and 7 its OXs (log entry 160). An HX–MC link has no SX end. -/
def d2dEnd (i : Nat) : Option (Nat × Nat) :=
  if i < 3 then some (0, i) else if i < 5 then some (1, i - 2) else if i < 6 then some (2, 2)
  else if i < 14 then some ((i - 6) / 2, 6 + i % 2) else if i < 22 then some ((i - 14) / 2, 3 + i % 2)
  else if i < 26 then some (i - 22, 5) else none

/-- UCIe retries of a link that carries traffic are counted in the owning SX (Table 19-2); each lane repair is counted and proposed for the die's repair
map (R21, R41, R464, R465). -/
def d2dUcie (s : State) (x : D2dSample) : State :=
  match d2dEnd x.link with
  | none => s
  | some e =>
    let s := if d2dDown s x.link || x.retries = 0 then s else bump s .sxD2dRetry [e.1, e.2] x.retries
    if x.repairs.isEmpty then s
    else
      let st := d2dSite x.link
      let new := x.repairs.map fun r => 6 + r.1 % 2 ^ 20 * 2 ^ 6 + r.2.1 % 2 ^ 16 * 2 ^ 26 + r.2.2 % 2 ^ 16 * 2 ^ 42
      let had := match s.fuse.pendMap.find st with
        | some l => l
        | none => s.fuse.entries.get st []
      { bump s .sxD2dLaneRep [e.1, e.2] x.repairs.length with
        fuse := { s.fuse with pendMap := s.fuse.pendMap.set st (had ++ new) } }

/-- ADJ_MONITOR_SAMPLE: the monitors of adjacent die sites, once each 1 ms (R40 to R42). -/
def execAdjMonitorSample (samples : List D2dSample) (s : State) : Res :=
  .next ((samples.filter fun x => decide (x.link < 38)).foldl (fun s x => d2dUcie (d2dSample s x) x) s)

/-! The AON supply (R38, R543). -/

/-- AON_TO_VBAK: VAON below 1.62 V puts the island on the cell (R543). -/
def execAonToVbak (vaonMv : Nat) (s : State) : Res :=
  .next (if vaonMv < 1620 then { s with pwr := { s.pwr with onCell := true } } else s)

/-- AON_TO_VAON: VAON at or above 1.70 V for 1 ms takes the island back (R543). -/
def execAonToVaon (vaonMv stableUs : Nat) (s : State) : Res :=
  .next (if 1700 ≤ vaonMv ∧ 1000 ≤ stableUs then { s with pwr := { s.pwr with onCell := false } } else s)

/-! Resets (R407, R408, R539, R540, R542). -/

/-- What AON and the fuse arrays hold, with the scroll tail and its flash archive, through every reset (R38, R407). -/
def aonTel (t : Tel) : Tel :=
  { tail := t.tail, archive := t.archive, waitQ := t.waitQ, seq := t.seq, unarchived := t.unarchived, lag := t.lag,
    segFirst := t.segFirst, unsealed := t.unsealed, lastMac := t.lastMac }
def aonSec (x : Sec) : Sec :=
  { kreg := x.kreg, kregZero := x.kregZero, tamper := x.tamper, temp := x.temp, cellAlm := x.cellAlm, aonLost := x.aonLost,
    cellLow := x.cellLow, rtcValid := x.rtcValid, rtc := x.rtc, aonLog := x.aonLog, ownGen := x.ownGen, ownKey := x.ownKey,
    minSvn := x.minSvn }
def aonFuse (f : Fuse) : Fuse :=
  { recs := f.recs, senseCols := f.senseCols, devid := f.devid, bhv := f.bhv, variantL := f.variantL, ordering := f.ordering, mac := f.mac,
    step := f.step, gen := f.gen, entries := f.entries, keyUsed := f.keyUsed, debugOff := f.debugOff }
/-- What the boot flash holds (R410, R411, R413). -/
def flashDisc (d : Disc) : Disc := { bcr0 := d.bcr0, bcr1 := d.bcr1, siteFlash := d.siteFlash }

/-- The shared-buffer banks that the repair maps in effect retire, by SX (R463, R465): a reset is the repair load of every die. -/
def retiredBanks (f : Fuse) : TMap Nat (List Nat) :=
  ((List.range 4).map fun n => (n, ((f.entries.get n []).filter fun e => bits e 0 6 == 3).map fun e => bits e 6 20)).filter fun x => !x.2.isEmpty

/-- The counters that are not this package's: the Brola's. -/
def brolaKeeps (e : CtrKey × Nat) : Bool := isBrolaCtr e.1

/-- The cells that programming cut short has reached in a copy: any part of the record's own (R462); which part is a free value. -/
def cutCells (ws : List W64) (free : Nat) : List (W64 × W64) :=
  ws.mapIdx fun i w => (w &&& Config.freeBits (free + 2 * i), ~~~w &&& Config.freeBits (free + 2 * i + 1))

/-- A record whose programming is cut short: some of its copies are programmed in their order, and part of the next one (R458, R462); how far
is a free value. A location where nothing was programmed ends the list (R456). -/
def fuseCut (s : State) : State :=
  match s.fuse.busy, s.fuse.recs.getLast? with
  | some _, some r =>
    let ws := recordWords r
    let order := (List.range 4).filter (copyReach s)
    let done := (Config.freeBits s.free).toNat % (order.length + 1)
    let r' := { r with copies := (List.range 4).map fun i =>
      if i ∈ order.take done then cellsOf ws else if order[done]? = some i then cutCells ws (s.free + 1) else [] }
    let blank := (List.range 4).all fun i => allPairs (· == .unprogrammed) (copyCells r' i) 1
    { s with
      free := s.free + 1 + 2 * ws.length
      fuse := { s.fuse with busy := none, recs := s.fuse.recs.dropLast ++ (if blank then [] else [r']) } }
  | _, _ => { s with fuse := { s.fuse with busy := none } }

/-- The Kojor's requester after a reset of its own: no SEQ kept, and no request for 16 ms (R67). -/
def rqReset : Reqr := { quietUntil := dupHold }

/-- A power-on or cold reset: AON, the fuses, the boot flash and the laser modules stay; the Brola and what has left the package
are not this package's. Start-up resumes at MC boot. -/
def coldStart (s : State) (cause : Nat) : State :=
  let s := fuseCut s
  { pending := s.pending, out := s.out, free := s.free, brola := s.brola, rq := rqReset
    ctr := s.ctr.filter brolaKeeps
    links := s.links.filter fun x => brolaEnd x.1
    opt := { lasers := s.opt.lasers.map fun x => (x.1, { present := x.2.present }) }
    pwr := { pwrGood := true, onCell := s.pwr.onCell }
    mc := { resetCause := cause, smbAddr := s.mc.smbAddr }
    sw := { retired := retiredBanks s.fuse }
    tel := aonTel s.tel, sec := aonSec s.sec, fuse := aonFuse s.fuse, disc := flashDisc s.disc }

/-- Reset events are written to the scroll. -/
def resetNote (s : State) (cause : Nat) : State := scroll s 1 .reset (siteMC s) [cause]

/-- A warm reset: both MC dies and Rilash, AON, the fuse shadow, the scroll, the ledger counters and the MC, ELG, AGE, FUSE, SNAP,
SCROLL and SEC blocks stay; PD00–PD29 and PD32–PD35 are reset; start-up resumes at the die self-test (R407); fabric time starts at 0 (R430). -/
def warmStart (s : State) (cause : Nat) : State :=
  let ledger := fun (e : CtrKey × Nat) => match e.1.1 with
    | .elgPdUj | .elgPkgUj | .elgStreamUj | .elgBallastUj | .elgEpoch | .elgDefer | .elgChkptWait | .elgOverrun | .elgRampViol
    | .elgThrottleEp | .mcScrollSuppress | .mcIfErr | .mcIfAccess | .snapLate | .pllLoss => true
    | _ => false
  { pending := s.pending, out := s.out, free := s.free, brola := s.brola, rq := rqReset
    ctr := s.ctr.filter fun e => ledger e || brolaKeeps e
    links := s.links.filter fun x => brolaEnd x.1
    opt := { lasers := s.opt.lasers.map fun x => (x.1, { present := x.2.present }) }
    pwr := { s.pwr with pdOn := s.pwr.pdOn &&& BitVec.ofNat 36 (3 * 2 ^ 30), d2d := [], portTrain := [] }
    mc := { s.mc with resetCause := cause, warmWait := false, swapping := false }
    sw := { retired := retiredBanks s.fuse }
    tel := s.tel, sec := { s.sec with unlock := false, unlocker := none }, fuse := { s.fuse with loadWait := [] }, elg := { s.elg with wasReset := true }
    disc := { s.disc with phase := 2, bootAt := 0, attached := false, joining := false, helloSent := none, closed := false, amLead := false, hellos := [], helloAt := [],
                          firstHealthy := none, surveys := [], prevSurveys := [], accepted := [], convergedR := [], present := [] } }

/-- A warm reset on request: LEAVING goes out first (R407, R408). -/
def warmNow (s : State) : State :=
  resetNote (warmStart (if s.course.serving then leaveCourse s false else s) 3) 3

/-- When no SX can serve, Rilash begins a warm reset (R407). -/
def rilashWarm (s : State) : State :=
  if 3 ≤ s.disc.phase ∧ s.disc.phase ≤ 9 ∧ (pdIsOn s 30 || pdIsOn s 31) ∧ (List.range 4).all (fun n => !pdIsOn s n) then
    resetNote (warmStart s 4) 4
  else s

/-- PD_FAULT (R37, R407). -/
def execPdFault (pd : Nat) (s : State) : Res := .next (rilashWarm (pdFault s pd))

/-- POWER_ON_RESET: pwr_good rises; with rst_n low the reset is held (R407, R542). -/
def execPowerOnReset (rstLow : Bool) (s : State) : Res :=
  .next (let s' := coldStart s 1
    if rstLow then { s' with pwr := { s'.pwr with porHeld := true } } else resetNote s' 1)

/-- COLD_RESET: rst_n rises after a low of 1 µs or more; a shorter one is ignored. A power-on reset that it held goes on, and
stays the cause (R542). -/
def execColdReset (lowNs : Nat) (s : State) : Res :=
  .next (if lowNs < 1000 then s
  else if !s.pwr.pwrGood then s
  else resetNote (coldStart s (if s.pwr.porHeld then 1 else 2)) (if s.pwr.porHeld then 1 else 2))

/-- pwr_good falls: every switched domain goes off and only AON runs (R539, R540). -/
def powerFail (s : State) : State :=
  let s' := coldStart s s.mc.resetCause
  { s' with pwr := { s'.pwr with pwrGood := false } }

/-- POWER_FAIL (R540). -/
def execPowerFail (s : State) : Res := .next (powerFail s)

/-- The domains that a rail feeds (Table 21-1): rail 0 VIN, 1 VHB, 2 VPP, 3 VDDQ_DDR, 4 VPHY, 5 VOPT, 6 VMC, 7 VIO. -/
def railDomains (rail : Nat) : List Nat :=
  if rail = 1 ∨ rail = 2 then (List.range 8).map (· + 20)
  else if rail = 3 then [32, 33]
  else if rail = 4 then [34, 35]
  else if rail = 5 then (List.range 8).map (· + 4)
  else []

/-- RAIL_FAULT: VIN or VMC low acts as a fall of pwr_good; any other rail takes its domains off as faults (R540). -/
def execRailFault (rail : Nat) (s : State) : Res :=
  .next (if !s.pwr.pwrGood then s
  else if rail = 0 ∨ rail = 6 then powerFail s
  else rilashWarm ((railDomains rail).foldl pdFault s))

/-- PORT_RESET: perst_n of a port resets its function and link, which trains again; a CXL port's copies fall out of reach (R323,
R407). -/
def execPortReset (port : Nat) (s : State) : Res :=
  .next (if 8 ≤ port then s
  else
    let s := { s with pwr := { s.pwr with portTrain := insertOnce port s.pwr.portTrain } }
    if portIsCxl s.prog.eff port then cxlDown s port else s)

end Sys2Proof.Machine
end

