-- ==== Sys2Proof/Machine/Clocks.lean ====
section
/-! DEFINITION. The reference, lane PLLs and fabric time (R25, R27, R29 to R33, R39, R134, R430, R431). -/

namespace Sys2Proof.Machine

open Sys2Proof

/-! The reference (R25). -/

/-- Every string and soundpost string that is not down. -/
def upLinks (s : State) : List Nat := (List.range 544).filter fun x => (linkOf s x).stage != 0

/-- REF_LOST: all strings and soundpost fibres go down, the running stream ends with CLOCK, the MCs switch to the internal
oscillator, and the event is written to the scroll (R25). -/
def execRefLost (s : State) : Res :=
  .next (if s.clk.refLost then s
  else
    let s := dropLead { s with clk := { s.clk with refLost := true, mcIntOsc := true } } s.course.twinUp
    let s := (upLinks s).foldl (fun s x => stringDown s x .refclk) s
    let s := if s.str.running then raiseExc s 0x0F 0 7 else s
    scroll s 2 .refLost (siteMC s))

/-- The strings that come up after the relock: those that are down, but for the ones that wait for an event of their own (Table 13-9)
or have not begun (R415). -/
def relockLinks (s : State) : List Nat :=
  (List.range 544).filter fun x =>
    let l := linkOf s x
    l.stage == 0 && pdIsOn s (4 + oxOf x) && l.cause != .none && l.cause != .disabled && l.cause != .miswire

/-- REF_RELOCK: the root PLL relocks; the package starts again from string bring-up, as a rebuild target (R25). -/
def execRefRelock (s : State) : Res :=
  .next (if s.clk.refLost then
    let s := { s with clk := { s.clk with refLost := false, mcIntOsc := false }
                      course := { s.course with rebuildTgt := true, serving := false, alone := false, copying := false } }
    let s := (relockLinks s).foldl (fun s x => enterStage (setLink s x { linkOf s x with restartAt := none }) x 1) s
    scroll s 2 .refRelock (siteMC s)
  else s)

/-- LANE_PLL_LOCK_LOSS: only its own interface goes down; counted and written to the scroll (R27). Kinds: 0 the lanes of an OX, 1
an HBM4 interface, 2 the DDR5 of an HX, 3 a PCIe port, 4 a die-to-die link. Strings go down with SYMBOL (log entry 50). -/
def execLanePllLockLoss (kind idx : Nat) (s : State) : Res :=
  .next (
    let s := scroll (bump s .pllLoss [kind, idx]) 2 .lanePllLost (siteMC s) [kind, idx]
    let s := { s with clk := { s.clk with pllLost := insertOnce (kind, idx) s.clk.pllLost } }
    if kind = 0 ∧ idx < 8 then ((upLinks s).filter fun x => oxOf x == idx).foldl (fun s x => stringDown s x .symbol) s
    else if kind = 1 ∧ idx < 8 then backingOut s idx
    else if kind = 2 ∧ idx < 2 then backingOut s (8 + idx)
    else if kind = 3 ∧ idx < 8 then
      (if portIsCxl s.prog.eff idx then cxlDown s idx
       else { s with pwr := { s.pwr with portTrain := insertOnce idx s.pwr.portTrain } })
    else if kind = 4 ∧ idx < 38 then d2dLost (setD2d s idx { st := 2 }) idx
    else s)

/-! Sources (Table 15-9). -/

/-- The time lead: the lead member of D(0,0), or of the domain that replaces it, or of a domain without bridges (R30, Table 15-9). -/
def isTimeLead (s : State) : Bool := s.disc.amLead && (!(site s).bridges || s.disc.refDom == ((site s).dy, (site s).dx))

/-- The link whose beacons a Kojor follows. -/
def timeSource (s : State) : Option Nat :=
  if isTimeLead s then none
  else if s.disc.amLead then
    ((List.range 64).map (· + 448)).find? fun n => strReady s n && bridgeDir s s.disc.refDom.1 s.disc.refDom.2 == (n - 448) / 16
  else
    ((List.range 512).find? fun n => strReady s n && !isBridge s n).or (((List.range 32).map (· + 512)).find? (strReady s))

/-- This member is lead member and beacons fabric time (Table 1-11). -/
def beaconsTime (s : State) : Bool := s.disc.amLead && s.clk.anchored

/-- TSRC of a Kojor's beacon on a link (R31, R431). -/
def tsrcOn (s : State) (x : Nat) : Bool :=
  if beaconsTime s then true else s.clk.converged && (decide (512 ≤ x) || isBridge s x)

/-- A beacon on one link, with the echo of the last time received there. -/
def sendBeacon (s : State) (x : Nat) (tsrc : Bool) : State :=
  let l := linkOf s x
  let now := linkNow s x
  emit s (.link x (.beacon tsrc now l.echoTime (if l.echoTime = 0 then 0 else now - l.echoAt)))

/-- BEACON_SEND: fabric time on each Ready string; the Brola does the same on its own (R31, R431). -/
def execBeaconSend (s : State) : Res :=
  .next (((List.range 576).filter (strReady s)).foldl (fun s x => sendBeacon s x (if x < 544 then tsrcOn s x else s.brola.anchored)) s)

/-! Following (R30, R31, R33, R134, R430). -/

/-- Half of a number of ns; what half a nanosecond becomes is open (log entry 6). -/
def halfNs (n : Nat) : Nat := n / 2 + (if n % 2 = 1 then ofB Config.halfUp else 0)

/-- What a beacon makes of a count: the new count, the ticks it holds, the consecutive beacons beyond ± 50 ns, and the step, if one is
made. `off` is twice the offset, and `hold` the ticks for which a step still holds the count: it goes on to hold until the beacon value
reaches it, and is not slewed meanwhile. -/
def follow (now hold beyond : Nat) (off : Int) : Nat × Nat × Nat × Option Int :=
  if 1 < hold then (now, if off < 0 then halfNs off.natAbs else 0, 0, none)
  else if 100 < off.natAbs ∧ beyond = 2 then
    let n := halfNs off.natAbs
    if 0 < off then (now + n, 0, 0, some (n : Int)) else (now, n, 0, some (-(n : Int)))
  else
    let b := if 100 < off.natAbs then beyond + 1 else 0
    if 2 ≤ off then (now + 1, hold, b, none) else if off ≤ -2 then (now, 1, b, none) else (now, hold, b, none)

/-- The round trip measured at a beacon: the count's advance since the echoed time, less the far end's hold (R31). -/
def measure (s : State) (x time echo hold : Nat) : State :=
  let l := linkOf s x
  let now := linkNow s x
  let rtt := if echo = 0 ∨ now < echo + hold then l.rtt else now - echo - hold
  noteSubst (setLink s x { l with rtt := rtt, echoTime := time, echoAt := now }) x

/-- A Kojor's count anchored at a time, never backward (R430). The silence after a reset is 16 ms long whatever the count does, so what
is left of it moves with the count (R67). -/
def anchorAt (s : State) (time : Nat) : State :=
  let t := max s.clk.now time
  let q := s.rq.quietUntil
  { s with clk := { s.clk with anchored := true, now := t }
           rq := if s.clk.now < q then { s.rq with quietUntil := q + (t - s.clk.now) } else s.rq }

/-- A Kojor follows a beacon of its source. -/
def kojorFollow (s : State) (x time : Nat) : State :=
  let rtt := (linkOf s x).rtt
  let c := s.clk
  if !c.anchored then
    let s := anchorAt s (time + halfNs rtt)
    { s with clk := { s.clk with lastBeacon := some s.clk.now, offset2 := 0 } }
  else
    let off : Int := 2 * (time : Int) + rtt - 2 * c.now
    let f := follow c.now c.hold c.beyond off
    let w := if off.natAbs ≤ 10 then c.within + 1 else 0
    let s := { s with clk := { c with
      now := f.1, hold := f.2.1, beyond := f.2.2.1, offset2 := off, within := w,
      slotDue := c.slotDue || (f.2.2.2.isSome && decide (c.now / 1000000 < f.1 / 1000000)), converged := c.converged || decide (100 ≤ w)
      stepped := c.stepped || f.2.2.2.isSome, holdover := false, lastBeacon := some f.1 } }
    let s := if !c.converged && s.clk.converged && decide (1 ≤ s.disc.cstate) then emit s (.result s.disc.cstate true) else s
    match f.2.2.2 with
    | some d => scroll s 2 .timeStep (siteMC s) [unsigned d 64]
    | none => s

/-- The first Ready string of the Brola to each attached Kojor: a course and member (R105, R134). -/
def oneEach (s : State) : List Nat :=
  let k := (s.brola.asg.map (·.k)).getD 1
  (sortNat s.brola.ready).foldl (fun l b => if l.any fun y => y / 2 % max k 1 == b / 2 % max k 1 && y % 2 == b % 2 then l else l ++ [b]) []

/-- The Brola follows a beacon of its source; after a step it sends TIME_STEP to each attached Kojor (R134). -/
def brolaFollow (s : State) (x time : Nat) : State :=
  let rtt := (linkOf s x).rtt
  let b := s.brola
  if !b.anchored then { s with brola := { b with anchored := true, now := max b.now (time + halfNs rtt) } }
  else
    let f := follow b.now b.hold b.beyond (2 * (time : Int) + rtt - 2 * b.now)
    let s := { s with brola := { b with now := f.1, hold := f.2.1, beyond := f.2.2.1 } }
    match f.2.2.2 with
    | some d => (oneEach s).foldl (fun s n => sendFrame s (544 + n) (.timeStep d s.brola.now)) s
    | none => s

/-- BEACON: a round trip is measured, and a source's beacon corrects the count (R30 to R33, R134, R430). -/
def execBeacon (x : Nat) (tsrc : Bool) (time echo hold : Nat) (s : State) : Res :=
  .next (if 576 ≤ x then s
  else
    let s := measure s x time echo hold
    if !tsrc then s
    else if 544 ≤ x then brolaFollow s x time
    else if timeSource s == some x then kojorFollow s x time
    else s)

/-- TIME_HOLDOVER: a party that follows a source has received no beacon from it for more than 1 ms (R39). -/
def execTimeHoldover (s : State) : Res :=
  .next (match s.clk.lastBeacon with
    | some t => if !isTimeLead s ∧ t + 1000000 < s.clk.now then { s with clk := { s.clk with holdover := true } } else s
    | none => s)

/-- TIME_STEP: the step that a Brola reports is written to the scroll (R134). -/
def execTimeStep (n : Nat) (step : Int) (time : Nat) (s : State) : Res :=
  .next (if n < 512 then scroll s 2 .brolaTimeStep (siteMC s) [n, unsigned step 64, time] else s)

end Sys2Proof.Machine
end

