-- ==== Sys2Proof/Machine/Validate.lean ====
section
/-! DEFINITION. What refuses a commit: ranges, relations, the shared pool, pairs, streams and resources (R98, R139, R157, R170,
R186, R191, R203, R220, R271, R277, R285, R310, R311, R322, R338, R383, R427, R440, R477, R484). -/

namespace Sys2Proof.Machine

open Sys2Proof

/-- Some pair of a list, earlier with later, satisfies a test. -/
def anyPair {α : Type} (p : α → α → Bool) : List α → Bool
  | [] => false
  | a :: t => t.any (p a) || anyPair p t

/-- A value outside a range. -/
def outside (lo hi n : Nat) : Bool := !decide (lo ≤ n ∧ n ≤ hi)

/-- The entries that a staged set puts into a table. -/
def stagedIn (st : Entries) (t : Nat) : List Nat := (tblAll st t).filter fun e => !tblRemoves t e

/-! Ranges of one entry (R271, R383, R427, R440, R477, Tables 9-11 to 9-18, 12-4, 13-8, 15-8, 16-1, 18-1). -/

def badCapo (e : Nat) : Bool :=
  bits e 11 5 != 0 || bit e 39 || bits e 55 457 != 0 ||
    (if bit e 10 then outside 2 50 (bits e 32 7) || outside 5 50 (bits e 48 7) || outside 0 256 (bits e 40 8) || bits e 16 16 == 0
     else bits e 16 39 != 0)

def badLeaf (bridges : Bool) (e : Nat) : Bool :=
  bits e 10 6 != 0 || (bridges && decide (447 < bits e 0 9)) || (!bit e 9 && bits e 96 32 != 0)

def badString (s : State) (x e : Nat) : Bool :=
  bits e 22 2 != 0 || bits e 88 40 != 0 || outside 0 17 (bits e 10 5) || outside 0 17 (bits e 15 5)
    || bits e 20 2 != laneSet s x
    || (List.range 4).any (fun q => outside 0 17 (bits e (24 + 5 * q) 5) || outside 0 17 (bits e (52 + 5 * q) 5))
    || (bit e 44 && outside 0 17 (bits e 47 5)) || outside 1 32 (bits e 72 6) || outside 0 1000 (bits e 78 10)

/-- Fields of a string that is not down may not change; the substitutions of R354 and R379 are tuning's own (R383). -/
def stringMoves (s : State) (l : Entries) (x e : Nat) : Bool :=
  (linkOf s x).stage != 0 &&
    match strEntry l x with
    | some o => bits e 10 12 != bits o 10 12
    | none => bits e 10 5 != x % 64 / 4 || bits e 15 5 != x % 64 / 4

def badRing (e : Nat) : Bool :=
  bits e 26 38 != 0 || outside 0 17 (bits e 0 5) || outside 0 17 (bits e 5 5) || outside 0 3 (bits e 15 3)
    || (bits e 15 3 != 0 && outside 0 17 (bits e 10 5))
    || (bits e 15 3 == 1 && outside 128 240 (bits e 18 8)) || (bits e 15 3 == 3 && bits e 18 8 != 255)

def badBuffer (e : Nat) : Bool :=
  let port := bits e 6 8
  let g := bits e 32 15
  bits e 26 6 != 0 ||
    match bits e 0 4 with
    | 1 => outside 0 127 port || bits e 17 9 != 0 || bits e 47 17 != 0 || (g != 0 && outside 17 4096 g)
    | 2 => outside 128 135 port || bits e 17 9 != 0 || bits e 47 17 != 0 || outside 17 16384 g
    | 3 => port != 0 || bits e 17 9 != 0 || bits e 37 27 != 0
        || !(decide (-4 ≤ signed (bits e 32 4) 4) && decide (signed (bits e 32 4) 4 ≤ 3))
    | 4 => port != 0 || bits e 14 3 != 0 || bits e 52 12 != 0 || outside 0 524288 (bits e 32 20)
    | _ => true

def badHarmonic (e : Nat) : Bool :=
  bit e 7 ||
    match bits e 0 4 with
    | 1 => bits e 19 45 != 0 || (if bit e 17 then bits e 8 9 != 511 else bit e 18 || bits e 8 9 / 128 != bits e 4 2)
    | 2 => outside 0 7 (bits e 8 9) || bit e 17 || outside 0 3 (bits e 28 3) || (bits e 31 8 != 255 && outside 0 135 (bits e 31 8))
        || outside 0 16 (bits e 57 5) || bit e 63
    | _ => true

def badShare (e : Nat) : Bool :=
  bits e 9 7 != 0 || bits e 88 40 != 0 || (List.range 8).any (fun t => outside 4 256 (bits e (16 + 9 * t) 9))
    || decide (256 < ((List.range 8).map fun t => bits e (16 + 9 * t) 9).sum)

def badTimeout (e : Nat) : Bool := bits e 9 7 != 0 || bits e 66 62 != 0 || outside 100 1000000 (bits e 16 20) || outside 1 10000 (bits e 36 14)

def badBridge (e : Nat) : Bool :=
  bits e 10 6 != 0 ||
    match bits e 0 4 with
    | 1 => bits e 4 6 != 0 || bits e 27 37 != 0 || outside 0 2000 (bits e 16 11)
    | 2 => bits e 30 34 != 0 || outside 512 8192 (bits e 16 14)
    | _ => true

def badScratchWin (e : Nat) : Bool := outside 0 4 (bits e 4 3) || bits e 17 15 != 0 || bits e 96 32 != 0

def badEnergy (l : Entries) (e : Nat) : Bool :=
  outside 1000 2500 (bits e 0 12) || outside 10 2500 (bits e 12 12) || outside 0 800 (bits e 24 10) || outside 0 200 (bits e 34 8)
    || outside 1 16 (bits e 42 5) || outside 1 16 (bits e 48 5) || outside 1 100 (bits e 53 7) || bits e 60 4 != 0
    || outside 0 2500 (bits e 64 12) || bits e 76 52 != 0 || (List.range 512).any (fun c => decide (2500 < bits e (128 + 16 * c) 16))
    || (pinnedCapos l).any (fun c => decide (bits e 0 12 < bits e (128 + 16 * c) 16 + bits e 64 12))
    || (bit e 47 && decide (bits e 0 12 < bits e 64 12 + 100))

/-! Ranges over a table (R157, R310, R311, R322, R477, R484). -/

/-- The harmonic strings an SX has: a fibre counts as four (R157). -/
def harmonicCount (l : Entries) (sx : Nat) : Nat :=
  (((tblAll l 8).filter fun e => bits e 0 4 == 1 && bits e 4 2 == sx && bit e 6).map fun e => if bit e 17 then 4 else 1).sum

def badHarmonics (s : State) (l st : Entries) : Bool :=
  (List.range 4).any (fun sx => decide (4 < harmonicCount l sx))
    || (stagedIn st 8).any fun e => bits e 0 4 == 1 && bit e 6 && !bit e 17 && (linkOf s (bits e 8 9)).attachOk

/-- Leaves shared by two capos, capos beyond 8, shared slots, sums, and what a pinned capo needs elsewhere (R477). -/
def badCapos (s : State) (l st : Entries) : Bool :=
  let cs := (tblAll l 1).filter (bit · 9)
  let pin := cs.filter (bit · 10)
  let sum (lo len : Nat) := (pin.map (bits · lo len)).sum
  anyPair (fun a b => decide ((a >>> 512) &&& (b >>> 512) ≠ 0)) cs
    || decide (8 < pin.length) || anyPair (fun a b => decide (bits a 16 16 &&& bits b 16 16 ≠ 0)) pin
    || decide (90 < sum 32 7) || decide (90 < sum 48 7) || decide (accStore l < sum 40 8)
    || pin.any (fun e => (List.range 4).any (fun sx => bufQuota l sx (bits e 0 9) == 0) || elgShare l (bits e 0 9) == 0)
    || (!pin.isEmpty && (site s).bridges && (List.range 64).any fun k => decide (brgReserve l (448 + k) < 1024))
    || (tblAll st 1).any fun e =>
        let c := bits e 0 9
        let old := (tblFind s.prog.eff 1 c).getD 0
        ((tblAll l 0x0F).filter fun g => bits g 12 9 == c && !grpPriv g).any fun g =>
          (List.range 512).any fun i => grpMember g i && capoHasLeaf old i && !capoHasLeaf ((tblFind l 1 c).getD 0) i

def spansMeet (a b : List (Nat × Nat × Nat)) : Bool :=
  a.any fun x => b.any fun y => x.1 == y.1 && decide (overlap x.2.1 x.2.2 y.2.1 y.2.2 ≠ 0)

/-- A region entry refused as RANGE (R310, R311, R484). `gone` lists the spans of regions that the commit removes. -/
def badRegion (s : State) (l : Entries) (gone : List (Nat × Nat × Nat)) (e : Nat) : Bool :=
  let g := regionOf e
  let others := (regions l).filter fun x => x.rid != g.rid
  match tblFind s.prog.eff 0x0C g.rid with
  | some o => decide (o - bits o 28 1 * 2 ^ 28 ≠ e - bits e 28 1 * 2 ^ 28)
  | none =>
    bits e 29 3 != 0 || bits e 40 56 != 0 || bits e 130 30 != 0 || bits e 224 32 != 0
      || g.vpage % 2 != 0 || g.npages % 2 != 0 || outside 2 (2 ^ 31) g.npages || g.tier == 3
      || tierOf (g.vpage * 4096) != some g.tier || tierOf ((g.vpage + g.npages - 1) * 4096) != some g.tier
      || others.any (fun x => x.capo == g.capo && decide (overlap x.vpage x.npages g.vpage g.npages ≠ 0))
      || g.place == 0 || (g.tier == 1 && decide (3 < g.place))
      || ((List.range 8).filter (bit g.place)).any (fun n =>
          targetPages s (tierBase g.tier + n) == 0 || (g.tier == 2 && !portIsCxl l n))
      || (regionSpans g).any (fun x => decide (targetPages s x.1 < x.2.1 + x.2.2))
      || others.any (fun x => spansMeet (regionSpans x) (regionSpans g)) || spansMeet gone (regionSpans g)
      || (regionSpans g).any (fun x => (List.range x.2.2).any fun i => underScrub s x.1 (x.2.1 + i))
      || others.any fun x => x.capo != g.capo && (capoPinned l x.capo || capoPinned l g.capo)
          && (regionSpans x).any fun a => (regionSpans g).any fun b => a.1 == b.1

/-- The regions that a staged set removes. -/
def removedRegions (s : State) (st : Entries) : List Region :=
  (((tblAll st 0x0C).filter (tblRemoves 0x0C)).filterMap fun e => tblFind s.prog.eff 0x0C (tblKey 0x0C e)).map regionOf

/-- A port on which a region places may not change its mode (R322). -/
def badPort (s : State) (l : Entries) (e : Nat) : Bool :=
  bits e 14 50 != 0 || (bit e 3 != portIsCxl s.prog.eff (bits e 0 3) &&
    (regions l ++ regions s.prog.eff).any fun g => g.tier == 2 && bit g.place (bits e 0 3))

/-- A group entry refused as RANGE (R285): what this Kojor holds is checked. -/
def badGroup (s : State) (l : Entries) (e : Nat) : Bool :=
  let here := grpRdy e == (site s).dy && grpRdx e == (site s).dx
  let slotBad (k : Nat) : Bool :=
    here && grpSlotCourse e k == (site s).course &&
      match winOf s (grpSlotWid e k) with
      | none => true
      | some w => !(w.d.group == bits e 0 12 && w.d.capo == bits e 12 9 && !w.d.each && w.d.rearm && w.d.lenp == grpSlen e)
  bit e 23 || bits e 77 3 != 0 || bits e 92 36 != 0 || bits e 174 18 != 0 || bits e 224 32 != 0
    || outside 1 28672 (grpNtot e) || outside 0 512 (grpNloc e) || outside 1 4032 (grpSlen e)
    || (List.range (grpNslot e)).any slotBad
    || popBelow (e >>> 512) 512 != grpNloc e || decide (grpNtot e < grpNloc e)
    || (here && grpCourse e == (site s).course && grpGlen e != 0 && (grpGbase e % 4096 != 0 ||
        (List.range (grpGlen e)).any fun i => (regionAt l (bits e 12 9) (grpGbase e / 4096 + i)).isNone))

/-- The first RANGE failure over the staged set. -/
def rangeBad (s : State) (l st : Entries) : Bool :=
  let any (t : Nat) (p : Nat → Bool) : Bool := (stagedIn st t).any p
  let gone := (removedRegions s st).flatMap regionSpans
  any 1 badCapo || (!(tblAll st 1).isEmpty && badCapos s l st) || any 2 (badLeaf (site s).bridges) || any 3 (badPort s l)
    || any 4 (fun e => badString s (bits e 0 9) e || stringMoves s s.prog.eff (bits e 0 9) e) || any 5 badRing || any 6 badBuffer
    || any 7 (fun e => bits e 9 7 != 0 || bits e 24 40 != 0) || any 8 badHarmonic || (!(tblAll st 8).isEmpty && badHarmonics s l st)
    || any 9 badShare || any 0x0A badTimeout || any 0x0B badBridge || any 0x0C (badRegion s l gone) || any 0x0D (fun e => !winFormOk e)
    || any 0x0E (fun e => !shardFormOk e || bits e 16 46 % 64 != 0 || outside 1 16777216 (bits e 64 25))
    || any 0x0F (badGroup s l) || any 0x10 (fun e => bits e 9 55 != 0 || outside 0 256 (bits e 0 9)) || any 0x11 badScratchWin
    || any 0x12 (badEnergy l)

/-! The other reasons. -/

/-- A barrier timeout below the completion timeout of its capo (Table 1-6). -/
def relationBad (st : Entries) : Bool := (stagedIn st 0x0A).any fun e => decide (bits e 36 14 * 1000 < bits e 16 20)

/-- The shared pool (R139): G = 0 for an attached string, a pool below 262,144 cells, or raises beyond the free cells. -/
def poolBad (s : State) (l st : Entries) : Bool :=
  let touched := !(tblAll st 6).isEmpty || !(tblAll st 0x0B).isEmpty
  touched && ((stagedIn st 6).any (fun e => bits e 0 4 == 1 && bits e 32 15 == 0 && (linkOf s (128 * bits e 4 2 + bits e 6 8)).attachOk)
    || (List.range 4).any fun sx => decide (sharedPool s l sx < 262144)) || raisedOver s st

/-- The ring that a map entry names for position i: DATA, on the wavelength its lane needs; a spare ring serves its own (R338). -/
def ringServes (l : Entries) (f lset i ring : Nat) : Bool :=
  let r := match wbEntry l f ring with
    | some e => (bits e 15 3, bits e 10 5)
    | none => if ring < 16 then (1, ring) else (3, ring)
  r.1 == 1 && r.2 == (if ring < 16 then 4 * lset + i else ring)

/-- The pair groups P1 and P2 (R277, R338, R477). -/
def pairBad (l st : Entries) : Bool :=
  let p1 := !(tblAll st 1).isEmpty || !(tblAll st 2).isEmpty || !(tblAll st 3).isEmpty
  let p2 := !(tblAll st 4).isEmpty || !(tblAll st 5).isEmpty
  let rings := tblAll l 5
  (p1 && (tblAll l 1).any fun e => bit e 9 && (List.range 512).any fun i => bit e (512 + i) && !leafPresent l i)
    || (p2 && (rings.any (fun e => bits e 15 3 == 3 && decide (bits e 5 5 < 16))
      || anyPair (fun a b => bits a 0 5 == bits b 0 5 && bits a 10 5 == bits b 10 5
          && (bits a 15 3 == 1 || bits a 15 3 == 2) && (bits b 15 3 == 1 || bits b 15 3 == 2)) rings
      || (tblAll l 4).any fun e => bit e 9 && (List.range 4).any fun i =>
          !ringServes l (bits e 15 5) (bits e 20 2) i (bits e (52 + 5 * i) 5)))

/-- Whether a stream is admitted: it runs, or is bound and waits (R191). -/
def streamAdmitted (s : State) : Bool := s.str.running || s.prog.sAdm.isSome

/-- A scratch window may open during start-up before the first admission, while its RT is in test, or in recovery (R98). -/
def mayOpen (s : State) (rt : Nat) : Bool :=
  (decide (s.disc.phase < 9) && !s.prog.everAdm) || decide (rt ∈ s.prog.rtTest ∨ s.disc.phase = 0xF)

/-- The STREAM refusals (R98, R191, R477). -/
def streamBad (s : State) (l st : Entries) : Bool :=
  let held (c : Nat) : Bool := (s.str.running && s.str.capo == c) || (s.prog.sAdm.any fun a => descCapo a.desc == c)
    || s.prog.queue.any fun q => descCapo q.1 == c && !bit q.1 96
  (!(tblAll st 0x10).isEmpty && accStore l != s.accMib && (streamAdmitted s || (s.wins.any fun w => w.2.isSome)))
    || (stagedIn st 0x11).any (fun e => bit e 3 && !scratchOpen s.prog.eff (bits e 0 3) && !mayOpen s (bits e 0 3))
    || (tblAll st 1).any fun e =>
        let o := (tblFind s.prog.eff 1 (bits e 0 9)).getD 0
        held (bits e 0 9) && (bit o 10 != bit e 10 || bits o 16 16 != bits e 16 16)

/-- The windows after the entries of table 0x0D taken in order, or the number of the first refused condition of R203; 0 for a removal
that R245 refuses. -/
def winStage (s : State) : List Nat → State × Option Nat
  | [] => (s, none)
  | e :: t =>
    let d := winDescOf e
    if tblRemoves 0x0D e then
      match winOf s d.wid with
      | none => (s, some 0)
      | some w => if w.st = .active ∨ w.st = .finalising then (s, some 0) else winStage { s with wins := s.wins.set d.wid none } t
    else
      match winRefusal s (newWindow s d) with
      | some k => (s, some k)
      | none => winStage (if (winOf s d.wid).isNone then setWin s (newWindow s d) else s) t

/-- The RESOURCE refusals with their DETAIL (R203, R220, R311). -/
def resourceBad (s : State) (l st : Entries) : Option Nat :=
  let onWin := (removedRegions s st).any fun g =>
    (s.wins.filterMap (·.2)).any (fun w => w.d.capo == g.capo && decide (overlap (w.d.base / 4096) w.d.lenp g.vpage g.npages ≠ 0))
      || (s.shards.filterMap (·.2)).any fun x => x.capo == g.capo
          && decide (overlap x.base (x.len64 * 64) (g.vpage * 4096) (g.npages * 4096) ≠ 0)
  if onWin then some 0
  else
    match (winStage { s with prog := { s.prog with eff := l }, accMib := if (tblAll st 0x10).isEmpty then s.accMib else accStore l }
        (tblAll st 0x0D)).2 with
    | some k => some k
    | none => if (stagedIn st 0x0E).any fun e => !shardOwned (shardDescOf e) then some 1 else none

/-- Whether a commit of a capo or of the domain must wait for another (R274, R485). -/
def busyBad (s : State) (capo : Option Nat) : Bool :=
  match capo with
  | none => !s.prog.commits.isEmpty
  | some c =>
    if capoPinned s.prog.eff c then s.prog.commits.any fun p => p.capo.isNone || p.capo == some c
    else s.prog.commits.any fun p => !(p.capo.any (capoPinned s.prog.eff))

/-- A group that is not PRIV and spans domains, while another capo is pinned and so holds a window of every bridge string (R287,
R480). -/
def scopeBad (s : State) (l st : Entries) : Bool :=
  (site s).bridges && (stagedIn st 0x0F).any fun e => !grpPriv e && grpXdom e && (pinnedCapos l).any (· != bits e 12 9)

/-- The first failing reason of a commit, in the order of Table 9-3, with its DETAIL (R273). -/
def commitRefusal (s : State) (st : Entries) (capo : Option Nat) (epoch : Nat) : Option (Nat × Nat) :=
  let l := tblApplyAll s.prog.eff st
  if scopeBad s l st then some (3, 0)
  else if rangeBad s l st then some (8, 0)
  else if relationBad st then some (9, 0)
  else if poolBad s l st then some (0x0A, 0)
  else if pairBad l st then some (0x0B, 0)
  else if busyBad s capo then some (0x0C, 0)
  else if epoch < s.clk.now + 100000 ∨ s.clk.now + 10000000000 < epoch then some (0x0D, 0)
  else if streamBad s l st then some (0x0E, 0)
  else (resourceBad s l st).map fun k => (0x0F, k)

/-- The entries that belong to a capo, of the tables that its own programs may stage (R272). -/
def ownEntry (s : State) (capo t e : Nat) : Bool :=
  let o := (tblFind s.prog.eff t (tblKey t e)).getD 0
  match t with
  | 0x0A => bits e 0 9 == capo
  | 0x0C => bits (if tblRemoves t e then o else e) 16 9 == capo
  | 0x0D => if tblRemoves t e then (winOf s (bits e 0 13)).all fun w => w.d.capo == capo else bits e 288 9 == capo
  | 0x0E => if tblRemoves t e then (s.shards.get (bits e 0 12) none).all fun x => x.capo == capo else bits e 112 9 == capo
  | 0x0F => bits e 12 9 == capo
  | _ => false

end Sys2Proof.Machine
end

