-- ==== Sys2Proof/Machine/SisP.lean ====
section
/-! DEFINITION. The image of a program and SIS-P: its sections, op records and phases, what the binder refuses, and what a binding keeps
(R256 to R259, R264). -/

namespace Sys2Proof.Machine

open Sys2Proof

/-! The image (R256). -/

/-- The bytes [off, off + n) of an image. -/
def imgBytes (i : List Byte) (off n : Nat) : List Byte := (i.drop off).take n
def imgNat (i : List Byte) (off n : Nat) : Nat := ofLe (imgBytes i off n)
def imgNsect (i : List Byte) : Nat := imgNat i 6 1
def imgIscr (i : List Byte) : Nat := imgNat i 8 4
def imgNitem (i : List Byte) : Nat := imgNat i 12 2

/-- The section table: (TYPE, OFF, LEN) with the entry's bits. -/
def imgSects (i : List Byte) : List (Nat × Nat × Nat × Nat) :=
  (List.range (imgNsect i)).map fun k =>
    let e := imgNat i (64 + 16 * k) 16
    (bits e 0 8, bits e 32 32, bits e 96 32, e)

/-- The bytes of a section; none where it is absent. -/
def imgSect (i : List Byte) (ty : Nat) : List Byte :=
  match (imgSects i).find? fun x => x.1 == ty with
  | some x => imgBytes i x.2.1 x.2.2.1
  | none => []

/-- The section types of a kind: 0x01 to 0x06 for a stream, 0x07 and 0x08 for a control program. -/
def sectKind (control : Bool) (ty : Nat) : Bool := if control then ty == 7 || ty == 8 else decide (1 ≤ ty ∧ ty ≤ 6)

/-- The digest at the image's end, and whether it matches (R256). -/
def imgDigest (i : List Byte) : List Byte := i.drop (i.length - 48)
def digestOk (i : List Byte) : Bool := decide (sha384 (i.take (i.length - 48)) = imgDigest i)

/-- The words of a section, n bytes each. -/
def imgWords (i : List Byte) (ty n : Nat) : List Nat :=
  let b := imgSect i ty
  (List.range (b.length / n)).map fun k => imgNat b (n * k) n

/-- The segments of the ENVELOPE: peak in W and energy in mJ, 48 bits each (R262, log entry 51). -/
def imgSegs (i : List Byte) : List (Nat × Nat) :=
  let b := imgSect i 6
  (List.range (b.length / 6)).map fun k => (imgNat b (6 * k) 2, imgNat b (6 * k + 2) 4)

/-- The wait entries, Table 8-5. -/
def imgWaits (i : List Byte) : TMap Nat WaitEntry :=
  (imgWords i 2 32).zipIdx.map fun (e, k) =>
    (k, { kind := bits e 0 2, ecn := bits e 2 4, tile := bits e 6 3, ctr := bits e 16 16, target0 := BitVec.ofNat 64 (bits e 64 64),
          step := BitVec.ofNat 64 (bits e 128 64), target := BitVec.ofNat 64 (bits e 64 64) })

/-- The handler table, Table 9-6, with each handler's code. -/
def imgHandlers (i : List Byte) : List (Nat × Handler × List Byte) :=
  let c := imgSect i 4
  (imgWords i 3 32).zipIdx.map fun (e, k) =>
    (k, { first := bits e 0 8, count := bits e 8 8, entry := bits e 96 18, param := BitVec.ofNat 64 (bits e 128 64),
          maxcyc := bits e 192 32 }, imgBytes c (bits e 32 32) (bits e 64 18))


/-! SIS-P op records (R257, Table 9-5a). -/

/-- An op record: the unit, the work item, the op in its SIS-B layout, and the distance back to the op whose result it reads. -/
structure OpRec where
  part : Nat
  item : Nat
  op : Nat
  dep : Nat
deriving DecidableEq, Repr

def recOf (e : Nat) : OpRec := { part := bits e 0 3, item := bits e 8 8, op := bits e 32 64, dep := bits e 96 16 }

/-- The width of an op of a part (Table 8-1). -/
def opWidth (part : Nat) : Nat := if part = 0 then 64 else if part = 1 then 40 else if part = 4 then 16 else 32

/-- The form of a record: reserved bits zero, a part that exists, an op no wider than its layout, and an item of the program. -/
def recOk (nitem e : Nat) : Bool :=
  let r := recOf e
  bits e 3 5 == 0 && bits e 16 16 == 0 && bits e 112 16 == 0 && decide (r.part ≤ 4) && decide (r.op < 2 ^ opWidth r.part)
    && (r.part == 0 || decide (r.item < nitem))

/-- The records of the CODE section, 16 bytes each. -/
def imgCode (i : List Byte) : List OpRec := (imgWords i 1 16).map recOf

/-- The form of the CODE section. -/
def codeOk (i : List Byte) : Bool := (imgSect i 1).length % 16 == 0 && (imgWords i 1 16).all (recOk (imgNitem i))

/-- The format of an image: header, reserved bits, sections of the kind between the table and the digest, and the op records of a
stream (R256, R257; log entry 182). -/
def imgOk (i : List Byte) (control : Bool) : Bool :=
  let h := imgNat i 0 64
  bits h 0 32 == 0x53495350 && bits h 32 8 == 1 && bit h 40 == control && bits h 41 7 == 0 && bits h 56 8 == 0 && bits h 112 400 == 0
    && !outside 1 16 (imgNsect i) && imgIscr i % 4096 == 0 && (control || !outside 1 256 (imgNitem i))
    && (imgSects i).all (fun x => sectKind control x.1 && bits x.2.2.2 8 24 == 0 && bits x.2.2.2 64 32 == 0
          && decide (64 + 16 * imgNsect i ≤ x.2.1 ∧ x.2.1 + x.2.2.1 + 48 ≤ i.length))
    && !anyPair (fun a b => a.1 == b.1) (imgSects i) && (control || codeOk i)


/-- The opcode of a record of a tile slot. -/
def recOpcode (r : OpRec) : Nat := bits r.op 0 (if r.part = 2 then 5 else 4)

/-- A record of a declaration or removal, which the binder places in the slot of the lowest tile (R245). -/
def isDecl (r : OpRec) : Bool := r.part == 4 && decide (4 ≤ recOpcode r)

/-- Records with their phases: a head record that carries a WAIT opens the next (R257). -/
def phases : Nat → List OpRec → List (Nat × OpRec)
  | _, [] => []
  | k, r :: t =>
    let k' := if r.part = 0 ∧ bits r.op 40 2 = 2 then k + 1 else k
    (k', r) :: phases k' t

/-- The records of the tile at position p of T, in the order in which it runs them: phase by phase, and within a phase the items j with
j mod T = p one after another, each in record order (R258, R259). -/
def tileRecs (rs : List OpRec) (nitem n p : Nat) : List OpRec :=
  let ps := phases 0 rs
  (List.range (ps.length + 1)).flatMap fun ph =>
    let here := ps.filter fun x => x.1 == ph && x.2.part != 0
    if here.isEmpty then []
    else ((List.range nitem).filter fun j => j % n == p).flatMap fun j => (here.filter fun x => x.2.item == j).map (·.2)

/-! What the binder refuses (Table 9-5). -/

/-- The fields of a matrix op (Table 8-7). -/
def matOpOf (op : Nat) : MatOp :=
  { grp := bits op 4 3, me := bits op 7 5, areg := bits op 12 4, fmt := bits op 16 3, pi := bit op 19, flip := bit op 20 }

/-- Whether an item's matrix ops pair a STEP with a tile outside Table 7-5, or name no ME format; `bufs` holds what is known of each ME's
active and idle buffers (R196, R258). -/
def pairsBad : TMap Nat (Option Nat × Option Nat) → List OpRec → Bool
  | _, [] => false
  | bufs, r :: t =>
    let o := matOpOf r.op
    let ms := (groupMes o).getD []
    let k := recOpcode r
    if r.part ≠ 1 ∨ (k ≠ 1 ∧ k ≠ 2) then pairsBad bufs t
    else if 7 ≤ o.fmt then true
    else if k = 2 then pairsBad (ms.foldl (fun b m => b.set m ((b.get m (none, none)).1, some o.fmt)) bufs) t
    else
      let bufs := if o.flip then ms.foldl (fun b m => b.set m ((b.get m (none, none)).2, (b.get m (none, none)).1)) bufs else bufs
      (ms.any fun m => (bufs.get m (none, none)).1.any fun w => (stepCycles w o.fmt).isNone) || pairsBad bufs t

/-- The records of an item, in order. -/
def itemRecs (rs : List OpRec) (j : Nat) : List OpRec := rs.filter fun r => r.part != 0 && r.item == j

/-- Whether a record names EC15, which the binder keeps: the counter of a GET or PUT, and of a sync op that has one (R258). -/
def namesEc15 (r : OpRec) : Bool :=
  let k := recOpcode r
  if r.part = 3 then (k == 1 || k == 2) && bits r.op 28 4 == 15
  else if r.part = 4 then (k == 1 && bits r.op 12 4 == 15) || (k == 3 && bits r.op 4 4 == 15) || (decide (4 ≤ k) && bits r.op 8 4 == 15)
  else false

/-- Whether a head record names a wait entry. -/
def headWaits (op : Nat) : Bool := bits op 40 2 == 1 || bits op 40 2 == 2 || bits op 0 4 == 2 || bits op 0 4 == 3 || bits op 0 4 == 9

/-- Whether a head record has a TGT (Table 8-4). -/
def headJumps (op : Nat) : Bool := bits op 0 4 == 1 || bits op 0 4 == 2 || bits op 0 4 == 3 || bits op 0 4 == 5 || bits op 0 4 == 6

/-- A handler table entry that Table 9-6 does not allow. -/
def handlerBad (i : List Byte) (e : Nat) : Bool :=
  bits e 16 16 != 0 || bits e 82 14 != 0 || bits e 114 14 != 0 || bits e 224 32 != 0 || decide (255 < bits e 0 8 + bits e 8 8)
    || decide (65536 < bits e 64 18) || decide ((imgSect i 4).length < bits e 32 32 + bits e 64 18) || bits e 192 32 == 0

/-- Whether a record's DEP reaches outside its item: `seen` counts the records of each item so far. -/
def depsBad : TMap Nat Nat → List OpRec → Bool
  | _, [] => false
  | seen, r :: t =>
    if r.part = 0 then depsBad seen t
    else decide (seen.get r.item 0 < r.dep) || depsBad (seen.set r.item (seen.get r.item 0 + 1)) t

/-- Whether a TGT names no head record: it is the index of a record in CODE (log entry 182). -/
def tgtBad (rs : List OpRec) (r : OpRec) : Bool :=
  r.part == 0 && headJumps r.op && ((rs[bits r.op 4 16]?).map (·.part)) != some 0

/-- The refusal that an image gives the binder for a number of tiles and a size of general scratch, the lowest code first (Table 9-5). What
firmware alone finds, codes 0x02 and 0x04, comes with the binder's result (log entry 182). -/
def binderRefusal (i : List Byte) (tiles top : Nat) : Option Nat :=
  let rs := imgCode i
  let heads := rs.filter fun r => r.part == 0
  let waits := imgWaits i
  let items := List.range (imgNitem i)
  let onTile := (imgNitem i + tiles - 1) / max tiles 1
  let segs := (imgSegs i).length
  if items.any fun j => pairsBad [] (itemRecs rs j) then some 1
  else if decide (248 < waits.length) || heads.any (fun r => headWaits r.op && decide (247 < bits r.op 42 8)) then some 3
  else if rs.any namesEc15 || waits.any (fun w => (w.2.kind == 1 || w.2.kind == 2) && w.2.ecn == 15) then some 4
  else if top < onTile * imgIscr i + (imgSect i 5).length then some 5
  else if (imgWords i 3 32).any (handlerBad i) || decide (256 < (imgWords i 3 32).length) then some 6
  else if depsBad [] rs then some 7
  else if rs.any (tgtBad rs) then some 8
  else if segs = 0 ∨ 256 < segs ∨ heads.any (fun r => bit r.op 50 && decide (segs ≤ bits r.op 51 8)) then some 9
  else none

/-! What a binding keeps (R258). -/

/-- A head without its TGT, which the binder sets anew. -/
def headKept (op : Nat) : Nat := op - bits op 4 16 * 16

/-- A head that the binder may insert: empty, or one that arms or waits on an entry above 247. -/
def headOwn (op : Nat) : Bool := headKept op == 0 || (bits op 0 4 == 0 && !bit op 50 && bits op 40 2 != 0 && decide (247 < bits op 42 8))

/-- The bundles of a binding in the order of their addresses. -/
def inOrder (b : List (Nat × BitVec 1024)) : List (Nat × Nat) := (sortBy (fun x y => decide (x.1 ≤ y.1)) b).map fun x => (x.1, x.2.toNat)

/-- The opcode of a part in a tile slot of a bundle. -/
def slotOpcode (b n part : Nat) : Nat :=
  if part = 1 then slotBits b n 0 4 else if part = 2 then slotBits b n 40 5 else if part = 3 then slotBits b n 72 4 else slotBits b n 104 4

/-- The sync ops of a tile that are no declarations, with the addresses of their bundles. -/
def slotSyncs (b : List (Nat × BitVec 1024)) (n : Nat) : List (Nat × Nat) :=
  ((inOrder b).map fun x => (x.1, slotOpcode x.2 n 4)).filter fun x => x.2 != 0 && decide (x.2 < 4)

/-- The opcodes of a part in a tile's slots in order, and those of its records: NOPs and declarations left out. -/
def slotOpcodes (b : List (Nat × BitVec 1024)) (n part : Nat) : List Nat :=
  if part = 4 then (slotSyncs b n).map (·.2) else ((inOrder b).map fun x => slotOpcode x.2 n part).filter (· != 0)

def recOpcodes (rs : List OpRec) (part : Nat) : List Nat :=
  ((rs.filter fun r => r.part == part && !isDecl r).map recOpcode).filter (· != 0)

/-- Whether bundles bind an image for a set of tiles: every tile runs the ops of its items in their order, in each of its units; the
heads keep theirs, but for those that the binder inserts; no address lies beyond the store (R258, R259). -/
def binds (i : List Byte) (tiles : List Nat) (b : List (Nat × BitVec 1024)) : Bool :=
  let rs := imgCode i
  let heads := ((rs.filter fun r => r.part == 0).map (·.op)).filter (!headOwn ·)
  (b.all fun x => decide (x.1 < 65536))
    && (((inOrder b).map fun x => bits x.2 0 64).filter (!headOwn ·)).map headKept == heads.map headKept
    && tiles.zipIdx.all fun t =>
      let own := tileRecs rs (imgNitem i) tiles.length t.2
      [1, 2, 3, 4].all fun part => slotOpcodes b t.1 part == recOpcodes own part

/-- The work item of every LAUNCH of a bound image, by bundle address and tile (R264). -/
def launchItems (i : List Byte) (tiles : List Nat) (b : List (Nat × BitVec 1024)) : TMap (Nat × Nat) Nat :=
  let rs := imgCode i
  tiles.zipIdx.flatMap fun t =>
    let own := (tileRecs rs (imgNitem i) tiles.length t.2).filter fun r => r.part == 4 && recOpcode r != 0 && !isDecl r
    (((slotSyncs b t.1).zip own).filter fun x => x.1.2 == 1).map fun x => ((x.1.1, t.1), x.2.item)

end Sys2Proof.Machine
end

