-- ==== Sys2Proof/Machine/Admission.lean ====
section
/-! DEFINITION. Programs at admission, and the start and end of a chip stream (R246, R248, R251 to R264, R479). -/

namespace Sys2Proof.Machine

open Sys2Proof

/-! The admission descriptor (Table 9-1). -/

def descImage (d : Nat) : W64 := BitVec.ofNat 64 (bits d 0 64)
def descLen (d : Nat) : Nat := bits d 64 32
def descControl (d : Nat) : Bool := bit d 96
def descSeedSel (d : Nat) : Bool := bit d 97
def descSeed (d : Nat) : W64 := BitVec.ofNat 64 (bits d 128 64)
def descReport (d : Nat) : W64 := BitVec.ofNat 64 (bits d 192 64)
def descRctr (d : Nat) : Nat := bits d 256 16
def descMaxcyc (d : Nat) : Nat := bits d 288 64

/-- REPORT is well formed: KIND 0b000 or 0b010, 64-aligned. -/
def reportOk (d : Nat) : Bool :=
  (aKind (descReport d) == 0 || aKind (descReport d) == 2) && zerosOk (descReport d) && bits d 192 6 == 0

/-- The format of a descriptor (R253). -/
def descOk (s : State) (d : Nat) : Bool :=
  let a := descImage d
  bits d 98 14 == 0 && bits d 121 7 == 0 && bits d 272 16 == 0 && bits d 352 160 == 0 && reportOk d && zerosOk a && bits d 0 6 == 0
    && (aKind a == 0 || (aKind a == 2 && ownCourse s a)) && !outside 128 67108864 (descLen d)

/-- Whether a loader may submit a program of domain scope (R252). -/
def loaderDomain (s : State) : Via → Bool
  | .host p => portPriv s.prog.eff p
  | _ => true

/-- Whether a loader may name a capo (R252). -/
def loaderMay (s : State) (v : Via) (capo : Nat) : Bool :=
  match v with
  | .host p => portPriv s.prog.eff p || portCapo s.prog.eff p == capo
  | _ => true

/-! Reports (R254, R255). -/

/-- The 512 bits of a report record, Table 9-2. -/
def reportBits (r : Report) : Nat :=
  r.event % 16 + r.reason % 256 * 2 ^ 4 + r.cstate % 256 * 2 ^ 12 + r.tiles % 256 * 2 ^ 20 + r.detail % 2 ^ 32 * 2 ^ 32
    + r.seed.toNat * 2 ^ 64 + r.time % 2 ^ 64 * 2 ^ 128 + r.digest.toNat * 2 ^ 192 + r.cycles % 2 ^ 64 * 2 ^ 256
    + r.epoch % 2 ^ 64 * 2 ^ 320

/-- The 512 bits of an exception record, Table 8-17. -/
def excBits (e : ExcRec) : Nat :=
  e.cause % 256 + e.tile % 8 * 2 ^ 8 + e.part % 8 * 2 ^ 11 + e.pc % 65536 * 2 ^ 16 + e.status % 16 * 2 ^ 32 + e.others % 65536 * 2 ^ 48
    + e.cycle % 2 ^ 64 * 2 ^ 64 + e.time % 2 ^ 64 * 2 ^ 128 + e.errAddr.toNat * 2 ^ 192 + e.detail % 2 ^ 32 * 2 ^ 256

/-- The counter RCTR in the control space of the leaf, or of the member that owns the REPORT page (Table 9-1). -/
def rctrAddr (d : Nat) : W64 :=
  let a := descReport d
  if aKind a = 2 then mkAddr 4 (aDy a) (aDx a) (aLy a) (ofB (ownerB (aOff a))) (2 ^ 45 + 0x80000 + 8 * descRctr d)
  else mkAddr 4 (aDy a) (aDx a) (aLy a) (aLx a) (0x10000 + 8 * descRctr d)

/-- Sixty-four bytes stored for a loader, in the capo of its program. -/
def reportStore (s : State) (d off n : Nat) (ow : Owner) : State :=
  kIssue s { op := 2, capo := descCapo d, addr := descReport d + BitVec.ofNat 64 off, len := 64, data := leBytes 64 n } ow

/-- A report record: written at REPORT; RCTR rises once it is (R255). A malformed REPORT takes none. -/
def sendReport (s : State) (d : Nat) (r : Report) : State :=
  let r := { r with time := s.clk.now }
  if reportOk d then
    reportStore (emit s (.report (descReport d) r (descRctr d))) d 0 (reportBits r) (.report (some (rctrAddr d, descCapo d)))
  else s

/-- An exception record at REPORT + 64 (R254). -/
def sendExc (s : State) (d : Nat) (e : ExcRec) : State :=
  if reportOk d then
    reportStore (emit s (.excReport (descReport d + 64) e)) d 64 (excBits e) (.report none)
  else s

/-- A report record is written: RCTR rises by 1 (R255). -/
def reportDone (s : State) (ctr : Option (W64 × Nat)) (c : Cmp) : State :=
  match ctr with
  | some (a, capo) =>
    if c.status == .ok then kIssue s { op := 0x10, attr := 1, op0 := 1, len := 8, capo := capo, addr := a } (.report none) else s
  | none => s

/-! Steps 1 to 4 (R253). -/

def admOf (s : State) (control : Bool) : Option Adm := if control then s.prog.cAdm else s.prog.sAdm
def setAdm (s : State) (control : Bool) (a : Option Adm) : State :=
  if control then { s with prog := { s.prog with cAdm := a } } else { s with prog := { s.prog with sAdm := a } }

/-- The set of tiles as TILES of Table 9-2. -/
def tileMask (l : List Nat) : Nat := (l.map fun n => 2 ^ n).sum

/-- An admission is written to the scroll with the whole digest (R256). -/
def admNote (s : State) (d event reason : Nat) (image : List Byte) : State :=
  scroll s 6 .admission (siteMC s) [event, reason, ofLe (imgDigest image)] (some (descCapo d))

/-- An admission ends with a REFUSED record (R253). -/
def refuseAdm (s : State) (control : Bool) (a : Adm) (reason detail : Nat) : State :=
  let s := setAdm s control none
  sendReport (admNote s a.desc 2 reason a.image) a.desc
    { event := 2, reason := reason, detail := detail, seed := a.seed.getD 0, tiles := tileMask a.tiles, digest := a.digest }

/-- The tiles in service (R258). -/
def inService (s : State) : List Nat := (List.range 8).filter (rtUp s)

/-- The image is read (R253): reads of up to 4 KiB, in the program's capo. -/
def readImage (s : State) (control : Bool) (d : Nat) : State :=
  (pieces 16386 (descImage d).toNat 0 (descLen d)).foldl
    (fun s p => kIssue s { op := 1, capo := descCapo d, addr := descImage d + BitVec.ofNat 64 p.1, len := p.2 } (.image control p.1)) s

/-- A read of the image has completed. -/
def imageDone (s : State) (control : Bool) (off : Nat) (c : Cmp) : State :=
  match admOf s control with
  | none => s
  | some a =>
    setAdm s control (some { a with
      left := a.left - 1
      parts := if c.status == .ok then a.parts.set off c.data else a.parts
      fail := if c.status == .ok then a.fail else a.fail.or (some c.status) })

/-- ADMISSION_START: the oldest descriptor of its kind leaves the queue; its format and its scope are checked, and the image is
read (R252 to R254). -/
def execAdmissionStart (control : Bool) (s : State) : Res :=
  .next (match s.prog.queue.find? fun q => descControl q.1 == control with
    | none => s
    | some (d, v) =>
      if (admOf s control).isSome || (control && s.prog.ctl.isSome) then s
      else
        let s := { s with prog := { s.prog with queue := dropFirst (fun q => descControl q.1 == control) s.prog.queue } }
        let a : Adm := { desc := d, domain := loaderDomain s v, left := (pieces 16386 (descImage d).toNat 0 (descLen d)).length }
        if !descOk s d then refuseAdm s control a 1 0
        else if !loaderMay s v (descCapo d) then refuseAdm s control a 3 0
        else readImage (setAdm s control (some a)) control d)

/-- Binding of an image for a set of tiles begins, or is skipped where the cache holds it (R258). -/
def bindStart (a : Adm) (s : State) : State :=
  let ts := inService s
  if ts.isEmpty then refuseAdm s false { a with tiles := [] } 0x11 0
  else setAdm s false (some { a with step := 2, tiles := ts })

/-- Segment 0 of the envelope is asked for (R253, R262). -/
def admSegment (s : State) (a : Adm) : State :=
  match a.seg0 with
  | some _ => setAdm s false (some { a with step := 5 })
  | none =>
    let x := ledgerGrant s (descCapo a.desc) ((imgSegs a.image).headD (0, 0)).1
    match x.2 with
    | some d => setAdm x.1 false (some { a with step := 5, seg0 := some d })
    | none => setAdm x.1 false (some { a with step := 4, waitSince := if a.step = 4 then a.waitSince else s.clk.now })

/-- Sixty-four bits of the TRNG (R261, R494); a free value where no released block holds them. -/
def drawSeed (s : State) : State × W64 :=
  match s.sec.pool with
  | x :: t => ({ s with sec := { s.sec with pool := t } }, x)
  | [] => ({ s with free := s.free + 1 }, Config.freeBits s.free)

/-- The seed is obtained, or waited for while the TRNG releases nothing (R261, R495). -/
def admSeed (s : State) (a : Adm) : State :=
  match a.seed with
  | some _ => admSegment s a
  | none =>
    if descSeedSel a.desc then admSegment s { a with seed := some (descSeed a.desc) }
    else if s.sec.trngOk then
      let x := drawSeed s
      admSegment x.1 { a with seed := some x.2 }
    else
      { setAdm s false (some { a with step := 3, waitSince := s.clk.now }) with
        sec := { s.sec with waiters := s.sec.waiters ++ [0] } }

/-- A bound image: step 4 goes on with the seed. -/
def bound (s : State) (a : Adm) (b : List (Nat × BitVec 1024)) : State := admSeed s { a with bound := b }

/-- The image of a digest bound for a set of tiles, in the cache (R258). -/
def cachedImage (s : State) (a : Adm) : Option (List (Nat × BitVec 1024)) :=
  (s.prog.cache.find? fun x => x.1 == a.digest && x.2.1 == a.tiles).map (·.2.2)

/-- An image begins to be bound, and is bound at once where the cache hits. -/
def bindOrHit (s : State) (a : Adm) : State :=
  let s := bindStart a s
  match s.prog.sAdm with
  | some a =>
    match cachedImage s a with
    | some b => bound s a b
    | none => s
  | none => s

/-- A control program is admitted and starts (R253). -/
def startControl (s : State) (a : Adm) : State :=
  let s := setAdm s true none
  let s := { s with prog := { s.prog with ctl := some { desc := a.desc, domain := a.domain, digest := a.digest } } }
  sendReport (admNote s a.desc 1 0 a.image) a.desc { event := 1, digest := a.digest }

/-- IMAGE_FETCH_COMPLETE: every read of the image has completed; header and digest are checked, a control program starts and a
stream's image is bound (R253, R256, R258). -/
def execImageFetchComplete (control : Bool) (s : State) : Res :=
  .next (match admOf s control with
    | none => s
    | some a =>
      if a.step ≠ 1 ∨ a.left ≠ 0 then s
      else
        match a.fail with
        | some f => refuseAdm s control a 4 (statusCode f)
        | none =>
          let i := ((sortBy (fun x y => decide (x.1 ≤ y.1)) a.parts).flatMap (·.2))
          let a := { a with image := i, parts := [], digest := BitVec.ofNat 64 (ofLe ((imgDigest i).take 8)) }
          if !imgOk i control then refuseAdm s control a 1 0
          else if !digestOk i then refuseAdm s control a 2 0
          else if control then startControl s a
          else bindOrHit s a)

/-- BIND_COMPLETE: the binder ends, with a refusal of Table 9-5 or with the bundles; MC keeps the last 16 bound images (R258). Bundles that do
not hold the image's ops in their order are no binding of it (log entry 182). -/
def execBindComplete (code : Nat) (bundles : List (Nat × BitVec 1024)) (s : State) : Res :=
  .next (match s.prog.sAdm with
    | none => s
    | some a =>
      if a.step ≠ 2 then s
      else
        match (binderRefusal a.image a.tiles.length (scrTop s)).or (if code = 2 ∨ code = 4 then some code else none) with
        | some k => refuseAdm s false a 5 k
        | none =>
        if !binds a.image a.tiles bundles then s
        else
        let c := (s.prog.cache.filter fun x => !(x.1 == a.digest && x.2.1 == a.tiles)) ++ [(a.digest, a.tiles, bundles)]
        bound { s with prog := { s.prog with cache := c.drop (c.length - 16) } } a bundles)

/-- SEED_WAIT_TIMEOUT: the TRNG has released nothing for 10 ms (R261). -/
def execSeedWaitTimeout (s : State) : Res :=
  .next (match s.prog.sAdm with
    | none => s
    | some a =>
      if a.step = 3 ∧ a.waitSince + 10000000 ≤ s.clk.now ∧ !s.sec.trngOk then
        refuseAdm { s with sec := { s.sec with waiters := s.sec.waiters.filter (· != 0) } } false a 6 0
      else s)

/-- ADMISSION_ENERGY_TIMEOUT: segment 0 was not admitted within the capo's barrier timeout (R262). -/
def execAdmissionEnergyTimeout (s : State) : Res :=
  .next (match s.prog.sAdm with
    | none => s
    | some a =>
      if a.step = 4 ∧ a.waitSince + capoBto s.prog.eff (descCapo a.desc) * 1000000 ≤ s.clk.now then refuseAdm s false a 7 0 else s)

/-! Step 5: the stream starts (R253, R258, R264, R479). -/

/-- The pinned capo that owns the present RT slot (R479). -/
def slotOwner (s : State) : Option Nat := (pinnedCapos s.prog.eff).find? fun c => bit (capoSlots s.prog.eff c) (s.clk.now / 1000000 % 16)

/-- Whether a stream of a capo may start now: a pinned one at the start of a slot it owns, a shared one in a shared slot (R479). -/
def slotLets (s : State) (capo : Nat) : Bool :=
  if capoPinned s.prog.eff capo then slotOwner s == some capo && s.clk.now % 1000000 == 0 else (slotOwner s).isNone

/-- Whether an accepted commit changes A (R276). -/
def changesA (s : State) : Bool := s.prog.commits.any fun p => p.entries.any fun e => e.1.1 == 0x10

/-- Code and data of an image are placed: each handler's code at local address 0 of its cores, DATA at the start of each item's
scratch (R253, R264, log entry 52). -/
def loadTile (a : Adm) (s : State) (t : Nat) : State :=
  let hs := imgHandlers a.image
  let p := (a.tiles.takeWhile (· != t)).length
  let items := (List.range (imgNitem a.image)).filter fun k => k % a.tiles.length == p
  let s := hs.foldl (fun s h => (List.range (h.2.1.count + 1)).foldl
    (fun s c => scratchWrite s (localKey t (h.2.1.first + c) 0) h.2.2 false) s) (setTile s t {})
  let b := imgSect a.image 5
  items.foldl (fun s k => scratchWrite s (scrKey t (k / a.tiles.length * imgIscr a.image)) b false) s

/-- The stream of an admission starts at bundle 0 (R226, R228, R237, R253). -/
def startStream (s : State) (a : Adm) : State :=
  let s := setAdm s false none
  let s := a.tiles.foldl (loadTile a) s
  let s := setStr s
    { running := true, capo := descCapo a.desc, pinned := capoPinned s.prog.eff (descCapo a.desc)
      imageLen := (a.bound.map (·.1 + 1)).foldl max 0, store := a.bound, tiles := a.tiles, waits := imgWaits a.image
      segs := imgSegs a.image, seg := some 0, dutyAt := [(12, a.seg0.getD 16)], maxcyc := descMaxcyc a.desc
      seed := a.seed.getD 0, handlers := (imgHandlers a.image).map fun h => (h.1, h.2.1), desc := a.desc, digest := a.digest
      nextOp := s.str.nextOp, items := launchItems a.image a.tiles a.bound }
  let s := sampleWaits { s with prog := { s.prog with everAdm := true }, elg := { s.elg with segUsed := 0, overD1 := false } }
  setBallast (sendReport (admNote s a.desc 1 0 a.image) a.desc
    { event := 1, tiles := tileMask a.tiles, seed := a.seed.getD 0, digest := a.digest })

/-- Step 5 of an admission, where everything it waits for allows it, and the tiles do not halt for want of the reference (R25); a changed set of tiles binds the image again (R258). -/
def tryStart (s : State) : State :=
  match s.prog.sAdm with
  | none => s
  | some a =>
    if a.step ≠ 5 ∨ s.str.running then s
    else if a.tiles ≠ inService s then bindOrHit s a
    else if s.clk.refLost || changesA s || !slotLets s (descCapo a.desc) || a.tiles.any (scratchOpen s.prog.eff) then s
    else startStream s a

/-- STREAM_START (R253). -/
def execStreamStart (s : State) : Res := .next (tryStart s)

/-! The end of a stream (R246, R248, R254, R263). -/

/-- Whether nothing that a stream started is still running (R246, R248). -/
def streamIdle (s : State) : Bool :=
  s.str.tiles.all fun n =>
    let t := tileOf s n
    (t.eng.all fun e => e.2.isEmpty) && t.launchQ.isEmpty && t.handlers.isEmpty

/-- Stream cycles run. -/
def cyclesRun (s : State) : Nat := nowCycle s + 1

/-- The MEs of a tile count the cycles in which no step was issued to them (Table 7-10). -/
def idleCounts (s : State) (n : Nat) : State :=
  (List.range 32).foldl (fun s m => bump s .rtMeIdle [n, m] (cyclesRun s - (meOfTile (tileOf s n) m).steps)) s

/-- The end of a stream is written to the scroll with its capo, with the exception record if it has one (R248). -/
def endNote (s : State) : State :=
  match s.str.exc with
  | some e => scroll (bump s .rtSeqExc [e.cause]) 6 .streamException (siteMC s) [excBits e] (some s.str.capo)
  | none => scroll s 6 .streamEnd (siteMC s) [cyclesRun s] (some s.str.capo)

/-- The records of a stream that ends: its exception first, then ENDED (R254). -/
def endReports (s : State) : State :=
  let x := s.str
  let s := match x.exc with
    | some e => sendExc s x.desc e
    | none => s
  sendReport s x.desc { event := 3, tiles := tileMask x.tiles, seed := x.seed, digest := x.digest, cycles := cyclesRun s }

/-- The stream is over: results still due are written, the tiles' state goes, and the ledger holds the fall with ballast (R228, R446). -/
def streamOver (s : State) : State :=
  let s := s.str.tiles.foldl (fun s n => settleTile s (2 ^ 64) n) s
  let s := s.str.tiles.foldl idleCounts s
  let s := endReports (endNote s)
  setBallast { s with
    str := { exc := s.str.exc, lastPc := s.str.lastPc, nextOp := s.str.nextOp, cycle := nowCycle s }
    tiles := s.tiles.filter fun t => decide (t.1 ∉ s.str.tiles)
    decls := [] }

/-- STREAM_END: after a HALT or an exception, once nothing the stream started is still running (R246, R248). -/
def execStreamEnd (s : State) : Res :=
  .next (if s.str.running && (s.str.ending || s.str.exc.isSome) && streamIdle s then streamOver s else s)

/-- An ABORT of the running stream. -/
def abortStream (s : State) : State := raiseExc s 0x10 0 7

/-- STREAM_MAXCYC: the stream has run MAXCYC cycles (R263). -/
def execStreamMaxcyc (s : State) : Res :=
  .next (if s.str.running ∧ s.str.maxcyc ≠ 0 ∧ s.str.maxcyc ≤ cyclesRun s then abortStream s else s)

/-- Whether the running stream may not go on in the present slot (R479). -/
def slotEnds (s : State) : Bool :=
  s.str.running && (if s.str.pinned then slotOwner s != some s.str.capo else (slotOwner s).isSome)

/-- RT_SLOT_BOUNDARY: a stream whose slots are over ends with ABORT; one that may start in this slot starts (R263, R479). -/
def execRtSlotBoundary (s : State) : Res :=
  .next (if s.clk.now % 1000000 ≠ 0 ∧ !s.clk.slotDue then s
    else
      let s := { s with clk := { s.clk with slotDue := false } }
      if slotEnds s then abortStream s else tryStart s)

end Sys2Proof.Machine
end

