-- ==== Sys2Proof/Machine/Collect.lean ====
section
/-! DEFINITION. Collectives at the Brola: the group table it reads, its descriptors, chunks and slots, and what a mismatch leaves
(R123, R124, R286 to R289, R292, R297 to R305). -/

namespace Sys2Proof.Machine

open Sys2Proof

/-! Groups (R284, R286, R288). -/

def collQ (s : State) (g : Nat) : CollQ := s.brola.groups.get g {}
def setCollQ (s : State) (g : Nat) (q : CollQ) : State := { s with brola := { s.brola with groups := s.brola.groups.set g q } }
def setCollRun (s : State) (g : Nat) (r : CollRun) : State := setCollQ s g { collQ s g with run := some r }

/-- The leaf's index under its ASSIGN. -/
def myLeaf (s : State) : Nat := (s.brola.asg.map fun a => leafIndex a.ly a.lx).getD 0

/-- The rank of this participant (R286). -/
def rankIn (s : State) (e : Nat) : Nat := grpRbase e + popBelow (e >>> 512) (myLeaf s)

/-- The address of word w of a group's entry at member A of course 0 of the own domain (R288, Table 10-1). -/
def groupAddr (s : State) (g w : Nat) : W64 :=
  let a := s.brola.asg.getD {}
  mkAddr 4 a.dy a.dx 0 0 (2 ^ 45 + 0x140000 + 128 * g + 8 * w)

def readWord (g : Nat) (s : State) (w : Nat) : State := issueAs s .brola { op := 0x32, len := 8, addr := groupAddr s g w } (.groupRead g w)

/-- The word of an entry that holds the leaf's own bit of MEMBERS. -/
def ownWord (s : State) : Nat := 8 + myLeaf s / 64

/-- GROUP_TABLE_READ: the word of each group that holds the own bit is read first (R288). -/
def readGroups (s : State) : State :=
  (List.range 4096).foldl (fun s g => readWord g s (ownWord s))
    { s with brola := { s.brola with reading := List.range 4096, groupWords := [] } }

/-- The table read of an ASSIGN whose digest differs from the one acted upon (R288, R289). -/
def takeDigest (s : State) (d : W64) : State :=
  if s.brola.digest = some d then s else readGroups { s with brola := { s.brola with digest := some d } }

/-! Descriptors (Table 10-5). -/

/-- The sixty-four bytes of a descriptor read from memory: COP and the rest. -/
def collDescOf (n : Nat) : Nat × CollDesc :=
  (bits n 0 4,
    { fmt := bits n 4 4, rop := bits n 8 2, exact := bit n 10, group := bits n 16 12, count := bits n 32 32, srcBuf := bits n 64 64,
      dstBuf := BitVec.ofNat 64 (bits n 128 64), ctr := bits n 192 16, root := bits n 208 15, mrec := bits n 224 64,
      rsvd := bits n 11 5 + bits n 28 4 + bits n 223 1 + bits n 288 224 })

def isReduction (cop : Nat) : Bool := cop == 1 || cop == 2 || cop == 3
/-- Size of an element: one byte for GSHARD (Table 10-6). -/
def collElem (cop : Nat) (d : CollDesc) : Nat := if cop = 7 then 1 else fmtSize d.fmt
/-- C of Table 10-6. -/
def collBytes (cop : Nat) (d : CollDesc) : Nat := d.count * collElem cop d
/-- Bytes of a slot. -/
def slotBytes (e : Nat) : Nat := grpSlen e * 4096

/-- Whether a descriptor that is not FUSED fits Table 10-5 and the group's entry (R287, R297); a store's bytes must make requests of
R60 (log entry 58). -/
def collFits (s : State) (cop : Nat) (d : CollDesc) : Bool :=
  match (collQ s d.group).entry with
  | none => false
  | some e =>
    let c := collBytes cop d
    decide (1 ≤ cop ∧ cop ≤ 7) && d.rsvd == 0 && decide (d.fmt ≤ 6) && decide (d.rop ≤ 2) && !grpPriv e && decide (d.count < 2 ^ 32)
      && (cop != 2 || d.count % max (grpNtot e) 1 == 0)
      && (!(cop == 3 || cop == 5) || decide (d.root < grpNtot e))
      && (cop != 4 || decide (grpNtot e * c ≤ grpGlen e * 4096)) && (cop != 5 || decide (c ≤ grpGlen e * 4096))
      && (cop != 7 || (aKind d.dstBuf == 2 && d.dstBuf.toNat % 8 == 0))
      && (!(cop == 4 || cop == 5 || cop == 7) || c % 8 == 0)

/-- The sub-descriptors of a FUSED descriptor, from the leaf's memory (R302). -/
def fusedSubs (s : State) (d : CollDesc) : List (Nat × CollDesc) :=
  (List.range d.count).map fun i => collDescOf (Memory.readLe s.brola.mem (d.srcBuf + 64 * i) 64)

/-- Whether a descriptor may be posted (R297, R302). -/
def collOk (s : State) (cop : Nat) (d : CollDesc) : Bool :=
  if cop = 8 then
    (collQ s d.group).entry.isSome && d.rsvd == 0 && decide (d.fmt ≤ 6) && decide (d.rop ≤ 2) && decide (1 ≤ d.count ∧ d.count ≤ 64)
      && (fusedSubs s d).all fun x => x.2.group == d.group && x.1 != 8 && collFits s x.1 x.2
  else collFits s cop d

/-! The requests of a descriptor (R298, R299, Table 10-6). -/

/-- The window of a slot, as far as a Brola must know it (R299, log entry 55). -/
def slotWin (s : State) (e k : Nat) : WinDesc :=
  let c := grpSlotCourse e k
  let w := grpSlotWid e k
  let here := grpRdy e == (site s).dy && grpRdx e == (site s).dx && c == (site s).course
  match if here then winOf s w else none with
  | some x => x.d
  | none =>
    let b := (Config.slotWindow c w).toNat
    { wid := w, base := bits b 0 34 * 4096, fmt := bits b 34 4, rop := bits b 40 2, mode := if bit b 39 then 2 else bits b 38 1 }

/-- The slot of chunk j (R298). -/
def slotOf (r : CollRun) (j : Nat) : Nat := (r.ge + j) % grpNslot r.e

/-- OPERAND0 of a contribution, Table 10-7. -/
def collOp0 (r : CollRun) : W64 :=
  BitVec.ofNat 64 (r.d.count % 2 ^ 32 + r.ge % 65536 * 2 ^ 32 + r.d.fmt % 16 * 2 ^ 48 + r.d.rop % 4 * 2 ^ 52 + ofB r.d.exact * 2 ^ 54
    + r.cop % 16 * 2 ^ 55)

/-- The bytes of chunk j: the input, padded with the identity of ROP (R298). -/
def chunkBytes (s : State) (r : CollRun) (j : Nat) : List Byte :=
  let n := slotBytes r.e
  let c := collBytes r.cop r.d
  let z := fmtSize r.d.fmt
  let have_ := min n (c - j * n)
  Memory.readN s.brola.mem (r.d.srcBuf + j * n) have_
    ++ (List.range ((n - have_) / z)).flatMap fun _ => leBytes z (ropIdentity r.d.fmt r.d.rop)

/-- Whether a range of the leaf's memory holds a poisoned word; a contribution or store of it carries POISON. -/
def leafPoisoned (s : State) (a n : Nat) : Bool := (wordsOf a n).any fun w => decide (w ∈ s.brola.poison ∨ w ∈ s.brola.latent)

/-- The contributions of chunk j (R299): one request for each page of the slot. -/
def sendChunk (s : State) (g : Nat) (r : CollRun) (j : Nat) : State :=
  let w := slotWin s r.e (slotOf r j)
  let bs := chunkBytes s r j
  let n := slotBytes r.e
  let fmt := if w.fmt = 15 then r.d.fmt else w.fmt
  let exact := if w.mode = 2 then r.d.exact else w.mode == 1
  let bad := leafPoisoned s (r.d.srcBuf + j * n) (min n (collBytes r.cop r.d - j * n))
  let s := setCollRun s g { r with next := j + 1, under := r.under.set j (grpSlen r.e, false) }
  (List.range (grpSlen r.e)).foldl (fun s i =>
    issueAs s .brola
      { op := if exact then 0x21 else 0x20, group := g, epoch := (r.ge + j) % 65536, attr := fmt + 16 * w.rop, op0 := collOp0 r,
        poison := bad, len := 4096, data := (bs.drop (4096 * i)).take 4096,
        addr := mkAddr 2 (grpRdy r.e) (grpRdx r.e) (grpSlotCourse r.e (slotOf r j)) 0 (w.base + 4096 * i) } (.coll g false j)) s

/-- The bytes [lo, hi) of the result that this participant loads (Table 10-6). -/
def loadSpan (s : State) (r : CollRun) : Nat × Nat :=
  let c := collBytes r.cop r.d
  let z := collElem r.cop r.d
  let k := rankIn s r.e
  if r.cop = 2 then (k * r.d.count / max (grpNtot r.e) 1 * z, (k + 1) * r.d.count / max (grpNtot r.e) 1 * z)
  else if r.cop = 3 then (0, if k = r.d.root then c else 0)
  else if r.cop = 4 then (0, grpNtot r.e * c)
  else (0, c)

/-- Loads of n bytes at an offset of a course of the root domain, in whole 8-byte words (R60). -/
def loadRange (s : State) (g : Nat) (r : CollRun) (course at_ len chunk : Nat) : State × Nat :=
  let off := at_ / 8 * 8
  let n := (at_ + len + 7) / 8 * 8 - off
  let ps := pieces (n / 4096 + 2) off 0 n
  (ps.foldl (fun s p => issueAs s .brola
    { op := 1, len := p.2, addr := mkAddr 2 (grpRdy r.e) (grpRdx r.e) course 0 (off + p.1) } (.coll g true chunk)) s, ps.length)

/-- The loads of a finalised chunk (R298): none where this participant loads nothing of it. -/
def loadChunk (s : State) (g : Nat) (r : CollRun) (j : Nat) : State :=
  let n := slotBytes r.e
  let sp := loadSpan s r
  let lo := max sp.1 (j * n)
  let hi := min sp.2 ((j + 1) * n)
  if hi ≤ lo then setCollRun s g { r with under := r.under.erase j }
  else
    let x := loadRange s g r (grpSlotCourse r.e (slotOf r j)) ((slotWin s r.e (slotOf r j)).base + (lo - j * n)) (hi - lo) j
    setCollRun x.1 g { r with under := r.under.set j (x.2, true) }

/-- Stores of C bytes of the input at an address. -/
def storeRange (s : State) (g : Nat) (r : CollRun) (a : W64) (n : Nat) : State × Nat :=
  let ps := pieces (n / 4096 + 2) a.toNat 0 n
  (ps.foldl (fun s p => issueAs s .brola
    { op := 2, len := p.2, addr := a + BitVec.ofNat 64 p.1, data := Memory.readN s.brola.mem (r.d.srcBuf + p.1) p.2,
      poison := leafPoisoned s (r.d.srcBuf + p.1) p.2 } (.coll g false 0)) s, ps.length)

/-- The gather region of a group (Table 10-3). -/
def gatherAddr (e off : Nat) : W64 := mkAddr 2 (grpRdy e) (grpRdx e) (grpCourse e) 0 (grpGbase e + off)

/-- The BARR of a group: at the course and member of R124, with the group's barrier epoch, which rises (R292). -/
def sendBarr (s : State) (g : Nat) (e : Nat) : State :=
  let a := s.brola.asg.getD {}
  let q := collQ s g
  let c := (g ^^^ (g / 16) ^^^ (g / 256)) % max a.k 1
  issueAs (setCollQ s g { q with bepoch := (q.bepoch + 1) % 65536 }) .brola
    { op := 0x34, len := 8, group := g, epoch := q.bepoch, op0 := BitVec.ofNat 64 (grpNtot e),
      addr := mkAddr 4 a.dy a.dx c (g % 2) (2 ^ 45 + 0x100000 + 8 * g) } (.coll g false 0)

/-! Descriptors begin, advance and end (R297, R298, R302, R303). -/

/-- A descriptor begins under the entry in force: a reduction takes its epochs; the others send their first requests. -/
def collBegin (s : State) (g cop : Nat) (d : CollDesc) (e sub : Nat) (fused : Option CollDesc) (subs : List (Nat × CollDesc)) : State :=
  let q := collQ s g
  let red := isReduction cop
  let n := if red then (collBytes cop d + slotBytes e - 1) / max (slotBytes e) 1 else 0
  let r : CollRun := { cop := cop, d := d, e := e, ge := q.ge, chunks := n, sub := sub, fused := fused, subs := subs }
  let s := setCollQ s g { q with ge := (q.ge + n) % 65536, run := some r }
  let k := rankIn s e
  if red then s
  else if cop = 4 ∨ cop = 7 ∨ (cop = 5 ∧ k = d.root) then
    let c := collBytes cop d
    let x := storeRange s g r (if cop = 7 then d.dstBuf + BitVec.ofNat 64 (k * c) else gatherAddr e (if cop = 4 then k * c else 0)) c
    setCollRun x.1 g { r with left := x.2 }
  else sendBarr (setCollRun s g { r with stage := 2, left := 1 }) g e

/-- The mismatch record, Table 10-8. -/
def mismatchBits (r : CollRun) (epoch : Nat) (c : Cmp) : Nat :=
  6 + r.sub % 64 * 2 ^ 4 + epoch % 65536 * 2 ^ 16 + c.sigOp % 256 * 2 ^ 32 + c.sigFmt % 16 * 2 ^ 40 + c.sigGepoch % 65536 * 2 ^ 48
    + c.sigCount % 2 ^ 32 * 2 ^ 64 + c.conflict % 65536 * 2 ^ 96 + (collOp0 r).toNat * 2 ^ 128

/-- A request of a descriptor failed: no further chunk is sent; the first failure is the descriptor's status. COLL_MISMATCH writes the
record at MREC; it and TIMEOUT put the group out of step (R303, R305). -/
def collFail (s : State) (g : Nat) (r : CollRun) (req : Req) (c : Cmp) : State :=
  let first := r.status == .ok
  let s := setCollRun s g { r with next := r.chunks, status := if first then c.status else r.status,
                                   errAddr := if first then c.errAddr else r.errAddr }
  let m := ((r.fused.map (·.mrec)).getD r.d.mrec)
  let s := if c.status == .collMismatch && r.status != .collMismatch && m != 0 then
      leafWrite s m (leBytes 64 (mismatchBits r req.epoch c)) false else s
  if c.status == .collMismatch || c.status == .timeout then setCollQ s g { collQ s g with outOfStep := true } else s

/-- A descriptor ends: its status goes to the error record of its counter, and CTR rises by 1 (R297). -/
def collEnd (s : State) (d : CollDesc) (f : Status × W64) : State :=
  raiseLeaf (if f.1 == .ok then s else copyError s d.ctr f) d.ctr 1

/-- The run of a queue is over: the next sub-descriptor of a FUSED one, or the end (R302). -/
def collOver (s : State) (g : Nat) (r : CollRun) : State :=
  match r.fused, r.subs with
  | some f, (cop, d) :: t => if r.status == .ok then collBegin s g cop d r.e (r.sub + 1) (some f) t
    else collEnd (setCollQ s g { collQ s g with run := none }) f (r.status, r.errAddr)
  | some f, [] => collEnd (setCollQ s g { collQ s g with run := none }) f (r.status, r.errAddr)
  | none, _ => collEnd (setCollQ s g { collQ s g with run := none }) r.d (r.status, r.errAddr)

/-- The stage after every request of one has completed (Table 10-6). -/
def collStage (s : State) (g : Nat) (r : CollRun) : State :=
  if r.status != .ok then collOver s g r
  else if r.stage = 0 ∧ (r.cop = 4 ∨ r.cop = 5) then sendBarr (setCollRun s g { r with stage := 2, left := 1 }) g r.e
  else if r.stage = 2 ∧ (r.cop = 4 ∨ (r.cop = 5 ∧ rankIn s r.e ≠ r.d.root)) then
    let x := loadRange s g r (grpCourse r.e) (grpGbase r.e) (loadSpan s r).2 0
    setCollRun x.1 g { r with stage := 1, left := x.2 }
  else collOver s g r

/-- Whether the slot of a chunk is free: the chunk NSLOT + 1 before it is done (R298). -/
def slotFree (r : CollRun) (j : Nat) : Bool := decide (j < grpNslot r.e) || (TMap.find r.under (j - grpNslot r.e)).isNone

/-- The next descriptor of a queue starts in posting order, once the group's entry is read (R288); one that no longer fits is refused. -/
def collNext (s : State) (g : Nat) (q : CollQ) : Option State :=
  match q.queue with
  | [] => none
  | (cop, d) :: t =>
    if g ∈ s.brola.reading then none
    else
      let s := setCollQ s g { q with queue := t }
      if q.outOfStep then some (collEnd s d (.collMismatch, 0))
      else
        match q.entry with
        | none => some (emit s (.portRefused g .accDenied))
        | some e =>
          if !collOk s cop d then some (emit s (.portRefused g .accDenied))
          else if cop = 8 then
            match fusedSubs s d with
            | [] => some s
            | x :: l => some (collBegin s g x.1 x.2 e 0 (some d) l)
          else some (collBegin s g cop d e 0 none [])

/-- What a queue can do now: start a descriptor, send a chunk, go on to a stage, end. -/
def collAdvance (s : State) (g : Nat) : Option State :=
  let q := collQ s g
  match q.run with
  | none => collNext s g q
  | some r =>
    if isReduction r.cop then
      if r.next < r.chunks then (if slotFree r r.next then some (sendChunk s g r r.next) else none)
      else if r.under.isEmpty then some (collOver s g r)
      else none
    else if r.left = 0 then some (collStage s g r)
    else none

/-- A queue goes on as far as it can. -/
def collGo : Nat → State → Nat → State
  | 0, s, _ => s
  | k + 1, s, g =>
    match collAdvance s g with
    | some s' => collGo k s' g
    | none => s

def collRun (s : State) (g : Nat) : State := collGo 512 s g

/-- Loaded bytes land in DSTBUF: packed from the first byte that this participant loads. -/
def collLand (s : State) (r : CollRun) (chunk : Nat) (c : Cmp) : State :=
  let red := isReduction r.cop
  let base := if red then (slotWin s r.e (slotOf r chunk)).base else grpGbase r.e
  let o := (if red then chunk * slotBytes r.e else 0) + (aOff c.reqAddr - base)
  let sp := loadSpan s r
  leafWrite s (r.d.dstBuf.toNat + (o - sp.1)) ((c.data.take (sp.2 - o)).drop (sp.1 - o)) false

/-- A request of a group's descriptor has completed. -/
def collDone (s : State) (g : Nat) (load : Bool) (chunk : Nat) (req : Req) (c : Cmp) : State :=
  match (collQ s g).run with
  | none => s
  | some r =>
    let ok := c.status == .ok
    let s := if ok then (if load then collLand s r chunk c else s) else collFail s g r req c
    let r := ((collQ s g).run).getD r
    if isReduction r.cop then
      match TMap.find r.under chunk with
      | none => s
      | some (n, ld) =>
        if 1 < n then setCollRun s g { r with under := r.under.set chunk (n - 1, ld) }
        else if ld || r.status != .ok then collRun (setCollRun s g { r with under := r.under.erase chunk }) g
        else collRun (loadChunk s g r chunk) g
    else collRun (setCollRun s g { r with left := r.left - 1 }) g

/-! What the accelerator posts (R297, R304). -/

/-- A descriptor is posted to its group's queue of 64: refused with ACC_DENIED, ended at once with COLL_MISMATCH out of step, or queued
and started in its turn. The port does not accept a 65th. -/
def collPost (s : State) (cop : Nat) (d : CollDesc) : State :=
  let q := collQ s d.group
  if d.group ∈ s.brola.reading then
    (if q.queue.length < 64 then setCollQ s d.group { q with queue := q.queue ++ [(cop, d)] } else s)
  else if !collOk s cop d then emit s (.portRefused d.group .accDenied)
  else if q.outOfStep then collEnd s d (.collMismatch, 0)
  else if 64 ≤ q.queue.length then s
  else collRun (setCollQ s d.group { q with queue := q.queue ++ [(cop, d)] }) d.group

/-- ALLREDUCE (R298). -/
def execAllreduce (d : CollDesc) (s : State) : Res := .next (collPost s 1 d)
/-- RSCATTER (R298). -/
def execRscatter (d : CollDesc) (s : State) : Res := .next (collPost s 2 d)
/-- REDUCE (R298). -/
def execReduce (d : CollDesc) (s : State) : Res := .next (collPost s 3 d)
/-- ALLGATHER (R297). -/
def execAllgather (d : CollDesc) (s : State) : Res := .next (collPost s 4 d)
/-- BCAST (R297). -/
def execBcast (d : CollDesc) (s : State) : Res := .next (collPost s 5 d)
/-- BARRIER (R292). -/
def execBarrier (d : CollDesc) (s : State) : Res := .next (collPost s 6 d)
/-- GSHARD (R297). -/
def execGshard (d : CollDesc) (s : State) : Res := .next (collPost s 7 d)
/-- FUSED (R302). -/
def execFused (d : CollDesc) (s : State) : Res := .next (collPost s 8 d)

/-- GROUP_RESET: ends the out-of-step state; the new group epoch is GE of the next descriptor, and the barrier epoch stays (R304). -/
def execGroupReset (group epoch : Nat) (s : State) : Res :=
  let q := collQ s group
  .next (if q.entry.isSome then collRun (setCollQ s group { q with outOfStep := false, ge := epoch % 65536 }) group else s)

/-! The group table read (R288). -/

/-- The sixteen words of an entry as one number. -/
def wordsNat (m : TMap Nat W64) : Nat := ((List.range 16).map fun w => (m.get w 0).toNat * 2 ^ (64 * w)).sum

/-- A group's read ends with an entry, or without one; a Brola holds 256 groups, and a further one is not created (Table 4-1). -/
def readEnds (s : State) (g : Nat) (e : Option Nat) : State :=
  let full := decide ((s.brola.groups.filter fun x => x.1 != g && x.2.entry.isSome).length ≥ 256)
  let e := if full then none else e
  let s := { s with brola := { s.brola with reading := s.brola.reading.filter (· != g), groupWords := s.brola.groupWords.erase g } }
  collRun (setCollQ s g { collQ s g with entry := e }) g

/-- A word of a group's entry has been read: without the own bit in MEMBERS the leaf is no member; with it the other words follow. A
read that fails leaves the entry as it was. -/
def groupReadDone (s : State) (g w : Nat) (c : Cmp) : State :=
  if g ∉ s.brola.reading then s
  else if c.status != .ok then readEnds s g (collQ s g).entry
  else
    let m := (s.brola.groupWords.get g []).set w c.result
    let s := { s with brola := { s.brola with groupWords := s.brola.groupWords.set g m } }
    if w = ownWord s ∧ m.length = 1 then
      if bit c.result.toNat (myLeaf s % 64) then
        ((List.range 16).filter (· != w)).foldl (readWord g) s
      else readEnds s g none
    else if m.length = 16 then readEnds s g (some (wordsNat m))
    else s

end Sys2Proof.Machine
end

