-- ==== Sys2Proof/Machine/BrolaPort.lean ====
section
/-! DEFINITION. The Brola's local request port: requests of the accelerator, translation by ATS, access windows and kernel hooks
(R111, R115, R116, R120, R125 to R128). -/

namespace Sys2Proof.Machine

open Sys2Proof

/-! Completions to the accelerator (R111, R114). -/

def kernelOf (s : State) (ktag : Nat) : Bool × Nat := s.brola.kernels.get ktag (false, 0)
def setKernel (s : State) (ktag : Nat) (x : Bool × Nat) : State := { s with brola := { s.brola with kernels := s.brola.kernels.set ktag x } }

/-- A request's one completion reaches the accelerator: of a DUPLICATE its original status; one that is not OK counts for its kernel
(R114, R128). -/
def portFinish (s : State) (tag ktag : Nat) (c : Cmp) : State :=
  let c := if c.status = .duplicate then { c with status := c.origStatus } else c
  let k := kernelOf s ktag
  let s := if c.status = .ok then s else setKernel s ktag (k.1, k.2 + 1)
  emit s (.portDone tag c)

/-- A request refused at the port draws its one completion there, which is not OK and counts for its kernel (R111, R128). -/
def portRefuse (s : State) (tag ktag : Nat) : State :=
  let k := kernelOf s ktag
  emit (setKernel s ktag (k.1, k.2 + 1)) (.portRefused tag .accDenied)

/-! Requests (R111, R120, R125). -/

/-- The format check at the port: R61 as the addressee judges it. -/
def portFormat (r : Req) : Bool :=
  let c := copyDesc r
  formatFits (destOf c.dst == destOf r.addr && aKind c.dst == (if aSwitch r.addr then 2 else 0)) r

/-- The accelerator's own write of a leaf control location (R120). -/
def lfStore (s : State) (l : LfLoc) (x : Nat) : State :=
  let b := s.brola
  match l with
  | .flag f => { s with brola := { b with flags := b.flags.set f (x % 2 == 1) } }
  | .ctr k => { s with brola := { b with ctrs := b.ctrs.set k (BitVec.ofNat 64 x) } }
  | .err k w =>
    let e := b.errs.get k {}
    let e := if w = 0 then { e with status := bits x 0 4, fails := bits x 8 16 } else { e with errAddr := BitVec.ofNat 64 x }
    { s with brola := { b with errs := b.errs.set k e } }
  | _ => s

/-- INV that the accelerator issues to its own leaf (R96): SCOPE 0b00 is a discard command, completed after its acknowledgement; 0b01
completes when the requests translated through the copies it discards have (R126, R127). -/
def portInv (s : State) (p : PortReq) (r : Req) : State :=
  let i : PortInv := { tag := p.tag, ktag := p.ktag, r := r }
  if r.attr % 4 = 0 then
    let x := discardCmd s r.op0.toNat r.op1.toNat none
    { x.1 with brola := { x.1.brola with portInvs := x.1.brola.portInvs.set x.2 (some i) } }
  else if r.attr % 4 = 1 && !invFree s r then (invAdd s { port := some i, lo := r.op0.toNat, len := r.op1.toNat }).1
  else
    let s := if r.attr % 4 = 1 then (dropXlates s r.op0.toNat r.op1.toNat).1 else s
    portFinish s p.tag p.ktag (cmpOf r (brolaSrc s) .ok)

/-- A request of the accelerator to its own leaf's control space, performed when the port accepts it (R120). Of the copy queue an LD reads
0, and an ST to it or to the read-only identity words is refused with ACC_DENIED (DESIGN CHOICE, log entry 172). -/
def portLocal (s : State) (p : PortReq) (l : LfLoc) : State :=
  let r := { p.req with src := brolaSrc s }
  let fin := fun (d : Done) => portFinish d.s p.tag p.ktag d.c
  let fits := decide (r.len = 8 ∧ r.addr.toNat % 8 = 0)
  if r.op = 1 then
    (if fits then fin (loadDone s .brola r (leBytes 8 (lfWord s l))) else portRefuse s p.tag p.ktag)
  else if r.op = 2 then
    (match l with
    | .ident _ => portRefuse s p.tag p.ktag
    | .copyQ => portRefuse s p.tag p.ktag
    | _ => if fits then fin ⟨lfStore s l (ofLe (r.data.take 8)), cmpOf r (brolaSrc s) .ok, []⟩ else portRefuse s p.tag p.ktag)
  else if !portFormat r || !lfAccepts l r then portRefuse s p.tag p.ktag
  else if r.op = 0x3C then portInv s p r
  else if r.op = 0x38 then
    (match copyBadB s r with
    | some d => fin d
    | none =>
      if s.brola.copyQ.length ≥ 1024 then fin (retryIn s .brola r 10)
      else fin ⟨{ s with brola := { s.brola with copyQ := s.brola.copyQ ++ [r] } }, cmpOf r (brolaSrc s) .ok, []⟩)
  else fin (lfPerform s r l)

/-- Whether an opcode changes memory, so that its translation needs write permission; an LD through a read-only copy goes on (DESIGN
CHOICE, log entry 172). -/
def needsWrite (op : Nat) : Bool := opIsWrite op || op == 0x38 || op == 0x3E

/-- The copy that translates a virtual address of a PASID, with its number. -/
def xlateHit (s : State) (va pasid : Nat) : Option (Nat × AtsXlate) :=
  s.brola.xlates.find? fun x => x.2.pasid == pasid && decide (x.2.vbase ≤ va ∧ va < x.2.vbase + x.2.size)

/-- A translation copy used: it becomes the most recent. -/
def xlateTouch (s : State) (x : Nat × AtsXlate) : State :=
  { s with brola := { s.brola with xlates := (s.brola.xlates.filter fun y => y.1 != x.1) ++ [x] } }

/-- A request with its fabric address issued, or refused where its format breaks R61. -/
def portIssue (s : State) (tag ktag : Nat) (r : Req) (src : Option Nat) : State :=
  if portFormat r then issue s .brola { r with src := brolaSrc s, capo := (s.brola.asg.map (·.capo)).getD 0 } (.port tag ktag) none src
  else portRefuse s tag ktag

/-- A request translated through a copy; without write permission it ends with XLATE_FAULT. -/
def portXlated (s : State) (tag ktag : Nat) (r : Req) (va : Nat) (x : Nat × AtsXlate) : State :=
  if needsWrite r.op && !x.2.write then portFinish s tag ktag (cmpErr r (brolaSrc s) .xlateFault (BitVec.ofNat 64 va))
  else portIssue (xlateTouch s x) tag ktag { r with addr := x.2.fbase + BitVec.ofNat 64 (va - x.2.vbase) } (some x.1)

/-- A request that misses waits, and a Translation Request goes to the host (R125). Its SEQ is taken once it is translated. -/
def portWait (s : State) (p : PortReq) : State :=
  let q := s.brola.rq
  let va := p.req.addr.toNat
  let o : Outst := { id := q.nextId, r := p.req, dest := destOf p.req.addr, owner := .port p.tag p.ktag, accepted := s.brola.now,
                     waitXlate := some (va, p.pasid) }
  emit (setRq s .brola { q with nextId := q.nextId + 1, out := q.out ++ [o] }) (.atsRequest q.nextId va p.pasid)

/-- Requests of the port that are outstanding, which they are from their release (R108, Table 4-1). -/
def portCount (s : State) : Nat := (s.brola.rq.out.filter fun o => o.released && match o.owner with
  | .port _ _ => true
  | _ => false).length

/-- The accelerator's read of one of the Brola's counters: its value in RESULT (R550; log entry 175). -/
def portCounter (s : State) (p : PortReq) (k : CtrKey) : State :=
  if isBrolaCtr k then portFinish s p.tag p.ktag { cmpOf p.req (brolaSrc s) .ok with result := BitVec.ofNat 64 (count s k.1 k.2) }
  else portRefuse s p.tag p.ktag

/-- A location of the own leaf's control space, if the address names one. -/
def portLoc (s : State) (r : Req) : Option LfLoc :=
  if aKind r.addr == 4 && !aSwitch r.addr && ownLeaf s r.addr then lfLoc (aOff r.addr % 2 ^ 45) else none

/-- PORT_REQUEST: the port accepts a request while fewer than 8,192 are outstanding (R110, R111, R120, R125, R550). -/
def execPortRequest (p : PortReq) (s : State) : Res :=
  .next (match p.ctr with
    | some k => portCounter s p k
    | none =>
      if p.v then
        (if 8192 ≤ portCount s then s
        else
          match xlateHit s p.req.addr.toNat p.pasid with
          | some x => portXlated s p.tag p.ktag p.req p.req.addr.toNat x
          | none => portWait s p)
      else
        match portLoc s p.req with
        | some l => portLocal s p l
        | none => if 8192 ≤ portCount s then s else portIssue s p.tag p.ktag p.req none)

/-! Translation (R125, R126). -/

/-- The tags and translation of a request that waits for one. -/
def waiting (o : Outst) : Option (Nat × Nat × Nat × Nat) :=
  match o.waitXlate, o.owner with
  | some w, .port tag ktag => some (w.1, w.2, tag, ktag)
  | _, _ => none

/-- A copy added: the least recently used of 32,768 goes (Table 4-1). Page sizes of 4 KiB to 1 GiB are accepted. -/
def xlateAdd (s : State) (x : AtsXlate) : State × (Nat × AtsXlate) :=
  let b := s.brola
  let e := (b.nextXlate, x)
  let l := if b.xlates.length ≥ 32768 then b.xlates.drop 1 else b.xlates
  ({ s with brola := { b with xlates := l ++ [e], nextXlate := b.nextXlate + 1 } }, e)

/-- Whether a returned page is one the Brola accepts, and holds the address. -/
def xlateOk (x : AtsXlate) (va : Nat) : Bool :=
  decide (4096 ≤ x.size ∧ x.size ≤ 2 ^ 30 ∧ x.vbase ≤ va ∧ va < x.vbase + x.size)

/-- ATS_TRANSLATION_COMPLETE (R125). -/
def execAtsTranslationComplete (id : Nat) (x : Option AtsXlate) (s : State) : Res :=
  .next (match findOut s .brola id with
    | none => s
    | some o =>
      match waiting o with
      | none => s
      | some (va, pasid, tag, ktag) =>
        let s := dropOut s .brola id
        match x with
        | none => portFinish s tag ktag (cmpErr o.r (brolaSrc s) .xlateFault o.r.addr)
        | some x =>
          if xlateOk x va then
            let y := xlateAdd s { x with pasid := pasid }
            portXlated y.1 tag ktag o.r va y.2
          else portFinish s tag ktag (cmpErr o.r (brolaSrc s) .xlateFault o.r.addr))

/-- ATS_TRANSLATION_TIMEOUT: the capo's completion timeout has run since the acceptance (R125). -/
def execAtsTranslationTimeout (id : Nat) (s : State) : Res :=
  .next (match findOut s .brola id with
    | none => s
    | some o =>
      match waiting o with
      | none => s
      | some (_, _, tag, ktag) =>
        if o.accepted + (s.brola.asg.map (·.cto)).getD 8000 * 1000 ≤ s.brola.now then
          portFinish (dropOut s .brola id) tag ktag (cmpErr o.r (brolaSrc s) .xlateFault o.r.addr)
        else s)

/-- ATS_INVALIDATION: every copy in the range is discarded; up to 32 are processed at once (R126). -/
def execAtsInvalidation (tag lo len : Nat) (s : State) : Res := .next (invAdd s { tag := some tag, lo := lo, len := len }).1

/-- Whether every request that an invalidation waits for has its completion. -/
def invalDone (s : State) (i : Inval) : Bool := i.begun && i.waits.all fun id => (findOut s .brola id).isNone

/-- INV and the accelerator's own INV complete by themselves; an ATS invalidation with its row's command. -/
def invEnds (s : State) (i : Inval) : Bool := i.tag.isNone && invalDone s i

/-- The completion of an INV of SCOPE 0b01 (R126). -/
def invFinish (s : State) (i : Inval) : State :=
  match i.inv, i.port with
  | some x, _ => settle x.1 x.2 (refuse s .brola x.1 .ok)
  | none, some p => portFinish s p.tag p.ktag (cmpOf p.r (brolaSrc s) .ok)
  | none, none => s

/-- An invalidation begins: it discards its copies. -/
def invBegin (s : State) (i : Inval) : State :=
  let x := dropXlates s i.lo i.len
  { x.1 with brola := { x.1.brola with
      atsInv := replaceFirst (fun y => !y.begun) (fun y => { y with begun := true, waits := x.2 }) x.1.brola.atsInv } }

/-- What the invalidations can do now: one whose requests have completed ends, or one that waits its turn begins (R126). -/
def invStep (s : State) : Option State :=
  match s.brola.atsInv.find? (invEnds s) with
  | some i => some (invFinish { s with brola := { s.brola with atsInv := dropFirst (invEnds s) s.brola.atsInv } } i)
  | none => if invRoom s then (s.brola.atsInv.find? fun i => !i.begun).map (invBegin s) else none

def invGo : Nat → State → State
  | 0, s => s
  | k + 1, s =>
    match invStep s with
    | some s' => invGo k s'
    | none => s

/-- The invalidations go on as far as they can. -/
def invSettle (s : State) : State := invGo (2 * s.brola.atsInv.length) s

/-- ATS_INVALIDATION_COMPLETE (R126). -/
def execAtsInvalidationComplete (tag : Nat) (s : State) : Res :=
  let mine := fun (i : Inval) => i.tag == some tag
  .next (match s.brola.atsInv.find? mine with
    | none => s
    | some i =>
      if invalDone s i then
        invSettle (emit { s with brola := { s.brola with atsInv := dropFirst mine s.brola.atsInv } } (.atsInvDone tag))
      else s)

/-! Access windows (R115, R116). -/

/-- Where the scratchpad window lies (R116). -/
def spadBase : Nat := 0x3F0000000000

/-- The size of the scratchpad window: the one reported in ATTACH, at most 64 GiB (R116). -/
def spadSize (s : State) : Nat := min s.brola.spadGiB 64 * 2 ^ 30

/-- Whether a window may be defined: 64 of them, multiples of 256 bytes; the scratchpad's in its own place, of its own size, and open only
under a condition of R99 (R116; log entry 174). -/
def accWinOk (s : State) (idx : Nat) (w : AccWin) : Bool :=
  decide (idx < 64 ∧ w.base % 256 = 0 ∧ w.len % 256 = 0)
    && (!w.spad || (decide (w.base = spadBase ∧ w.len = spadSize s) && (!w.isOpen || spadHolds s w)))

/-- ACCESS_WINDOW_DEFINE (R115). -/
def execAccessWindowDefine (idx : Nat) (w : AccWin) (s : State) : Res :=
  .next (if accWinOk s idx w then { s with brola := { s.brola with wins := s.brola.wins.set idx w } } else s)

/-! Kernel hooks (R95, R127, R128). -/

/-- KERNEL_BEGIN: the accelerator is commanded to discard the lines that R95 lists; the range of the command is the whole
address space (R127). -/
def execKernelBegin (ktag : Nat) (s : State) : Res := .next (discardCmd (setKernel s ktag (false, 0)) 0 (2 ^ 64) (some ktag)).1

/-- DISCARD_ACK: the Brola signals begin, or completes the INV of SCOPE 0b00 (R127). -/
def execDiscardAck (id : Nat) (s : State) : Res :=
  .next (match s.brola.discards.find? fun d => d.1 == id with
    | none => s
    | some d =>
      let s := { s with brola := { s.brola with discards := s.brola.discards.filter fun x => x.1 != id } }
      if d.2 = 0 then
        match s.brola.portInvs.get id none with
        | some i => portFinish { s with brola := { s.brola with portInvs := s.brola.portInvs.erase id } } i.tag i.ktag
            (cmpOf i.r (brolaSrc s) .ok)
        | none => (match s.brola.resp.running.find? fun x => x.why == .discard id with
        | none => s
        | some x => settle x.r x.v (refuse s .brola x.r .ok))
      else emit (setKernel s (d.2 - 1) (true, (kernelOf s (d.2 - 1)).2)) (.kernelBegin (d.2 - 1)))

/-- KERNEL_END: the accelerator's signal is taken; end is signalled when KERNEL_END_SIGNAL's condition holds (R128). -/
def execKernelEnd (ktag : Nat) (s : State) : Res :=
  .next { s with brola := { s.brola with kEnding := insertOnce ktag s.brola.kEnding } }

/-- Whether an INV of the accelerator's own under a kernel tag has not completed. -/
def kernelInv (ktag : Nat) (i : Option PortInv) : Bool := (i.map (·.ktag)) == some ktag

/-- Whether a request issued under a kernel tag has not received its completion (R128). -/
def kernelBusy (s : State) (ktag : Nat) : Bool := s.brola.rq.out.any (fun o => match o.owner with
  | .port _ k => k == ktag
  | _ => false)
    || s.brola.portInvs.any (fun x => kernelInv ktag x.2) || s.brola.atsInv.any fun i => kernelInv ktag i.port

/-- KERNEL_END_SIGNAL: every request of the kernel has completed; end is signalled with the count of those not OK (R128). -/
def execKernelEndSignal (ktag : Nat) (s : State) : Res :=
  .next (if ktag ∈ s.brola.kEnding ∧ !kernelBusy s ktag then
      let n := (kernelOf s ktag).2
      emit { s with brola := { s.brola with
        kEnding := s.brola.kEnding.filter (· != ktag), kernels := s.brola.kernels.erase ktag } } (.kernelEnd ktag n)
    else s)

end Sys2Proof.Machine
end

