-- ==== Sys2Proof/Machine/Programs.lean ====
section
/-! DEFINITION. Control programs: staging, commits and their effect, and the operations that are not staged (R37, R155, R160, R161,
R170, R269 to R279, R311 to R313, R322, R354, R383, R429, R465, R495, R514). -/

namespace Sys2Proof.Machine

open Sys2Proof

/-! The control program that runs (R269). -/

def setCtl (s : State) (c : Option CtlProg) : State := { s with prog := { s.prog with ctl := c } }

/-- The running control program executes its next record, unless a record of it still waits. -/
def withCtl (s : State) (f : State → CtlProg → State) : State :=
  match s.prog.ctl with
  | none => s
  | some c => if c.waitt.isSome || c.rtout.isSome || c.seedWait.isSome then s else f s c

/-- The program ends; changes staged and not committed are discarded (R254, R269, R274). -/
def endCtl (s : State) (c : CtlProg) (reason : Nat) : State :=
  sendReport (setCtl s none) c.desc { event := 3, reason := reason, digest := c.digest }

/-- The capo of a program of capo scope. -/
def ctlCapo (c : CtlProg) : Option Nat := if c.domain then none else some (descCapo c.desc)

/-- A record that only a program of domain scope may hold ends another with SCOPE (R272, Table 9-3). -/
def domainOnly (s : State) (f : State → CtlProg → State) : State := withCtl s fun s c => if c.domain then f s c else endCtl s c 3

/-! STAGE and UNSTAGE (R269, R270, R272). -/

/-- Tables mirrored to the twin, staged and in effect (Table 14-2). -/
def tblMirrored (t : Nat) : Bool := tblDomain t || tblCourse t

/-- A table entry sent to the twin. -/
def tableNote (s : State) (t e : Nat) (staged : Bool) : State :=
  if tblMirrored t then mirrorNote s 0 0 0 (.mstate (.table t (tblKey t e) e staged)) else s

/-- STAGE: each entry replaces the staged entry of its key, or is added (R270); one outside the program's scope ends it (R272). -/
def execStage (tbl : Nat) (entries : List Nat) (s : State) : Res :=
  .next (withCtl s fun s c =>
    let es := entries.map (· % 2 ^ (8 * tblSize tbl))
    if tblSize tbl = 0 then endCtl s c 8
    else if !c.domain && es.any fun e => !ownEntry s (descCapo c.desc) tbl e then endCtl s c 3
    else
      let st := es.foldl (fun l e => TMap.set l (tbl, tblKey tbl e) e) c.staged
      es.foldl (fun s e => tableNote s tbl e true) (setCtl s (some { c with staged := st })))

/-- UNSTAGE: the staged changes of a table are discarded (R269). -/
def execUnstage (tbl : Nat) (s : State) : Res :=
  .next (withCtl s fun s c => setCtl s (some { c with staged := c.staged.filter fun e => e.1.1 != tbl }))

/-! COMMIT (R215, R273, R274, R346, R495). -/

/-- A window entry whose seed is drawn at commit: SR with SEEDSEL = 0 (Table 8-14). -/
def drawsSeed (x : (Nat × Nat) × Nat) : Bool := x.1.1 == 0x0D && bit x.2 108 && !bit x.2 297

/-- The staged set with each seed drawn in place. -/
def drawSeeds (s : State) : Entries → State × Entries
  | [] => (s, [])
  | x :: t =>
    if drawsSeed x then
      let d := drawSeed s
      let r := drawSeeds d.1 t
      (r.1, (x.1, putBits x.2 320 64 d.2.toNat) :: r.2)
    else
      let r := drawSeeds s t
      (r.1, x :: r.2)

/-- Whether the twin lacks a staged entry still (R272). -/
def stageUnheld (s : State) (st : Entries) : Bool := st.any fun x => itemUnheld s (.table x.1.1 x.1.2 x.2 true)

/-- The record of a COMMIT or a CANCEL (Table 9-2); DETAIL gives the commit's number where no reason gives another (log entry 53). -/
def commitReport (s : State) (desc : Nat) (digest : W64) (cstate reason detail epoch : Nat) : State :=
  sendReport s desc { event := 4, reason := reason, cstate := cstate, detail := detail, epoch := epoch, digest := digest }

/-- The staged set is validated, and accepted or refused (R273, R274). -/
def commitNow (s : State) (c : CtlProg) (epoch : Nat) : State :=
  let n := s.prog.nCommit + 1
  let s := { s with prog := { s.prog with nCommit := n } }
  let s := setCtl s (some { c with staged := [], seedWait := none })
  match commitRefusal s c.staged (ctlCapo c) epoch with
  | some (r, d) => commitReport s c.desc c.digest 4 r d epoch
  | none =>
    let x := drawSeeds s c.staged
    let p : Pending := { num := n, epoch := epoch, entries := x.2, capo := ctlCapo c, desc := c.desc, digest := c.digest }
    commitReport { x.1 with prog := { x.1.prog with commits := x.1.prog.commits ++ [p] } } c.desc c.digest 1 0 n epoch

/-- COMMIT: once the twin holds what is staged; a seed to draw waits for the TRNG (R272, R273, R495). -/
def execCommit (epoch : Nat) (s : State) : Res :=
  .next (withCtl s fun s c =>
    if stageUnheld s c.staged then s
    else if c.staged.any drawsSeed && !s.sec.trngOk then
      { setCtl s (some { c with seedWait := some (epoch, s.clk.now) }) with sec := { s.sec with waiters := s.sec.waiters ++ [1] } }
    else commitNow s c epoch)

/-- COMMIT_SEED_WAIT_TIMEOUT: the TRNG has released nothing for 10 ms; the commit is refused with SEED_ERROR (R495). -/
def execCommitSeedWaitTimeout (s : State) : Res :=
  .next (match s.prog.ctl with
    | none => s
    | some c =>
      match c.seedWait with
      | none => s
      | some (e, t) =>
        if t + 10000000 ≤ s.clk.now then
          let s := { s with sec := { s.sec with waiters := s.sec.waiters.filter (· != 1) }
                            prog := { s.prog with nCommit := s.prog.nCommit + 1 } }
          commitReport (setCtl s (some { c with staged := [], seedWait := none })) c.desc c.digest 4 6 0 e
        else s)

/-- The consumers that wait for the TRNG are served in the order they arrived: admission 0, a commit 1 (R495). -/
def serveWaiter (s : State) (k : Nat) : State :=
  if k = 0 then
    match s.prog.sAdm with
    | some a => if a.step = 3 then admSeed s a else s
    | none => s
  else if k = 1 then
    match s.prog.ctl with
    | some c =>
      match c.seedWait with
      | some (e, _) => commitNow s c e
      | none => s
    | none => s
  else s

/-- CANCEL: discards a pending commit at least 1 µs before its epoch; later it is refused as TOO_LATE (R279). -/
def execCancel (num : Nat) (s : State) : Res :=
  .next (withCtl s fun s c =>
    match s.prog.commits.find? fun p => p.num == num with
    | some p =>
      if !c.domain && p.capo != ctlCapo c then endCtl s c 3
      else if s.clk.now + 1000 ≤ p.epoch then
        commitReport { s with prog := { s.prog with commits := s.prog.commits.filter fun p => p.num != num } } c.desc c.digest 3 0 num p.epoch
      else commitReport s c.desc c.digest 4 0x10 num p.epoch
    | none => commitReport s c.desc c.digest 4 (if num = 0 ∨ s.prog.nCommit < num then 8 else 0x10) num 0)

/-! What a commit does at its epoch (R275). -/

/-- The entries of one table in a set. -/
def ofTable (st : Entries) (t : Nat) : List Nat := tblAll st t

/-- A changed port mode takes effect as the port trains again (R322). -/
def portApply (old : Entries) (s : State) (e : Nat) : State :=
  let p := bits e 0 3
  if bit e 3 == portIsCxl old p then s
  else
    { s with pwr := { s.pwr with portTrain := insertOnce p s.pwr.portTrain }
             mem := if bit e 3 then s.mem else { s.mem with pages := s.mem.pages.set (cxlTarget p) 0 } }

/-- Whether a harmonic filter names the fibre F16 of an OX: its entry's HSTRING and OXSEL (Table 9-14). -/
def filterOnF16 (e ox : Nat) : Bool := bits e 4 2 == ox / 2 && bits e 19 9 == 511 && ofB (bit e 18) == ox % 2

/-- F16 of an OX serves strings: its harmonic designation ends, its filters stop, copies queued for it are discarded and counted, and
the end is written to the scroll (R160). -/
def f16Taken (s : State) (ox : Nat) : State :=
  let sx := ox / 2
  let key := 1 + sx * 16 + 511 * 256 + ofB true * 2 ^ 17
  let des := (s.prog.eff.filter fun x => x.1.1 == 8 && bits x.2 0 4 == 1 && bits x.2 4 2 == sx && bit x.2 17 && bit x.2 6
    && ofB (bit x.2 18) == ox % 2)
  if des.isEmpty then s
  else
    let fs := (List.range 8).filter fun f => ((filterEntry s.prog.eff sx f).map fun e => bit e 6 && filterOnF16 e ox).getD false
    let port := 136 + 4 * (ox % 2)
    let lost := s.sw.hq.filter fun q => q.1.1 == sx && decide (port ≤ q.1.2.1 ∧ q.1.2.1 < port + 4)
    let s := lost.foldl (fun s q => q.2.foldl (fun s c => bump s .sxHarmDrop [sx, c.c.filter]) s) s
    let s := (List.range 4).foldl (fun s j => setLink s (576 + 4 * ox + j) {}) s
    let s := { s with
      prog := { s.prog with eff := s.prog.eff.filter fun x => !(des.any fun d => d.1 == x.1) }
      sw := { s.sw with
        filtersOff := (s.sw.filtersOff ++ fs.map fun f => (sx, f)).eraseDups
        hq := s.sw.hq.filter fun q => !(q.1.1 == sx && decide (port ≤ q.1.2.1 ∧ q.1.2.1 < port + 4)) } }
    scroll s 3 .harmonicEnd (siteOX ox) [key]

/-- A string map entry at its epoch: ON = 0 takes the string down, ON = 1 brings a disabled one up; a string held by MISWIRE starts
again; F16 taken for strings ends its harmonic designation (R160, R354, R383, Table 13-9). -/
def stringApply (s : State) (e : Nat) : State :=
  let x := bits e 0 9
  let s := if bits e 10 5 = 16 ∨ bits e 15 5 = 16 then f16Taken s (x / 64) else s
  let l := linkOf s x
  if !bit e 9 then (if l.stage = 0 ∧ l.cause = .disabled then s else stringDown s x .disabled)
  else if l.stage = 0 ∧ (l.cause = .disabled ∨ l.cause = .miswire) then enterStage s x 1
  else noteSubst s x

/-- A weight-bank entry at its epoch: the change is watched, and the role that a lane move gave the ring ends (R346, R349). -/
def ringApply (old : Entries) (s : State) (e : Nat) : State :=
  let k := (bits e 0 5, bits e 5 5)
  let was := (tblFind old 5 (tblKey 5 e)).getD 0
  let s := if was / 2 ^ 18 % 256 = bits e 18 8 then s
    else { s with opt := { s.opt with changed := s.opt.changed.set k (some (s.clk.now, was)) } }
  { s with opt := { s.opt with live := s.opt.live.filter fun r => !(r.1.2.1 == k.1 && r.1.2.2 == k.2) } }

/-- A filter that a control program sets counts from this commit; one that R160 stopped runs again once its entry names a harmonic string
other than the fibre that it lost (R158, R160; log entry 179). -/
def filterApply (old : Entries) (s : State) (e : Nat) : State :=
  let k := (bits e 4 2, bits e 8 9)
  if bits e 0 4 ≠ 2 then s
  else
    let names (e : Nat) := (bits e 19 9, bits e 19 9 == 511 && bit e 18)
    let same := ((filterEntry old k.1 k.2).map names) == some (names e)
    { s with sw := { s.sw with
        filterRun := s.sw.filterRun.filter (·.1 != k)
        filtersOff := if same then s.sw.filtersOff else s.sw.filtersOff.filter (· != k) } }

/-- A string that becomes a harmonic string after FEC lock leaves what follows it: its packets and credits go as those of a string
that goes down, and it stays at stage 6 with its lock (R157). -/
def harmonicOn (s : State) (x : Nat) : State :=
  let l := linkOf s x
  if l.stage < 7 then s
  else
    let s := if l.stage = 9 then portDown s x (inHand l) else s
    setLink s x { downLink l l.cause (linkNow s x) with stage := 6, restartAt := none, hlock := true, moved := l.moved }

/-- A string that is harmonic no longer goes on with its bring-up from stage 6 (R157, R378). -/
def harmonicOff (s : State) (x : Nat) : State :=
  if (linkOf s x).hlock then enterStage (setLink s x { linkOf s x with hlock := false }) x 6 else s

/-- A designation at its epoch: of a string, or of F16 of an OX, whose four strings begin bring-up or go dark (R157; log entry 179). -/
def harmonicApply (old : Entries) (s : State) (e : Nat) : State :=
  if bits e 0 4 ≠ 1 then s
  else
    let n := bits e 8 9
    let s := if strHarmonic s.prog.eff n then harmonicOn s n else harmonicOff s n
    [2 * bits e 4 2, 2 * bits e 4 2 + 1].foldl (fun s ox =>
      (List.range 4).foldl (fun s j =>
        let x := 576 + 4 * ox + j
        match fibreHarmonic old ox, fibreHarmonic s.prog.eff ox with
        | false, true => enterStage s x 1
        | true, false => setLink s x {}
        | _, _ => s) s) s

/-- A shard entry at its epoch, here and at the twin (R270, R272). -/
def shardApply (s : State) (e : Nat) : State :=
  if tblRemoves 0x0E e then removeShard s (bits e 0 12) 0 else declareShard s (shardDescOf e)

/-- The twin learns of a window that an entry has declared or removed, where the entry changed something (R202, R272). -/
def winTold (old s : State) (e : Nat) : State :=
  let wid := (winDescOf e).wid
  match winOf old wid, winOf s wid with
  | some w, none => winNote s w (.dropWindow wid)
  | none, some w => winNote s w (winRec w w.st)
  | _, _ => s

/-- Every table of a commit takes effect together (R275). Energy settings wait for the next ledger boundary (R440). -/
def applyTables (s : State) (st : Entries) : State :=
  let old := s.prog.eff
  let gone := removedRegions s st
  let s' := { s with
    prog := { s.prog with eff := tblApplyAll old (st.filter fun e => e.1.1 != 0x12) }
    elg := { s.elg with settings := (tblFind st 0x12 0).getD s.elg.settings } }
  let s' := (ofTable st 3).foldl (portApply old) s'
  let s' := (ofTable st 4).foldl stringApply s'
  let s' := (ofTable st 5).foldl (ringApply old) s'
  let s' := (ofTable st 8).foldl (fun x e => harmonicApply old (filterApply old x e) e) s'
  let s' := (ofTable st 9).foldl (fun x e => shareApply s x (linkNo (bits e 0 2) (bits e 2 7))) s'
  let s' := gone.foldl regionGone s'
  let s' := (ofTable st 0x0C).foldl (fun s e =>
    cacheDrop s (bits ((tblFind old 0x0C (tblKey 0x0C e)).getD e) 16 9) (bits e 0 16)) s'
  let s' := if (ofTable st 0x10).isEmpty then s' else { s' with accMib := accStore s'.prog.eff }
  let s' := (ofTable st 0x0D).foldl (fun x e => winTold s' x e) (winStage s' (ofTable st 0x0D)).1
  (ofTable st 0x0E).foldl shardApply s'

/-- A commit in service: the tables, and the ASSIGNs that they change (R275, R429). -/
def applyEntries (s : State) (st : Entries) : State :=
  let s' := applyTables s st
  if st.any fun e => e.1.1 == 1 || e.1.1 == 2 || e.1.1 == 0x0A || e.1.1 == 0x0F then assignAgain s s' else s'

/-- The epoch of the last applied change to table 0x01, which the attestation report gives (R498). -/
def noteCapos (s : State) (p : Pending) : State :=
  if p.entries.any fun e => e.1.1 == 1 then { s with prog := { s.prog with capoEpoch := p.epoch } } else s

/-- A commit whose epoch has come: its tables take effect, here and at the twin, and an applied record is written (R272, R275). One that
raises guarantees or quotas beyond the cells free at this moment is refused whole (R139). -/
def applyCommit (s : State) (p : Pending) : State :=
  let s := { s with prog := { s.prog with commits := s.prog.commits.filter fun q => q.num != p.num } }
  if raisedOver s p.entries then commitReport s p.desc p.digest 4 0x0A 0 p.epoch else
  let s := noteCapos (applyEntries s p.entries) p
  let s := p.entries.foldl (fun s e => tableNote s e.1.1 e.2 false) s
  commitReport s p.desc p.digest 2 0 p.num p.epoch

/-! Operations that are not staged (R37, R155, R269, R514). -/

/-- ARBPRIO: a requester's base priority, or with entry 15 the step and unit of the arbiter, of an SX port or a DDR5 channel (R155,
R156, log entry 54). -/
def execArbprio (sx port entry value : Nat) (s : State) : Res :=
  .next (domainOnly s fun s c =>
    if (sx < 4 ∧ port < 136 ∨ (4 ≤ sx ∧ sx < 6 ∧ port < 16)) ∧ (entry < 8 ∨ entry = 15) then
      let a := arbOf s sx port
      setArb s sx port (if entry = 15 then { a with stepLog2 := bits value 0 4, unitLog2 := bits value 8 4 }
        else { a with prio := a.prio.set entry (bits value 0 4) })
    else endCtl s c 8)

/-- What R514 refuses of a domain switched off while the package serves. -/
def offRefused (s : State) (pd : Nat) : Bool :=
  s.course.serving && (!s.course.twinUp
    || ((decide (4 ≤ pd ∧ pd < 12) || pd == 28 || pd == 29) && (s.course.alone || s.course.copying))
    || (decide (20 ≤ pd ∧ pd < 28) && decide (pd - 20 ∉ s.prog.rtTest ++ s.prog.rtOut))
    || (decide (12 ≤ pd ∧ pd < 20) && decide (pd - 12 ∉ s.prog.rtTest ++ s.prog.rtOut)))

/-- A die loads the repair map in effect (R465). -/
def repairLoad (s : State) (st : Nat) : State :=
  if st ∈ s.fuse.loadWait then
    scroll { s with fuse := { s.fuse with loadWait := s.fuse.loadWait.filter (· != st) } } 8 .repairLoad st [s.fuse.gen.get st 1]
  else s

/-- An MC that returns is a standby, and its fuse array takes the records that it missed (R458, R514). -/
def mcReturns (s : State) (pd : Nat) : State :=
  if s.mc.active1 == (pd == 31) then s
  else { s with mc := { s.mc with standbyOk := true }, fuse := { s.fuse with recs := completeRecs s } }

/-- PDREQ: a domain is requested on or off; a refusal ends the program with STREAM (R514) or RANGE (R37, R269). An
MC goes out only on an authenticated request and an SX only with its whole member (Tables 1-7 and 19-6). A part taken out is
in test until its domain is on again, which is its repair load (R465, R514). -/
def execPdreq (pd : Nat) (on : Bool) (s : State) : Res :=
  .next (domainOnly s fun s c =>
    if !on && offRefused s pd then endCtl s c 0x0E
    else if !on && (pd == 30 || pd == 31 || (decide (pd < 4) && s.course.serving)) then endCtl s c 8
    else
      match pdRequest s pd on with
      | none => endCtl s c 8
      | some s' =>
        let st := pdSite s pd
        let s' := if on && !pdIsOn s pd && (pd == 30 || pd == 31) then mcReturns s' pd else s'
        if on then repairLoad { s' with prog := { s'.prog with inTest := s'.prog.inTest.filter (· != st) } } st
        else { s' with prog := { s'.prog with inTest := insertOnce st s'.prog.inTest } })

/-- RTOUT: an RT is to leave for test; a second one, or any while the twin is lost, is refused (R269, R514). -/
def execRtout (rt : Nat) (s : State) : Res :=
  .next (domainOnly s fun s c =>
    if 8 ≤ rt then endCtl s c 8
    else if !s.course.twinUp || (List.range 8).any fun n => !rtUp s n then endCtl s c 0x0E
    else setCtl s (some { c with rtout := some (rt, s.clk.now) }))

/-- Whether an RT holds lines of ACTIVE instances (R218). -/
def rtHolds (s : State) (n : Nat) : Bool := (s.wins.filterMap (·.2)).any fun w => w.st == .active && decide (n ∈ winRts s w)

/-- RTOUT_PROCEED: the stream has ended and the RT holds no lines of ACTIVE instances, or the barrier timeout is up: the RT is taken
out under R218 and R260 (R269). -/
def execRtoutProceed (rt : Nat) (s : State) : Res :=
  .next (match s.prog.ctl with
    | none => s
    | some c =>
      match c.rtout with
      | none => s
      | some (n, t) =>
        if n = rt ∧ ((!s.str.running && !rtHolds s n) ∨ t + capoBto s.prog.eff (descCapo c.desc) * 1000000 ≤ s.clk.now) then
          let s := rtLinesLost { s with prog := { s.prog with rtTest := insertOnce n s.prog.rtTest } } n
          let s := if s.str.running ∧ n ∈ s.str.tiles then raiseExc s 0x0E n 7 else s
          setCtl s (some { c with rtout := none })
        else s)

/-- RTIN: an RT returns to service and loads its repair map (R269, R465). -/
def execRtin (rt : Nat) (s : State) : Res :=
  .next (domainOnly s fun s c =>
    if rt < 8 ∧ rt ∈ s.prog.rtTest ++ s.prog.rtOut then
      placeLines (repairLoad { s with prog := { s.prog with
        rtTest := s.prog.rtTest.filter (· != rt), rtOut := s.prog.rtOut.filter (· != rt) } } (siteRT rt))
    else endCtl s c 8)

/-- ABORTS: the running stream of the program's capo ends with ABORT (R269). -/
def execAborts (s : State) : Res :=
  .next (withCtl s fun s c => if s.str.running ∧ s.str.capo = descCapo c.desc then abortStream s else s)

/-- WAITT: the program waits for a fabric time (R269). -/
def execWaitt (time : Nat) (s : State) : Res := .next (withCtl s fun s c => setCtl s (some { c with waitt := some time }))

/-- WAITT_EXPIRY: that time is reached (R269). -/
def execWaittExpiry (s : State) : Res :=
  .next (match s.prog.ctl with
    | none => s
    | some c =>
      match c.waitt with
      | some t => if t ≤ s.clk.now then setCtl s (some { c with waitt := none }) else s
      | none => s)

/-- END: the program ends (R269). -/
def execEndProg (s : State) : Res := .next (withCtl s fun s c => endCtl s c 0)

/-- Whether a part is in test: an RT by RTOUT, another part whose domain a program took off (R514). -/
def partInTest (s : State) (st : Nat) : Bool :=
  decide (st ∈ s.prog.inTest) || (decide (12 ≤ st ∧ st < 20) && decide (st - 12 ∈ s.prog.rtTest))

/-- IN_SERVICE_TEST_END: the result is written to the scroll; a failed unit becomes a pending repair map, which lists every repair of
the site (R464, R465, R514). -/
def execInServiceTestEnd (st : Nat) (faulty : Option Nat) (s : State) : Res :=
  .next (if partInTest s st then
    let s := match faulty with
      | some e => { s with fuse := { s.fuse with pendMap := s.fuse.pendMap.set st (s.fuse.entries.get st [] ++ [e]) } }
      | none => s
    scroll s 8 .testResult st [ofB faulty.isSome, faulty.getD 0]
  else s)

end Sys2Proof.Machine
end

