-- ==== Sys2Proof/Machine/Complete.lean ====
section
/-! DEFINITION. Completions at a requester, completion timeouts, and the timers of a responder's tables (R66, R69, R71, R72, R108,
R112, R114, R132). -/

namespace Sys2Proof.Machine

open Sys2Proof

/-! The end of an outstanding request. -/

/-- A copy of a multicast store has completed (R177). -/
def mcastDone (s : State) (id pos : Nat) (c : Cmp) : State :=
  if c.status = .ok then
    match s.mcasts.find? fun m => m.id == id with
    | none => s
    | some m => afterDone (mcastMark s id pos true) .kojor m.r
  else mcastFail s id pos

/-- What a completion means to the one on whose behalf its request was issued. -/
def ownerDone (s : State) (w : Party) (o : Outst) (c : Cmp) : State :=
  match o.owner with
  | .port tag ktag => portFinish s tag ktag c
  | .coll g load chunk => collDone s g load chunk o.r c
  | .copy id off wr => copyDone s w id off wr c
  | .groupRead g word => groupReadDone s g word c
  | .mover tile eng opid scratch => moverDone s tile eng opid scratch c
  | .mcast id pos => mcastDone s id pos c
  | .barrUp capo g => barUpDone s capo g c
  | .report ctr => reportDone s ctr c
  | .image control off => imageDone s control off c

/-- A request ends with a completion: it is no longer outstanding, its charge is returned, and what it held back is released. -/
def finishOut (s : State) (w : Party) (o : Outst) (c : Cmp) : State :=
  let s := ownerDone (dropOut s w o.id) w o c
  match w with
  | .kojor => releaseAll s .kojor
  | .brola => invSettle s

/-- The completion that a requester makes itself when a request's time is over. -/
def timeoutCmp (s : State) (w : Party) (o : Outst) : Cmp := { cmpOf o.r (meOf s w) .timeout with errAddr := o.r.addr }

/-! CMP (R55, R66, R114). -/

/-- The halves of an INV or a PFA that the twin has performed (R314, R326). -/
def twinHalf (s : State) (c : Cmp) : Option State :=
  let mine := fun (r : Req) => r.src == c.dst && r.tc == c.tc && r.seq == c.seq
  if c.origOp = 0x3C then
    (s.mem.drains.find? fun d => mine d.r && !d.twinDone).map fun d => drainCheck s { d with twinDone := true }
  else if c.origOp = 0x3E then
    (s.mem.pfas.find? fun p => mine p.r && !p.twinDone).map fun p =>
      if c.status = .ok then pfaCheck s { p with twinDone := true }
      else pfaEnd s p { cmpOf p.r (mySrc s) c.status with errAddr := c.errAddr }
  else none

/-- The outstanding request that a completion matches, by its stream and SEQ (R114). -/
def matchOut (s : State) (w : Party) (c : Cmp) : Option Outst :=
  (rqOf s w).out.find? fun o => o.released && o.r.tc == c.tc && o.r.seq == c.seq && o.dest == destOf c.reqAddr && c.dst == meOf s w

/-- Whether a request is a copy of a multicast store: none is sent twice (R177). -/
def isCopy (o : Outst) : Bool := match o.owner with
  | .mcast _ _ => true
  | _ => false

/-- What the requester makes of a completion: a wait for the resend, or the end; DUPLICATE gives the original status (R66, R114). A copy of a
multicast store is not sent again: any status but OK ends it as failed (R177). -/
def takeCmp (s : State) (w : Party) (o : Outst) (c : Cmp) : State :=
  if (c.status = .retry ∨ c.status = .energyDefer) ∧ !isCopy o then
    setOut s w { o with resendAt := some (nowOf s w + c.retryAfter * 1000) }
  else finishOut s w o (if c.status = .duplicate then { c with status := c.origStatus } else c)

/-- CMP: a completion reaches its requester; one whose header fails its check is dropped and counted (R55), one that matches nothing
is discarded (R114). -/
def execCmp (w : Party) (b : Nat) (c : Cmp) (hcrc : W32) (s : State) : Res :=
  .next (if !cmpOk c hcrc then
      (match w with
      | .kojor => bump s .sxHdrErr [b / 256, b % 256]
      | .brola => bump s .brlHdrErr [b])
    else
      match (if w = .kojor then twinHalf s c else none) with
      | some s' => s'
      | none =>
        match matchOut s w c with
        | some o => takeCmp s w o c
        | none => s)

/-! Timeouts (R66, R108, R112). -/

/-- Whether the period that runs has expired. -/
def periodOver (s : State) (w : Party) (o : Outst) : Bool := o.released && decide (o.sentAt + o.period ≤ nowOf s w)

/-- What an expiry does: a request that waits to be resent, or was never sent, ends with TIMEOUT; an idempotent one is retransmitted up
to three times, a non-idempotent one once. -/
def expire (s : State) (w : Party) (o : Outst) : State :=
  if o.resendAt.isSome || !o.sent then finishOut s w o (timeoutCmp s w o)
  else if opIdem o.r.op then
    (if o.retx < 3 then repeatReq s w { o with retx := o.retx + 1 } else finishOut s w o (timeoutCmp s w o))
  else if !o.retried && mayRepeat s w o then repeatReq s w { o with retried := true, retx := o.retx + 1 }
  else finishOut s w o (timeoutCmp s w o)

/-- COMPLETION_TIMEOUT (R112). -/
def execCompletionTimeout (w : Party) (id : Nat) (s : State) : Res :=
  .next (match findOut s w id with
    | none => s
    | some o => if periodOver s w o && !isCopy o then expire s w o else s)

/-! Requests to a lost member (R108, R132). -/

/-- Whether a request for a course was last sent on a string to a member of it, and has no completion (R105, R132). -/
def sentTo (s : State) (o : Outst) (c : Nat) (mB : Bool) : Bool :=
  let k := max ((s.brola.asg.map (·.k)).getD 1) 1
  o.released && o.sent && !o.due && o.resendAt.isNone && (aKind o.r.addr == 2 || (aKind o.r.addr == 4 && aSwitch o.r.addr))
    && aLy o.r.addr == c && (match o.port with
    | some b => b / 2 % k == c && (b % 2 == 1) == mB
    | none => false)

/-- The resend of a request whose member is lost: RETRY = 1, the same SEQ, a new period. A non-idempotent one has this single retry, if
R69 permits; otherwise it ends with TIMEOUT at once (R132). -/
def resendLost (s : State) (o : Outst) : State :=
  if opIdem o.r.op then repeatReq s .brola o
  else if !o.retried && mayRepeat s .brola o then repeatReq s .brola { o with retried := true }
  else finishOut s .brola o (timeoutCmp s .brola o)

/-- Whether the member to which a request was sent is lost to the Brola. -/
def itsMemberLost (s : State) (o : Outst) : Bool :=
  let k := max ((s.brola.asg.map (·.k)).getD 1) 1
  [false, true].any fun m => sentTo s o (aLy o.r.addr) m && memberLost s k (aLy o.r.addr) m

/-- REQUEST_RELEASE: a request of the Brola passes its holds (R108). A released one whose transmission or retransmission is due, since no
Ready string could carry it, is sent once one can; one sent to a member whose strings have all gone down is resent (R132). -/
def execRequestRelease (id : Nat) (s : State) : Res :=
  .next (match findOut s .brola id with
    | none => s
    | some o =>
      if !o.released then releaseTry s .brola id
      else if o.resendAt.isSome then s
      else if !o.sent || o.due then transmitReq s .brola o
      else if itsMemberLost s o then resendLost s o
      else s)

/-! The timers of a responder's tables (R71, R72). -/

/-- The completion timeout of a held FINAL request's capo, in ns. -/
def holdLimit (s : State) (w : Party) (r : Req) : Nat :=
  match w with
  | .kojor => capoCto s.prog.eff r.capo * 1000
  | .brola => (s.brola.asg.map (·.cto)).getD 8000 * 1000

/-- FINAL_HOLD_TIMEOUT: a FINAL request still held when the timeout has run from its arrival is discarded with TIMEOUT, and the count
of its pair returns to zero (R71). -/
def execFinalHoldTimeout (w : Party) (src tc seq : Nat) (s : State) : Res :=
  .next (match (respOf s w).finals.find? fun h => h.r.src == src && h.r.tc == tc && h.r.seq == seq with
    | none => s
    | some h =>
      if h.mine ∧ h.arrived + holdLimit s w h.r ≤ nowOf s w then
        settle h.r h.v (refuse (finalGone s w h.r).1 w h.r .timeout)
      else s)

/-- COUNT_SLOT_RELEASE: the count is zero, no FINAL request of the pair is held, and 16 ms have passed since the last write counted
(R71). -/
def execCountSlotRelease (w : Party) (src epoch : Nat) (s : State) : Res :=
  .next (match countOf s w src epoch with
    | none => s
    | some c =>
      if c.n = 0 ∧ (oldestFinal s w src epoch).isNone ∧ c.last + dupHold ≤ nowOf s w then
        let p := respOf s w
        setResp s w { p with counts := p.counts.erase (src, epoch) }
      else s)

/-- DUP_ENTRY_RELEASE: 16 ms after an entry was made (R72). -/
def execDupEntryRelease (w : Party) (src tc seq : Nat) (s : State) : Res :=
  let p := respOf s w
  .next (setResp s w { p with dups := p.dups.filter fun e =>
    !(e.src == src && e.tc == tc && e.seq == seq && decide (e.made + dupHold ≤ nowOf s w)) })

end Sys2Proof.Machine
end

