-- ==== Sys2Proof/Machine/Energy.lean ====
section
/-! DEFINITION. The energy ledger at its boundaries, and the thermal limits (R437 to R451). -/

namespace Sys2Proof.Machine

open Sys2Proof

/-! Temperatures (Table 16-2, R448 to R450). Sites are numbered as the power domains PD00–PD31. -/

/-- The thresholds of a die site: level 1, level 2 and trip, in °C. -/
def thermAt (site : Nat) : Int × Int × Int :=
  if 4 ≤ site ∧ site < 12 then (85, 90, 100)
  else if 20 ≤ site ∧ site < 28 then (85, 95, 105)
  else (95, 105, 120)

/-- The highest sample of each site, with samples added. -/
def addSamples (l : List (Nat × Int)) (xs : List (Nat × Int)) : List (Nat × Int) :=
  xs.foldl (fun (m : TMap Nat Int) x => m.set x.1 (max (m.get x.1 x.2) x.2)) l

/-- THERMAL_SAMPLE: every sample counts for its epoch; one at or above a trip point switches its die's domain off (R407, R448, R450). -/
def execThermalSample (temps : List (Nat × Int)) (s : State) : Res :=
  let xs := temps.filter fun x => decide (x.1 < 32)
  let s := { s with elg := { s.elg with epTmax := addSamples s.elg.epTmax xs } }
  let hot := xs.filter fun x => decide ((thermAt x.1).2.2 ≤ x.2)
  .next (if hot.isEmpty then s else rilashWarm (hot.foldl (fun s x => pdFault s x.1) s))

/-- The highest level whose threshold a sample of the epoch reached. -/
def levelOf (l : List (Nat × Int)) : Nat :=
  if l.any fun x => decide ((thermAt x.1).2.1 ≤ x.2) then 2 else if l.any fun x => decide ((thermAt x.1).1 ≤ x.2) then 1 else 0

/-- Whether every sample lay at least 5 °C below the thresholds of a level. -/
def coolBelow (level : Nat) (l : List (Nat × Int)) : Bool :=
  l.all fun x => decide (x.2 + 5 ≤ (if level = 2 then (thermAt x.1).2.1 else (thermAt x.1).1))

/-- A change of level is written to the scroll; in constant-rate mode it sets CRM_HOT and raises an alarm (R449, R451). -/
def levelTo (s : State) (n : Nat) : State :=
  let s := { s with elg := { s.elg with level := n, cool := 0 } }
  if elgCrm s.prog.eff then alarm { s with elg := { s.elg with crmHot := true } } 7 .throttleLevel (siteMC s) [n]
  else scroll s 7 .throttleLevel (siteMC s) [n]

/-- The throttle level at a boundary, from the closed epoch's samples (R449). -/
def throttle (s : State) (l : List (Nat × Int)) : State :=
  let s := bump s .elgThrottleEp [s.elg.level]
  let up := levelOf l
  if s.elg.level < up then levelTo s up
  else if s.elg.level = 0 then s
  else if !coolBelow s.elg.level l then { s with elg := { s.elg with cool := 0 } }
  else if s.elg.cool + 1 < 10 then { s with elg := { s.elg with cool := s.elg.cool + 1 } }
  else levelTo s (s.elg.level - 1)

/-! Closing an epoch (R437 to R439). -/

/-- The boundaries since the last closed epoch: by fabric time, or one by the MC oscillator while the reference is lost. -/
def boundaries (s : State) : Nat := if s.clk.refLost then 1 else s.clk.now / 1000000 - s.elg.epoch

/-- The energy counters take an epoch's energies. -/
def countEnergy (s : State) (pdUj : List Nat) (streamUj : Nat) (ballastUj : List Nat) : State :=
  let s := ((List.range 36).zip pdUj).foldl (fun s x => bump s .elgPdUj [x.1] x.2) s
  let s := bump s .elgPkgUj [] pdUj.sum
  let s := bump s .elgStreamUj [s.str.capo] streamUj
  ((List.range 8).zip ballastUj).foldl (fun s x => bump s .elgBallastUj [x.1] x.2) s

/-- The cause of a ramp violation, in the order of R447's list from 0 (log entry 60). -/
def rampCause (s : State) (p : Nat) : Nat :=
  if s.elg.dieFell then 3 else if s.elg.wasReset then 4 else if s.elg.pLast < p then 2 else if s.elg.level = 2 then 1 else 0

/-- A change of P beyond RAMP and the 2 % of the reading (R447). -/
def rampCheck (s : State) (p : Nat) : State :=
  let d := max p s.elg.pLast - min p s.elg.pLast
  if d * 100 ≤ elgRamp s.prog.eff * 100 + 2 * p then s
  else
    let c := rampCause s p
    scroll (bump { s with elg := { s.elg with rampViol := true } } .elgRampViol [c]) 7 .rampViolation (siteMC s) [c]

/-- P, S and the base of the closed epoch, and B̂ (R439). -/
def closeEpoch (s : State) (p sd : Nat) : State :=
  let bs := ((p - sd) :: s.elg.bases).take 16
  { s with elg := { s.elg with
      pLast := p, sLast := sd, bases := bs, bhat := bs.foldl max 0 + elgGuard s.prog.eff, dieFell := false, wasReset := false,
      lastTmax := s.elg.epTmax, epTmax := [] } }

/-- The settings committed since, in effect from this boundary (R440). -/
def takeSettings (s : State) : State :=
  if s.elg.settings = 0 then s
  else { s with prog := { s.prog with eff := TMap.set s.prog.eff (0x12, 0) s.elg.settings }, elg := { s.elg with settings := 0 } }

/-! Decisions (R442 to R446). -/

/-- The duty the running stream has been granted last. -/
def grantedDuty (s : State) : Nat := (s.str.dutyAt.getLast?.map (·.2)).getD s.str.duty

/-- DEFER and OVER, for the duty under which the epoch ran (R445). -/
def deferCheck (s : State) (was : Nat) : State :=
  let pinned := s.str.running && capoPinned s.prog.eff s.str.capo
  let exceeds := decide (effBudget s < s.elg.pLast * 100)
  let held := !s.str.running || pinned || was == 1
  if exceeds && held then
    { s with elg := { s.elg with
        defer := true, overBudget := s.elg.overBudget || s.str.running, excessUj := s.elg.excessUj + (s.elg.pLast * 100 - effBudget s) * 10 } }
  else if s.elg.pLast * 100 + elgGuard s.prog.eff * 100 ≤ effBudget s then { s with elg := { s.elg with defer := false } }
  else s

/-- A segment that has used more than its energy runs at duty 1 until the next checkpoint (R444). -/
def overrunCheck (s : State) (streamUj : Nat) : State :=
  match s.str.running, s.str.seg with
  | true, some g =>
    let e := (s.str.segs.getD g (0, 0)).2
    let used := s.elg.segUsed + streamUj
    let s := { s with elg := { s.elg with segUsed := used } }
    if e = 0 ∨ used ≤ e * 1000 ∨ s.elg.overD1 then s
    else
      scroll (bump { s with elg := { s.elg with overD1 := true, overrun := true } } .elgOverrun [s.str.capo]) 7 .overrun (siteMC s)
        [g] (some s.str.capo)
  | _, _ => s

/-- The duty of the running segment computed anew (R443, R444): down to 1; constant-rate mode keeps its own. -/
def recomputeDuty (s : State) : State :=
  match s.str.running, s.str.segReq, s.str.seg with
  | true, none, some g =>
    let d :=
      if s.elg.overD1 then 1
      else if elgCrm s.prog.eff then grantedDuty s
      else ((rawDuty s s.str.capo (s.str.segs.getD g (0, 0)).1).map (max 1)).getD (grantedDuty s)
    if d = grantedDuty s then s
    else setStr s { s.str with dutyAt := s.str.dutyAt ++ [(max (nowCycle s) s.str.arr + 12, d)] }
  | _, _, _ => s

/-- A checkpoint that waits is tested again (R442); one that stays ungranted is counted for its capo. -/
def pendingCheckpoint (s : State) : State :=
  match s.str.running, s.str.segReq with
  | true, some (g, t) =>
    let x := ledgerGrant s s.str.capo (s.str.segs.getD g (0, 0)).1
    match x.2 with
    | some d => grantSegment x.1 g d (s.str.arr + (s.clk.now - t) * 3 / 2)
    | none => bump x.1 .elgChkptWait [s.str.capo]
  | _, _ => s

/-- An admission that waits for segment 0 asks again. -/
def pendingAdmission (s : State) : State :=
  match s.prog.sAdm with
  | some a =>
    if a.step = 4 then
      let s := admSegment s a
      if ((s.prog.sAdm.map (·.step)).getD 0) = 4 then bump s .elgChkptWait [descCapo a.desc] else s
    else s
  | none => s

/-- LEDGER_EPOCH: a boundary closes the epoch and makes its decisions (R439). A step of fabric time over boundaries closes one epoch
for the whole interval. -/
def execLedgerEpoch (pdUj : List Nat) (streamUj : Nat) (ballastUj : List Nat) (temps : List (Nat × Int)) (s : State) : Res :=
  .next (
    let k := boundaries s
    if k = 0 then s
    else
      let s := { s with elg := { s.elg with epTmax := addSamples s.elg.epTmax (temps.filter fun x => decide (x.1 < 32)) } }
      let s := bump (countEnergy s pdUj streamUj ballastUj) .elgEpoch []
      let p := pdUj.sum / (1000 * k)
      let was := grantedDuty s
      let l := s.elg.epTmax
      let s := closeEpoch (takeSettings (rampCheck s p)) p (streamUj / (1000 * k))
      let s := throttle { s with elg := { s.elg with epoch := if s.clk.refLost then s.elg.epoch else s.clk.now / 1000000 } } l
      let s := overrunCheck (deferCheck s was) streamUj
      setBallast (pendingAdmission (pendingCheckpoint (recomputeDuty s))))

end Sys2Proof.Machine
end

