-- ==== Sys2Proof/Machine/Frames.lean ====
section
/-! DEFINITION. String control frames: ATTACH, ASSIGN, STEER, RESTORE, BRIDGE_HELLO and SNAP (R105, R107, R130 to R133, R180, R354,
R507). -/

namespace Sys2Proof.Machine

open Sys2Proof

/-! ATTACH (R105, R107, R354). -/

/-- Whether Brola string b belongs on string n of this Kojor (R105). -/
def attachFits (s : State) (n b : Nat) : Bool :=
  let k := max (site s).k 1
  let kk := max (stringsPerLeaf s) 1
  b / 2 % k == (site s).course && (b % 2 == 1) == (site s).memberB && b / 2 / k == n % kk

/-- The strings of fibre f of an OX. -/
def fibreStrings (ox f : Nat) : List Nat := (List.range 4).map (· + 64 * ox + 4 * f)

/-- Whether every string of a fibre is down for loss of light or a failed bus (R354). -/
def fibreLost (s : State) (ox f : Nat) : Bool := (fibreStrings ox f).all fun x =>
  let l := linkOf s x
  l.stage != 9 && (l.cause == .noLight || l.cause == .peg)

/-- F16 takes the strings of a lost fibre: the string map serves them from it, a harmonic designation of F16 ends, and they are
brought up again (R160, R346, R354). -/
def substitute (s : State) (ox f : Nat) : State :=
  let s := f16Taken s ox
  (fibreStrings ox f).foldl (fun s x =>
    enterStage (mapPut s x fun e => putBits (putBits e 10 5 16) 15 5 16) x 1) s

/-- ATTACH on position j of F16 of an OX, numbered 576 + 4 × OX + j (log entry 59). -/
def attachSpare (s : State) (n b : Nat) : State :=
  let ox := (n - 576) / 4
  let j := (n - 576) % 4
  match (List.range 16).find? fun f => fibreLost s ox f && attachFits s (64 * ox + 4 * f + j) b with
  | none => s
  | some f => substitute s ox f

/-- A string that breaks the wiring rules is marked down with cause MISWIRE, and the event is written to the scroll. -/
def miswired (s : State) (n : Nat) (ev : ScrollEv) (args : List Nat) : State :=
  scroll (stringDown s n .miswire) 3 ev (siteOX (n / 64)) (n :: args)

/-- ATTACH: the string number reported is compared with this Kojor's course, member and string (R107). -/
def execAttach (n : Nat) (ident : W64) (b : Nat) (leaf : LeafReport) (s : State) : Res :=
  let _ := leaf
  .next (if n < 512 then
      (if isBridge s n || (linkOf s n).stage != 9 then s
      else if attachFits s n b then setLink s n { linkOf s n with attach := ident, attachB := b, attachOk := true }
      else miswired s n .miswired [b])
    else if 576 ≤ n ∧ n < 608 then attachSpare s n b
    else s)

/-! ASSIGN (R130, R131, R288). -/

/-- The ASSIGN frame that applies after one arrives: of the frames that the strings hold, the one with the highest sweep number; among
equals the one just received, then the one of the lowest string (R131; log entry 176). -/
def assignTop (l : TMap Nat (Option Assign)) (a : Assign) : Assign :=
  (l.filterMap (·.2)).foldl (fun x y => if x.sweep < y.sweep then y else x) a

/-- ASSIGN at the Brola: the frame with the highest sweep number applies, also where the frame that it replaces on its string was that one,
and its digest is acted upon (R131, R288). -/
def execAssign (b : Nat) (a : Assign) (s : State) : Res :=
  .next (if 32 ≤ b then s
    else
      let l := s.brola.assigns.set b (some a)
      let x := assignTop l a
      takeDigest { s with brola := { s.brola with assigns := l, asg := some x } } x.digest)

/-! STEER and RESTORE (R132, R133). -/

/-- STEER: new requests for the course go to the survivor, and every request to the lost member without a completion is resent (R132). -/
def execSteer (b course : Nat) (lostB : Bool) (s : State) : Res :=
  let _ := b
  let s := { s with brola := { s.brola with steered := insertOnce (course, lostB) s.brola.steered } }
  let ids := (s.brola.rq.out.filter fun o => sentTo s o course lostB).map (·.id)
  .next (ids.foldl (fun s id => match findOut s .brola id with
    | some o => resendLost s o
    | none => s) s)

/-- RESTORE: the selection of R108 again for new requests (R133). -/
def execRestore (b course : Nat) (memberB : Bool) (s : State) : Res :=
  let _ := b
  .next { s with brola := { s.brola with steered := s.brola.steered.filter (· != (course, memberB)) } }

/-! BRIDGE_HELLO (R180). -/

/-- The neighbour in a direction of Table 6-5, as (DY, DX). -/
def neighbour (s : State) (dir : Nat) : Nat × Nat :=
  let t := site s
  if dir = 0 then (t.dy, (t.dx + 1) % max t.w 1)
  else if dir = 1 then (t.dy, (t.dx + max t.w 1 - 1) % max t.w 1)
  else if dir = 2 then ((t.dy + 1) % max t.h 1, t.dx)
  else ((t.dy + max t.h 1 - 1) % max t.h 1, t.dx)

/-- What the far end of a bridge string must report. -/
def farHello (s : State) (n : Nat) : BridgeHello :=
  let dir := (n - 448) / 16
  let d := neighbour s dir
  { myBridgeHello s n with dy := d.1, dx := d.2, dir := dir ^^^ 1 }

/-- What the far end of a soundpost string must report: this domain and course, the other member, the same K, DIR 0 (R416). -/
def twinHelloOk (s : State) (h : BridgeHello) : Bool :=
  let t := site s
  h.dy == t.dy && h.dx == t.dx && h.course == t.course && h.memberB != t.memberB && h.k == t.k && h.dir == 0

/-- BRIDGE_HELLO: values that break the cabling rule take the string down with MISWIRE (R180, R416). -/
def execBridgeHello (n : Nat) (h : BridgeHello) (s : State) : Res :=
  .next (if n < 512 ∧ isBridge s n ∧ (linkOf s n).stage = 9 then
      (if h = farHello s n then setLink s n { linkOf s n with attachOk := true }
      else miswired s n .bridgeMiscabled [h.dy, h.dx, h.course, ofB h.memberB, h.dir])
    else if 512 ≤ n ∧ n < 544 ∧ (linkOf s n).stage = 9 then
      (if twinHelloOk s h then setLink s n { linkOf s n with attachOk := true } else stringDown s n .miswire)
    else s)

/-! Snapshots of the Brola (R507). -/

/-- SNAP: one snapshot for each distinct time, four pending at most. -/
def execSnap (b time : Nat) (s : State) : Res :=
  let _ := b
  .next (if time ∈ s.brola.snaps ∨ s.brola.snapCopies.any (fun c => c.1 == time) ∨ 4 ≤ s.brola.snaps.length then s
    else { s with brola := { s.brola with snaps := s.brola.snaps ++ [time] } })

/-- BROLA_SNAPSHOT: at or beyond the time the Brola copies its counters, those of Table 4-6 and those of its ends of the strings (R506,
R507, R550). -/
def execBrolaSnapshot (time : Nat) (s : State) : Res :=
  .next (if time ∈ s.brola.snaps ∧ time ≤ s.brola.now then
      { s with brola := { s.brola with
        snaps := s.brola.snaps.filter (· != time)
        snapCopies := s.brola.snapCopies ++ [(time, s.ctr.filter fun c => isBrolaCtr c.1)] } }
    else s)

end Sys2Proof.Machine
end

