-- ==== Sys2Proof/Machine/Fuses.lean ====
section
/-! DEFINITION. Management access, the fuse arrays and their shadow, ageing and repair (R15, R16, R454 to R474, R488, R519, R521). -/

namespace Sys2Proof.Machine

open Sys2Proof

/-! Who may do what at a management port (R488, R519, R521). -/

/-- The number of a port in MC_IF_ERR and MC_IF_ACCESS: SPI, SMBus, Ethernet (R503). -/
def mportIx : MPort → Nat
  | .spi => 0
  | .smbus => 1
  | .eth _ => 2

def sessOf (s : State) (c : Nat) : Sess := s.sec.sess.get c {}
def setSess (s : State) (c : Nat) (x : Sess) : State := { s with sec := { s.sec with sess := s.sec.sess.set c x } }

/-- The role of the open session that an access comes from. -/
def portRole (s : State) : MPort → Option Role
  | .eth c => if (sessOf s c).st = 5 then some (sessOf s c).role else none
  | _ => none

def isOwner (s : State) (p : MPort) : Bool := portRole s p == some .owner
def isManager (s : State) (p : MPort) : Bool := portRole s p == some .owner || portRole s p == some .operator

/-- An event of a port: its MC_IF_STATUS bit is set and it is counted (R532, R537). -/
def ifEvent (s : State) (port bit_ : Nat) : State :=
  bump { s with mc := { s.mc with ifStatus := s.mc.ifStatus ||| BitVec.ofNat 12 (2 ^ bit_) } } .mcIfErr [port, bit_]

/-- An address error of a port: bits 7, 8 and 9 for SPI, SMBus and Ethernet (R18, Table 20-10). -/
def addrError (s : State) (p : MPort) : State := ifEvent s (mportIx p) (7 + mportIx p)

/-- Whether the management ports answer: not without power, and not while the standby takes over (R521). -/
def mcAnswers (s : State) : Bool := s.pwr.pwrGood && !s.mc.swapping

/-- An access of a port: performed and counted where the port may make it, else ignored and counted as an address error (R488, R519,
R521, R537). -/
def access (s : State) (p : MPort) (may : Bool) (f : State → State) : State :=
  if !mcAnswers s then s
  else if may then bump (f s) .mcIfAccess [mportIx p]
  else addrError s p

/-! Records in effect (R457). -/

/-- The valid record of the highest GEN of a TYPE and SITE (R457). -/
def bestRec (s : State) (ty st : Nat) : Option FuseRec :=
  (((recsAt 0 s.fuse.recs).filterMap (recRead s)).filter fun r => r.ty == ty && r.site == st).foldl
    (fun b r => match b with
      | some y => if y.gen ≤ r.gen then some r else b
      | none => some r) none

/-- The payload of an owner-key record: six words of key digest, one of security version. -/
def ownerWords (digest svn : Nat) : List W64 := (List.range 6).map (fun i => BitVec.ofNat 64 (bits digest (64 * i) 64)) ++ [BitVec.ofNat 64 svn]
def ownerKeyOf (r : FuseRec) : Nat := ((List.range 6).map fun i => (r.words.getD i 0).toNat * 2 ^ (64 * i)).sum
def ownerSvnOf (r : FuseRec) : Nat := (r.words.getD 6 0).toNat % 2 ^ 16

/-- Records of a TYPE and SITE that the arrays list, readable or not. -/
def recCount (f : Fuse) (ty st : Nat) : Nat := (f.recs.filter fun r => r.ty == ty && r.site == st).length

/-- Repair-map generations used of the budget of 8, GEN 1 included (Table 17-3). -/
def gensUsed (f : Fuse) (st : Nat) : Nat := 1 + (f.recs.filter fun r => r.ty == 3 && r.site == st && decide (2 ≤ r.gen)).length

/-- The shadow of one site's repair map and ageing step (R457, R461). -/
def shadowSite (s0 : State) (s : State) (st : Nat) : State :=
  let f := { s.fuse with step := s.fuse.step.set st (recCount s0.fuse 4 st) }
  match bestRec s0 3 st with
  | some r => { s with fuse := { f with gen := f.gen.set st r.gen, entries := f.entries.set st (r.words.map (·.toNat)) } }
  | none => { s with fuse := f }

/-- A record with no valid copy: LOST, written to the scroll, with an alarm (R461). -/
def lostNote (s : State) (r : FuseRec) : State :=
  alarm { s with fuse := { s.fuse with lost := true } } 8 .fuseLost (siteMC s) [r.ty, r.site, r.gen]

/-- The owner key in effect: the record of the highest GEN, or none where no copy of it can be read (R491, R493). -/
def shadowOwner (s : State) : State :=
  let l := (recsAt 0 s.fuse.recs).filter fun x => x.2.ty == 5
  match l.getLast? with
  | none => s
  | some x =>
    match recRead s x with
    | some r => { s with sec := { s.sec with ownGen := r.gen, ownKey := ownerKeyOf r, minSvn := ownerSvnOf r, ownerLost := false } }
    | none => { s with sec := { s.sec with ownGen := x.2.gen, ownKey := 0, minSvn := 0, ownerLost := true } }

/-- At boot the active MC reads the records into the shadow, completes what a power loss left and judges sense faults (R454, R459 to
R462). -/
def fuseLoad (s : State) : State :=
  let l := recsAt 0 s.fuse.recs
  let rs := l.map fun x => (x, readRec s x.1 x.2)
  let done := completeRecs s
  let s1 := { s with fuse := { s.fuse with
    senseFlt := s.fuse.senseFlt || rs.any fun x => x.2.1
    cellFlt := s.fuse.cellFlt || rs.any fun x => x.2.2.1
    mismatch := s.fuse.mismatch || decide (done ≠ s.fuse.recs)
    keyUsed := (s.fuse.recs.filter fun r => r.ty == 5).length
    debugOff := s.fuse.recs.any fun r => r.ty == 6 && (List.range 4).any fun i => decide (cellsRead r i ≠ .blank) } }
  let s1 := (List.range 32).foldl (shadowSite s) s1
  let s1 := shadowOwner s1
  let s1 := { s1 with fuse := { s1.fuse with recs := done } }
  (rs.filter fun x => x.2.2.2.isNone).foldl (fun s x => lostNote s x.1.2) s1

/-! Programming (R16, R458). -/

/-- Programming of one record begins: one unit of budget is consumed. -/
def fuseProgram (s : State) (r : FuseRec) : State :=
  { s with fuse := { s.fuse with
      busy := some (r.ty, r.site, r.gen)
      recs := s.fuse.recs ++ [r]
      keyUsed := if r.ty = 5 then s.fuse.keyUsed + 1 else s.fuse.keyUsed } }

def fuseRefused (s : State) : State := { s with fuse := { s.fuse with refused := true } }
def fuseExhausted (s : State) : State := { s with fuse := { s.fuse with budgetExh := true } }

/-- The judgement of R473 on a value: equal, lower, with the budget spent, other than one more or not allowed; otherwise `go`. While a
record is programmed every write but an equal one is refused (R16), with REFUSED set (log entry 162). -/
def judge (s : State) (value cur : Nat) (spent ready : Bool) (go : State → State) : State :=
  if value = cur then s
  else if s.fuse.busy.isSome then fuseRefused s
  else if value < cur then fuseRefused s
  else if spent then fuseExhausted s
  else if value ≠ cur + 1 || !ready then fuseRefused s
  else go s

/-- A step raises the core supply of its site by 4 mV before its record is programmed (R468). -/
def stepUp (s : State) (st : Nat) : State :=
  let n := s.fuse.step.get st 0 + 1
  fuseProgram { s with fuse := { s.fuse with supplyMv := s.fuse.supplyMv.set st (4 * n) } } { ty := 4, site := st, gen := n }

def writeStep (s : State) (st value : Nat) : State :=
  let cur := s.fuse.step.get st 0
  judge s value cur (decide (31 ≤ cur)) true fun s => stepUp s st

/-- A write of REPAIR_GEN programs the pending map. -/
def writeGen (s : State) (st value : Nat) : State :=
  let cur := s.fuse.gen.get st 1
  let map := s.fuse.pendMap.get st []
  judge s value cur (decide (8 ≤ gensUsed s.fuse st)) (!map.isEmpty) fun s =>
    fuseProgram s { ty := 3, site := st, gen := cur + 1, words := map.map (BitVec.ofNat 64) }

/-- AGE_STEP: a write to FUSE_DIE.AGE_STEP of the selected site, from an owner session (R473, R488). -/
def execAgeStep (p : MPort) (value : Nat) (s : State) : Res :=
  .next (access s p (isOwner s p) fun s => writeStep s s.fuse.sel (value % 32))

/-- REPAIR_GEN: a write to FUSE_DIE.REPAIR_GEN of the selected site, from an owner session (R473, R488). -/
def execRepairGen (p : MPort) (value : Nat) (s : State) : Res :=
  .next (access s p (isOwner s p) fun s => writeGen s s.fuse.sel (value % 16))

/-- FUSE_STATUS (Table 17-7). -/
def fuseStatus (f : Fuse) : Nat :=
  min 255 f.senseCols.length * 2 ^ 16 + ofB f.refused * 2 ^ 11 + ofB f.mismatch * 2 ^ 10 + ofB f.lost * 2 ^ 9
    + ofB f.cellFlt * 2 ^ 8 + ofB f.senseFlt * 2 ^ 7 + ofB f.budgetExh * 2 + ofB f.busy.isSome

/-! Worn dies and the re-plan (R467, R469). -/

/-- A site that needs a step beyond the last: WORN, an entry and an alarm; below the lower limits an SX or MC takes the package out of
its course, and any other site goes off as a domain fault (R469). -/
def markWorn (s : State) (st slack vmin : Nat) : State :=
  let s := alarm { s with fuse := { s.fuse with worn := insertOnce st s.fuse.worn } } 8 .siteWorn st [st, slack, vmin]
  if 10 ≤ slack ∧ 25 ≤ vmin then s
  else if st < 4 ∨ 30 ≤ st then leaveCourse s true
  else pdFault s st

/-- Whether a site is in service: its domain is on and it is not in test. A site's domain has the site's number. -/
def siteServes (s : State) (st : Nat) : Bool :=
  pdIsOn s st && decide (st ∉ s.prog.inTest) && !(decide (12 ≤ st ∧ st < 20) && decide (st - 12 ∈ s.prog.rtTest ++ s.prog.rtOut))

/-- Lanes whose least eye, read by a probe in thousandths, is below 0.2 ask for a move where a spare qualifies (R467, R350). -/
def planLanes (s : State) : State :=
  s.opt.probes.foldl (fun s p =>
    if p.2.2.1.all fun e => decide (200 ≤ e) then s
    else
      match carried s p.1.1 p.1.2.1 true p.1.2.2 with
      | none => s
      | some (x, q) =>
        if strReady s x && (moveOf s x).isNone && (freeSpare s x true).isSome && !onSpare s x q true then startMove s x q true 3 else s) s

/-- Rings that hold a lock and whose code drift predicts a code limit within two periods are re-flanked (R467, R345); how the drift
predicts is a free value. -/
def planRings (s : State) : State :=
  s.opt.pegs.foldl (fun s r =>
    if r.2.st = .locked ∧ r.1 ∉ s.opt.reflank then
      let drifts := (Config.freeBits s.free).getLsbD 0
      let s := { s with free := s.free + 1 }
      if drifts then reFlank s r.1 r.2 else s
    else s) s

/-- The sites in order, from the readings of each: a site that must be stepped ends the pass until its record is programmed. -/
def replanGo : List (Nat × Nat × Nat) → State → State
  | [], s =>
    let s := planLanes (planRings s)
    scroll { s with fuse := { s.fuse with replan := false, replanning := [], lastReplan := s.clk.now } } 8 .planSummary (siteMC s)
  | (st, slack, vmin) :: t, s =>
    if !siteServes s st then replanGo t s
    else
      let s := { s with fuse := { s.fuse with
        slack := s.fuse.slack.set st (min slack 255), vmargin := s.fuse.vmargin.set st (min vmin 255) } }
      if 20 ≤ slack ∧ 50 ≤ vmin then replanGo t s
      else if s.fuse.step.get st 0 < 31 then
        stepUp { s with fuse := { s.fuse with replanning := t } } st
      else replanGo t (markWorn s st slack vmin)

/-- A re-plan goes on, unless a record is being programmed or the domain is not Ready. -/
def replanNext (s : State) : State :=
  if s.fuse.replan && s.fuse.busy.isNone && s.disc.phase == 9 then replanGo s.fuse.replanning s else s

/-- A re-plan with its readings; the other sites have those of their monitors. -/
def replanStart (s : State) (readings : List (Nat × Nat × Nat)) : State :=
  if s.fuse.replan then s
  else
    let rest := s.fuse.monitor.filter fun m => readings.all fun r => r.1 != m.1
    let l := sortBy (fun a b => decide (a.1 ≤ b.1)) (readings ++ rest)
    replanNext { s with fuse := { s.fuse with replan := true, replanning := l.filter fun x => decide (x.1 < 32) } }

/-- REPLAN: a write to AGE_CTL.REPLAN, from a session that may (R467, R488, R524); 1 while one runs is ignored (Table 0-6). -/
def execReplan (p : MPort) (value : Nat) (readings : List (Nat × Nat × Nat)) (s : State) : Res :=
  .next (access s p (isManager s p) fun s => if bit value 0 then replanStart s readings else s)

/-- REPLAN_PERIOD: 64 h of fabric time since the last re-plan (R467). -/
def execReplanPeriod (readings : List (Nat × Nat × Nat)) (s : State) : Res :=
  .next (if s.clk.anchored ∧ s.fuse.lastReplan + 64 * 3600 * 10 ^ 9 ≤ s.clk.now then replanStart s readings else s)

/-- AGEING_MONITOR_READ: a site's corrected slack and margin (R466). -/
def execAgeingMonitorRead (st slackPs vminMv : Nat) (s : State) : Res :=
  .next (if st < 32 ∧ pdIsOn s st then { s with fuse := { s.fuse with monitor := s.fuse.monitor.set st (slackPs, vminMv) } } else s)

/-! The end of programming (R458, R461). -/

/-- What a record is for, once it has been verified; an ageing step and the debug disable stand by their location (R461, R517). -/
def takeRecord (s : State) (r : FuseRec) (ok : Bool) : State :=
  if r.ty = 4 then { s with fuse := { s.fuse with step := s.fuse.step.set r.site r.gen } }
  else if r.ty = 6 then { s with fuse := { s.fuse with debugOff := true }, sec := { s.sec with unlock := false, unlocker := none } }
  else if !ok then s
  else if r.ty = 3 then
    { s with fuse := { s.fuse with
        gen := s.fuse.gen.set r.site r.gen
        entries := s.fuse.entries.set r.site (r.words.map (·.toNat))
        pendMap := s.fuse.pendMap.erase r.site
        loadWait := insertOnce r.site s.fuse.loadWait } }
  else if r.ty = 5 then
    { s with sec := { s.sec with
        ownGen := r.gen, ownKey := ownerKeyOf r, minSvn := ownerSvnOf r, ownerLost := false, rotation := none } }
  else s

/-- FUSE_PROGRAM_DONE: the copies are programmed and read back, those of an MC out of service when it returns; `odd` gives the cells of the
words, by copy and word, that did not take the record's own. The record is in effect once one copy is verified. A warm reset that
waited begins (R458, R531), and a re-plan goes on (R467). -/
def execFuseProgramDone (odd : List (Nat × Nat × W64 × W64)) (s : State) : Res :=
  .next (match s.fuse.busy, s.fuse.recs.getLast? with
    | some _, some r =>
      let r' := programmed s r odd
      let ok := anyVerified s (nextWord s.fuse.recs.dropLast) r'
      let s := { s with fuse := { s.fuse with busy := none, recs := s.fuse.recs.dropLast ++ [r'] } }
      let s := takeRecord (if ok then s else lostNote s r) r ok
      if s.mc.warmWait then warmNow s else replanNext s
    | _, _ => s)

end Sys2Proof.Machine
end

