-- ==== Sys2Proof/Machine/Security.lean ====
section
/-! DEFINITION. SPDM sessions, the owner key, entropy, the key register and its alarms, attestation (R488 to R500, R528, R551). -/

namespace Sys2Proof.Machine

open Sys2Proof

/-! The key register and the scroll segment (R497, R551). -/

/-- The number of 64-bit words drawn from the TRNG, in order. -/
def drawWords : Nat → State → State × List W64
  | 0, s => (s, [])
  | n + 1, s =>
    let x := drawSeed s
    let r := drawWords n x.1
    (r.1, x.2 :: r.2)

/-- Rilash fills an empty key register from the TRNG: a new segment begins, and the entries written without a key are appended again
(R497, R510, R551). Rilash runs from the end of MC boot on. -/
def keyFill (s : State) : State :=
  if s.sec.kreg.isSome || !s.sec.trngOk || s.disc.phase == 1 then s
  else
    let x := drawWords 4 s
    let old := x.1.tel.unsealed
    let s := { x.1 with
      sec := { x.1.sec with kreg := some (x.2.flatMap fun w => leBytes 8 w.toNat) }
      tel := { x.1.tel with segFirst := x.1.tel.seq, unsealed := [] } }
    old.foldl scrollAppend s

/-! Entropy (R494, R495). -/

/-- Sessions open or being opened: at most 8 (R489). -/
def sessCount (s : State) : Nat := (s.sec.sess.filter fun x => decide (4 ≤ x.2.st)).length

/-- A consumer served: an admission, a commit, or a session that waits for a key (R495); a ninth session is refused (R489). -/
def serveOne (s : State) (k : Nat) : State :=
  if k < 2 then serveWaiter s k
  else
    let c := k - 2
    let x := sessOf s c
    if x.st = 3 ∧ 8 ≤ sessCount s then emit s (.spdm c 0x7F)
    else if x.st = 3 then emit (setSess s c { x with st := 4, beat := s.sec.rtc }) (.spdm c 0x64)
    else if x.st = 5 then emit (setSess s c { x with updates := x.updates + 1 }) (.spdm c 0x69)
    else s

/-- The TRNG releases output: a recovery is written to the scroll with an alarm, an empty key register is filled, and the consumers that
wait are served in the order they arrived (R494, R495). -/
def trngUp (s : State) : State :=
  let was := s.sec.trngFailedAt.isSome
  let s := { s with sec := { s.sec with trngOk := true, trngFailedAt := none } }
  let s := if was then alarm s 9 .trngRecovered (siteMC s) else s
  let ws := s.sec.waiters
  ws.foldl serveOne (keyFill { s with sec := { s.sec with waiters := [] } })

/-- A failed health test: output stops, the block is discarded, the failure is written with an alarm (R494, R495). -/
def trngDown (s : State) : State :=
  let s := { s with sec := { s.sec with trngOk := false, trngFailLatch := true, trngFailedAt := some s.sec.rtc } }
  alarm s 9 .trngFailed (siteMC s)

/-- TRNG_BLOCK: a block of 512 raw samples, released when every test passes (R494). -/
def execTrngBlock (pass : Bool) (bits : List W64) (s : State) : Res :=
  .next (if !s.sec.trngOk then s
    else if pass then { s with sec := { s.sec with pool := s.sec.pool ++ bits } }
    else trngDown s)

/-- TRNG_STARTUP_RETRY: the start-up test, at power-on and every 100 ms after a failure (R494). -/
def execTrngStartupRetry (pass : Bool) (s : State) : Res :=
  .next (if s.sec.trngOk || !s.pwr.pwrGood then s
    else
      match s.sec.trngFailedAt with
      | none => if pass then trngUp s else trngDown s
      | some t =>
        if s.sec.rtc < t + 100000000 then s
        else if pass then trngUp s
        else { s with sec := { s.sec with trngFailedAt := some s.sec.rtc } })

/-! AON alarms (R496, Table 18-7). -/

/-- The latch of SEC_AON that an alarm sets (Table 18-12). -/
def aonBit : ScrollEv → Nat
  | .tamper => 0
  | .temperature => 1
  | .cellLow => 2
  | _ => 3

/-- An AON event: logged with its RTC time; with main power it is written to the scroll and raises an alarm; on the cell alone the island logs it, to be appended
again at power-up (R496, R510). -/
def aonEvent (s : State) (ev : ScrollEv) (alarms : Bool) : State :=
  let s := { s with sec := { s.sec with aonLog := s.sec.aonLog ++ [(aonBit ev, rtcSeconds s)] } }
  if s.pwr.pwrGood then (if alarms then alarm s 0x0A ev (siteMC s) [rtcSeconds s] else scroll s 0x0A ev (siteMC s) [rtcSeconds s])
  else
    let e := { seq := s.tel.seq, time := s.clk.now, rtc := rtcSeconds s, site := siteMC s, cls := 0x0A, ev := ev, args := [rtcSeconds s] : ScrollEntry }
    let t := tailPush s.tel e
    { s with tel := { t with seq := (s.tel.seq + 1) % 2 ^ 32, unsealed := s.tel.unsealed ++ [e] } }

/-- TAMPER: the mesh open or shorted for 10 µs. The key register is zeroised and the event logged; with main power every session but
the owner's closes, UNLOCK clears and an alarm is raised (R496, R516). -/
def execTamper (s : State) : Res :=
  .next (
    let s := { s with sec := { s.sec with kreg := none, kregZero := true, tamper := true, unlock := false, unlocker := none } }
    let s := aonEvent s .tamper true
    if s.pwr.pwrGood then keyFill (endSessions s fun _ x => x.st == 5 && x.role == .owner) else s)

/-- AON_TEMPERATURE: below −40 °C or above 95 °C, in hundredths of a degree (R496). -/
def execAonTemperature (centiC : Int) (s : State) : Res :=
  .next (if centiC < -4000 ∨ 9500 < centiC then aonEvent { s with sec := { s.sec with temp := true } } .temperature true else s)

/-- CELL_LOW: VBAK below 2.5 V (R496); CELL_LOW of SEC_AON follows the reading. -/
def execCellLow (vbakMv : Nat) (s : State) : Res :=
  .next (if vbakMv < 2500 then aonEvent { s with sec := { s.sec with cellLow := true, cellAlm := true } } .cellLow true
    else { s with sec := { s.sec with cellLow := false } })

/-- AON_LOST: VAON and VBAK both absent. The RTC, the scroll tail and the key register are lost (R496). -/
def execAonLost (s : State) : Res :=
  .next (if s.pwr.onCell then
      { s with
        sec := { s.sec with rtcValid := false, rtc := 0, kreg := none, kregZero := true, aonLost := true, aonLog := [] }
        tel := { s.tel with tail := [], waitQ := [], unarchived := 0, lag := false, unsealed := [] } }
    else s)

/-- What Rilash reports at power-up: every latched alarm, before any program is admitted (R497). -/
def reportLatches (s : State) : State :=
  let s := if s.sec.tamper then alarm s 0x0A .tamper (siteMC s) else s
  let s := if s.sec.temp then alarm s 0x0A .temperature (siteMC s) else s
  let s := if s.sec.cellAlm then alarm s 0x0A .cellLow (siteMC s) else s
  if s.sec.aonLost then alarm s 0x0A .aonLost (siteMC s) else s

/-! SPDM (R489). The codes are those of SPDM 1.3; 0x7F is ERROR. -/

/-- A request that a connection may make from one of some states; otherwise it is answered with ERROR. -/
def spdmFrom (s : State) (c : Nat) (from_ : List Nat) (f : State → Sess → State) : State :=
  if !mcAnswers s then s
  else if (sessOf s c).st ∈ from_ then f s (sessOf s c) else emit s (.spdm c 0x7F)

/-- GET_VERSION begins a connection anew (R489). -/
def execGetVersion (conn : Nat) (s : State) : Res :=
  .next (spdmFrom s conn [0, 1, 2, 3, 4, 5] fun s x => emit (if x.st = 5 then s else setSess s conn { st := 1, script := [0x84] }) (.spdm conn 0x04))

/-- GET_CAPABILITIES (R489). -/
def execGetCapabilities (conn : Nat) (s : State) : Res :=
  .next (spdmFrom s conn [1] fun s x => emit (setSess s conn { x with st := 2, script := x.script ++ [0xE1] }) (.spdm conn 0x61))

/-- NEGOTIATE_ALGORITHMS: only ECDSA P-384, SHA-384, secp384r1 and AES-256-GCM (R489). -/
def execNegotiateAlgorithms (conn : Nat) (supported : Bool) (s : State) : Res :=
  .next (spdmFrom s conn [2] fun s x =>
    if supported then emit (setSess s conn { x with st := 3, script := x.script ++ [0xE3] }) (.spdm conn 0x63) else emit s (.spdm conn 0x7F))

/-- GET_DIGESTS (R489). -/
def execGetDigests (conn : Nat) (s : State) : Res := .next (spdmFrom s conn [3, 4, 5] fun s _ => emit s (.spdm conn 0x01))

/-- GET_CERTIFICATE: a part of the chain (R489). -/
def execGetCertificate (conn off len : Nat) (s : State) : Res :=
  .next (spdmFrom s conn [3, 4, 5] fun s _ => emit s (.spdm conn (if off + len ≤ 65535 then 0x02 else 0x7F)))

/-- CHALLENGE (R489). -/
def execChallenge (conn : Nat) (nonce : Nat) (s : State) : Res :=
  let _ := nonce
  .next (spdmFrom s conn [3, 4, 5] fun s _ => emit s (.spdm conn 0x03))

/-- KEY_EXCHANGE: blocks while the TRNG is failed (R489, R495). -/
def execKeyExchange (conn : Nat) (s : State) : Res :=
  .next (spdmFrom s conn [3] fun s x =>
    if 8 ≤ sessCount s then emit s (.spdm conn 0x7F)
    else if s.sec.trngOk then emit (setSess s conn { x with st := 4, beat := s.sec.rtc }) (.spdm conn 0x64)
    else { s with sec := { s.sec with waiters := insertOnce (conn + 2) s.sec.waiters } })

/-- Whether an owner record is in effect. -/
def owned (s : State) : Bool := s.sec.ownGen != 0 && !s.sec.ownerLost

/-- FINISH: mutual authentication; the certificate chain fixes the role, and every chain leads to the owner key, which an unowned
package lacks (R489, R491). -/
def execFinish (conn : Nat) (cert : SpdmCert) (s : State) : Res :=
  .next (spdmFrom s conn [4] fun s x =>
    if cert.ok && owned s then emit (setSess s conn { x with st := 5, role := cert.role, beat := s.sec.rtc }) (.spdm conn 0x65)
    else emit (setSess s conn {}) (.spdm conn 0x7F))

/-- HEARTBEAT keeps a session open (R489). -/
def execSpdmHeartbeat (conn : Nat) (s : State) : Res :=
  .next (spdmFrom s conn [5] fun s x => emit (setSess s conn { x with beat := s.sec.rtc }) (.spdm conn 0x68))

/-- A session without a heartbeat for its period of 60 s closes (R489). -/
def execSpdmSessionTimeout (conn : Nat) (s : State) : Res :=
  .next (if 4 ≤ (sessOf s conn).st ∧ (sessOf s conn).beat + 60 * 10 ^ 9 ≤ s.sec.rtc then endSessions s fun c _ => c != conn else s)

/-- KEY_UPDATE: blocks while the TRNG is failed; the session keeps its keys meanwhile (R489, R495). -/
def execKeyUpdate (conn : Nat) (s : State) : Res :=
  .next (spdmFrom s conn [5] fun s x =>
    if s.sec.trngOk then emit (setSess s conn { x with updates := x.updates + 1 }) (.spdm conn 0x69)
    else { s with sec := { s.sec with waiters := insertOnce (conn + 2) s.sec.waiters } })

/-- END_SESSION: the writes of the session stay in effect, and UNLOCK clears if it set it (R516, R528). -/
def execEndSession (conn : Nat) (s : State) : Res :=
  .next (spdmFrom s conn [5] fun s _ => emit (endSessions s fun c _ => c != conn) (.spdm conn 0x6C))

/-! The owner key (R491 to R493). -/

/-- OWNER_CLAIM: over SMBus, while the package is unowned, the first or the next owner record is programmed (R491, R493). -/
def execOwnerClaim (keyDigest minSvn : Nat) (s : State) : Res :=
  .next (if !mcAnswers s || owned s then s
    else if s.fuse.busy.isSome then fuseRefused s
    else if 16 ≤ s.fuse.keyUsed then fuseExhausted s
    else
      let lost := s.sec.ownerLost
      let s := bump (fuseProgram s { ty := 5, gen := s.fuse.keyUsed + 1, words := ownerWords keyDigest (minSvn % 2 ^ 16) }) .mcIfAccess [1]
      if lost then alarm s 9 .ownerLost (siteMC s) else s)

/-- A rotation staged by an owner session, signed by both keys; a lower minimum security version is refused (R492). -/
def stageRotation (s : State) (r : Option (Nat × Nat)) : State :=
  match r with
  | some x => if x.2 < s.sec.minSvn then s else { s with sec := { s.sec with rotation := some x } }
  | none => s

/-- SEC_OWNER_GEN: a write to SEC_OWNER.GEN from an owner session (R492, R500). -/
def writeOwnerGen (s : State) (value : Nat) : State :=
  judge s value s.sec.ownGen (decide (16 ≤ s.fuse.keyUsed)) s.sec.rotation.isSome fun s =>
    match s.sec.rotation with
    | some x => fuseProgram s { ty := 5, gen := s.sec.ownGen + 1, words := ownerWords x.1 x.2 }
    | none => s

def execSecOwnerGen (p : MPort) (value : Nat) (rotation : Option (Nat × Nat)) (s : State) : Res :=
  .next (access s p (isOwner s p) fun s => writeOwnerGen (stageRotation s rotation) (value % 32))

/-! The attestation report (R498, R499). -/

/-- The capos that hold each target alone (R484): a stack, an HX or a CXL port used by regions of that capo only. -/
def targetsHeld (s : State) (c : Nat) : Nat :=
  let rs := regions s.prog.eff
  ((List.range 18).map fun t =>
    let l := rs.filter fun g => (regionPlaces g true ++ (if g.mir then regionPlaces g false else [])).any fun x => x.1 == t
    let own := l.all fun g => g.capo == c
    if !l.isEmpty && own then 2 ^ t else 0).sum

/-- A capo layout record, Table 18-9; what applies to pinned capos reads zero for a shared one. -/
def layoutRecord (s : State) (c : Nat) : Nat :=
  let l := s.prog.eff
  let pin := capoPinned l c
  let quota := ((List.range 4).map fun sx => bufQuota l sx c).foldl min (2 ^ 20 - 1)
  let p := if pin then
      capoSlots l c * 2 ^ 16 + capoPortPct l c * 2 ^ 32 + capoAccMib l c * 2 ^ 40 + capoPoolPct l c * 2 ^ 48 + quota % 2 ^ 20 * 2 ^ 64
        + elgShare l c % 4096 * 2 ^ 96 + targetsHeld s c * 2 ^ 112
    else 0
  c + ofB pin * 2 ^ 9 + p
    + ((tblAll l 0x0F).filter fun g => bits g 12 9 == c).length * 2 ^ 144
    + ((regions l).filter fun g => g.capo == c).length * 2 ^ 160
    + ((s.wins.filterMap (·.2)).filter fun w => w.d.capo == c).length * 2 ^ 176
    + ((tblFind l 1 c).map fun e => bits e 512 512).getD 0 * 2 ^ 256

/-- Block 7: the header and the records in ascending CAPO; a tenant sees its own alone (R498, R499). -/
def layoutBlock (s : State) (view : Option Nat) : List Nat :=
  let cs := sortNat (capos s.prog.eff)
  let shown := match view with
    | some c => cs.filter (· == c)
    | none => cs
  let hdr := s.prog.capoEpoch % 2 ^ 64 + shown.length * 2 ^ 64 + (cs.length - shown.length) * 2 ^ 73
    + (cs.filter (capoPinned s.prog.eff)).length * 2 ^ 82
  hdr :: shown.map (layoutRecord s)

/-- Block 8: the harmonic filters; a tenant sees those that name its capo or all capos (R498, R499, Table 9-14). -/
def filterBlock (s : State) (view : Option Nat) : List Nat :=
  (s.prog.eff.filter fun e => e.1.1 == 8 && bits e.2 0 4 == 2 && bit e.2 6
    && view.all fun c => bit e.2 56 || bits e.2 47 9 == c).map (·.2)

/-- The measurement blocks of Table 18-8. -/
def measurements (s : State) (view : Option Nat) : List (Nat × List Nat) :=
  let im := Config.image s.disc.imageB
  let f := s.fuse
  [(1, [im 1]), (2, [im 2]), (3, [im 3]),
   (4, [f.keyUsed, ofB f.debugOff, fuseStatus f, s.sec.minSvn] ++ (List.range 32).flatMap fun n => [f.step.get n 0, gensUsed f n, f.gen.get n 1]),
   (5, [ofB f.debugOff, ofB s.sec.unlock, s.tel.jtag, s.sec.unlocks]),
   (6, [f.devid.toNat, f.ordering, ofB f.variantL, f.bhv.toNat]),
   (7, layoutBlock s view), (8, filterBlock s view),
   (9, [ofB s.sec.tamper, ofB s.sec.temp, ofB s.sec.cellAlm, ofB s.sec.aonLost] ++ s.sec.aonLog.flatMap fun a => [a.1, a.2]),
   (10, [s.sec.ownGen, ofB s.sec.kreg.isSome, ofB s.sec.kregZero, ofB s.sec.trngOk])]

/-- The alias key's signature over the transcript (the requests that set the connection up, the request and its nonce) and the blocks (R490,
R498, log entry 186). -/
def spdmSign (s : State) (x : Sess) (nonce : Nat) (blocks : List (Nat × List Nat)) : Option Nat :=
  s.sec.aliasKey.map fun k => Config.sign k (x.script ++ [0xE0, nonce] ++ blocks.flatMap fun b => b.1 :: b.2.length :: b.2)

/-- GET_MEASUREMENTS: the blocks, filtered for a tenant, signed over the transcript and the nonce (R498, R499). -/
def execGetMeasurements (conn : Nat) (nonce : Nat) (s : State) : Res :=
  .next (spdmFrom s conn [3, 4, 5] fun s x =>
    let view := if x.st = 5 then (match x.role with
      | .tenant c => some c
      | _ => none) else none
    emit s (.measurements conn view (measurements s view) (spdmSign s x nonce (measurements s view))))

end Sys2Proof.Machine
end

