-- ==== Sys2Proof/Machine/Telemetry.lean ====
section
/-! DEFINITION. Snapshots, the scroll's windows and archive, JTAG and debug (R501 to R517, R533). -/

namespace Sys2Proof.Machine

open Sys2Proof

/-! What the snapshot directory says of a counter (R502, R503, Table 19-3). -/

/-- An index of a counter: the die it is held on, one of `w` bits of INSTANCE, a capo, a link, whose SX is the die, a fibre's ring
(fibre 5, bus 1, ring 5), a laser position, whose OX is the die, or the two formats of an operand pair. -/
inductive Ix where
  | sx | ox | rt | hx
  | w (n : Nat)
  | capo
  | link
  | ring
  | module
  | pair
deriving DecidableEq, Repr

/-- A counter's FAMILY, ROW and NAME, and the kinds of its indices; `each` says that every die of the kind counts the same events. -/
structure DirRow where
  fam : Nat
  row : Nat
  name : Nat
  ixs : List Ix
  each : Bool := false
deriving DecidableEq, Repr

def dirSx (n : CtrName) : DirRow :=
  match n with
  | .sxPktIn => ⟨0x0509, 1, 0, [.sx, .w 8, .w 3], false⟩
  | .sxPktOut => ⟨0x0509, 1, 1, [.sx, .w 8, .w 3], false⟩
  | .sxPushout => ⟨0x0509, 2, 0, [.sx, .w 3, .capo], false⟩
  | .sxAdmitWait => ⟨0x0509, 3, 0, [.sx, .w 8, .w 3], false⟩
  | .sxCtAbort => ⟨0x0509, 4, 0, [.sx, .w 8], false⟩
  | .sxBufCorr => ⟨0x0509, 5, 0, [.sx, .w 8], false⟩
  | .sxBufUncorr => ⟨0x0509, 5, 1, [.sx, .w 8], false⟩
  | .sxHdrErr => ⟨0x0509, 6, 0, [.sx, .w 8], false⟩
  | .sxFmtErr => ⟨0x0509, 7, 0, [.sx, .w 8], false⟩
  | .sxSeqReuse => ⟨0x0509, 8, 0, [.sx, .w 8], false⟩
  | .sxDupEvict => ⟨0x0509, 9, 0, [.sx, .capo], false⟩
  | .sxMisdirect => ⟨0x0509, 10, 0, [.sx, .w 8], false⟩
  | .sxEmergFlits => ⟨0x0509, 11, 0, [.sx, .w 8], false⟩
  | .sxHarmDrop => ⟨0x0509, 12, 0, [.sx, .w 3], false⟩
  | .sxUnroutable => ⟨0x0607, 1, 0, [.sx, .w 8], false⟩
  | .sxMisroute => ⟨0x0607, 2, 0, [.sx, .w 8], false⟩
  | .sxReroute => ⟨0x0607, 3, 0, [.sx, .w 8], false⟩
  | .sxCreditWait => ⟨0x0607, 4, 0, [.sx, .w 8, .w 3], false⟩
  | .sxLinkDup => ⟨0x0607, 5, 0, [.sx, .w 8], false⟩
  | .sxMcastFail => ⟨0x0607, 6, 0, [.sx, .capo], false⟩
  | .brgBulkOut => ⟨0x0607, 7, 0, [.link, .w 1], false⟩
  | .brgBulkPkts => ⟨0x0607, 8, 0, [.link, .w 1], false⟩
  | .brgBulkErr => ⟨0x0607, 9, 0, [.link], false⟩
  | .brgDateline => ⟨0x0607, 10, 0, [.w 2], false⟩
  | .sxRcacheMiss => ⟨0x1106, 1, 0, [.sx], false⟩
  | .sxXlateFault => ⟨0x1106, 2, 0, [.sx, .capo], false⟩
  | .sxD2dRetry => ⟨0x1902, 1, 0, [.sx, .w 4], false⟩
  | .sxD2dLaneRep => ⟨0x1902, 2, 0, [.sx, .w 4], false⟩
  | _ => ⟨0, 0, 0, [], false⟩

def dirRt (n : CtrName) : DirRow :=
  match n with
  | .rtMeSteps => ⟨0x0710, 1, 0, [.rt, .w 5, .pair], false⟩
  | .rtMeIdle => ⟨0x0710, 2, 0, [.rt, .w 5], false⟩
  | .rtLaneBytes => ⟨0x0710, 3, 0, [.rt, .w 1, .capo], false⟩
  | .rtLineWait => ⟨0x0710, 4, 0, [.rt], false⟩
  | .rtWinFinal => ⟨0x0710, 5, 0, [.rt, .capo], false⟩
  | .rtWinPoison => ⟨0x0710, 6, 0, [.rt, .capo], false⟩
  | .rtWinExpire => ⟨0x0710, 7, 0, [.rt, .capo], false⟩
  | .rtWinDrop => ⟨0x0710, 8, 0, [.rt, .capo], false⟩
  | .rtHeldFull => ⟨0x0710, 9, 0, [.rt], false⟩
  | .rtAccCorr => ⟨0x0710, 10, 0, [.rt], false⟩
  | .rtAccUncorr => ⟨0x0710, 10, 1, [.rt], false⟩
  | .rtSrDraws => ⟨0x0710, 11, 0, [.rt, .capo], false⟩
  | .rtSeqIssue => ⟨0x0820, 1, 0, [.rt, .capo], true⟩
  | .rtSeqWait => ⟨0x0820, 2, 0, [.rt, .capo], true⟩
  | .rtSeqChkpt => ⟨0x0820, 3, 0, [.rt, .capo], true⟩
  | .rtSeqDuty => ⟨0x0820, 4, 0, [.rt, .capo], true⟩
  | .rtSeqExc => ⟨0x0820, 5, 0, [.rt, .w 5], true⟩
  | .rtStoreCorr => ⟨0x0820, 6, 0, [.rt], false⟩
  | .rtStoreUncorr => ⟨0x0820, 6, 1, [.rt], false⟩
  | _ => dirSx n

def dirHx (n : CtrName) : DirRow :=
  match n with
  | .hxDdrRdBytes => ⟨0x1106, 3, 0, [.hx, .w 3], false⟩
  | .hxDdrWrBytes => ⟨0x1106, 3, 1, [.hx, .w 3], false⟩
  | .hxDdrCorr => ⟨0x1106, 4, 0, [.hx, .w 3], false⟩
  | .hxDdrUncorr => ⟨0x1106, 4, 1, [.hx, .w 3], false⟩
  | .hxCxlRdBytes => ⟨0x1106, 5, 0, [.hx, .w 8], false⟩
  | .hxCxlWrBytes => ⟨0x1106, 5, 1, [.hx, .w 8], false⟩
  | .hxCxlPoison => ⟨0x1106, 6, 0, [.hx, .w 8], false⟩
  | .memPfaBytes => ⟨0x1106, 7, 0, [.hx, .capo], true⟩
  | .memPfaPoison => ⟨0x1106, 8, 0, [.hx, .capo], true⟩
  | .memDegraded => ⟨0x1106, 9, 0, [.w 16], false⟩
  | .oxPegRecover => ⟨0x1212, 1, 0, [.ox, .ring], false⟩
  | .oxPegFail => ⟨0x1212, 2, 0, [.ox, .ring], false⟩
  | .oxPegHeatUj => ⟨0x1212, 3, 0, [.ox], false⟩
  | .oxReflank => ⟨0x1212, 4, 0, [.ox, .ring], false⟩
  | .oxLaneMove => ⟨0x1212, 5, 0, [.ox, .w 5, .w 1], false⟩
  | .oxLaneRefuse => ⟨0x1212, 6, 0, [.ox, .w 5, .w 1], false⟩
  | .oxLaneAbandon => ⟨0x1212, 7, 0, [.ox, .w 5], false⟩
  | .oxTuneRevert => ⟨0x1212, 8, 0, [.ox, .w 5], false⟩
  | .oxLaserWarn => ⟨0x1212, 9, 0, [.module, .w 5], false⟩
  | _ => dirRt n

/-- The row of each counter's own table; the Brola's and the count without a name have none. -/
def dirRow (n : CtrName) : DirRow :=
  match n with
  | .lnkFecCorr => ⟨0x1310, 1, 0, [.link, .w 2], false⟩
  | .lnkFecUncorr => ⟨0x1310, 2, 0, [.link, .w 2], false⟩
  | .lnkGuard => ⟨0x1310, 3, 0, [.link, .w 2], false⟩
  | .lnkSlotCrc => ⟨0x1310, 4, 0, [.link], false⟩
  | .lnkGap => ⟨0x1310, 5, 0, [.link], false⟩
  | .lnkReplay => ⟨0x1310, 6, 0, [.link], false⟩
  | .lnkReplaySlots => ⟨0x1310, 7, 0, [.link], false⟩
  | .lnkFraming => ⟨0x1310, 8, 0, [.link], false⟩
  | .lnkEiEntry => ⟨0x1310, 9, 0, [.link, .w 1], false⟩
  | .lnkDown => ⟨0x1310, 10, 0, [.link, .w 5], false⟩
  | .courseMirrorMsgs => ⟨0x1408, 1, 0, [.w 8], false⟩
  | .courseMirrorFull => ⟨0x1408, 2, 0, [], false⟩
  | .courseHbMiss => ⟨0x1408, 3, 0, [.w 5], false⟩
  | .courseTakeover => ⟨0x1408, 4, 0, [], false⟩
  | .courseRbBytes => ⟨0x1408, 5, 0, [], false⟩
  | .courseRbRestart => ⟨0x1408, 6, 0, [], false⟩
  | .elgPdUj => ⟨0x1610, 1, 0, [.w 6], false⟩
  | .elgPkgUj => ⟨0x1610, 2, 0, [], false⟩
  | .elgStreamUj => ⟨0x1610, 3, 0, [.capo], false⟩
  | .elgBallastUj => ⟨0x1610, 4, 0, [.w 3], false⟩
  | .elgEpoch => ⟨0x1610, 5, 0, [], false⟩
  | .elgDefer => ⟨0x1610, 6, 0, [.capo], false⟩
  | .elgChkptWait => ⟨0x1610, 7, 0, [.capo], false⟩
  | .elgOverrun => ⟨0x1610, 8, 0, [.capo], false⟩
  | .elgRampViol => ⟨0x1610, 9, 0, [.w 5], false⟩
  | .elgThrottleEp => ⟨0x1610, 10, 0, [.w 2], false⟩
  | .mcScrollSuppress => ⟨0x1902, 3, 0, [.w 4], false⟩
  | .mcIfErr => ⟨0x2016, 1, 0, [.w 8, .w 4], false⟩
  | .mcIfAccess => ⟨0x2016, 2, 0, [.w 8], false⟩
  | .snapLate => ⟨0x2016, 3, 0, [], false⟩
  | _ => dirHx n

/-- The row of Table 7-5 of a pair of matrix formats. -/
def pairRow (w x : Nat) : Nat := if w = 0 then (if x = 0 then 0 else 1) else if w ≤ 4 then 2 else w - 2

/-- The die site of a counter: the die its indices name, else the active MC; a ring's direction is counted on SX3. -/
def ctrSite (s : State) (n : CtrName) (ix : List Nat) : Nat :=
  match (dirRow n).ixs, ix with
  | .sx :: _, i :: _ => siteSX i
  | .ox :: _, i :: _ => siteOX i
  | .rt :: _, i :: _ => siteRT i
  | .hx :: _, i :: _ => siteHX i
  | .module :: _, i :: _ => siteOX (i / 2)
  | .link :: _, i :: _ => siteSX (if i < 512 then i / 128 else (i - 512) / 8)
  | _, _ => if n = .brgDateline then siteSX 3 else siteMC s

/-- The indices packed from the low bit upward, and the bits that they take (R503). -/
def packIx (brg : Bool) : List Ix → List Nat → Nat × Nat
  | k :: ks, i :: is =>
    match k, is with
    | .sx, _ | .ox, _ | .rt, _ | .hx, _ => packIx brg ks is
    | .w n, _ => let r := packIx brg ks is; (i % 2 ^ n + r.1 * 2 ^ n, n + r.2)
    | .capo, _ => let r := packIx brg ks is; (i % 512 + r.1 * 512, 9 + r.2)
    | .link, _ => let r := packIx brg ks is; if brg then (i % 128 + r.1 * 256, 8 + r.2) else (i % 1024 + r.1 * 1024, 10 + r.2)
    | .module, _ => let r := packIx brg ks is; (i % 2 + r.1 * 2, 1 + r.2)
    | .ring, b :: g :: t => let r := packIx brg ks t; (i % 32 + b % 2 * 32 + g % 32 * 64 + r.1 * 2048, 11 + r.2)
    | .pair, x :: t => let r := packIx brg ks t; (pairRow i x + r.1 * 8, 3 + r.2)
    | _, _ => (0, 0)
  | _, _ => (0, 0)

/-- A directory entry, Table 19-3. -/
def dirBits (s : State) (n : CtrName) (ix : List Nat) : Nat :=
  let r := dirRow n
  let site := ctrSite s n ix
  r.fam + r.row * 2 ^ 16 + r.name * 2 ^ 20 + site % 32 * 2 ^ 23 + (packIx (r.fam == 0x0607) r.ixs ix).1 % 2 ^ 24 * 2 ^ 28
    + ofB (decide (site ∈ s.tel.stale)) * 2 ^ 52

/-- The capo of a counter that is kept per capo (R504). -/
def ctrCapo (n : CtrName) (ix : List Nat) : Option Nat :=
  let r := dirRow n
  ((r.ixs.zip ix).find? fun x => x.1 == .capo).map (·.2)

/-- The key under which a counter is kept: what every die counts alike is kept once. -/
def ctrKeyOf (n : CtrName) (ix : List Nat) : CtrKey := if (dirRow n).each then (n, ix.drop 1) else (n, ix)

/-! Snapshots (R505 to R507, R533). -/

/-- SNAP_AT. -/
def snapAt (s : State) : Nat := s.tel.atLo.toNat + s.tel.atHi.toNat * 2 ^ 32

/-- What a port may write besides RWL, SC, WO and SEC fields: SPI and the sessions that manage (R488, R524). -/
def mayWrite (s : State) (p : MPort) : Bool := p == .spi || isManager s p

/-- The block that a counter is copied with: that of its die; a counter kept once for its dies goes with the first of them. -/
def ctrBlock (s : State) (k : CtrKey) : Nat :=
  let r := dirRow k.1
  if r.each then (match r.ixs with
    | .rt :: _ => siteRT 0
    | _ => siteHX 0)
  else ctrSite s k.1 k.2

/-- Whether a counter is this package's, and stands in the snapshot. -/
def ctrMine (k : CtrKey) : Bool := (dirRow k.1).fam != 0 && (match (dirRow k.1).ixs, k.2 with
  | .link :: _, i :: _ => decide (i < 544)
  | _, _ => true)

def writeAtLo (s : State) (v : W32) : State :=
  if s.tel.armed then { s with tel := { s.tel with snapRefused := true } } else { s with tel := { s.tel with atLo := v } }

/-- A write of the high word arms, or finds a snapshot armed, or a time out of range (R505); at arming SNAP goes out on every Ready leaf
string where SNAP_CTL.BROLA says so (R507). -/
def writeAtHi (s : State) (v : W32) : State :=
  if s.tel.armed then { s with tel := { s.tel with snapRefused := true } }
  else
    let s := { s with tel := { s.tel with atHi := v } }
    let t := snapAt s
    if t < s.clk.now + 2000 ∨ s.clk.now + 10 ^ 10 < t then bump { s with tel := { s.tel with snapLate := true } } .snapLate []
    else
      let s := { s with tel := { s.tel with armed := true, copiedBlks := [] } }
      if s.tel.snapBrola then toLeaves s (.snap t) else s

/-- SNAP_AT_LO (R533). -/
def execSnapAtLo (p : MPort) (value : W32) (s : State) : Res := .next (access s p (mayWrite s p) fun s => writeAtLo s value)

/-- SNAP_AT_HI (R505). -/
def execSnapAtHi (p : MPort) (value : W32) (s : State) : Res := .next (access s p (mayWrite s p) fun s => writeAtHi s value)

/-- A read of SNAP_NOW_LO freezes the high word for its port (R505, R533). -/
def readNow (s : State) (p : MPort) : State × W32 :=
  ({ s with tel := { s.tel with frozenHi := s.tel.frozenHi.set (mportIx p) (BitVec.ofNat 32 (s.clk.now / 2 ^ 32)) } }, BitVec.ofNat 32 s.clk.now)

/-- What a register read answers on its port. -/
def snapAnswer (s : State) (p : MPort) (v : W32) : State :=
  match p with
  | .spi => emit s (.spiRead v false)
  | .smbus => emit s (.smbRead v 0)
  | .eth c => emit s (.mctpRead c 0 [v])

/-- SNAP_NOW_LO (R533); the SNAP block is out of reach of SMBus (R525). -/
def execSnapNowLo (p : MPort) (s : State) : Res :=
  .next (access s p (p == .spi || (portRole s p).isSome) fun s => snapAnswer (readNow s p).1 p (readNow s p).2)

/-- The counters of a block copied to the inactive half (R506); a die that is off copies nothing. -/
def snapCopyBlock (s : State) (b : Nat) : State :=
  if b ∈ s.tel.copiedBlks ∨ !pdIsOn s b then s
  else
    { s with tel := { s.tel with
        copiedBlks := s.tel.copiedBlks ++ [b]
        inactive := s.tel.inactive.filter (fun c => ctrBlock s c.1 != b) ++ s.ctr.filter fun c => ctrMine c.1 && ctrBlock s c.1 == b } }

/-- SNAPSHOT_COPY: a block, by its die site, copies its counters at or beyond SNAP_AT (R506). -/
def execSnapshotCopy (blk : Nat) (s : State) : Res :=
  .next (if s.tel.armed ∧ blk < 32 ∧ snapAt s ≤ s.clk.now then snapCopyBlock s blk else s)

/-- SNAPSHOT_SWAP: at SNAP_AT + 1,000 ns every block swaps at once; a die that was off keeps its previous values and is STALE (R502, R506). -/
def execSnapshotSwap (s : State) : Res :=
  .next (if s.tel.armed ∧ snapAt s + 1000 ≤ s.clk.now then
      let s := (List.range 32).foldl snapCopyBlock s
      let done := s.tel.copiedBlks
      { s with tel := { s.tel with
          shadow := s.tel.inactive.filter (fun c => decide (ctrBlock s c.1 ∈ done)) ++ s.tel.shadow.filter fun c => decide (ctrBlock s c.1 ∉ done)
          inactive := s.tel.shadow
          stale := (List.range 32).filter (· ∉ done)
          snapEpoch := (s.tel.snapEpoch + 1) % 2 ^ 32
          armed := false, copiedBlks := [] } }
    else s)

/-! The scroll (R509, R511, R512). -/

/-- The entry of a SEQ that the scroll holds, in the tail or the archive. -/
def scrollFind (s : State) (q : Nat) : Option ScrollEntry := (s.tel.archive ++ s.tel.tail).find? fun e => e.seq == q

/-- The oldest and newest SEQ held. -/
def scrollFirst (s : State) : Nat := ((s.tel.archive ++ s.tel.tail).head?.map (·.seq)).getD 0
def scrollLast (s : State) : Nat := ((s.tel.archive ++ s.tel.tail).getLast?.map (·.seq)).getD 0

/-- The 512 bits that a reader sees: a tenant those of its own capo, else only SEQ (R512). -/
def scrollView (s : State) (tenant : Option Nat) : Nat :=
  let q := s.tel.scrollRd.toNat
  match scrollFind s q with
  | none => 0
  | some e =>
    match tenant with
    | none => entryBits e
    | some c => if e.capo = some c then entryBits e else q

/-- SCROLL_RD selects an entry; every session may, and SPI (R512). -/
def execScrollRd (p : MPort) (value : W32) (s : State) : Res :=
  .next (access s p (p == .spi || (portRole s p).isSome) fun s => { s with tel := { s.tel with scrollRd := value } })

/-- A summary entry: CLASS 0x0B, of a combination that had entries suppressed (R511). -/
def summaryOf (k : Nat × ScrollEv × Nat × Option Nat) (n time rtc : Nat) : ScrollEntry :=
  { time := time, rtc := rtc, site := k.2.2.1, capo := k.2.2.2, cls := 0x0B, ev := .summary, sub := some (k.1, k.2.1), count := n }

/-- SCROLL_WINDOW_END: a window of 10 ms ends; each combination with suppressed entries gets its summary (R511). -/
def execScrollWindowEnd (s : State) : Res :=
  .next (if s.clk.now / 10000000 ≤ s.tel.winStart / 10000000 then s
    else
      let fin := (s.tel.winStart / 10000000 + 1) * 10000000
      let l := (s.tel.winCount.filter fun c => c.2.2.1 != 0).reverse
      let s := l.foldl (fun s c => scrollAppend s (summaryOf c.1 c.2.2.1 fin (rtcSeconds s))) s
      { s with tel := { s.tel with winCount := [], winStart := s.clk.now / 10000000 * 10000000 } })

/-- Places of the archive in a flash of 64 MiB (Table 15-2). -/
def archiveSize : Nat := (2 ^ 26 - 0x2100000) / 64

/-- Entries that wait in the active MC take the places that are free (R509). -/
def tailDrain : List ScrollEntry → Tel → Tel
  | [], t => { t with waitQ := [] }
  | e :: r, t => if t.unarchived < 1024 then tailDrain r (tailPush t e) else { t with waitQ := e :: r }

/-- SCROLL_ARCHIVE: Rilash moves n entries of the tail to the archive, in SEQ order, over the oldest; below 512 the archive no longer
lags (R509). -/
def execScrollArchive (n : Nat) (s : State) : Res :=
  let t := s.tel
  let new := ((t.tail.drop (t.tail.length - t.unarchived)).take n)
  let a := t.archive ++ new
  let left := t.unarchived - new.length
  let t := { t with archive := a.drop (a.length - archiveSize), unarchived := left, lag := t.lag && decide (512 ≤ left) }
  .next { s with tel := tailDrain t.waitQ t }

/-! JTAG and debug (R515 to R517). -/

/-- An instruction that is not available acts as BYPASS. -/
def jtagDo (s : State) (may : Bool) (code data : Nat) (f : State → State) : State :=
  if may then emit (f { s with tel := { s.tel with jtag := code } }) (.jtag code data)
  else emit { s with tel := { s.tel with jtag := 0 } } (.jtag 0 0)

/-- Whether the pins may be driven: debug unlocked, in PHASE 0xF. -/
def jtagPins (s : State) : Bool := s.sec.unlock && s.disc.phase == 0xF

/-- BYPASS: one bit, a shift later. -/
def execJtagBypass (tdi : Nat) (s : State) : Res := .next (jtagDo s true 0 (tdi % 2) id)

/-- IDCODE (log entry 63). -/
def execJtagIdcode (s : State) : Res := .next (jtagDo s true 1 Config.idcode.toNat id)

/-- SAMPLE/PRELOAD: what the pins show is a free value; the boundary cells take v. -/
def execJtagSamplePreload (v : Nat) (s : State) : Res :=
  .next (jtagDo { s with free := s.free + 1 } true 2 (Config.freeBits s.free).toNat fun s => { s with tel := { s.tel with bscan := v } })

/-- EXTEST drives the pins from the cells. -/
def execJtagExtest (v : Nat) (s : State) : Res := .next (jtagDo s (jtagPins s) 3 v fun s => { s with tel := { s.tel with bscan := v } })

/-- CLAMP holds the pins at the cells' values. -/
def execJtagClamp (s : State) : Res := .next (jtagDo s (jtagPins s) 4 s.tel.bscan id)

/-- HIGHZ. -/
def execJtagHighz (s : State) : Res := .next (jtagDo s (jtagPins s) 5 0 id)

/-- DBGACC reads and writes die internal state while debug is unlocked; a place that nothing has written reads a free value (R515). -/
def execDbgacc (wr : Bool) (addr data : Nat) (s : State) : Res :=
  .next (if wr then jtagDo s s.sec.unlock 6 data fun s => { s with tel := { s.tel with dieState := s.tel.dieState.set addr data } }
    else
      match s.tel.dieState.find addr with
      | some v => jtagDo s s.sec.unlock 6 v id
      | none => jtagDo { s with free := s.free + 1 } s.sec.unlock 6 (Config.freeBits s.free).toNat id)

/-- DBGINJ feeds the debug-injection emergency requester of a string output while debug is unlocked (R515, Table 5-4). -/
def execDbginj (sx port flits : Nat) (s : State) : Res :=
  .next (jtagDo s (s.sec.unlock && decide (sx < 4 ∧ port < 128 ∧ 1 ≤ flits)) 7 flits fun s =>
    { s with sw := { s.sw with injected := s.sw.injected.set (sx, port) (s.sw.injected.get (sx, port) [] ++ [{ capo := 0, left := flits, flits := flits }]) } })

/-- The session of an Ethernet access. -/
def sessNo : MPort → Nat
  | .eth c => c
  | _ => 0

/-- UNLOCK set or cleared by an owner session; ignored once debug is disabled (R516, R517). -/
def writeUnlock (s : State) (p : MPort) (v : Bool) : State :=
  if s.fuse.debugOff then s
  else if v then
    (if s.sec.unlock then s
     else { s with sec := { s.sec with unlock := true, unlocks := min 255 (s.sec.unlocks + 1), unlocker := some (sessNo p) } })
  else { s with sec := { s.sec with unlock := false, unlocker := none } }

def execUnlock (p : MPort) (v : Bool) (s : State) : Res := .next (access s p (isOwner s p) fun s => writeUnlock s p v)

/-- DISABLE: programs the debug disable, once; a write of 0 changes nothing or, when it is programmed, is refused: the budget of 1 is used up (R16, R517). -/
def writeDisable (s : State) (v : Bool) : State :=
  if v = s.fuse.debugOff then s
  else if s.fuse.busy.isSome then fuseRefused s
  else if !v then fuseExhausted s
  else fuseProgram s { ty := 6 }

def execDisable (p : MPort) (v : Bool) (s : State) : Res := .next (access s p (isOwner s p) fun s => writeDisable s v)

end Sys2Proof.Machine
end

