-- ==== Sys2Proof/Machine/Startup.lean ====
section
/-! DEFINITION. Start-up and discovery: boot, the package phases, election, sweeps, the start tables and Ready (R407 to R436, R497). -/

namespace Sys2Proof.Machine

open Sys2Proof

def setDisc (s : State) (d : Disc) : State := { s with disc := d }

/-- This Kojor's rank (R421). -/
def myRank (s : State) : Nat := rankOf (site s).course (site s).memberB
def twinRank (s : State) : Nat := rankOf (site s).course (!(site s).memberB)

/-! MC boot (R410 to R413). -/

/-- The image that boots, by the boot control record and what verifies (R412). -/
def bootChoice (r : Option BootRec) (okA okB : Bool) : Option Bool :=
  let pref := (r.map (·.prefB)).getD false
  let first := if (r.map (·.tries)).getD 0 < 3 then pref else !pref
  let ok := fun b : Bool => if b then okB else okA
  if ok first then some first else if ok (!first) then some (!first) else none

/-- The MCs come on, but one that has faulted (R36, R412). -/
def mcsOn (s : State) : State :=
  let s := if s.pwr.faultMid.getLsbD 2 then s else setPd s 30 true
  let s := if s.pwr.faultMid.getLsbD 3 then s else setPd s 31 true
  { s with mc := { s.mc with standbyOk := pdIsOn s 30 && pdIsOn s 31 } }

/-- An image has booted: the record is written to the other copy when it is PREF; a package that is not owned can hold no valid site
record (R411 to R413, R491). -/
def imageBoots (s : State) (b siteOk : Bool) : State :=
  let r := (bootRec s.disc).map (·.1)
  let pref := (r.map (·.prefB)).getD false
  let d := if b = pref then bootWrite s.disc pref (min ((r.map (·.tries)).getD 0 + 1) 3) else s.disc
  setDisc s { d with phase := 2, bootAt := s.clk.up, imageB := b, fallback := b != pref, site := if siteOk && owned s then some d.siteFlash else none }

/-- The device identity key, derived from the fused unique secret at manufacture; no command's answer holds it (R490). -/
def identityKey : Nat := Config.identityKey Config.uniqueSecret

/-- The alias key of this boot, from the unique secret and the digests of the MC image, the binder and the peg firmware (R490). -/
def deriveAlias (s : State) : State :=
  let im := Config.image s.disc.imageB
  { s with sec := { s.sec with aliasKey := some (Config.aliasKey Config.uniqueSecret (im 1) (im 2) (im 3)) } }

/-- MC_BOOT: the fuse records are read, an image is selected and verified, or recovery is entered; the alias key is derived, latched
alarms are reported and an empty key register is filled (R412, R413, R454, R490, R497, R551). -/
def execMcBoot (verifyA verifyB siteOk : Bool) (s : State) : Res :=
  .next (if s.disc.phase ≠ 1 ∨ !s.pwr.pwrGood ∨ s.pwr.porHeld then s
    else
      let s := fuseLoad (mcsOn s)
      let s := { s with sw := { s.sw with retired := retiredBanks s.fuse } }
      let s := match bootChoice ((bootRec s.disc).map (·.1)) verifyA verifyB with
        | none => setDisc s { s.disc with phase := 0xF, site := none }
        | some b => imageBoots s b siteOk
      keyFill (reportLatches (deriveAlias s)))

/-! Die self-test (R414, R319). -/

/-- The DDR5 channels of an HX that are excluded: unsupported ones, then those that differ from the lowest-numbered of the rest (R319). -/
def channelsOut (l : List Dimm) (h : Nat) : List (Nat × Nat) :=
  let mine := sortBy (fun a b => decide (a.ch ≤ b.ch)) (l.filter fun d => d.hx == h && decide (d.ch < 6 ∧ 1 ≤ d.count))
  let good := mine.filter (·.supported)
  match good.head? with
  | none => mine.map fun d => (h, d.ch)
  | some f => (mine.filter fun d => !d.supported || d.count != f.count || d.gb != f.gb).map fun d => (h, d.ch)

/-- Pages of an HX's DDR5 (R310, R319). -/
def ddrPages (l : List Dimm) (out : List (Nat × Nat)) (h : Nat) : Nat :=
  ((l.filter fun d => d.hx == h && decide (d.ch < 6) && decide ((h, d.ch) ∉ out)).map fun d => d.count * d.gb).sum * 10 ^ 9 / 4096

/-- The host port table that the site record gives: CXL where HOSTP is 0, PRIV by PRIVP, capo 0 (R413, R428). -/
def sitePorts (t : SiteRec) : List Nat :=
  (List.range 8).map fun p => p + ofB (!t.hostP.getLsbD p) * 2 ^ 3 + ofB (t.privP.getLsbD p) * 2 ^ 4

/-- The domains in dependency order, each where what it requires is on (R37). -/
def domainsOn (s : State) : State := pdOrder.foldl (fun s n => if pdIsOn s n || !pdMet s n then s else pdOnAct s n) s

/-- RAMPSLOT × 10 ms of the self-test phase have passed (R414). -/
def rampOver (s : State) : Bool := decide (s.disc.bootAt + ((s.disc.site.map (·.rampSlot)).getD 0) % 32 * 10000000 ≤ s.clk.up)

/-- SELFTEST_START: after the RAMPSLOT delay the domains come on; the dies load their repair maps, DDR5 trains, the ports take the site record's modes and scrub
begins (R312, R319, R322, R414, R465). -/
def execSelftestStart (dimms : List Dimm) (s : State) : Res :=
  .next (if s.disc.phase ≠ 2 ∨ (List.range 30).any (pdIsOn s) ∨ !rampOver s then s
    else
      let s := domainsOn s
      let out := channelsOut dimms 0 ++ channelsOut dimms 1
      let eff := match s.disc.site with
        | some t => (sitePorts t).foldl (fun l e => TMap.set l (3, tblKey 3 e) e) s.prog.eff
        | none => s.prog.eff
      let s := { s with
        prog := { s.prog with eff := eff }
        fuse := { s.fuse with loadWait := [] }
        pwr := { s.pwr with portTrain := List.range 8 }
        mem := { s.mem with
          dimms := dimms, chDeg := out
          pages := (s.mem.pages.set 8 (ddrPages dimms out 0)).set 9 (ddrPages dimms out 1)
          scrubAt := [] } }
      out.foldl (fun s c => scroll s 5 .channelDegraded (siteHX c.1) [c.1, c.2]) s)

/-- The substitutions of F16 that a repair map records: KIND 0x07, with the fibre in FAULTY (R354, R464). -/
def fuseFibres (s : State) (ox : Nat) : List Nat :=
  ((s.fuse.entries.get (siteOX ox) []).filter fun e => bits e 0 6 == 7).map fun e => bits e 26 16 % 16

def fuseSubst (s : State) (ox : Nat) : State :=
  (fuseFibres s ox).foldl (fun s f => (fibreStrings ox f).foldl (fun s x => mapPut s x fun e => putBits (putBits e 10 5 16) 15 5 16) s) s

/-- The optical phase begins: the modules are enabled, the substitutions recorded in fuses apply (R354, R356, R415). -/
def opticsBegin (s : State) : State :=
  let s := { s with opt := { s.opt with lasers := s.opt.lasers.map fun l => (l.1, { l.2 with ready := l.2.present && !l.2.alarm }) } }
  (List.range 8).foldl fuseSubst s

/-- SELFTEST_PHASE_END: dies that failed stay off as faults, tier A is scrubbed; without a site record the package goes no further (R312,
R413, R414). -/
def execSelftestPhaseEnd (failed : List Nat) (s : State) : Res :=
  .next (if s.disc.phase ≠ 2 ∨ !(pdIsOn s 28 || pdIsOn s 29 || !failed.isEmpty) then s
    else
      let s := failed.foldl pdFault s
      let s := { s with
        mem := { s.mem with scrubAt := (List.range 8).foldl (fun m t => m.set t (targetPages s t)) s.mem.scrubAt }
        pwr := { s.pwr with portTrain := s.pwr.portTrain.filter fun p => portIsCxl s.prog.eff p } }
      if s.disc.site.isNone then setDisc s { s.disc with phase := 0xF }
      else opticsBegin (setDisc s { s.disc with phase := 3 }))

/-! Optics, soundpost and leaf attach (R415 to R417). -/

/-- Strings start bring-up, of the OXs that are on. -/
def startStrings (s : State) (l : List Nat) : State :=
  (l.filter fun x => pdIsOn s (4 + oxOf x) && (linkOf s x).stage == 0).foldl (fun s x => enterStage s x 1) s

/-- OPTICAL_PHASE_END: every ring that the loops hold is LOCKED, PARK or FAILED; the soundpost strings come up (R415, R416). -/
def execOpticalPhaseEnd (s : State) : Res :=
  .next (if s.disc.phase = 3 ∧ s.opt.pegs.all fun p => p.2.st == .locked || p.2.st == .park || p.2.st == .failed then
      startStrings (setDisc s { s.disc with phase := 4 }) ((List.range 32).map (· + 512))
    else s)

/-- A Kojor that is excluded takes its leaf strings down with DISABLED and goes no further (R416). -/
def excludeSelf (s : State) : State :=
  let s := (leafStringsUp s).foldl (fun s n => stringDown s n .disabled) s
  { s with
    disc := { s.disc with excl := true, amLead := false }
    prog := { s.prog with commits := s.prog.commits.filter fun p => p.desc != 0 } }
where
  /-- Its leaf strings that are not down. -/
  leafStringsUp (s : State) : List Nat := (List.range 512).filter fun n => !isBridge s n && (linkOf s n).stage != 0

/-- SOUNDPOST_PHASE_END: paired when a soundpost string is Ready and HEARTBEATs pass; else the member goes on ALONE, or member B, which
has heard its twin's HELLO, is excluded (R416). -/
def execSoundpostPhaseEnd (s : State) : Res :=
  .next (if s.disc.phase ≠ 4 then s
    else
      let s := setDisc s { s.disc with phase := 5 }
      let up := fun s => startStrings s ((List.range 512).filter fun n => !strHarmonic s.prog.eff n)
      if soundpostUp s && s.course.paired then
        up { s with course := { s.course with twinDevid := ((s.disc.hellos.find (twinRank s)).map (·.devid)).getD 0 } }
      else if s.disc.twinHello && (site s).memberB then excludeSelf s
      else up { s with course := { s.course with alone := true, paired := false, takeover := s.clk.now } })

/-- HEALTHY of Table 15-6: leaf attach has ended, every SX is in service, not excluded. -/
def isHealthy (s : State) : Bool := s.disc.attached && (List.range 4).all (pdIsOn s) && !s.disc.excl

/-- A Kojor that starts while its domain is ready: its twin is ALONE, or a HELLO shows a Kojor in Ready (R434). -/
def joinsReady (s : State) : Bool := s.course.twinAlone || s.disc.hellos.any fun h => h.2.phase == 9

/-- Such a Kojor joins its course as a rebuild target (R399, R434). -/
def joinCourse (s : State) : State :=
  { s with disc := { s.disc with joining := true }, course := { s.course with rebuildTgt := true, alone := false } }

/-- LEAF_ATTACH_PHASE_END: every string that has shown light is Ready or down, or 0.8 s has passed (R417, R420, R434). -/
def execLeafAttachPhaseEnd (elapsedMs : Nat) (s : State) : Res :=
  let busy := (List.range 512).any fun n => decide (2 ≤ (linkOf s n).stage ∧ (linkOf s n).stage ≤ 8) && !strHarmonic s.prog.eff n
  .next (if s.disc.phase ≠ 5 ∨ s.disc.attached ∨ s.disc.excl ∨ (busy ∧ elapsedMs < 800) then s
    else
      let s := setDisc s { s.disc with attached := true }
      let s := if isHealthy s && s.disc.firstHealthy.isNone then setDisc s { s.disc with firstHealthy := some s.clk.up } else s
      if s.disc.joining || joinsReady s then joinCourse s
      else if s.disc.closed then setDisc s { s.disc with phase := 6 }
      else s)

/-! HELLO (R420). -/

/-- The HELLO of this Kojor (Table 15-6). -/
def myHello (s : State) : Hello :=
  let t := site s
  { domain := t.domain, dy := t.dy, dx := t.dx, course := t.course, memberB := t.memberB, k := t.k, w := t.w, h := t.h, bridges := t.bridges,
    devid := s.fuse.devid, phase := s.disc.phase, healthy := isHealthy s, rtc := s.sec.rtc, rtcValid := s.sec.rtcValid }

/-- HELLO_SEND: every 10 ms from the end of MC boot until Ready, every 1 s afterwards (R420). -/
def execHelloSend (s : State) : Res :=
  let due : Bool := match s.disc.helloSent with
    | none => true
    | some t => decide (t + (if s.disc.phase = 9 then 1000000000 else 10000000) ≤ s.clk.up)
  .next (if s.disc.site.isSome ∧ s.disc.phase ≠ 1 ∧ s.disc.phase ≠ 0xF ∧ due = true then
      emit (setDisc s { s.disc with helloSent := some s.clk.up }) (.hello (myHello s))
    else s)

/-- A HELLO counted: the sender's place, and the first HEALTHY one (R420, R421). Of two that claim one place the lower identity stays. -/
def countHello (s : State) (h : Hello) : State :=
  let r := rankOf h.course h.memberB
  let d := s.disc
  match d.hellos.find r with
  | some o => if o.devid.toNat < h.devid.toNat then s else put s r
  | none => put s r
where
  put (s : State) (r : Nat) : State :=
    let d := s.disc
    let s := setDisc s { d with
      hellos := d.hellos.set r h, helloAt := d.helloAt.set r s.clk.up
      firstHealthy := if h.healthy && d.firstHealthy.isNone then some s.clk.up else d.firstHealthy
      twinHello := d.twinHello || r == twinRank s }
    if r = twinRank s ∧ s.course.paired then { s with course := { s.course with twinDevid := h.devid } } else s

/-- A HEALTHY HELLO of another domain that bridges join to this one shows that the domain is in service (R30). -/
def otherDomain (s : State) (h : Hello) : State :=
  let t := site s
  if t.bridges && h.bridges && h.w == t.w && h.h == t.h && h.healthy then
    setDisc s { s.disc with domAt := s.disc.domAt.set (h.dy, h.dx) s.clk.up }
  else s

/-- HELLO: counted only with an authenticated session; one of this domain whose K, W, H, BRIDGES or D differs is ignored and written to
the scroll; of two Kojors that claim one place the higher identity is excluded, with an alarm (R420). -/
def execHello (h : Hello) (session : Bool) (s : State) : Res :=
  let t := site s
  .next (if !session ∨ s.disc.site.isNone then s
    else if h.domain ≠ t.domain then otherDomain s h
    else if h.k ≠ t.k ∨ h.w ≠ t.w ∨ h.h ≠ t.h ∨ h.bridges ≠ t.bridges ∨ h.dy ≠ t.dy ∨ h.dx ≠ t.dx then
      scroll s 4 .helloMismatch (siteMC s) [h.course, ofB h.memberB]
    else if rankOf h.course h.memberB = myRank s then
      (if h.devid.toNat < s.fuse.devid.toNat then alarm (excludeSelf s) 4 .helloDuplicate (siteMC s) [h.course, ofB h.memberB] else s)
    else countHello s h)

/-! Lead election (R421, R430, R433). -/

/-- The ranks known HEALTHY, this Kojor's among them. -/
def healthyRanks (s : State) : List Nat :=
  sortNat ((s.disc.hellos.filter (·.2.healthy)).map (·.1) ++ (if isHealthy s then [myRank s] else []))

/-- The value at which a lead anchors fabric time (R430). -/
def anchorValue (s : State) : Option Nat :=
  if s.sec.rtcValid then some s.sec.rtc
  else
    let l := (s.disc.hellos.filter (·.2.rtcValid)).map (·.2.rtc)
    if l.isEmpty then none else some (l.foldl max 0)

/-- The lead anchors fabric time: the time lead, and the lead of another domain without a source (R430, Table 15-9). The count steps
forward. -/
def anchorTime (s : State) : State :=
  if s.clk.anchored || (!isTimeLead s && (timeSource s).isSome) then s
  else
    let v := anchorValue s
    let s := if v.isNone then alarm s 2 .leadAnchored (siteMC s) else s
    anchorAt s (v.getD 1000000000000)

/-- What this Kojor reports of its leaf strings (Table 15-6, R422). -/
def mySurvey (s : State) : List SurveyStr :=
  ((List.range 512).filter fun n => !isBridge s n && !strHarmonic s.prog.eff n).map fun n =>
    let l := linkOf s n
    { n := n, ready := l.stage == 9, cause := causeCode l.cause, b := l.attachB, ident := if l.attachOk then some l.attach else none, moved := l.moved }

/-- MOVED starts again with each SURVEY (R422). -/
def clearMoved (s : State) : State := { s with links := s.links.map fun l => (l.1, { l.2 with moved := false }) }

/-- A SWEEP sent by the lead, with its own SURVEY taken; a baseline begins the count of eight (R423, R433). -/
def startSweep (s : State) (n : Nat) (base : Bool) : State :=
  let d := s.disc
  let l := mySurvey s
  let s := clearMoved (setDisc s { d with
    sweepNo := n, sweepAt := s.clk.up, baseSweep := if base then n else d.baseSweep
    prevSurveys := if base then [] else d.surveys, surveys := TMap.set [] (myRank s) l })
  emit s (.sweep n (myRank s))

/-- This Kojor considers itself lead. -/
def becomeLead (s : State) (n : Nat) : State :=
  let s := setDisc s { s.disc with amLead := true, lead := myRank s, following := myRank s }
  startSweep (anchorTime s) n true

/-- ELECTION_CLOSE: when all 2K Kojors are HEALTHY, or 400 ms after the first HEALTHY HELLO; the lowest HEALTHY rank leads (R421). -/
def execElectionClose (s : State) : Res :=
  let hs := healthyRanks s
  let late := match s.disc.firstHealthy with
    | some t => decide (t + 400000000 ≤ s.clk.up)
    | none => false
  .next (if s.disc.site.isNone ∨ s.disc.closed ∨ s.disc.excl ∨ s.disc.joining ∨ joinsReady s ∨ 5 < s.disc.phase ∨ s.disc.phase < 2 then s
    else if (List.range (2 * (site s).k)).all (fun r => decide (r ∈ hs)) || late then
      match hs.head? with
      | none => s
      | some r =>
        let s := setDisc s { s.disc with closed := true, lead := r, phase := if s.disc.attached then 6 else s.disc.phase }
        if r = myRank s then becomeLead s 1 else s
    else s)

/-! Sweeps and their merging (R422 to R425). -/

/-- A counted string of a SURVEY (R422). -/
def surveyCounts (x : SurveyStr) : Bool := x.ready && x.ident.isSome

/-- A SURVEY without its MOVED bits. -/
def unmoved (l : List SurveyStr) : List SurveyStr := l.map fun x => { x with moved := false }

/-- Whether the sweep sees a change (R423). -/
def seesChange (s : State) : Bool :=
  let a := s.disc.surveys
  let b := s.disc.prevSurveys
  a.any (fun x => x.2.any (·.moved))
    || a.any (fun x => match b.find x.1 with
        | some l => unmoved x.2 != unmoved l
        | none => true)
    || b.any fun x => (a.find x.1).isNone

/-- The strings of one SURVEY that differ from the one before, or carry MOVED (R423). -/
def unsettledOf (prev : Option (List SurveyStr)) (l : List SurveyStr) : List Nat :=
  (l.filter fun x => x.moved || (match prev with
    | some p => !(p.any fun y => { y with moved := false } == { x with moved := false })
    | none => true)).map (·.n)

/-- The value held most often; of equals the lower. -/
def most (l : List Nat) : Option Nat :=
  l.eraseDups.foldl (fun b x => match b with
    | none => some x
    | some y =>
      let cx := l.count x
      let cy := l.count y
      if cy < cx ∨ (cx = cy ∧ x < y) then some x else some y) none

/-- A counted string as the lead merges it: rank, string, leaf index, b, identity. -/
structure Counted where
  rank : Nat
  n : Nat
  i : Nat
  b : Nat
  ident : Nat
deriving DecidableEq, Repr

/-- The counted strings of the final SURVEYs, without the unsettled. -/
def countedOf (s : State) (settle : Bool) : List Counted :=
  s.disc.surveys.flatMap fun x =>
    let no := if settle then unsettledOf (s.disc.prevSurveys.find x.1) x.2 else []
    (x.2.filter fun y => surveyCounts y && decide (y.n ∉ no)).map fun y =>
      { rank := x.1, n := y.n, i := stringLeaf s y.n, b := y.b, ident := (y.ident.getD 0).toNat }

/-- Whether a counted string agrees with the choice of its identity and of its leaf index (R424). -/
def agrees (l : List Counted) (c : Counted) : Bool :=
  most ((l.filter (·.ident == c.ident)).map (·.i)) == some c.i && most ((l.filter (·.i == c.i)).map (·.ident)) == some c.ident

/-- The leaf presence: index, identity, settled strings (R424). -/
def presenceOf (l : List Counted) : List (Nat × W64 × Nat) :=
  let ok := l.filter (agrees l)
  (sortNat (ok.map (·.i)).eraseDups).map fun i =>
    let m := ok.filter (·.i == i)
    (i, BitVec.ofNat 64 ((m.head?.map (·.ident)).getD 0), ((m.map (·.b)).eraseDups.map fun b => 2 ^ (b % 32)).sum)

/-! The start tables (R426 to R429, R435). -/

/-- Whether this Kojor's counted string is settled in a presence table. -/
def settledIn (s : State) (present : List (Nat × W64 × Nat)) (n : Nat) : Bool :=
  let l := linkOf s n
  present.any fun p => p.1 == stringLeaf s n && p.2.1 == l.attach && bit p.2.2 l.attachB

/-- This Kojor's strings that count now. -/
def myCounted (s : State) : List Nat := (leafStrings s).filter fun n => (linkOf s n).attachOk

/-- The leaf indices that another capo than 0 names. -/
def namedElsewhere (l : Entries) (i : Nat) : Bool := (tblAll l 1).any fun e => bits e 0 9 != 0 && capoHasLeaf e i

/-- Entry of table 0x02. -/
def leafEntry (i : Nat) (present : Bool) (sweep : Nat) (ident : Nat) (settled : Nat) : Nat :=
  i + ofB present * 2 ^ 9 + sweep % 2 ^ 16 * 2 ^ 16 + ident % 2 ^ 64 * 2 ^ 32 + settled % 2 ^ 32 * 2 ^ 96

/-- Entries of table 0x02 that the merged presence changes (R427, R428, R435). A leaf with no counted string stays while another capo
names it. -/
def leafEntries (s : State) (sweep : Nat) (present : List (Nat × W64 × Nat)) : List Nat :=
  let l := s.prog.eff
  let new := (present.filter fun p => !(leafPresent l p.1 && leafIdent l p.1 == p.2.1.toNat && leafSettled l p.1 == p.2.2 % 2 ^ 32)).map fun p =>
    leafEntry p.1 true sweep p.2.1.toNat p.2.2
  let gone := ((tblAll l 2).filter fun e => bit e 9 && !(present.any fun p => p.1 == bits e 0 9)).filterMap fun e =>
    let i := bits e 0 9
    if namedElsewhere l i then (if bits e 96 32 = 0 then none else some (leafEntry i true sweep (bits e 32 64) 0))
    else some (leafEntry i false sweep 0 0)
  new ++ gone

/-- The entry of capo 0, which holds every present leaf that no other capo names (R428, R435). -/
def capoZero (s : State) (present : List (Nat × W64 × Nat)) : Nat :=
  let l := s.prog.eff
  let base := putBits ((tblFind l 1 0).getD (2 ^ 9)) 512 512 0
  base + (((present.map (·.1)).eraseDups.filter fun i => !namedElsewhere l i).map fun i => 2 ^ (512 + i)).sum

/-- This Kojor's strings that a TABLES turns off: its unsettled ones, at start, and those that disagree. -/
def myUnsettled (s : State) : List Nat :=
  if s.disc.phase = 9 then []
  else match s.disc.surveys.find (myRank s) with
    | some l => unsettledOf (s.disc.prevSurveys.find (myRank s)) l
    | none => []
def myDisagreeing (s : State) (present : List (Nat × W64 × Nat)) : List Nat :=
  (myCounted s).filter fun n => !settledIn s present n && decide (n ∉ myUnsettled s)

/-- The strings that a service TABLES turns on again: unsettled ones, and disagreeing ones whose light was lost (R435). -/
def stringsBack (s : State) : List Nat :=
  if s.disc.phase = 9 then s.disc.unsetl ++ s.disc.held.filter fun n => !(linkOf s n).lit else []

/-- The table entries that a Kojor stages on its own behalf (R428, R435). -/
def tableEntries (s : State) (sweep : Nat) (present : List (Nat × W64 × Nat)) : Entries :=
  let ofT := fun (t : Nat) (l : List Nat) => l.map fun e => ((t, tblKey t e), e)
  let start := s.disc.phase != 9
  let c0 := capoZero s present
  let off := myUnsettled s ++ myDisagreeing s present
  ofT 1 (if start || tblFind s.prog.eff 1 0 != some c0 then [c0] else [])
    ++ ofT 2 (leafEntries s sweep present)
    ++ ofT 3 (if start then sitePorts (site s) else [])
    ++ ofT 4 (off.map (fun n => putBits (fullEntry s n) 9 1 0) ++ (stringsBack s).map fun n => putBits (fullEntry s n) 9 1 1)
    ++ ofT 0x0A (if start then [8000 * 2 ^ 16 + 100 * 2 ^ 36 + 15 * 2 ^ 50 + 63 * 2 ^ 58] else [])

/-- What a commit of a Kojor's own behalf writes to the scroll (R346). -/
def ownRecord (s : State) (cstate reason num epoch : Nat) : State := scroll s 6 .commitRecord (siteMC s) [cstate, reason, num, epoch]

/-- A TABLES taken: the Kojor submits its start tables; RESULT tells the lead whether the commit is accepted (R428, R432). -/
def takeTables (s : State) (sweep epoch : Nat) (present : List (Nat × W64 × Nat)) : State :=
  let s := { s with prog := { s.prog with commits := s.prog.commits.filter fun p => p.desc != 0 } }
  let st := tableEntries s sweep present
  let n := s.prog.nCommit + 1
  let s := { s with prog := { s.prog with nCommit := n } }
  match commitRefusal s st none epoch with
  | some r =>
    let s := ownRecord (setDisc s { s.disc with cstate := 4 }) 4 r.1 n epoch
    emit s (.result 4 s.clk.converged)
  | none =>
    let d := { s.disc with
      cstate := 1, tabSweep := sweep, epochE := epoch, present := present
      unsetl := myUnsettled s
      held := (s.disc.held.filter fun x => decide (x ∉ stringsBack s)) ++ myDisagreeing s present
      phase := if s.disc.phase = 9 then 9 else 8 }
    let p : Pending := { num := n, epoch := epoch, entries := st, capo := none, desc := 0 }
    let s := ownRecord { setDisc s d with prog := { s.prog with commits := s.prog.commits ++ [p] } } 1 0 n epoch
    emit s (.result 1 s.clk.converged)

/-- The Kojors that take part: those heard of and not excluded, this one among them. -/
def participants (s : State) : List Nat := ((s.disc.hellos.map (·.1)) ++ [myRank s]).filter fun r => decide (r ∉ s.disc.excluded)

/-- The lead sends TABLES with E 300 ms ahead and takes them itself (R428, R435). -/
def sendTables (s : State) (present : List (Nat × W64 × Nat)) : State :=
  let e := s.clk.now + 300000000
  let n := s.disc.sweepNo
  let s := emit s (.tables n e present s.disc.excluded)
  let s := takeTables s n e present
  setDisc s { s.disc with
    phase := if s.disc.phase = 9 then 9 else 7
    accepted := if s.disc.cstate = 1 then [myRank s] else [], convergedR := [] }

/-- The search, or a service sweep, ends in TABLES; disagreeing strings are written to the scroll (R423, R424, R435). -/
def endSearch (s : State) (eighth : Bool) : State :=
  let un := eighth && s.disc.surveys.any fun x => !(unsettledOf (s.disc.prevSurveys.find x.1) x.2).isEmpty
  let l := countedOf s eighth
  let s := (l.filter fun c => !agrees l c).foldl (fun s c => scroll s 3 .disagreeing (siteMC s) [c.rank, c.n, c.b]) s
  let s := setDisc s { s.disc with remain := un, unsettled := if s.disc.phase = 9 then s.disc.unsettled else un, resends := 0 }
  sendTables s (presenceOf l)

/-- Whether TABLES of this Kojor wait for their epoch. -/
def tablesPending (s : State) : Bool := s.prog.commits.any fun p => p.desc == 0

/-- SWEEP_SEND: the lead judges the last sweep and sends the next after 100 ms, in service after 1 s (R423, R435). -/
def execSweepSend (s : State) : Res :=
  let d := s.disc
  .next (if !d.amLead then s
    else if d.phase = 6 ∧ d.sweepAt + 100000000 ≤ s.clk.up then
      (if d.baseSweep < d.sweepNo ∧ !seesChange s then endSearch s false
       else if d.baseSweep + 7 ≤ d.sweepNo then endSearch s true
       else startSweep s (d.sweepNo + 1) false)
    else if d.phase = 9 ∧ d.sweepAt + 1000000000 ≤ s.clk.up then
      let s := if (seesChange s || d.remain) && !tablesPending s && decide (d.baseSweep < d.sweepNo) then endSearch s false else s
      startSweep s (d.sweepNo + 1) false
    else s)

/-- The SURVEY answered to a SWEEP (R422). -/
def answerSweep (s : State) (n : Nat) : State :=
  let l := mySurvey s
  let d := s.disc
  let r := myRank s
  let prev := match d.surveys.find r with
    | some p => TMap.set [] r p
    | none => []
  emit (clearMoved (setDisc s { d with sweepNo := max d.sweepNo n, prevSurveys := prev, surveys := TMap.set [] r l })) (.survey n l)

/-- SWEEP: a sender withdraws before a lower rank; every Kojor follows the lowest rank it has received and answers it (R421, R422). -/
def execSweep (n rank : Nat) (s : State) : Res :=
  let d := s.disc
  .next (if d.site.isNone ∨ d.excl ∨ d.joining ∨ d.phase < 5 ∨ d.phase = 0xF ∨ (d.amLead ∧ myRank s ≤ rank) then s
    else if d.phase ≠ 9 ∧ d.following < rank then s
    else answerSweep (setDisc s { d with amLead := false, following := rank, lead := rank }) n)

/-- SURVEY: collected by the lead; once every Kojor that takes part has answered, a sweep without a change ends the search (R423, R424). -/
def execSurvey (rank n : Nat) (l : List SurveyStr) (s : State) : Res :=
  let d := s.disc
  .next (if !d.amLead ∨ n ≠ d.sweepNo then s
    else
      let s := setDisc s { d with surveys := d.surveys.set rank l }
      let all := (participants s).all fun r => (s.disc.surveys.find r).isSome
      if d.phase = 6 ∧ d.baseSweep < d.sweepNo ∧ all ∧ !seesChange s then endSearch s false else s)

/-- TABLES: the Kojor submits the start tables, or finds itself excluded (R428). -/
def execTables (sweepNo epoch : Nat) (present : List (Nat × W64 × Nat)) (excluded : List Nat) (s : State) : Res :=
  .next (if s.disc.site.isNone ∨ s.disc.excl ∨ s.disc.joining ∨ !s.disc.attached ∨ s.course.rebuildTgt then s
    else if myRank s ∈ excluded then excludeSelf s
    else takeTables (setDisc s { s.disc with excluded := excluded }) sweepNo epoch present)

/-- RESULT: the lead records a Kojor's commit and its convergence; a Kojor that refuses is excluded (R428, R432). Table load ends when all
have accepted. -/
def execResult (rank cstate : Nat) (converged : Bool) (s : State) : Res :=
  .next (if !s.disc.amLead then s
    else
      let d := s.disc
      let d := if cstate = 1 then { d with accepted := insertOnce rank d.accepted } else d
      let d := if cstate = 4 then { d with excluded := insertOnce rank d.excluded } else d
      let d := if converged then { d with convergedR := insertOnce rank d.convergedR } else d
      let s := setDisc s d
      if s.disc.phase = 7 ∧ (participants s).all fun r => decide (r ∈ s.disc.accepted) then setDisc s { s.disc with phase := 8 } else s)

/-- TABLES_ACCEPT_DEADLINE: at E − 50 ms those that have not accepted are excluded, and the others go ahead (R428). -/
def execTablesAcceptDeadline (s : State) : Res :=
  let d := s.disc
  .next (if d.amLead ∧ tablesPending s ∧ d.epochE ≤ s.clk.now + 50000000 then
      setDisc s { d with
        excluded := d.excluded ++ (participants s).filter fun r => decide (r ∉ d.accepted)
        phase := if d.phase = 7 then 8 else d.phase }
    else s)

/-- Whether this Kojor counts as converged: a lead without a source follows none. -/
def selfConverged (s : State) : Bool := s.clk.converged || (timeSource s).isNone

/-- CONVERGENCE_CHECK: at E − 1 ms, while a remaining Kojor is not CONVERGED, the lead CANCELs everywhere and sends TABLES again, at most
three times; after that such Kojors are excluded (R432). -/
def execConvergenceCheck (s : State) : Res :=
  let d := s.disc
  let late := (participants s).filter fun r => if r = myRank s then !selfConverged s else decide (r ∉ d.convergedR)
  .next (if !d.amLead ∨ !tablesPending s ∨ s.clk.now + 1000000 < d.epochE ∨ late.isEmpty then s
    else if d.resends < 3 then
      let s := sendTables (emit s .cancelAll) d.present
      setDisc s { s.disc with resends := d.resends + 1, convergedR := d.convergedR }
    else setDisc s { d with excluded := d.excluded ++ late.filter (· != myRank s) })

/-- How long the HELLOs of a party in service may be absent: their period of 1 s, and the 30 ms of R433 (log entry 159). -/
def helloSilence : Nat := 1030000000

/-- The domain whose lead gives the time, once no HEALTHY HELLO of the one before is heard: the lowest-numbered of this domain and those
that are heard (R30, R31; log entry 159). -/
def nextDomain (s : State) : State :=
  let d := s.disc
  let own := ((site s).dy, (site s).dx)
  let silent := fun q => decide (d.domAt.get q 0 + helloSilence ≤ s.clk.up)
  if !(site s).bridges || d.refDom == own || !silent d.refDom then s
  else
    let l := own :: ((d.domAt.map (·.1)).filter fun q => !silent q)
    let least := l.foldl (fun b q => if 8 * q.1 + q.2 < 8 * b.1 + b.2 then q else b) own
    setDisc s { d with refDom := least }

/-- The lead course in service with neither member heard: the lowest-numbered healthy course takes the lead, member A preferred (R31). -/
def nextLead (s : State) : State :=
  let d := s.disc
  let gone := [2 * (d.lead / 2), 2 * (d.lead / 2) + 1]
  if d.amLead || decide (myRank s ∈ gone) || !gone.all (fun r => decide (d.helloAt.get r 0 + helloSilence ≤ s.clk.up)) then s
  else
    let s := setDisc s { d with hellos := d.hellos.filter fun h => decide (h.1 ∉ gone) }
    match ((healthyRanks s).filter fun r => r != myRank s || s.course.serving).head? with
    | none => s
    | some r => if r = myRank s then becomeLead s (d.sweepNo + 1) else setDisc s { s.disc with lead := r }

/-- LEAD_LOST: no HELLO from the lead for 30 ms before Ready; the lowest remaining HEALTHY rank leads, with a new baseline (R433). In
service the time role passes on by R31. -/
def execLeadLost (s : State) : Res :=
  let d := s.disc
  .next (if d.phase = 9 ∧ d.closed ∧ !d.excl then nextLead (nextDomain s)
    else if !d.closed ∨ d.amLead ∨ d.excl ∨ d.phase < 6 ∨ 9 ≤ d.phase ∨ s.clk.up < d.helloAt.get d.lead 0 + 30000000 then s
    else
      let s := setDisc s { d with hellos := d.hellos.erase d.lead }
      match (healthyRanks s).head? with
      | none => s
      | some r =>
        let s := { setDisc s { s.disc with lead := r, following := 63, phase := 6 } with
          prog := { s.prog with commits := s.prog.commits.filter fun p => p.desc != 0 } }
        if r = myRank s then becomeLead s (d.sweepNo + 1) else s)

/-! The epoch E and Ready (R429). -/

/-- The domain is Ready: the Kojor serves, mirrored when it is paired with a twin that goes ahead too (R412, R418, R429, R467). -/
def becomeReady (s : State) : State :=
  let pair := s.course.paired && decide (twinRank s ∉ s.disc.excluded)
  replanNext { s with
    disc := bootReady { s.disc with phase := 9 }
    course := { s.course with serving := true, twinUp := pair, alone := !pair, lastHb := s.clk.now } }

/-- The tables of R428 at their epoch: they apply, and ASSIGN with the final sweep goes out on every Ready leaf string (R429). At start the
accumulator store takes its default (R191). -/
def startApply (s : State) (p : Pending) : State :=
  let start := s.disc.phase != 9
  let s := { s with prog := { s.prog with commits := s.prog.commits.filter fun q => q.num != p.num } }
  let s := applyTables (setDisc s { s.disc with finalSweep := s.disc.tabSweep, sweepReg := s.disc.tabSweep % 65536, cstate := 2 }) p.entries
  let s := if start then becomeReady { s with accMib := accStore s.prog.eff } else s
  let s := ownRecord (noteCapos s p) 2 0 p.num p.epoch
  (leafStrings s).foldl sendAssign (emit s (.result 2 s.clk.converged))

/-- COMMIT_APPLY (R275, R429). -/
def execCommitApply (num : Nat) (s : State) : Res :=
  .next (match s.prog.commits.find? fun p => p.num == num with
    | some p => if s.clk.now < p.epoch then s else if p.desc = 0 then startApply s p else applyCommit s p
    | none => s)

end Sys2Proof.Machine
end

