-- ==== Sys2Proof/Machine/Ports.lean ====
section
/-! DEFINITION. The management register space and the ports that reach it: SPI, SMBus and Ethernet (R14 to R18, R518 to R536). -/

namespace Sys2Proof.Machine

open Sys2Proof

/-! What each register reads (R530 to R536 and the tables that Table 20-15 names). -/

/-- A value num / den in a field of integers: exact, or what Config says where it lies between two. -/
def fieldOf (num : Int) (den : Nat) : Int := if num % (den : Int) = 0 then num / (den : Int) else Config.nearest num den

/-- A signed value saturating at ± m. -/
def saturate (x : Int) (m : Nat) : Int := max (-(m : Int)) (min x m)

/-- MC_TIME_STATUS (Table 1-11); CONVERGED of the time lead: DESIGN CHOICE, log entry 164. -/
def timeStatus (s : State) : Nat :=
  let lead := isTimeLead s
  let off := if lead then 0 else saturate (fieldOf s.clk.offset2 2) 32767
  unsigned off 16 * 2 ^ 16 + ofB s.clk.stepped * 2 ^ 3 + ofB (beaconsTime s) * 2 ^ 2 + ofB (!lead && s.clk.holdover) * 2
    + ofB s.clk.converged

/-- MC_START_STATUS (Table 15-10). -/
def startStatus (s : State) : Nat :=
  let d := s.disc
  d.sweepReg % 2 ^ 16 * 2 ^ 16 + d.lead % 32 * 2 ^ 11 + ofB d.excl * 2 ^ 10 + ofB d.unsettled * 2 ^ 9 + ofB d.fallback * 2 ^ 8
    + ofB d.imageB * 2 ^ 7 + d.phase % 16

/-- The MC block. -/
def mcReg (s : State) (o : Nat) : Option Nat :=
  match o with
  | 0x00 => some (0x0A57 * 2 ^ 16 + 0x08 * 2 ^ 8 + ofB s.fuse.variantL * 2 ^ 3)
  | 0x04 => some s.fuse.bhv.toNat
  | 0x08 => some (wbits s.fuse.devid 0 32)
  | 0x0C => some (wbits s.fuse.devid 32 32)
  | 0x10 => some (Config.image s.disc.imageB 0)
  | 0x14 => some (ofB s.mc.standbyOk * 2 + ofB s.mc.active1)
  | 0x20 => some (ofB s.mc.swapping * 2 + ofB s.mc.warmWait)
  | 0x24 => some s.mc.resetCause
  | 0x30 => some s.mc.ifStatus.toNat
  | 0x34 => some s.mc.alarm.toNat
  | 0x40 => some (s.pwr.pdOn.toNat % 2 ^ 32)
  | 0x44 => some (s.pwr.pdOn.toNat / 2 ^ 32)
  | 0x48 => some (s.pwr.faultLast * 2 ^ 26 + s.pwr.faultMid.toNat * 2 ^ 22 + s.pwr.faultHi.toNat * 2 ^ 18 + s.pwr.fault.toNat)
  | 0x50 => some (timeStatus s)
  | 0x60 => some (startStatus s)
  | _ => none

/-- ELG_THERM (Table 16-9). -/
def thermReg (s : State) : Nat :=
  match s.elg.lastTmax with
  | [] => 0
  | x :: t =>
    let m := t.foldl (fun b y => if b.2 < y.2 then y else b) x
    unsigned m.2 8 * 2 ^ 24 + m.1 * 2 ^ 19

/-- The ELG block (Tables 16-4 to 16-9). -/
def elgReg (s : State) (o : Nat) : Option Nat :=
  let e := s.elg
  match o with
  | 0x10 => some (elgBudget s.prog.eff)
  | 0x14 => some (elgRamp s.prog.eff)
  | 0x18 => some (elgBallastMax s.prog.eff)
  | 0x20 => some ((grantedDuty s - 1) * 2 ^ 24 + e.ballast % 1024 * 2 ^ 14 + ofB e.crmHot * 2 ^ 13 + ofB (elgCrm s.prog.eff) * 2 ^ 12
      + ofB e.defer * 2 ^ 11 + ofB e.overBudget * 2 ^ 10 + ofB e.rampViol * 2 ^ 9 + ofB e.overrun * 2 ^ 8 + ofB s.clk.refLost * 2 ^ 7 + e.level)
  | 0x24 => some (e.bhat % 2 ^ 16 * 2 ^ 16 + e.pLast % 2 ^ 16)
  | 0x28 => some (thermReg s)
  | _ => none

/-- The AGE block (Tables 17-11 to 17-13). -/
def ageReg (s : State) (o : Nat) : Option Nat :=
  let f := s.fuse
  match o with
  | 0x10 => some (ofB f.replan)
  | 0x14 => some ((f.worn.map (2 ^ ·)).sum)
  | 0x18 => some (f.slack.get f.sel 0 * 2 ^ 24 + f.vmargin.get f.sel 0 * 2 ^ 16 + ofB (!(f.pendMap.get f.sel []).isEmpty) * 2 ^ 8
      + ofB (decide (f.sel ∈ f.loadWait)) * 2 ^ 7 + min 63 (f.entries.get f.sel []).length)
  | _ => none

/-- The FUSE block (Tables 17-7 to 17-10). -/
def fuseReg (s : State) (o : Nat) : Option Nat :=
  let f := s.fuse
  match o with
  | 0x10 => some (fuseStatus f)
  | 0x14 => some (ofB f.debugOff * 2 ^ 8 + f.keyUsed % 32)
  | 0x18 => some f.sel
  | 0x1C => some (f.step.get f.sel 0 * 2 ^ 8 + f.gen.get f.sel 1)
  | _ => none

/-- The entry d of the snapshot directory, while it is in use (R502). -/
def dirAt (d : Nat) : Option CtrKey := if d < Config.snapCount.toNat then Config.snapDir d else none

/-- Half `hi` of a 64-bit word. -/
def half (v : Nat) (hi : Bool) : Nat := if hi then v / 2 ^ 32 % 2 ^ 32 else v % 2 ^ 32

/-- A word of the shadow; a tenant reads those kept for its own capo, and zero elsewhere (R504). -/
def shadowWord (s : State) (tenant : Option Nat) (d : Nat) : Nat :=
  match dirAt d with
  | none => 0
  | some k => if tenant.all (fun c => ctrCapo k.1 k.2 == some c) then (TMap.find s.tel.shadow (ctrKeyOf k.1 k.2)).getD 0 else 0

/-- The SNAP block, with the directory and the shadow (R502, Table 20-11). -/
def snapReg (s : State) (p : MPort) (tenant : Option Nat) (o : Nat) : Option Nat :=
  let t := s.tel
  if 0x800000 ≤ o ∧ o < 0xC00000 then some (half (shadowWord s tenant ((o - 0x800000) / 8)) (o / 4 % 2 == 1))
  else if 0x400000 ≤ o ∧ o < 0x800000 then
    some (half (((dirAt ((o - 0x400000) / 8)).map fun k => dirBits s k.1 k.2).getD 0) (o / 4 % 2 == 1))
  else match o with
    | 0x10 => some (ofB t.snapBrola)
    | 0x14 => some (ofB t.snapRefused * 4 + ofB t.snapLate * 2 + ofB t.armed)
    | 0x18 => some t.atLo.toNat
    | 0x1C => some t.atHi.toNat
    | 0x20 => some (s.clk.now % 2 ^ 32)
    | 0x24 => some (t.frozenHi.get (mportIx p) 0).toNat
    | 0x28 => some t.snapEpoch
    | 0x2C => some Config.snapCount.toNat
    | _ => none

/-- The SCROLL block (R512). -/
def scrollReg (s : State) (tenant : Option Nat) (o : Nat) : Option Nat :=
  if 0x40 ≤ o ∧ o < 0x80 then some (bits (scrollView s tenant) (32 * ((o - 0x40) / 4)) 32)
  else match o with
    | 0x10 => some s.tel.scrollRd.toNat
    | 0x14 => some (scrollFirst s % 2 ^ 32)
    | 0x18 => some (scrollLast s % 2 ^ 32)
    | _ => none

/-- The SEC block (Tables 18-10 to 18-12, 19-7); an access of DBGACC or DBGINJ is over within its command. -/
def secReg (s : State) (o : Nat) : Option Nat :=
  let x := s.sec
  match o with
  | 0x10 => some (x.minSvn % 2 ^ 16 * 2 ^ 16 + (x.sess.filter fun c => c.2.st == 5).length % 16 * 2 ^ 8 + ofB x.trngFailLatch * 2 ^ 5
      + ofB x.trngOk * 2 ^ 4 + ofB x.kregZero * 2 ^ 3 + ofB x.kreg.isSome * 2 ^ 2 + ofB x.ownerLost * 2
      + ofB (decide (x.ownGen ≠ 0) && !x.ownerLost))
  | 0x14 => some x.ownGen
  | 0x18 => some (ofB x.rtcValid * 2 ^ 6 + ofB s.pwr.onCell * 2 ^ 5 + ofB x.cellLow * 2 ^ 4 + ofB x.aonLost * 2 ^ 3 + ofB x.cellAlm * 2 ^ 2
      + ofB x.temp * 2 + ofB x.tamper)
  | 0x1C => some (x.unlocks * 2 ^ 8 + ofB s.fuse.debugOff * 2 ^ 2 + ofB x.unlock)
  | _ => none

/-- An arbiter's registers by offset (R156, R321): entries of the first n requesters, the emergency entry, the configuration. -/
def arbReg (a : Arb) (n o : Nat) : Option Nat :=
  if o < 4 * n then some (min 255 (a.lost.get (o / 4) 0) * 2 ^ 8 + a.prio.get (o / 4) 0)
  else if o = 0x20 then some (2 ^ 16 + min 255 (a.lost.get 8 0) * 2 ^ 8)
  else if o = 0x3C then some (a.unitLog2 * 2 ^ 8 + a.stepLog2)
  else none

/-- The block of SXn (Tables 5-6, 5-7, 5-10). -/
def sxReg (s : State) (n o : Nat) : Option Nat :=
  if o = 0x100 then some (min 256 (s.sw.retired.get n []).length * 2 ^ 20 + sharedFree s n none % 2 ^ 20)
  else if 0x100000 ≤ o ∧ o < 0x100000 + 0x40 * 136 then arbReg (arbOf s n ((o - 0x100000) / 0x40)) 8 (o % 0x40)
  else none

/-- The active fibre that F16 of an OX serves, 0x1F for none (Table 12-8). -/
def f16For (s : State) (n : Nat) : Nat := ((List.range 16).find? fun f => (fibreStrings n f).any fun x => rxFibreOf s x == 16).getD 0x1F

/-- The module fields of OX_LM_STATUS (Table 12-9). -/
def laserBits (l : Laser) : Nat :=
  l.dark.length % 32 * 2 ^ 4 + ofB l.alarm * 2 ^ 3 + ofB (!l.warn.isEmpty) * 2 ^ 2 + ofB l.ready * 2 + ofB l.present

def pegCode : PegState → Nat
  | .off => 0 | .seek => 1 | .trim => 2 | .locked => 3 | .recover => 4 | .hold => 5 | .park => 6 | .failed => 7

/-- OX_PEG_STAT (Table 12-11); the loop error is kept in units of 1/261,120. -/
def pegStat (g : Peg) : Nat :=
  let e := fieldOf (g.err * 1024) 261120
  let e := if -1024 ≤ e ∧ e < 1024 then e else Config.nearest (g.err * 1024) 261120
  pegCode g.st * 2 ^ 29 + ofB g.flankU * 2 ^ 28 + g.wl % 32 * 2 ^ 23 + g.code % 4096 * 2 ^ 11 + unsigned e 11

/-- The block of OXn (R358 to R360, Tables 12-8 to 12-11); light on a receive fibre is light on a link that listens to it. -/
def oxReg (s : State) (n o : Nat) : Option Nat :=
  match o with
  | 0x100 => some (f16For s n * 2 ^ 24 + ((List.range 18).map fun f => ofB ((linksOn s n f true).any fun x => (linkOf s x).lit) * 2 ^ f).sum)
  | 0x108 => some (laserBits (laserOf s (2 * n + 1)) * 2 ^ 16 + laserBits (laserOf s (2 * n)))
  | 0x200 => some (s.opt.pegSel.get n 0).toNat
  | 0x204 =>
    let v := (s.opt.pegSel.get n 0).toNat
    some (if 17 < bits v 0 5 ∨ 17 < bits v 16 5 then 0 else pegStat (pegOf s (n, bits v 0 5, bit v 8, bits v 16 5)))
  | _ => none

/-- RT_STATUS (Table 7-11). -/
def rtStatus (s : State) (n : Nat) : Nat :=
  let kind := fun k => ((s.fuse.entries.get (siteRT n) []).filter fun e => bits e 0 6 == k).length
  let act := (s.wins.filterMap (·.2)).filter fun w => (w.st == .active || w.st == .finalising) && decide (n ∈ winRts s w)
  ofB (s.str.running && decide (n ∈ s.str.tiles)) * 2 ^ 31 + ofB (decide (n ∈ s.prog.rtTest)) * 2 ^ 30 + min 4 (kind 5) * 2 ^ 27
    + ofB (decide (kind 4 ≠ 0)) * 2 ^ 26 + s.accMib % 512 * 2 ^ 17 + min 8191 act.length

/-- RT_SEQ_STATUS (Table 8-18): a bundle that the duty withholds stands at issue in an earlier cycle than it issues in. -/
def seqStatus (s : State) (n : Nat) : Nat :=
  let x := s.str
  let pc := x.lastPc % 2 ^ 16
  if !x.running || decide (n ∉ x.tiles) then 0xF * 2 ^ 24 + pc
  else
    let d := (dutyNow s x.cycle - 1) * 2 ^ 24
    if x.ending || x.stopAt.any fun c => decide (c < x.cycle) then 3 * 2 ^ 30 + d + pc
    else
      match x.stall with
      | some (1, _, e) => 2 * 2 ^ 30 + 2 ^ 28 + d + e % 256 * 2 ^ 16 + pc
      | some _ => 2 * 2 ^ 30 + 2 * 2 ^ 28 + d + pc
      | none => if x.arr < x.cycle then 2 * 2 ^ 30 + 3 * 2 ^ 28 + d + pc else 2 ^ 30 + d + pc

/-- RT_SEQ_EXC (Table 8-19). -/
def seqExc (s : State) : Nat :=
  match s.str.exc with
  | none => 0
  | some e => e.pc % 2 ^ 16 * 2 ^ 16 + e.part % 8 * 2 ^ 13 + e.tile % 8 * 2 ^ 10 + e.cause % 256

/-- The block of RTn. -/
def rtReg (s : State) (n o : Nat) : Option Nat :=
  match o with
  | 0x10 => some (rtStatus s n)
  | 0x20 => some (seqStatus s n)
  | 0x24 => some (seqExc s)
  | _ => none

/-- The pages of an HX's tiers B and C, zeroed or in all. -/
def scrubPages (s : State) (h : Nat) (done : Bool) : Nat :=
  (((8 + h) :: (List.range 4).map fun q => cxlTarget (4 * h + q)).map fun t =>
    if done then min (s.mem.scrubAt.get t 0) (targetPages s t) - (s.mem.scrubMarks.filter fun x => x.1 == t).length else targetPages s t).sum

/-- HX_MEM_STATUS (Table 11-5). -/
def memStatus (s : State) (h : Nat) : Nat :=
  let mine := s.mem.dimms.filter fun d => d.hx == h && decide (d.ch < 6 ∧ 1 ≤ d.count)
  let chans := fun (p : Nat → Bool) => ((List.range 6).map fun c => ofB (p c) * 2 ^ c).sum
  let ports := fun (p : Nat → Bool) => ((List.range 4).map fun q => ofB (p (4 * h + q)) * 2 ^ q).sum
  let all := scrubPages s h false
  chans (fun c => decide ((h, c) ∈ s.mem.chDeg)) * 2 ^ 24 + (((mine.find? fun d => decide ((h, d.ch) ∉ s.mem.chDeg)).map (·.count)).getD 0) % 4 * 2 ^ 22
    + chans (fun c => mine.any fun d => d.ch == c) * 2 ^ 16
    + ports (fun p => portIsCxl s.prog.eff p && decide (p ∉ s.pwr.portTrain) && backUp s (cxlTarget p)) * 2 ^ 12
    + ports (fun p => (tblFind s.prog.eff 3 p).isSome && !portIsCxl s.prog.eff p) * 2 ^ 8
    + (if all = 0 then 0 else scrubPages s h true * 100 / all)

/-- The block of HXn; its channel arbiters have a read, a write and a refresh entry (R321). -/
def hxReg (s : State) (h o : Nat) : Option Nat :=
  if o = 0x100 then some (memStatus s h)
  else if 0x100000 ≤ o ∧ o < 0x100000 + 0x40 * 6 then arbReg (arbOf s (4 + h) ((o - 0x100000) / 0x40)) 2 (o % 0x40)
  else none

/-- COURSE_STATUS (Table 14-7). -/
def courseStatus (s : State) : Nat :=
  let c := s.course
  (site s).course % 16 * 2 ^ 28 + ofB (site s).memberB * 2 ^ 27 + ofB c.twinUp * 2 ^ 26 + ofB c.alone * 2 ^ 25 + ofB c.rebuildTgt * 2 ^ 24
    + ofB c.copying * 2 ^ 23 + ofB c.split * 2 ^ 22 + ((List.range 32).filter fun i => strReady s (512 + i)).length * 2 ^ 10
    + (if c.total = 0 then 0 else min 1000 (c.passed * 1000 / c.total))

/-- The COURSE block (R534). -/
def courseReg (s : State) (o : Nat) : Option Nat :=
  match o with
  | 0x10 => some (courseStatus s)
  | 0x18 => some (wbits s.course.twinDevid 0 32)
  | 0x1C => some (wbits s.course.twinDevid 32 32)
  | 0x20 => some (s.course.hbIn % 2 ^ 16 * 2 ^ 16 + (if s.course.paired then min 8 ((s.clk.now - s.course.lastHb) / 500) else 0))
  | _ => none

/-- KIND of a link (Table 20-13). -/
def linkKind (s : State) (x : Nat) : Nat :=
  if 512 ≤ x then 3
  else if s.disc.site.isNone ∨ ((strEntry s.prog.eff x).isSome ∧ !strOn s.prog.eff x) then 0
  else if strHarmonic s.prog.eff x then 4
  else if isBridge s x then 2
  else 1

/-- The registers of a link (R535). -/
def linkReg (s : State) (x o : Nat) : Nat :=
  let l := linkOf s x
  if o = 0 then
    linkKind s x * 2 ^ 28 + causeCode l.cause * 2 ^ 24 + l.stage % 16 * 2 ^ 20 + laneSet s x % 4 * 2 ^ 18 + ofB l.subst * 2 ^ 17
      + ofB l.eiTx * 2 ^ 16 + ofB l.eiRx * 2 ^ 15 + l.inv.toNat * 2 ^ 11 + l.spare.toNat * 2 ^ 7
  else if o = 4 then
    match l.peer with
    | none => 0
    | some p => 2 ^ 31 + ofB p.1 * 2 ^ 30 + p.2 % 512
  else if o = 8 then min 65535 l.rtt * 2 ^ 16 + (if l.stage < 7 then 0 else unsigned (fieldOf (replayNs s x) 500) 6)
  else wbits l.attach 0 32

/-- The die on which a block's registers lie, by its power domain; the other blocks are the active MC's. -/
def blockDie (b : Nat) : Option Nat :=
  if 0x10 ≤ b ∧ b < 0x14 then some (b - 0x10)
  else if 0x20 ≤ b ∧ b < 0x28 then some (4 + (b - 0x20))
  else if 0x30 ≤ b ∧ b < 0x38 then some (12 + (b - 0x30))
  else if 0x40 ≤ b ∧ b < 0x42 then some (28 + (b - 0x40))
  else none

/-- What the register at an address reads; none where no register stands, or the address is not 4-aligned (R18, R518). -/
def regValue (s : State) (p : MPort) (tenant : Option Nat) (addr : Nat) : Option Nat :=
  let b := addr / 2 ^ 24
  let o := addr % 2 ^ 24
  if addr % 4 ≠ 0 then none
  else if b = 0 then mcReg s o
  else if b = 1 then elgReg s o
  else if b = 2 then ageReg s o
  else if b = 3 then fuseReg s o
  else if b = 4 then snapReg s p tenant o
  else if b = 5 then scrollReg s tenant o
  else if b = 6 then secReg s o
  else if b = 0x50 then courseReg s o
  else if b = 0x60 then (if o < 0x10 * 544 then some (linkReg s (o / 0x10) (o % 0x10)) else none)
  else match blockDie b with
    | some d =>
      if d < 4 then sxReg s d o else if d < 12 then oxReg s (d - 4) o else if d < 20 then rtReg s (d - 12) o else hxReg s (d - 28) o
    | none => none

/-- Whether the register's die is off (R520). -/
def regOff (s : State) (addr : Nat) : Bool := (blockDie (addr / 2 ^ 24)).any fun d => !pdIsOn s d

/-! Reading and writing (R15, R488, R518 to R521). -/

def tenantOf (s : State) (p : MPort) : Option Nat :=
  match portRole s p with
  | some (.tenant c) => some c
  | _ => none

/-- One read: the data, and 0, 1 for an address that no register occupies, 2 for a die that is off. -/
def readAt (s : State) (p : MPort) (addr : Nat) : State × Nat × Nat :=
  match regValue s p (tenantOf s p) addr with
  | none => (addrError s p, 0, 1)
  | some v =>
    let t := bump s .mcIfAccess [mportIx p]
    if regOff s addr then (ifEvent t (mportIx p) 10, 0, 2)
    else if addr = 0x04000020 then ((readNow t p).1, v, 0)
    else (t, v, 0)

/-- Registers with RWL fields, and the SEC block (R488). -/
def ownerOnly (addr : Nat) : Bool := addr == 0x0300001C || addr / 2 ^ 24 == 6

/-- Registers with SC or WO fields. -/
def actsOnly (addr : Nat) : Bool := addr == 0x20 || addr == 0x02000010

/-- Whether a port may write a register (R488, R524, R525): no tenant writes but SCROLL_RD. -/
def mayPut (s : State) (p : MPort) (addr : Nat) : Bool :=
  match p with
  | .spi => !ownerOnly addr && !actsOnly addr
  | .smbus => false
  | .eth _ =>
    match portRole s p with
    | some .owner => true
    | some .operator => !ownerOnly addr
    | some (.tenant _) => addr == 0x05000010
    | none => false

/-- A flag that a 1 written to its bit clears (Table 0-6). -/
def w1c (b : Bool) (v i : Nat) : Bool := b && !bit v i

/-- MC_RESET's actions (R531): the lowest of those that the write sets. -/
def resetWarm (s : State) : State := if s.fuse.busy.isSome then { s with mc := { s.mc with warmWait := true } } else warmNow s

def refuseReset (s : State) (p : MPort) : State := ifEvent s (mportIx p) 11

def resetSwap (s : State) (p : MPort) : State :=
  if s.mc.standbyOk then endSessions { s with mc := { s.mc with swapping := true } } fun _ _ => false else refuseReset s p

def resetLeave (s : State) (p : MPort) : State :=
  if s.course.lost || s.course.alone || !s.course.twinUp then refuseReset s p
  else leaveCourse s false

def writeReset (s : State) (p : MPort) (v : Nat) : State :=
  if bit v 0 then resetWarm s else if bit v 1 then resetSwap s p else if bit v 2 then resetLeave s p else s

/-- A write that a port may make to a register that stands and is on, by its fields' access codes; fields that are RO ignore it. A write of FUSE_DIE has AGE_STEP
judged before REPAIR_GEN (log entry 161). -/
def putReg (s : State) (p : MPort) (addr v : Nat) : State :=
  match addr with
  | 0x00000020 => writeReset s p v
  | 0x00000030 => { s with mc := { s.mc with ifStatus := s.mc.ifStatus &&& ~~~(BitVec.ofNat 12 v) } }
  | 0x00000034 => { s with mc := { s.mc with alarm := s.mc.alarm &&& ~~~(BitVec.ofNat 11 v) } }
  | 0x00000048 =>
    { s with pwr := { s.pwr with
        fault := s.pwr.fault &&& ~~~(BitVec.ofNat 18 v)
        faultHi := s.pwr.faultHi &&& ~~~(BitVec.ofNat 4 (v / 2 ^ 18))
        faultMid := s.pwr.faultMid &&& ~~~(BitVec.ofNat 4 (v / 2 ^ 22)) } }
  | 0x00000050 => { s with clk := { s.clk with stepped := w1c s.clk.stepped v 3 } }
  | 0x01000020 =>
    { s with elg := { s.elg with
        crmHot := w1c s.elg.crmHot v 13, overBudget := w1c s.elg.overBudget v 10, rampViol := w1c s.elg.rampViol v 9,
        overrun := w1c s.elg.overrun v 8 } }
  | 0x02000010 => if bit v 0 then replanStart s [] else s
  | 0x03000010 =>
    { s with fuse := { s.fuse with
        refused := w1c s.fuse.refused v 11, mismatch := w1c s.fuse.mismatch v 10, lost := w1c s.fuse.lost v 9,
        cellFlt := w1c s.fuse.cellFlt v 8, senseFlt := w1c s.fuse.senseFlt v 7, budgetExh := w1c s.fuse.budgetExh v 1 } }
  | 0x03000018 => { s with fuse := { s.fuse with sel := v % 32 } }
  | 0x0300001C => writeGen (writeStep s s.fuse.sel (bits v 8 5)) s.fuse.sel (bits v 0 4)
  | 0x04000010 => { s with tel := { s.tel with snapBrola := bit v 0 } }
  | 0x04000014 => { s with tel := { s.tel with snapRefused := w1c s.tel.snapRefused v 2, snapLate := w1c s.tel.snapLate v 1 } }
  | 0x04000018 => writeAtLo s (BitVec.ofNat 32 v)
  | 0x0400001C => writeAtHi s (BitVec.ofNat 32 v)
  | 0x05000010 => { s with tel := { s.tel with scrollRd := BitVec.ofNat 32 v } }
  | 0x06000010 => { s with sec := { s.sec with trngFailLatch := w1c s.sec.trngFailLatch v 5, kregZero := w1c s.sec.kregZero v 3 } }
  | 0x06000014 => writeOwnerGen s (v % 32)
  | 0x06000018 =>
    { s with sec := { s.sec with
        aonLost := w1c s.sec.aonLost v 3, cellAlm := w1c s.sec.cellAlm v 2, temp := w1c s.sec.temp v 1, tamper := w1c s.sec.tamper v 0
        aonLog := s.sec.aonLog.filter fun a => !bit v a.1 } }
  | 0x0600001C => writeDisable (writeUnlock s p (bit v 0)) (bit v 2)
  | 0x50000010 => { s with course := { s.course with split := w1c s.course.split v 22 } }
  | a =>
    if 0x20 ≤ a / 2 ^ 24 ∧ a / 2 ^ 24 < 0x28 ∧ a % 2 ^ 24 = 0x200 then
      { s with opt := { s.opt with pegSel := s.opt.pegSel.set (a / 2 ^ 24 - 0x20) (BitVec.ofNat 32 v &&& 0x1F011F) } }
    else s

/-- One write: 0, 1 for an address that no register occupies or an MC_RESET without its KEY, 2 where the port may not, 3 while the
standby takes over. -/
def writeAt (s : State) (p : MPort) (addr v : Nat) : State × Nat :=
  if !mcAnswers s then (s, 3)
  else if (regValue s p none addr).isNone then (addrError s p, 1)
  else if !mayPut s p addr then (addrError s p, 2)
  else if addr = 0x20 ∧ bits v 8 8 ≠ 0x5A then (addrError s p, 1)
  else
    let t := bump s .mcIfAccess [mportIx p]
    if regOff s addr then (ifEvent t (mportIx p) 10, 0) else (putReg t p addr v, 0)

/-- REGISTER_WRITE (R15, R18, R488). -/
def execRegisterWrite (p : MPort) (addr data : W32) (s : State) : Res := .next (writeAt s p addr.toNat data.toNat).1

/-- WARM (R531). -/
def execWarm (p : MPort) (key : Nat) (s : State) : Res := .next (access s p (isManager s p && key == 0x5A) resetWarm)

/-- MCSWAP (R531). -/
def execMcswap (p : MPort) (key : Nat) (s : State) : Res := .next (access s p (isManager s p && key == 0x5A) fun s => resetSwap s p)

/-- LEAVE (R395, R531). -/
def execLeave (p : MPort) (key : Nat) (s : State) : Res := .next (access s p (isManager s p && key == 0x5A) fun s => resetLeave s p)

/-- MC_TAKEOVER: the standby becomes active and goes on from the journal; the other is a standby while it is on (R521, R531). -/
def execMcTakeover (s : State) : Res :=
  .next (if !s.mc.swapping then s
    else
      let s := { s with mc := { s.mc with
        active1 := !s.mc.active1, swapping := false, standbyOk := pdIsOn s (if s.mc.active1 then 31 else 30), resetCause := 5 } }
      if s.course.copying then rebuildResume s else s)

/-! SPI frames (R522 to R524, Table 20-3). -/

def spiLate (s : State) (edges : Nat) (ready : Bool) : Bool := s.mc.swapping || (!ready && decide (56 ≤ edges))

/-- A WRITE frame. The event of an over-long frame comes before the write that it makes (log entry 163). -/
def execSpiWrite (edges : Nat) (addr data : W32) (crcOk ready : Bool) (s : State) : Res :=
  .next (if edges = 0 ∨ !s.pwr.pwrGood then s
    else if spiLate s edges ready then ifEvent s 0 5
    else if edges = 8 ∨ edges = 40 ∨ edges = 72 then ifEvent s 0 1
    else if edges < 80 then ifEvent s 0 0
    else
      let s := if 80 < edges then ifEvent s 0 2 else s
      if !crcOk then ifEvent s 0 3 else (writeAt s .spi addr.toNat data.toNat).1)

/-- A READ frame: the data with their CRC, or zero with the CRC complemented. -/
def execSpiRead (edges : Nat) (addr : W32) (crcOk ready : Bool) (s : State) : Res :=
  .next (if edges = 0 ∨ !s.pwr.pwrGood then s
    else if spiLate s edges ready then (if edges < 96 then ifEvent s 0 5 else emit (ifEvent s 0 5) (.spiRead 0 true))
    else if edges = 8 ∨ edges = 40 ∨ edges = 48 ∨ edges = 56 ∨ edges = 88 then ifEvent s 0 1
    else if edges < 96 then ifEvent s 0 0
    else
      let s := if 96 < edges then ifEvent s 0 2 else s
      if !crcOk then emit (ifEvent s 0 3) (.spiRead 0 true)
      else
        let r := readAt s .spi addr.toNat
        emit r.1 (.spiRead (BitVec.ofNat 32 r.2.1) false))

/-- SPI_UNKNOWN_OPCODE: the frame ends at edge 8 (R523). -/
def execSpiUnknownOpcode (opcode : Nat) (s : State) : Res :=
  .next (if opcode = 2 ∨ opcode = 0x0B ∨ 256 ≤ opcode ∨ !s.pwr.pwrGood then s else if s.mc.swapping then ifEvent s 0 5 else ifEvent s 0 4)

/-! SMBus (R525). -/

/-- SMB_MCTP: what the packet asks is a command of its own. -/
def execSmbMctp (pecOk : Bool) (_code : Nat) (s : State) : Res := .next (if !mcAnswers s || pecOk then s else ifEvent s 1 6)

/-- The blocks that SMBus reads. -/
def smbBlock (b : Nat) : Bool := b ≤ 3 || b == 6 || b == 0x50 || b == 0x60

/-- SMB_REGISTER_READ: data and a status byte. -/
def execSmbRegisterRead (pecOk : Bool) (count : Nat) (addr : W32) (s : State) : Res :=
  .next (if !mcAnswers s then s
    else if !pecOk then ifEvent s 1 6
    else if count ≠ 4 then s
    else if !smbBlock (addr.toNat / 2 ^ 24) then emit (addrError s .smbus) (.smbRead 0 1)
    else
      let r := readAt s .smbus addr.toNat
      emit r.1 (.smbRead (BitVec.ofNat 32 r.2.1) r.2.2))

/-- ALERT_RESPONSE: the target answers while smb_alert_n is low (R525, R529). -/
def execAlertResponse (s : State) : Res := .next (if mcAnswers s ∧ s.mc.alarm ≠ 0 then emit s (.smbAlert (0x4C + s.mc.smbAddr)) else s)

/-- SMB_CLOCK_TIMEOUT resets the transaction state, which is over within each command. -/
def execSmbClockTimeout (s : State) : Res := .next s

/-! Management Ethernet (R526 to R528). -/

/-- ETHERNET_FRAME: what an accepted frame carries is a command of its own; every other frame is dropped. -/
def execEthernetFrame (_untagged _toUs : Bool) (_etherType _version _len : Nat) (s : State) : Res := .next s

/-- The addresses of a message of n registers. -/
def msgAddrs (addr : W32) (n : Nat) : List Nat := (List.range n).map fun i => (addr.toNat + 4 * i) % 2 ^ 32

/-- A tenant reads the SNAP and SCROLL blocks (R488, R504, R512). -/
def mayGet (s : State) (p : MPort) (addr : Nat) : Bool :=
  (tenantOf s p).isNone || addr / 2 ^ 24 == 4 || addr / 2 ^ 24 == 5

/-- The words of a READ in order. -/
def readAll (p : MPort) : List Nat → State → State × Nat × List W32
  | [], s => (s, 0, [])
  | a :: t, s =>
    let r := readAt s p a
    let q := readAll p t r.1
    (q.1, (if r.2.2 = 1 then 1 else q.2.1), BitVec.ofNat 32 r.2.1 :: q.2.2)

/-- The words of a WRITE in order. -/
def writeAll (p : MPort) : List (Nat × W32) → State → State × Nat
  | [], s => (s, 0)
  | x :: t, s =>
    let r := writeAt s p x.1 x.2.toNat
    let q := writeAll p t r.1
    (q.1, max r.2 q.2)

/-- MCTP_READ (Table 20-5). Where the role forbids a word nothing is read, and each word that no register occupies is still counted
(R18). -/
def execMctpRead (sess : Nat) (addr : W32) (count : Nat) (s : State) : Res :=
  .next (if !s.pwr.pwrGood ∨ count = 0 ∨ 64 < count then s
    else if s.mc.swapping then emit s (.mctpRead sess 3 (List.replicate count 0))
    else if (portRole s (.eth sess)).isNone then s
    else if (msgAddrs addr count).all (mayGet s (.eth sess)) then
      let r := readAll (.eth sess) (msgAddrs addr count) s
      emit r.1 (.mctpRead sess r.2.1 r.2.2)
    else
      let none_ := (msgAddrs addr count).filter fun a => (regValue s (.eth sess) none a).isNone
      emit (none_.foldl (fun s _ => addrError s (.eth sess)) s) (.mctpRead sess 2 (List.replicate count 0)))

/-- MCTP_WRITE: one register at a time in ascending order; nothing where the role forbids one of them (R527, Table 20-5). -/
def execMctpWrite (sess : Nat) (addr : W32) (ws : List W32) (s : State) : Res :=
  .next (if !s.pwr.pwrGood ∨ ws = [] ∨ 64 < ws.length then s
    else if s.mc.swapping then emit s (.mctpWrite sess 3)
    else if (portRole s (.eth sess)).isNone then s
    else
      let l := msgAddrs addr ws.length
      let bad := l.filter fun a => !mayPut s (.eth sess) a && (regValue s (.eth sess) none a).isSome
      if bad.isEmpty then
        let r := writeAll (.eth sess) (l.zip ws) s
        emit r.1 (.mctpWrite sess r.2)
      else emit (bad.foldl (fun s _ => addrError s (.eth sess)) s) (.mctpWrite sess 2))

end Sys2Proof.Machine
end

