-- ==== Sys2Proof/Machine/Dispatch.lean ====
section
/-! DEFINITION. The meaning of every command: one arm per row of the command table. -/

namespace Sys2Proof.Machine

open Sys2Proof

def exec (i : Instr) (s : State) : Host.Outcome State Fault Refusal :=
  match i with
  | .refLost => Sys2Proof.Machine.execRefLost s
  | .refRelock => Sys2Proof.Machine.execRefRelock s
  | .lanePllLockLoss kind idx => Sys2Proof.Machine.execLanePllLockLoss kind idx s
  | .beaconSend => Sys2Proof.Machine.execBeaconSend s
  | .beacon x tsrc time echo hold => Sys2Proof.Machine.execBeacon x tsrc time echo hold s
  | .timeHoldover => Sys2Proof.Machine.execTimeHoldover s
  | .adjMonitorSample samples => Sys2Proof.Machine.execAdjMonitorSample samples s
  | .pdFault pd => Sys2Proof.Machine.execPdFault pd s
  | .aonToVbak vaonMv => Sys2Proof.Machine.execAonToVbak vaonMv s
  | .aonToVaon vaonMv stableUs => Sys2Proof.Machine.execAonToVaon vaonMv stableUs s
  | .powerOnReset rstLow => Sys2Proof.Machine.execPowerOnReset rstLow s
  | .coldReset lowNs => Sys2Proof.Machine.execColdReset lowNs s
  | .powerFail => Sys2Proof.Machine.execPowerFail s
  | .railFault rail => Sys2Proof.Machine.execRailFault rail s
  | .portReset port => Sys2Proof.Machine.execPortReset port s
  | .packetArrival sx port p => Sys2Proof.Machine.execPacketArrival sx port p s
  | .packetAdmit sx idx => Sys2Proof.Machine.execPacketAdmit sx idx s
  | .arbiterDecision sx port boundary corrected uncorrectable => Sys2Proof.Machine.execArbiterDecision sx port boundary corrected uncorrectable s
  | .ddrArbiterDecision hx ch busy rdAge wrAge refresh => Sys2Proof.Machine.execDdrArbiterDecision hx ch busy rdAge wrAge refresh s
  | .creditSend x => Sys2Proof.Machine.execCreditSend x s
  | .credit x v0 v1 => Sys2Proof.Machine.execCredit x v0 v1 s
  | .pcredit x capo vc cl => Sys2Proof.Machine.execPcredit x capo vc cl s
  | .bulkClose str tc vc => Sys2Proof.Machine.execBulkClose str tc vc s
  | .bulkReceive str h ps bcrc => Sys2Proof.Machine.execBulkReceive str h ps bcrc s
  | .ld r v => Sys2Proof.Machine.execLd r v s
  | .st r v => Sys2Proof.Machine.execSt r v s
  | .aadd r v => Sys2Proof.Machine.execAadd r v s
  | .aand r v => Sys2Proof.Machine.execAand r v s
  | .aor r v => Sys2Proof.Machine.execAor r v s
  | .axor r v => Sys2Proof.Machine.execAxor r v s
  | .aswap r v => Sys2Proof.Machine.execAswap r v s
  | .acas r v => Sys2Proof.Machine.execAcas r v s
  | .amax r v => Sys2Proof.Machine.execAmax r v s
  | .amin r v => Sys2Proof.Machine.execAmin r v s
  | .fadd32 r v => Sys2Proof.Machine.execFadd32 r v s
  | .faddb16 r v => Sys2Proof.Machine.execFaddb16 r v s
  | .rst r v => Sys2Proof.Machine.execRst r v s
  | .rstx r v => Sys2Proof.Machine.execRstx r v s
  | .mst r v => Sys2Proof.Machine.execMst r v s
  | .fset r v => Sys2Proof.Machine.execFset r v s
  | .fclr r v => Sys2Proof.Machine.execFclr r v s
  | .ftest r v => Sys2Proof.Machine.execFtest r v s
  | .barr r v => Sys2Proof.Machine.execBarr r v s
  | .cpyd r v => Sys2Proof.Machine.execCpyd r v s
  | .invLeafLines r v => Sys2Proof.Machine.execInvLeafLines r v s
  | .invTranslation r v => Sys2Proof.Machine.execInvTranslation r v s
  | .invRegionCache r v => Sys2Proof.Machine.execInvRegionCache r v s
  | .invDrainComplete src tc seq => Sys2Proof.Machine.execInvDrainComplete src tc seq s
  | .pfaFetch r v => Sys2Proof.Machine.execPfaFetch r v s
  | .pfaZero r v => Sys2Proof.Machine.execPfaZero r v s
  | .pfaScrub r v => Sys2Proof.Machine.execPfaScrub r v s
  | .pfaComplete src tc seq => Sys2Proof.Machine.execPfaComplete src tc seq s
  | .cmp w b c hcrc => Sys2Proof.Machine.execCmp w b c hcrc s
  | .finalHoldTimeout w src tc seq => Sys2Proof.Machine.execFinalHoldTimeout w src tc seq s
  | .countSlotRelease w src epoch => Sys2Proof.Machine.execCountSlotRelease w src epoch s
  | .dupEntryRelease w src tc seq => Sys2Proof.Machine.execDupEntryRelease w src tc seq s
  | .completionTimeout w id => Sys2Proof.Machine.execCompletionTimeout w id s
  | .retryResend w id => Sys2Proof.Machine.execRetryResend w id s
  | .mcastCopyTimeout id => Sys2Proof.Machine.execMcastCopyTimeout id s
  | .sourceReset w => Sys2Proof.Machine.execSourceReset w s
  | .portRequest p => Sys2Proof.Machine.execPortRequest p s
  | .requestRelease id => Sys2Proof.Machine.execRequestRelease id s
  | .atsTranslationComplete id x => Sys2Proof.Machine.execAtsTranslationComplete id x s
  | .atsTranslationTimeout id => Sys2Proof.Machine.execAtsTranslationTimeout id s
  | .atsInvalidation tag lo len => Sys2Proof.Machine.execAtsInvalidation tag lo len s
  | .atsInvalidationComplete tag => Sys2Proof.Machine.execAtsInvalidationComplete tag s
  | .accessWindowDefine idx w => Sys2Proof.Machine.execAccessWindowDefine idx w s
  | .kernelBegin ktag => Sys2Proof.Machine.execKernelBegin ktag s
  | .discardAck id => Sys2Proof.Machine.execDiscardAck id s
  | .kernelEnd ktag => Sys2Proof.Machine.execKernelEnd ktag s
  | .kernelEndSignal ktag => Sys2Proof.Machine.execKernelEndSignal ktag s
  | .copyStart w => Sys2Proof.Machine.execCopyStart w s
  | .attach n ident b leaf => Sys2Proof.Machine.execAttach n ident b leaf s
  | .assign b a => Sys2Proof.Machine.execAssign b a s
  | .steer b course lostB => Sys2Proof.Machine.execSteer b course lostB s
  | .restore b course memberB => Sys2Proof.Machine.execRestore b course memberB s
  | .timeStep n step time => Sys2Proof.Machine.execTimeStep n step time s
  | .bridgeHello n h => Sys2Proof.Machine.execBridgeHello n h s
  | .snap b time => Sys2Proof.Machine.execSnap b time s
  | .brolaSnapshot time => Sys2Proof.Machine.execBrolaSnapshot time s
  | .allreduce d => Sys2Proof.Machine.execAllreduce d s
  | .rscatter d => Sys2Proof.Machine.execRscatter d s
  | .reduce d => Sys2Proof.Machine.execReduce d s
  | .allgather d => Sys2Proof.Machine.execAllgather d s
  | .bcast d => Sys2Proof.Machine.execBcast d s
  | .barrier d => Sys2Proof.Machine.execBarrier d s
  | .gshard d => Sys2Proof.Machine.execGshard d s
  | .fused d => Sys2Proof.Machine.execFused d s
  | .groupReset group epoch => Sys2Proof.Machine.execGroupReset group epoch s
  | .windowFinalised wid => Sys2Proof.Machine.execWindowFinalised wid s
  | .windowDeadline wid => Sys2Proof.Machine.execWindowDeadline wid s
  | .windowRecover wid => Sys2Proof.Machine.execWindowRecover wid s
  | .barrierTimeout capo group => Sys2Proof.Machine.execBarrierTimeout capo group s
  | .barrierRecover capo group => Sys2Proof.Machine.execBarrierRecover capo group s
  | .arm we => Sys2Proof.Machine.execArm we s
  | .wait we => Sys2Proof.Machine.execWait we s
  | .waitRelease we cycle => Sys2Proof.Machine.execWaitRelease we cycle s
  | .waitTimeout we => Sys2Proof.Machine.execWaitTimeout we s
  | .echk seg => Sys2Proof.Machine.execEchk seg s
  | .checkpointTimeout => Sys2Proof.Machine.execCheckpointTimeout s
  | .next => Sys2Proof.Machine.execNext s
  | .br tgt => Sys2Proof.Machine.execBr tgt s
  | .brc we tgt => Sys2Proof.Machine.execBrc we tgt s
  | .brnc we tgt => Sys2Proof.Machine.execBrnc we tgt s
  | .loop lc imm => Sys2Proof.Machine.execLoop lc imm s
  | .endl lc tgt => Sys2Proof.Machine.execEndl lc tgt s
  | .call tgt => Sys2Proof.Machine.execCall tgt s
  | .ret => Sys2Proof.Machine.execRet s
  | .halt => Sys2Proof.Machine.execHalt s
  | .wrst we => Sys2Proof.Machine.execWrst we s
  | .lockstepCompare addrs cycle => Sys2Proof.Machine.execLockstepCompare addrs cycle s
  | .nop tile => Sys2Proof.Machine.execNop tile s
  | .step tile o => Sys2Proof.Machine.execStep tile o s
  | .ldw tile o => Sys2Proof.Machine.execLdw tile o s
  | .zacc tile o => Sys2Proof.Machine.execZacc tile o s
  | .stacc tile o => Sys2Proof.Machine.execStacc tile o s
  | .ldacc tile o => Sys2Proof.Machine.execLdacc tile o s
  | .vnop tile => Sys2Proof.Machine.execVnop tile s
  | .vld tile o => Sys2Proof.Machine.execVld tile o s
  | .vst tile o => Sys2Proof.Machine.execVst tile o s
  | .vfma tile o => Sys2Proof.Machine.execVfma tile o s
  | .vadd tile o => Sys2Proof.Machine.execVadd tile o s
  | .vmul tile o => Sys2Proof.Machine.execVmul tile o s
  | .vmax tile o => Sys2Proof.Machine.execVmax tile o s
  | .vmin tile o => Sys2Proof.Machine.execVmin tile o s
  | .vsplat tile o => Sys2Proof.Machine.execVsplat tile o s
  | .vacc tile o => Sys2Proof.Machine.execVacc tile o s
  | .mnop tile => Sys2Proof.Machine.execMnop tile s
  | .get tile o => Sys2Proof.Machine.execGet tile o s
  | .put tile o => Sys2Proof.Machine.execPut tile o s
  | .ldfa tile areg freg => Sys2Proof.Machine.execLdfa tile areg freg s
  | .seta tile reg imm => Sys2Proof.Machine.execSeta tile reg imm s
  | .adda tile reg imm => Sys2Proof.Machine.execAdda tile reg imm s
  | .sets tile reg imm => Sys2Proof.Machine.execSets tile reg imm s
  | .setl tile imm => Sys2Proof.Machine.execSetl tile imm s
  | .moverOpComplete tile eng => Sys2Proof.Machine.execMoverOpComplete tile eng s
  | .snop tile => Sys2Proof.Machine.execSnop tile s
  | .launch tile h ec => Sys2Proof.Machine.execLaunch tile h ec s
  | .signal tile freg eng => Sys2Proof.Machine.execSignal tile freg eng s
  | .eclr tile ec => Sys2Proof.Machine.execEclr tile ec s
  | .wdecl tile areg ec => Sys2Proof.Machine.execWdecl tile areg ec s
  | .wrem tile areg ec => Sys2Proof.Machine.execWrem tile areg ec s
  | .shdecl tile areg ec => Sys2Proof.Machine.execShdecl tile areg ec s
  | .shrem tile areg ec => Sys2Proof.Machine.execShrem tile areg ec s
  | .declarationComplete id => Sys2Proof.Machine.execDeclarationComplete id s
  | .streamEnd => Sys2Proof.Machine.execStreamEnd s
  | .streamMaxcyc => Sys2Proof.Machine.execStreamMaxcyc s
  | .handlerStart tile => Sys2Proof.Machine.execHandlerStart tile s
  | .handlerEnd tile h => Sys2Proof.Machine.execHandlerEnd tile h s
  | .handlerMaxcyc tile core => Sys2Proof.Machine.execHandlerMaxcyc tile core s
  | .add t c rd ra rb => Sys2Proof.Machine.execAdd t c rd ra rb s
  | .sub t c rd ra rb => Sys2Proof.Machine.execSub t c rd ra rb s
  | .and t c rd ra rb => Sys2Proof.Machine.execAnd t c rd ra rb s
  | .or t c rd ra rb => Sys2Proof.Machine.execOr t c rd ra rb s
  | .xor t c rd ra rb => Sys2Proof.Machine.execXor t c rd ra rb s
  | .shl t c rd ra rb => Sys2Proof.Machine.execShl t c rd ra rb s
  | .shr t c rd ra rb => Sys2Proof.Machine.execShr t c rd ra rb s
  | .sra t c rd ra rb => Sys2Proof.Machine.execSra t c rd ra rb s
  | .mul t c rd ra rb => Sys2Proof.Machine.execMul t c rd ra rb s
  | .addi t c rd ra imm => Sys2Proof.Machine.execAddi t c rd ra imm s
  | .lui t c rd imm => Sys2Proof.Machine.execLui t c rd imm s
  | .scLd t c rd ra imm => Sys2Proof.Machine.execScLd t c rd ra imm s
  | .scSt t c rd ra imm => Sys2Proof.Machine.execScSt t c rd ra imm s
  | .beq t c rd ra imm => Sys2Proof.Machine.execBeq t c rd ra imm s
  | .bne t c rd ra imm => Sys2Proof.Machine.execBne t c rd ra imm s
  | .blt t c rd ra imm => Sys2Proof.Machine.execBlt t c rd ra imm s
  | .bge t c rd ra imm => Sys2Proof.Machine.execBge t c rd ra imm s
  | .jmp t c ra imm => Sys2Proof.Machine.execJmp t c ra imm s
  | .cvt t c rd ra fromFmt toFmt => Sys2Proof.Machine.execCvt t c rd ra fromFmt toFmt s
  | .scin t c rd ra rb => Sys2Proof.Machine.execScin t c rd ra rb s
  | .scout t c rd ra rb => Sys2Proof.Machine.execScout t c rd ra rb s
  | .scwait t c => Sys2Proof.Machine.execScwait t c s
  | .scTransferEnd t c => Sys2Proof.Machine.execScTransferEnd t c s
  | .scHalt t c => Sys2Proof.Machine.execScHalt t c s
  | .scFault t c => Sys2Proof.Machine.execScFault t c s
  | .admissionStart control => Sys2Proof.Machine.execAdmissionStart control s
  | .imageFetchComplete control => Sys2Proof.Machine.execImageFetchComplete control s
  | .bindComplete code bundles => Sys2Proof.Machine.execBindComplete code bundles s
  | .seedWaitTimeout => Sys2Proof.Machine.execSeedWaitTimeout s
  | .admissionEnergyTimeout => Sys2Proof.Machine.execAdmissionEnergyTimeout s
  | .streamStart => Sys2Proof.Machine.execStreamStart s
  | .stage tbl entries => Sys2Proof.Machine.execStage tbl entries s
  | .unstage tbl => Sys2Proof.Machine.execUnstage tbl s
  | .commit epoch => Sys2Proof.Machine.execCommit epoch s
  | .cancel num => Sys2Proof.Machine.execCancel num s
  | .commitApply num => Sys2Proof.Machine.execCommitApply num s
  | .arbprio sx port entry value => Sys2Proof.Machine.execArbprio sx port entry value s
  | .pdreq pd on => Sys2Proof.Machine.execPdreq pd on s
  | .rtout rt => Sys2Proof.Machine.execRtout rt s
  | .rtoutProceed rt => Sys2Proof.Machine.execRtoutProceed rt s
  | .rtin rt => Sys2Proof.Machine.execRtin rt s
  | .aborts => Sys2Proof.Machine.execAborts s
  | .waitt time => Sys2Proof.Machine.execWaitt time s
  | .waittExpiry => Sys2Proof.Machine.execWaittExpiry s
  | .endProg => Sys2Proof.Machine.execEndProg s
  | .rtSlotBoundary => Sys2Proof.Machine.execRtSlotBoundary s
  | .commitSeedWaitTimeout => Sys2Proof.Machine.execCommitSeedWaitTimeout s
  | .inServiceTestEnd site faulty => Sys2Proof.Machine.execInServiceTestEnd site faulty s
  | .rcacheFetchComplete sx capo rid => Sys2Proof.Machine.execRcacheFetchComplete sx capo rid s
  | .pageScrub target page => Sys2Proof.Machine.execPageScrub target page s
  | .backingReturn target => Sys2Proof.Machine.execBackingReturn target s
  | .cxlEnumerate port gb supported => Sys2Proof.Machine.execCxlEnumerate port gb supported s
  | .cxlLinkDown port => Sys2Proof.Machine.execCxlLinkDown port s
  | .pegLoop ox fibre bus ring measured light found => Sys2Proof.Machine.execPegLoop ox fibre bus ring measured light found s
  | .probeDwell ox fibre ring wl oma eyes ser => Sys2Proof.Machine.execProbeDwell ox fibre ring wl oma eyes ser s
  | .laneBerCheck x q ber levels => Sys2Proof.Machine.execLaneBerCheck x q ber levels s
  | .laneBerWindow x q errs bits => Sys2Proof.Machine.execLaneBerWindow x q errs bits s
  | .laserMonitor lm lane centiDbm lowMs alarm => Sys2Proof.Machine.execLaserMonitor lm lane centiDbm lowMs alarm s
  | .laserModuleRemove lm => Sys2Proof.Machine.execLaserModuleRemove lm s
  | .laserModuleInsert lm lanes onGrid => Sys2Proof.Machine.execLaserModuleInsert lm lanes onGrid s
  | .laneMove m => Sys2Proof.Machine.execLaneMove m s
  | .laneGrant m => Sys2Proof.Machine.execLaneGrant m s
  | .laneRefuse m => Sys2Proof.Machine.execLaneRefuse m s
  | .laneDone m => Sys2Proof.Machine.execLaneDone m s
  | .laneMoveNoAnswer x => Sys2Proof.Machine.execLaneMoveNoAnswer x s
  | .laneMoveAbandon x => Sys2Proof.Machine.execLaneMoveAbandon x s
  | .slotReceive x sl => Sys2Proof.Machine.execSlotReceive x sl s
  | .slotAbort x e => Sys2Proof.Machine.execSlotAbort x e s
  | .replayTimerExpiry x => Sys2Proof.Machine.execReplayTimerExpiry x s
  | .replayReq x lseq => Sys2Proof.Machine.execReplayReq x lseq s
  | .train x t => Sys2Proof.Machine.execTrain x t s
  | .eiEntry x => Sys2Proof.Machine.execEiEntry x s
  | .eiEnter x => Sys2Proof.Machine.execEiEnter x s
  | .eiExit x => Sys2Proof.Machine.execEiExit x s
  | .stageComplete x lanes blocks => Sys2Proof.Machine.execStageComplete x lanes blocks s
  | .stageLimit x miswire => Sys2Proof.Machine.execStageLimit x miswire s
  | .lightLoss x => Sys2Proof.Machine.execLightLoss x s
  | .silentTimeout x => Sys2Proof.Machine.execSilentTimeout x s
  | .bringupRestart x => Sys2Proof.Machine.execBringupRestart x s
  | .alignmentMarkerLoss x => Sys2Proof.Machine.execAlignmentMarkerLoss x s
  | .fecUncorrLimit x lane blocks => Sys2Proof.Machine.execFecUncorrLimit x lane blocks s
  | .heartbeatSend => Sys2Proof.Machine.execHeartbeatSend s
  | .heartbeat sp h => Sys2Proof.Machine.execHeartbeat sp h s
  | .heartbeatMiss => Sys2Proof.Machine.execHeartbeatMiss s
  | .mwrite mseq key bytes poison dup => Sys2Proof.Machine.execMwrite mseq key bytes poison dup s
  | .mstate mseq r => Sys2Proof.Machine.execMstate mseq r s
  | .macc mseq m => Sys2Proof.Machine.execMacc mseq m s
  | .mfinal mseq m => Sys2Proof.Machine.execMfinal mseq m s
  | .mconfirm mseqs => Sys2Proof.Machine.execMconfirm mseqs s
  | .mcopy mseq item => Sys2Proof.Machine.execMcopy mseq item s
  | .mjournal mseq j => Sys2Proof.Machine.execMjournal mseq j s
  | .rebuildCopy => Sys2Proof.Machine.execRebuildCopy s
  | .rebuildEnd => Sys2Proof.Machine.execRebuildEnd s
  | .soundpostGapTimeout => Sys2Proof.Machine.execSoundpostGapTimeout s
  | .mcTakeover => Sys2Proof.Machine.execMcTakeover s
  | .mcBoot verifyA verifyB siteOk => Sys2Proof.Machine.execMcBoot verifyA verifyB siteOk s
  | .selftestStart dimms => Sys2Proof.Machine.execSelftestStart dimms s
  | .selftestPhaseEnd failed => Sys2Proof.Machine.execSelftestPhaseEnd failed s
  | .opticalPhaseEnd => Sys2Proof.Machine.execOpticalPhaseEnd s
  | .soundpostPhaseEnd => Sys2Proof.Machine.execSoundpostPhaseEnd s
  | .leafAttachPhaseEnd elapsedMs => Sys2Proof.Machine.execLeafAttachPhaseEnd elapsedMs s
  | .helloSend => Sys2Proof.Machine.execHelloSend s
  | .hello h session => Sys2Proof.Machine.execHello h session s
  | .electionClose => Sys2Proof.Machine.execElectionClose s
  | .sweepSend => Sys2Proof.Machine.execSweepSend s
  | .sweep n rank => Sys2Proof.Machine.execSweep n rank s
  | .survey rank n l => Sys2Proof.Machine.execSurvey rank n l s
  | .tables sweepNo epoch present excluded => Sys2Proof.Machine.execTables sweepNo epoch present excluded s
  | .result rank cstate converged => Sys2Proof.Machine.execResult rank cstate converged s
  | .tablesAcceptDeadline => Sys2Proof.Machine.execTablesAcceptDeadline s
  | .convergenceCheck => Sys2Proof.Machine.execConvergenceCheck s
  | .leadLost => Sys2Proof.Machine.execLeadLost s
  | .ledgerEpoch pdUj streamUj ballastUj temps => Sys2Proof.Machine.execLedgerEpoch pdUj streamUj ballastUj temps s
  | .thermalSample temps => Sys2Proof.Machine.execThermalSample temps s
  | .ageStep p value => Sys2Proof.Machine.execAgeStep p value s
  | .repairGen p value => Sys2Proof.Machine.execRepairGen p value s
  | .fuseProgramDone verified => Sys2Proof.Machine.execFuseProgramDone verified s
  | .replan p value readings => Sys2Proof.Machine.execReplan p value readings s
  | .replanPeriod readings => Sys2Proof.Machine.execReplanPeriod readings s
  | .ageingMonitorRead site slackPs vminMv => Sys2Proof.Machine.execAgeingMonitorRead site slackPs vminMv s
  | .getVersion conn => Sys2Proof.Machine.execGetVersion conn s
  | .getCapabilities conn => Sys2Proof.Machine.execGetCapabilities conn s
  | .negotiateAlgorithms conn supported => Sys2Proof.Machine.execNegotiateAlgorithms conn supported s
  | .getDigests conn => Sys2Proof.Machine.execGetDigests conn s
  | .getCertificate conn off len => Sys2Proof.Machine.execGetCertificate conn off len s
  | .challenge conn nonce => Sys2Proof.Machine.execChallenge conn nonce s
  | .getMeasurements conn nonce => Sys2Proof.Machine.execGetMeasurements conn nonce s
  | .keyExchange conn => Sys2Proof.Machine.execKeyExchange conn s
  | .finish conn cert => Sys2Proof.Machine.execFinish conn cert s
  | .spdmHeartbeat conn => Sys2Proof.Machine.execSpdmHeartbeat conn s
  | .spdmSessionTimeout conn => Sys2Proof.Machine.execSpdmSessionTimeout conn s
  | .keyUpdate conn => Sys2Proof.Machine.execKeyUpdate conn s
  | .endSession conn => Sys2Proof.Machine.execEndSession conn s
  | .ownerClaim keyDigest minSvn => Sys2Proof.Machine.execOwnerClaim keyDigest minSvn s
  | .secOwnerGen p value rotation => Sys2Proof.Machine.execSecOwnerGen p value rotation s
  | .trngBlock pass bits => Sys2Proof.Machine.execTrngBlock pass bits s
  | .trngStartupRetry pass => Sys2Proof.Machine.execTrngStartupRetry pass s
  | .tamper => Sys2Proof.Machine.execTamper s
  | .aonTemperature centiC => Sys2Proof.Machine.execAonTemperature centiC s
  | .cellLow vbakMv => Sys2Proof.Machine.execCellLow vbakMv s
  | .aonLost => Sys2Proof.Machine.execAonLost s
  | .snapAtLo p value => Sys2Proof.Machine.execSnapAtLo p value s
  | .snapAtHi p value => Sys2Proof.Machine.execSnapAtHi p value s
  | .snapNowLo p => Sys2Proof.Machine.execSnapNowLo p s
  | .snapshotCopy blk => Sys2Proof.Machine.execSnapshotCopy blk s
  | .snapshotSwap => Sys2Proof.Machine.execSnapshotSwap s
  | .scrollRd p value => Sys2Proof.Machine.execScrollRd p value s
  | .scrollWindowEnd => Sys2Proof.Machine.execScrollWindowEnd s
  | .scrollArchive n => Sys2Proof.Machine.execScrollArchive n s
  | .jtagBypass tdi => Sys2Proof.Machine.execJtagBypass tdi s
  | .jtagIdcode => Sys2Proof.Machine.execJtagIdcode s
  | .jtagSamplePreload v => Sys2Proof.Machine.execJtagSamplePreload v s
  | .jtagExtest v => Sys2Proof.Machine.execJtagExtest v s
  | .jtagClamp => Sys2Proof.Machine.execJtagClamp s
  | .jtagHighz => Sys2Proof.Machine.execJtagHighz s
  | .dbgacc wr addr data => Sys2Proof.Machine.execDbgacc wr addr data s
  | .dbginj sx port flits => Sys2Proof.Machine.execDbginj sx port flits s
  | .unlock p v => Sys2Proof.Machine.execUnlock p v s
  | .disable p v => Sys2Proof.Machine.execDisable p v s
  | .spiWrite edges addr data crcOk ready => Sys2Proof.Machine.execSpiWrite edges addr data crcOk ready s
  | .spiRead edges addr crcOk ready => Sys2Proof.Machine.execSpiRead edges addr crcOk ready s
  | .spiUnknownOpcode opcode => Sys2Proof.Machine.execSpiUnknownOpcode opcode s
  | .smbMctp pecOk code => Sys2Proof.Machine.execSmbMctp pecOk code s
  | .smbRegisterRead pecOk count addr => Sys2Proof.Machine.execSmbRegisterRead pecOk count addr s
  | .alertResponse => Sys2Proof.Machine.execAlertResponse s
  | .smbClockTimeout => Sys2Proof.Machine.execSmbClockTimeout s
  | .ethernetFrame untagged toUs etherType version len => Sys2Proof.Machine.execEthernetFrame untagged toUs etherType version len s
  | .mctpRead sess addr count => Sys2Proof.Machine.execMctpRead sess addr count s
  | .mctpWrite sess addr ws => Sys2Proof.Machine.execMctpWrite sess addr ws s
  | .warm p key => Sys2Proof.Machine.execWarm p key s
  | .mcswap p key => Sys2Proof.Machine.execMcswap p key s
  | .leave p key => Sys2Proof.Machine.execLeave p key s
  | .registerWrite p addr data => Sys2Proof.Machine.execRegisterWrite p addr data s

end Sys2Proof.Machine
end

