-- ==== Sys2Proof/Machine/Tick.lean ====
section
/-! DEFINITION. The tick: what the clocks do while no command waits. -/

namespace Sys2Proof.Machine

open Sys2Proof

/-- One nanosecond of the 1.0 GHz time base (R29), three cycles of the SX datapath (R26), and the AON clock (R38). While a hold of
R33 or a slew of R31 stands, a count holds and the hold runs down. Both parties count (R29). -/
def tick (s : State) : State :=
  { s with
    clk := { s.clk with
      now := if s.clk.hold = 0 then s.clk.now + 1 else s.clk.now
      hold := s.clk.hold - 1
      up := s.clk.up + 1
      sxCycle := s.clk.sxCycle + 3 }
    sec := { s.sec with rtc := s.sec.rtc + 1 }
    brola := { s.brola with
      now := if s.brola.hold = 0 then s.brola.now + 1 else s.brola.now
      hold := s.brola.hold - 1 } }

end Sys2Proof.Machine
end

