-- ==== Sys2Proof/Safety.lean ====
section
/-! DEFINITION. What a run of the block keeps, and the terms in which statements about it are made. -/

namespace Sys2Proof.Machine

open Sys2Proof

/-- The invariant of every run: the package's memory, the scratch of the tiles and the leaf's memory keep their canonical form. -/
def safeState (s : State) : Prop := Memory.wf s.mem.phys = true ∧ Memory.wf s.scratch = true ∧ Memory.wf s.brola.mem = true

/-! Small cores. -/

/-- Core c of tile t runs a handler, waits for nothing, has cycles left and a PC within local store: its next instruction
executes. -/
def coreReady (s : State) (t c : Nat) : Prop :=
  ∃ h, (coreOf s t c).running = some h ∧ (coreOf s t c).waiting = false ∧ (coreOf s t c).cycles < (handlerOf s h).maxcyc
    ∧ (coreOf s t c).pc + 4 ≤ localSize

/-- Nothing but core c of tile t differs: no other core, no other field of a tile, no other part of the state. -/
def onlyCore (s u : State) (t c : Nat) : Prop :=
  u = { s with tiles := u.tiles } ∧ (∀ n, tileOf u n = { tileOf s n with cores := (tileOf u n).cores })
    ∧ ∀ t' c', (t', c') ≠ (t, c) → coreOf u t' c' = coreOf s t' c'

/-- Core c of tile t has gone on by one word, and of its registers only RD may differ: it holds v, unless it is x0. -/
def coreWrote (s u : State) (t c rd : Nat) (v : W64) : Prop :=
  (∀ r < 32, xreg (coreOf u t c) r = if r = rd ∧ r ≠ 0 then v else xreg (coreOf s t c) r)
    ∧ (coreOf u t c).pc = (coreOf s t c).pc + 4 ∧ onlyCore s u t c

/-- Core c of tile t has gone to pc, its registers as before. -/
def coreWent (s u : State) (t c pc : Nat) : Prop :=
  (∀ r, xreg (coreOf u t c) r = xreg (coreOf s t c) r) ∧ (coreOf u t c).pc = pc ∧ onlyCore s u t c

/-! The chip stream. -/

/-- The bundle at the issue point issues in the present cycle: the stream runs, nothing stalls or ends it, its words were read, no exception
has arisen, its address lies in the image, it holds no reserved encoding; the duty stands. -/
def bundleReady (s : State) : Prop :=
  let b := (s.str.store.get s.str.pc 0).toNat
  s.str.running = true ∧ s.str.ending = false ∧ s.str.stall = none ∧ s.str.fetchBad = false ∧ s.str.exc = none ∧ s.str.stopAt = none ∧ s.str.pc < s.str.imageLen
    ∧ headReserved b = false ∧ (∀ n ∈ s.str.tiles, slotReserved b n = []) ∧ s.str.dutyAt = [] ∧ 1 ≤ s.str.duty ∧ s.str.duty ≤ 16

/-- The cycle is the first from `arr` on that a duty d lets a bundle issue in (R237). -/
def firstByDuty (d arr cycle : Nat) : Prop := arr ≤ cycle ∧ cycle % 16 < d ∧ ∀ k, arr ≤ k → k < cycle → d ≤ k % 16

/-- The bundle has issued and is counted; the bundle at dst reaches issue after the cycles lost, and issues in the first cycle that the
duty allows, unless a tile's copy of it cannot be corrected: that raises STORE_UNCORR (R224). Only the stream, its tiles with their scratch,
and counters differ. -/
def streamGoes (s u : State) (dst lost : Nat) : Prop :=
  u.str.pc = dst ∧ u.str.arr = s.str.cycle + 1 + lost ∧ firstByDuty s.str.duty (s.str.cycle + 1 + lost) u.str.cycle ∧ u.str.lastPc = s.str.pc
    ∧ (if ∃ x ∈ s.str.hard, x.1 ∈ s.str.tiles ∧ x.2.1 = dst then
         u.str.fetchBad = true ∧ ∃ e, u.str.exc = some e ∧ e.cause = 0x0C ∧ e.pc = dst ∧ e.cycle = u.str.cycle
       else u.str.exc = none)
    ∧ count u .rtSeqIssue [s.str.capo] = min (count s .rtSeqIssue [s.str.capo] + 1) ctrMax
    ∧ u = { s with ctr := u.ctr, scratch := u.scratch, scrPoison := u.scrPoison, scrLatent := u.scrLatent, str := u.str, tiles := u.tiles }

/-- The stream has taken an exception of the present bundle: it is recorded, no bundle issues from 13 cycles later on, and handlers are
stopped (R248). -/
def streamRaised (s u : State) (cause tile part : Nat) : Prop :=
  ∃ e, u.str.exc = some e ∧ e.cause = cause ∧ e.tile = tile ∧ e.part = part ∧ e.pc = s.str.pc ∧ e.cycle = nowCycle s ∧ e.time = s.clk.now
    ∧ u.str.stopAt = some (nowCycle s + 12)

/-! The tiles. -/

/-- The ops of tile n of the present bundle issue: the stream runs, nothing stalls or ends it, no exception has arisen, and the tile serves
it. -/
def slotReady (s : State) (n : Nat) : Prop :=
  s.str.running = true ∧ s.str.ending = false ∧ s.str.stall = none ∧ s.str.fetchBad = false ∧ s.str.exc = none ∧ s.str.stopAt = none ∧ s.str.pc < s.str.imageLen
    ∧ n ∈ s.str.tiles

/-- Nothing but tile n differs, and it is t. -/
def tileBecomes (s u : State) (n : Nat) (t : Tile) : Prop :=
  u = { s with tiles := u.tiles } ∧ tileOf u n = t ∧ ∀ m, m ≠ n → tileOf u m = tileOf s m

/-- Nothing but tile n and what the wait network has sampled of its counters differs, and the tile is t. -/
def tileCounts (s u : State) (n : Nat) (t : Tile) : Prop :=
  u = { s with tiles := u.tiles, str := { s.str with waits := u.str.waits } } ∧ tileOf u n = t ∧ ∀ m, m ≠ n → tileOf u m = tileOf s m

/-- In the j-th cycle from the present one the scratch ports of tile n serve r bytes read and w bytes written beside the ops that move
bytes in that cycle (R229). -/
def portRoom (s : State) (n j r w : Nat) : Prop :=
  let busy := (tileOf s n).ports.filter fun p => p.1 == s.str.cycle + j
  (busy.map (·.2.1)).sum + r ≤ 57344 ∧ (busy.map (·.2.2)).sum + w ≤ 57344

/-- The op has raised an exception, the first of the stream, with this record (R247, R248). -/
def slotRaised (s u : State) (cause tile part : Nat) (errAddr : W64) (detail : Nat) : Prop :=
  u.str.exc = some { cause := cause, tile := tile, part := part, pc := s.str.pc, status := 0, cycle := s.str.cycle, time := s.clk.now,
                     errAddr := errAddr, detail := detail }
    ∧ u.str.stopAt = some (s.str.cycle + 12) ∧ u = { s with str := u.str, tiles := u.tiles }

/-- An op that reads its bytes in several cycles: bytes wait to be read from the next cycle on, k parts of them, after which it will have read
these elements and these scales (R230, log entry 43). -/
def readsOn (s u : State) (n k : Nat) (what : ReadFor) (els scales : List Byte) : Prop :=
  ∃ r, PendW.read (s.str.cycle + 1) r ∈ (tileOf u n).pend ∧ r.what = what ∧ r.parts.length = k
    ∧ r.els ++ r.parts.flatMap (fun p => scrBytes s n p.1 p.2.1) = els ∧ r.scales ++ r.parts.flatMap (fun p => scrBytes s n p.2.2.1 p.2.2.2) = scales

/-! The scroll. -/

/-- The event is in the scroll, or it is suppressed and counted (R509, R511). -/
def noted (u : State) (cls : Nat) (ev : ScrollEv) (site : Nat) (args : List Nat) : Prop :=
  (∃ e ∈ u.tel.tail ++ u.tel.waitQ, e.cls = cls ∧ e.ev = ev ∧ e.site = site ∧ e.args = args) ∨ 1 ≤ count u .mcScrollSuppress [cls]

/-! Requests. -/

/-- The request commands whose opcode alone names them (Table 2-7). -/
def requestCommands : List (Nat × (Req → Via → Instr)) :=
  [(0x01, .ld), (0x02, .st), (0x10, .aadd), (0x11, .aand), (0x12, .aor), (0x13, .axor), (0x14, .aswap), (0x15, .acas), (0x16, .amax), (0x17, .amin),
   (0x18, .fadd32), (0x19, .faddb16), (0x20, .rst), (0x21, .rstx), (0x28, .mst), (0x30, .fset), (0x31, .fclr), (0x32, .ftest), (0x34, .barr),
   (0x38, .cpyd)]

/-- A request that passes steps 1 to 4 of R63 at the Brola: its header is whole, the Brola has an ASSIGN, its format is legal, and no copy of it
executes or has completed. No FINAL request of its pair is held. -/
def entersBrola (s : State) (r : Req) : Prop :=
  hdrOk r = true ∧ s.brola.asg.isSome = true ∧ formatOk s .brola r = true ∧ findRunning s .brola r = none ∧ findDup s .brola r = none
    ∧ oldestFinal s .brola r.src r.epoch = none ∧ r.final = false

/-- The same at this Kojor, which serves and answers for the address; where it is the first Kojor that the request enters, source and target
belong to its capo, and a host port's has passed the window of its pair (R171). -/
def entersKojor (s : State) (r : Req) (v : Via) : Prop :=
  (∀ b, v ≠ .brola b) ∧ (∀ p, v = .host p → hostWaits s p r = false) ∧ hdrOk r = true ∧ (isFirst s v = true → srcOk s r v = true ∧ targetOk s r = true) ∧ answersHere s r = true
    ∧ s.course.serving = true ∧ foreignWindow s r = false ∧ formatOk s .kojor r = true ∧ findRunning s .kojor r = none ∧ findDup s .kojor r = none
    ∧ oldestFinal s .kojor r.src r.epoch = none ∧ r.final = false

/-- This Kojor once a request has come in: what crossed the link to an RT or HX leaves that link's landing reserve (R168), and a host port's
request is outstanding (R171). Nothing else differs. -/
def entryState (s : State) (r : Req) (v : Via) : State := (hostPass (leaveDie s r v) r v).1

/-- The page that a request names is translated by region g, whose entry is in the cache of the SX it came in on, and this member serves it
at key k; `m` says that the twin's copy is written too. -/
def pageHere (s : State) (r : Req) (v : Via) (g : Region) (k : Nat) (m : Bool) : Prop :=
  kindReserved r.addr = false ∧ aKind r.addr = 2 ∧ zerosOk r.addr = true ∧ scratchWin (aOff r.addr) = none ∧ tierOf (aOff r.addr) ≠ none
    ∧ regionAt s.prog.eff r.capo (aOff r.addr / 4096) = some g ∧ cached s (viaSx v) r.capo g.rid = true
    ∧ serveAt (cacheTouch s (viaSx v) r.capo g.rid) g (aOff r.addr) (fromTwin v) = .here k m ∧ (fromTwin v = true → isMine s (aOff r.addr) = true)

/-- No word of a range is poisoned or holds an error not yet found. -/
def clean (poison latent : List Nat) (k n : Nat) : Prop := ∀ w, k < 8 * w + 8 → 8 * w < k + n → w ∉ poison ∧ w ∉ latent

/-! Programs. -/

/-- What has been sent since s, and o among it. -/
def sentSince (s u : State) (o : Out) : Prop := ∃ l, u.out = s.out ++ l ∧ o ∈ l

/-- A record of which `p` holds is written at REPORT, unless that is malformed (R255). -/
def reported (s u : State) (d : Nat) (p : Report → Prop) : Prop :=
  reportOk d = true → ∃ r, sentSince s u (.report (descReport d) r (descRctr d)) ∧ p r

/-- The control program c runs, and no record of it still waits. -/
def ctlRuns (s : State) (c : CtlProg) : Prop := s.prog.ctl = some c ∧ c.waitt = none ∧ c.rtout = none ∧ c.seedWait = none

/-- The control program has ended, with an ENDED record that gives this reason (R254, R269). -/
def ctlEnded (s u : State) (c : CtlProg) (reason : Nat) : Prop :=
  u.prog = { s.prog with ctl := none } ∧ reported s u c.desc fun r => r.event = 3 ∧ r.reason = reason

/-- The admission has ended with a REFUSED record (R253). -/
def admRefused (s u : State) (control : Bool) (a : Adm) (reason detail : Nat) : Prop :=
  u.prog = (setAdm s control none).prog ∧ reported s u a.desc fun r => r.event = 2 ∧ r.reason = reason ∧ r.detail = detail

/-! Links. -/

/-- No transmission of an SX is in progress on a link. -/
def quietLink (s : State) (y : Nat) : Prop := ∀ e ∈ s.sw.sending, ∀ w, e.2 = some w → w.str ≠ some y

/-- The link has gone down for a cause: what it held is gone, its lane move has ended, and it restarts as Table 13-9 says; no other
link differs, but where the packet that came in on it was on its way out and an ABORT ends it there (R151). -/
def wentDown (s u : State) (x : Nat) (c : DownCause) : Prop :=
  linkOf u x = downLink (linkOf s x) c (linkNow s x) ∧ (∀ y, y ≠ x → quietLink s y → linkOf u y = linkOf s y) ∧ moveOf u x = none

/-! The course. -/

/-- A mirror message waits at the emergency requester of a soundpost port, to be sent flit by flit (R154, R388). -/
def mirrorWaits (u : State) (q : Nat) (b : MirrorBody) : Prop := ∃ e ∈ u.sw.injected, ∃ i ∈ e.2, i.msg = some (q, b)

/-- The twin's message is confirmed to it (R391). -/
def confirmedTo (u : State) (mseq : Nat) : Prop := ∃ q, mirrorWaits u q (.mconfirm [mseq])

/-- The bytes stand at their place and no other byte of memory differs. -/
def keyStored (s u : State) (k : Nat) (bs : List Byte) : Prop :=
  ∀ i, Memory.read u.mem.phys i = if k ≤ i ∧ i < k + bs.length then bs.getD (i - k) 0 else Memory.read s.mem.phys i

end Sys2Proof.Machine
end

