-- ==== Sys2Proof/WellFormed.lean ====
section
/-! DEFINITION. Which commands are well formed: every operand within the width that its table gives it, every index within the
number of parts that the manual gives the package. The machine gives every command a meaning; one that names no part acts on
nothing. -/

namespace Sys2Proof

/-- The fields of a request header within Table 2-5, and LENGTH payload bytes where there are any (R53). -/
def Req.wf (r : Req) : Bool :=
  decide (r.op < 256 ∧ r.tc < 8 ∧ r.src < 2 ^ 16 ∧ r.capo < 512 ∧ r.hops < 16 ∧ r.seq < 2 ^ 24 ∧ r.epoch < 2 ^ 16 ∧ r.expect < 2 ^ 16
    ∧ r.len ≤ 4096 ∧ r.attr < 2 ^ 11 ∧ r.group < 4096 ∧ (r.data = [] ∨ r.data.length = r.len))

/-- The fields of a completion header within Table 2-9. -/
def Cmp.wf (c : Cmp) : Bool :=
  decide (c.tc < 8 ∧ c.src < 2 ^ 16 ∧ c.dst < 2 ^ 16 ∧ c.seq < 2 ^ 24 ∧ c.epoch < 2 ^ 16 ∧ c.origOp < 256 ∧ c.len ≤ 4096 ∧ c.capo < 512
    ∧ c.mask < 2 ^ 32 ∧ c.delivered ≤ 32 ∧ c.retryAfter < 2 ^ 16 ∧ (c.data = [] ∨ c.data.length = c.len))

def Pkt.wf : Pkt → Bool
  | .req r => r.wf
  | .cmp c _ => c.wf

/-- A string, a soundpost port, a host port or a string of the Brola. -/
def Via.wf : Via → Bool
  | .string n => decide (n < 512)
  | .soundpost p => decide (p < 8)
  | .host p => decide (p < 8)
  | .self => true
  | .brola b => decide (b < 32)

/-- Table 8-7. -/
def MatOp.wf (o : MatOp) : Bool := decide (o.grp < 8 ∧ o.me < 32 ∧ o.areg < 16 ∧ o.fmt < 8)

/-- Table 8-9. -/
def VecOp.wf (o : VecOp) : Bool := decide (o.vd < 16 ∧ o.va < 16 ∧ o.vb < 16 ∧ o.vc < 16 ∧ o.areg < 16 ∧ o.fmt < 8)

/-- The transfer layout of Table 8-11; LEN is 1 to 4,096 units. -/
def MovOp.wf (o : MovOp) : Bool := decide (o.eng < 16 ∧ o.areg < 16 ∧ o.freg < 16 ∧ 1 ≤ o.len ∧ o.len ≤ 4096 ∧ o.ec < 16)

/-- Table 10-5. -/
def CollDesc.wf (d : CollDesc) : Bool :=
  decide (d.fmt < 16 ∧ d.rop < 4 ∧ d.group < 4096 ∧ d.count < 2 ^ 32 ∧ d.srcBuf < 2 ^ 64 ∧ d.ctr < 2 ^ 16 ∧ d.root < 2 ^ 15 ∧ d.mrec < 2 ^ 64)

/-- Table 12-6: a string of either kind, a lane of four, one of the two spares. -/
def LaneMsg.wf (m : LaneMsg) : Bool := decide (m.str < 544 ∧ m.q < 4 ∧ (m.spare = 16 ∨ m.spare = 17))

/-- A block of one of four lanes, in PAM4 symbols (R362). -/
def LaneBlock.wf (b : LaneBlock) : Bool := decide (b.lane < 4) && b.syms.all fun k => decide (k < 4)

/-- A sequence number and an acknowledgement of 14 bits (Table 13-2). -/
def Slot.wf (sl : Slot) : Bool := decide (sl.lseq < 2 ^ 14 ∧ sl.ack < 2 ^ 14 ∧ sl.payload < 2 ^ 512) && sl.blocks.all LaneBlock.wf

/-- One of the eight SPDM connections (R489). -/
def MPort.wf : MPort → Bool
  | .eth c => decide (c < 8)
  | _ => true

/-- A register number of a small core, and the place of the core. -/
def scWf (t c : Nat) (regs : List Nat) : Bool := decide (t < 8 ∧ c < 256) && regs.all fun r => decide (r < 32)

/-- Readings by die site. -/
def sitesWf (l : List (Nat × Int)) : Bool := l.all fun x => decide (x.1 < 32)

/-- Whether a command is well formed. -/
def Instr.wf : Instr → Bool
  | .refLost | .refRelock | .beaconSend | .timeHoldover | .aonToVbak _ | .aonToVaon _ _ | .powerOnReset _ | .coldReset _
  | .powerFail | .completionTimeout _ _ | .retryResend _ _ | .mcastCopyTimeout _ | .sourceReset _ | .requestRelease _
  | .atsTranslationComplete _ _ | .atsTranslationTimeout _ | .atsInvalidation _ _ _ | .atsInvalidationComplete _
  | .kernelBegin _ | .discardAck _ | .kernelEnd _ | .kernelEndSignal _ | .copyStart _ | .brolaSnapshot _ | .echk _
  | .checkpointTimeout | .next | .ret | .halt | .lockstepCompare _ _ | .declarationComplete _ | .streamEnd | .streamMaxcyc
  | .admissionStart _ | .imageFetchComplete _ | .seedWaitTimeout | .admissionEnergyTimeout
  | .streamStart | .cancel _ | .commitApply _ | .aborts | .waittExpiry | .endProg | .rtSlotBoundary
  | .commitSeedWaitTimeout | .heartbeatSend | .heartbeatMiss | .mwrite _ _ _ _ _ | .mstate _ _ | .macc _ _ | .mfinal _ _
  | .mconfirm _ | .mcopy _ _ | .mjournal _ _ | .rebuildCopy | .rebuildEnd | .soundpostGapTimeout | .mcTakeover
  | .mcBoot _ _ _ | .selftestStart _ | .selftestPhaseEnd _ | .opticalPhaseEnd | .soundpostPhaseEnd | .leafAttachPhaseEnd _
  | .helloSend | .hello _ _ | .electionClose | .sweepSend | .tables _ _ _ _ | .tablesAcceptDeadline | .convergenceCheck
  | .leadLost | .fuseProgramDone _ | .ownerClaim _ _ | .trngBlock _ _ | .trngStartupRetry _ | .tamper | .aonTemperature _
  | .cellLow _ | .aonLost | .snapshotSwap | .scrollWindowEnd | .scrollArchive _ | .jtagBypass _ | .jtagIdcode
  | .jtagSamplePreload _ | .jtagExtest _ | .jtagClamp | .jtagHighz | .dbgacc _ _ _ | .spiWrite _ _ _ _ _
  | .spiRead _ _ _ _ | .smbMctp _ _ | .smbRegisterRead _ _ _ | .alertResponse | .smbClockTimeout
  | .ethernetFrame _ _ _ _ _ => true
  | .lanePllLockLoss kind idx => decide (kind < 5 ∧ idx < [8, 8, 2, 8, 38].getD kind 0)
  | .beacon x _ time echo hold => decide (x < 576 ∧ time < 2 ^ 64 ∧ echo < 2 ^ 64 ∧ hold < 2 ^ 64)
  | .adjMonitorSample samples => samples.all fun d => decide (d.link < 38)
  | .pdFault pd | .pdreq pd _ => decide (pd < 36)
  | .railFault rail => decide (rail < 8)
  | .portReset port | .cxlEnumerate port _ _ | .cxlLinkDown port => decide (port < 8)
  | .packetArrival sx port p => decide (sx < 4 ∧ port < 136) && p.wf
  | .packetAdmit sx _ => decide (sx < 4)
  | .arbiterDecision sx port _ _ _ => decide (sx < 4 ∧ port < 144)
  | .ddrArbiterDecision hx ch _ _ _ _ => decide (hx < 2 ∧ ch < 6)
  | .creditSend x | .credit x _ _ | .slotAbort x _ | .replayTimerExpiry x | .train x _ | .eiEntry x | .eiEnter x
  | .eiExit x | .silentTimeout x => decide (x < 576)
  | .stageComplete x ls bs => decide (x < 608) && (ls.all fun l => l.marks.all fun m => m.all fun k => decide (k < 4)) && bs.all LaneBlock.wf
  | .stageLimit x _ | .lightLoss x | .bringupRestart x | .alignmentMarkerLoss x => decide (x < 608)
  | .pcredit x capo _ _ => decide (x < 576 ∧ capo < 512)
  | .bulkClose str tc _ => decide (448 ≤ str ∧ str < 512 ∧ tc < 8)
  | .bulkReceive str h ps _ => decide (448 ≤ str ∧ str < 512 ∧ h.tc < 8) && ps.all Pkt.wf
  | .ld r v | .st r v | .aadd r v | .aand r v | .aor r v | .axor r v | .aswap r v | .acas r v | .amax r v | .amin r v
  | .fadd32 r v | .faddb16 r v | .rst r v | .rstx r v | .mst r v | .fset r v | .fclr r v | .ftest r v | .barr r v
  | .cpyd r v | .invLeafLines r v | .invTranslation r v | .invRegionCache r v | .pfaFetch r v | .pfaZero r v
  | .pfaScrub r v => r.wf && v.wf
  | .invDrainComplete src tc seq | .pfaComplete src tc seq | .finalHoldTimeout _ src tc seq
  | .dupEntryRelease _ src tc seq => decide (src < 2 ^ 16 ∧ tc < 8 ∧ seq < 2 ^ 24)
  | .cmp _ b c _ => decide (b < 512) && c.wf
  | .countSlotRelease _ src epoch => decide (src < 2 ^ 16 ∧ epoch < 2 ^ 16)
  | .portRequest p => p.req.wf
  | .accessWindowDefine idx w => decide (idx < 64 ∧ w.base % 256 = 0 ∧ w.len % 256 = 0)
  | .attach n _ b leaf => decide (n < 608 ∧ b < 512 ∧ leaf.spad < 2 ^ 16)
  | .assign b a => decide (b < 32 ∧ a.capo < 512)
  | .steer b course _ | .restore b course _ => decide (b < 32 ∧ course < 16)
  | .timeStep n _ _ => decide (n < 576)
  | .bridgeHello n _ => decide (448 ≤ n ∧ n < 544)
  | .snap b _ => decide (b < 32)
  | .allreduce d | .rscatter d | .reduce d | .allgather d | .bcast d | .barrier d | .gshard d | .fused d => d.wf
  | .groupReset group epoch => decide (group < 4096 ∧ epoch < 2 ^ 16)
  | .windowFinalised wid | .windowDeadline wid | .windowRecover wid => decide (wid < 8192)
  | .barrierTimeout capo group | .barrierRecover capo group => decide (capo < 512 ∧ group < 4096)
  | .arm we | .wait we | .waitRelease we _ | .waitTimeout we | .wrst we => decide (we < 256)
  | .bindComplete code _ => decide (code = 0 ∨ code = 2 ∨ code = 4)
  | .br tgt | .call tgt => decide (tgt < 2 ^ 16)
  | .brc we tgt | .brnc we tgt => decide (we < 256 ∧ tgt < 2 ^ 16)
  | .loop lc imm => decide (lc < 8 ∧ imm < 2 ^ 16)
  | .endl lc tgt => decide (lc < 8 ∧ tgt < 2 ^ 16)
  | .nop tile | .vnop tile | .mnop tile | .snop tile | .handlerStart tile => decide (tile < 8)
  | .step tile o | .ldw tile o | .zacc tile o | .stacc tile o | .ldacc tile o | .vld tile o | .vst tile o | .vfma tile o
  | .vadd tile o | .vmul tile o | .vmax tile o | .vmin tile o | .vsplat tile o | .vacc tile o | .get tile o | .put tile o => decide (tile < 8) && o.wf
  | .ldfa tile areg freg => decide (tile < 8 ∧ areg < 16 ∧ freg < 16)
  | .seta tile reg imm | .adda tile reg imm | .sets tile reg imm => decide (tile < 8 ∧ reg < 16 ∧ imm < 2 ^ 24)
  | .setl tile imm => decide (tile < 8 ∧ imm < 2 ^ 24)
  | .moverOpComplete tile eng => decide (tile < 8 ∧ eng < 16)
  | .launch tile h ec => decide (tile < 8 ∧ h < 256 ∧ ec < 16)
  | .signal tile freg eng => decide (tile < 8 ∧ freg < 16 ∧ eng < 16)
  | .eclr tile ec => decide (tile < 8 ∧ ec < 16)
  | .wdecl tile areg ec | .wrem tile areg ec | .shdecl tile areg ec | .shrem tile areg ec => decide (tile < 8 ∧ areg < 16 ∧ ec < 16)
  | .handlerEnd tile h => decide (tile < 8 ∧ h < 256)
  | .handlerMaxcyc tile core => decide (tile < 8 ∧ core < 256)
  | .add t c rd ra rb | .sub t c rd ra rb | .and t c rd ra rb | .or t c rd ra rb | .xor t c rd ra rb | .shl t c rd ra rb
  | .shr t c rd ra rb | .sra t c rd ra rb | .mul t c rd ra rb | .scin t c rd ra rb | .scout t c rd ra rb => scWf t c [rd, ra, rb]
  | .addi t c rd ra _ | .scLd t c rd ra _ | .scSt t c rd ra _ | .beq t c rd ra _ | .bne t c rd ra _ | .blt t c rd ra _
  | .bge t c rd ra _ => scWf t c [rd, ra]
  | .lui t c rd _ => scWf t c [rd]
  | .jmp t c ra _ => scWf t c [ra]
  | .cvt t c rd ra fromFmt toFmt => scWf t c [rd, ra] && decide (fromFmt < 16 ∧ toFmt < 16)
  | .scwait t c | .scTransferEnd t c | .scHalt t c | .scFault t c => scWf t c []
  | .stage tbl _ | .unstage tbl => decide (1 ≤ tbl ∧ tbl ≤ 0x12)
  | .commit epoch => decide (epoch < 2 ^ 64)
  | .arbprio sx port entry _ => decide (sx < 6 ∧ port < 256 ∧ entry < 16)
  | .rtout rt | .rtoutProceed rt | .rtin rt => decide (rt < 8)
  | .waitt time => decide (time < 2 ^ 64)
  | .inServiceTestEnd site _ | .ageingMonitorRead site _ _ => decide (site < 32)
  | .rcacheFetchComplete sx capo _ => decide (sx < 4 ∧ capo < 512)
  | .pageScrub target _ | .backingReturn target => decide (target < 18)
  | .pegLoop ox fibre _ ring _ _ _ => decide (ox < 8 ∧ fibre < 18 ∧ ring < 18)
  | .probeDwell ox fibre ring wl _ _ _ => decide (ox < 8 ∧ fibre < 18 ∧ ring < 18 ∧ wl < 18)
  | .laneBerCheck x q _ _ | .laneBerWindow x q _ _ => decide (x < 544 ∧ q < 4)
  | .laserMonitor lm lane _ _ _ => decide (lm < 16 ∧ lane < 18)
  | .laserModuleRemove lm | .laserModuleInsert lm _ _ => decide (lm < 16)
  | .laneMove m | .laneGrant m | .laneRefuse m | .laneDone m => m.wf
  | .laneMoveNoAnswer x | .laneMoveAbandon x => decide (x < 544)
  | .slotReceive x sl => decide (x < 576) && sl.wf
  | .replayReq x lseq => decide (x < 576 ∧ lseq < 2 ^ 14)
  | .fecUncorrLimit x lane bs => decide (x < 608 ∧ lane < 4) && bs.all LaneBlock.wf
  | .heartbeat sp h => decide (sp < 32 ∧ h.hbCount < 2 ^ 16)
  | .sweep _ rank | .survey rank _ _ | .result rank _ _ => decide (rank < 32)
  | .ledgerEpoch pdUj _ ballastUj temps => decide (pdUj.length = 36 ∧ ballastUj.length = 8) && sitesWf temps
  | .thermalSample temps => sitesWf temps
  | .ageStep p value | .secOwnerGen p value _ => p.wf && decide (value < 32)
  | .repairGen p value => p.wf && decide (value < 16)
  | .replan p _ readings => p.wf && readings.all fun r => decide (r.1 < 32)
  | .replanPeriod readings => readings.all fun r => decide (r.1 < 32)
  | .getVersion conn | .getCapabilities conn | .negotiateAlgorithms conn _ | .getDigests conn | .getCertificate conn _ _
  | .challenge conn _ | .getMeasurements conn _ | .keyExchange conn | .finish conn _ | .spdmHeartbeat conn
  | .spdmSessionTimeout conn | .keyUpdate conn | .endSession conn => decide (conn < 8)
  | .snapAtLo p _ | .snapAtHi p _ | .snapNowLo p | .scrollRd p _ | .unlock p _ | .disable p _ | .warm p _ | .mcswap p _
  | .leave p _ | .registerWrite p _ _ => p.wf
  | .snapshotCopy blk => decide (blk < 32)
  | .dbginj sx port flits => decide (sx < 4 ∧ port < 128 ∧ 1 ≤ flits)
  | .spiUnknownOpcode opcode => decide (opcode < 256 ∧ opcode ≠ 2 ∧ opcode ≠ 11)
  | .mctpRead sess _ count => decide (sess < 8 ∧ 1 ≤ count ∧ count ≤ 64)
  | .mctpWrite sess _ ws => decide (sess < 8 ∧ 1 ≤ ws.length ∧ ws.length ≤ 64)

end Sys2Proof
end

