-- ==== Sys2Proof/Certificates/Slice0/Obligations.lean ====
section
/-! DEFINITION. The statements for the provers, family by family of the opcode table. A conjunct of a statement holds for all the states and operands that its hypotheses admit; what no hypothesis names may be anything. -/

open Sys2Proof Sys2Proof.Machine

/-! Small cores (R264 to R268). -/

/-- R266, Table 9-7: on a core that executes its next instruction, ADD to MUL write RD = RA op RB modulo 2^64 (shifts by RB[5:0]), ADDI
writes RA plus the signed IMM16 and LUI the signed IMM16 moved up 16 places; x0 stays zero, the PC goes on one word, and nothing else
changes.

R193, R266: CVT writes RD alone. INT32 to INT64 extends the sign, INT64 to INT32 of a number in range keeps its value, and what the
manual does not state is a free value: the instruction completes for every pair of formats. -/
def Obligations.SmallCoreArithmeticAndConvert : Prop :=
  (∀ (s : State) (t c rd ra rb : Nat) (imm : BitVec 16), rd < 32 → coreReady s t c →
     let R := fun r => xreg (coreOf s t c) r
     let writes := fun (i : Instr) (v : W64) => ∃ u, exec i s = .next u ∧ coreWrote s u t c rd v
     writes (.add t c rd ra rb) (R ra + R rb) ∧ writes (.sub t c rd ra rb) (R ra - R rb) ∧ writes (.and t c rd ra rb) (R ra &&& R rb)
       ∧ writes (.or t c rd ra rb) (R ra ||| R rb) ∧ writes (.xor t c rd ra rb) (R ra ^^^ R rb)
       ∧ writes (.shl t c rd ra rb) (R ra <<< ((R rb).toNat % 64)) ∧ writes (.shr t c rd ra rb) (R ra >>> ((R rb).toNat % 64))
       ∧ writes (.sra t c rd ra rb) ((R ra).sshiftRight ((R rb).toNat % 64)) ∧ writes (.mul t c rd ra rb) (R ra * R rb)
       ∧ writes (.addi t c rd ra imm) (R ra + imm.signExtend 64) ∧ writes (.lui t c rd imm) (imm.signExtend 64 <<< 16))
    ∧ (∀ (s : State) (t c rd ra : Nat), rd < 32 → coreReady s t c →
        let v := xreg (coreOf s t c) ra
        (∃ u, exec (.cvt t c rd ra 5 6) s = .next u ∧ coreWrote s u t c rd ((v.truncate 32).signExtend 64))
          ∧ ((-(2 ^ 31) ≤ v.toInt ∧ v.toInt < 2 ^ 31) →
              ∃ u, exec (.cvt t c rd ra 6 5) s = .next u ∧ coreWrote s u t c rd (BitVec.ofNat 64 (v.toNat % 2 ^ 32)))
          ∧ ∀ a b, ∃ u w, exec (.cvt t c rd ra a b) s = .next u ∧ coreWrote { s with free := u.free } u t c rd w)

/-- R266: LD reads 1, 2, 4 or 8 bytes of local store, zero-extended, into RD; ST writes the low bytes of RD there and no other byte.
The width and the address come from IMM11 as the rule below Table 9-7 says.

R266: the branches compare RD with RA as signed numbers and, when the comparison holds, go to PC + IMM11 × 4, else to the next word; JMP
goes to RA + IMM16 × 4. No register changes. -/
def Obligations.SmallCoreMemoryAndBranches : Prop :=
  (∀ (s : State) (t c rd ra : Nat) (imm : BitVec 11), rd < 32 → coreReady s t c → Memory.wf s.scratch = true →
     let R := fun r => xreg (coreOf s t c) r
     let n := 2 ^ (imm.toNat % 4)
     let a := (R ra + (imm &&& 0x7FC).signExtend 64).toNat
     a + n ≤ localSize → a % n = 0 →
     (∃ u, exec (.scLd t c rd ra imm) s = .next u ∧ coreWrote s u t c rd (BitVec.ofNat 64 (ofLe (Memory.readN s.scratch (localKey t c a) n))))
       ∧ ∃ u, exec (.scSt t c rd ra imm) s = .next u
         ∧ (∀ j, Memory.read u.scratch j
             = if localKey t c a ≤ j ∧ j < localKey t c a + n then (leBytes n (R rd).toNat).getD (j - localKey t c a) 0 else Memory.read s.scratch j)
         ∧ (∀ r, xreg (coreOf u t c) r = R r) ∧ (coreOf u t c).pc = (coreOf s t c).pc + 4
         ∧ u = { s with tiles := u.tiles, scratch := u.scratch, scrPoison := u.scrPoison, scrLatent := u.scrLatent })
    ∧ (∀ (s : State) (t c rd ra : Nat) (imm : BitVec 11) (far : BitVec 16), coreReady s t c →
        let R := fun r => xreg (coreOf s t c) r
        let pc := (coreOf s t c).pc
        let goes := fun (i : Instr) (n : Nat) => ∃ u, exec i s = .next u ∧ coreWent s u t c n
        let dest := (((pc : Int) + imm.toInt * 4) % 2 ^ 64).toNat
        goes (.beq t c rd ra imm) (if R rd = R ra then dest else pc + 4) ∧ goes (.bne t c rd ra imm) (if R rd ≠ R ra then dest else pc + 4)
          ∧ goes (.blt t c rd ra imm) (if (R rd).toInt < (R ra).toInt then dest else pc + 4)
          ∧ goes (.bge t c rd ra imm) (if (R ra).toInt ≤ (R rd).toInt then dest else pc + 4)
          ∧ goes (.jmp t c ra far) ((((R ra).toNat : Int) + far.toInt * 4) % 2 ^ 64).toNat)

/-- R265 to R268: SCIN and SCOUT of a length and ranges that are allowed join the core's transfers, and SCWAIT waits while any remains;
the end of the oldest one moves its bytes and with the last one a core that waits goes on; HALT ends the handler on the core; FAULT raises
HANDLER_FAULT for the tile with the handler in DETAIL.

R264, R265, R268: the first handler of a tile's launch queue starts on every core of its range once all are free, each with its PC at
ENTRY, x1 its index in the range, x2 the work item of its launch, x3 PARAM and x4 the seed; a handler whose cores have all ended raises its event counter by 1; a core that
reaches MAXCYC raises HANDLER_FAULT. -/
def Obligations.SmallCoreTransfersAndHandlers : Prop :=
  (∀ (s : State) (t c rd ra rb : Nat), coreReady s t c →
     let x := coreOf s t c
     let R := fun r => xreg x r
     (((R rb).toNat ≤ 4096 ∧ (R rb).toNat % 8 = 0 ∧ (R rd).toNat + (R rb).toNat ≤ localSize ∧ (R ra).toNat + (R rb).toNat ≤ scrTop s) →
         ∃ u, exec (.scin t c rd ra rb) s = .next u ∧ onlyCore s u t c
           ∧ (coreOf u t c).xfers = x.xfers ++ [(false, (R rd).toNat, (R ra).toNat, (R rb).toNat)] ∧ (coreOf u t c).pc = x.pc + 4)
       ∧ (((R rb).toNat ≤ 4096 ∧ (R rb).toNat % 8 = 0 ∧ (R ra).toNat + (R rb).toNat ≤ localSize ∧ (R rd).toNat + (R rb).toNat ≤ scrTop s) →
         ∃ u, exec (.scout t c rd ra rb) s = .next u ∧ onlyCore s u t c
           ∧ (coreOf u t c).xfers = x.xfers ++ [(true, (R rd).toNat, (R ra).toNat, (R rb).toNat)] ∧ (coreOf u t c).pc = x.pc + 4)
       ∧ (∃ u, exec (.scwait t c) s = .next u ∧ onlyCore s u t c ∧ (coreOf u t c).waiting = !x.xfers.isEmpty)
       ∧ (∃ u, exec (.scHalt t c) s = .next u ∧ onlyCore s u t c ∧ (coreOf u t c).running = none)
       ∧ (s.str.running = true → s.str.exc = none →
         ∃ u e, exec (.scFault t c) s = .next u ∧ u.str.exc = some e ∧ e.cause = 0x0B ∧ e.tile = t ∧ some e.detail = x.running
           ∧ u = { s with str := u.str, tiles := u.tiles })
       ∧ ∀ dst src n r, Memory.wf s.scratch = true → x.xfers = (false, dst, src, n) :: r →
         ∃ u, exec (.scTransferEnd t c) s = .next u ∧ (coreOf u t c).xfers = r ∧ (coreOf u t c).waiting = (x.waiting && !r.isEmpty)
           ∧ (∀ j, Memory.read u.scratch j
               = if localKey t c dst ≤ j ∧ j < localKey t c dst + n then (Memory.readN s.scratch (scrKey t src) n).getD (j - localKey t c dst) 0
                 else Memory.read s.scratch j))
    ∧ (∀ (s : State) (t h : Nat) (l : Launch) (r : List Launch), let e := handlerOf s l.h
        ((tileOf s t).launchQ = l :: r → (∀ c, e.first ≤ c ∧ c ≤ e.first + e.count → (coreOf s t c).running = none ∧ (coreOf s t c).xfers = []) →
          ∃ u, exec (.handlerStart t) s = .next u ∧ (tileOf u t).launchQ = r ∧ (tileOf u t).handlers = (tileOf s t).handlers ++ [l]
            ∧ (∀ c, e.first ≤ c ∧ c ≤ e.first + e.count →
                (coreOf u t c).running = some l.h ∧ (coreOf u t c).pc = e.entry ∧ xreg (coreOf u t c) 1 = BitVec.ofNat 64 (c - e.first)
                  ∧ xreg (coreOf u t c) 2 = BitVec.ofNat 64 l.item ∧ xreg (coreOf u t c) 3 = e.param ∧ xreg (coreOf u t c) 4 = s.str.seed)
            ∧ u = { s with tiles := u.tiles })
          ∧ ((tileOf s t).handlers = l :: r → (∀ c, e.first ≤ c ∧ c ≤ e.first + e.count → (coreOf s t c).running = none ∧ (coreOf s t c).xfers = []) →
            ∃ u, exec (.handlerEnd t l.h) s = .next u ∧ (tileOf u t).handlers = r ∧ (tileOf u t).ec.get l.ec 0 = (tileOf s t).ec.get l.ec 0 + 1
              ∧ u = { s with tiles := u.tiles, str := { s.str with waits := u.str.waits } })
          ∧ ∀ c, (coreOf s t c).running = some h → (handlerOf s h).maxcyc ≤ (coreOf s t c).cycles → s.str.running = true → s.str.exc = none →
            ∃ u x, exec (.handlerMaxcyc t c) s = .next u ∧ u.str.exc = some x ∧ x.cause = 0x0B ∧ x.tile = t ∧ x.detail = h)

/-! The chip stream: the head of a bundle (R225 to R237, R246 to R249). -/

/-- R231, Table 8-4: where the stream goes after each control operation and the cycles it loses; what each does to the loop counters, the
return stack and the wait entry; the bundle is counted and issue is held by the duty (R237). R224: a bundle whose copy on some tile cannot
be corrected raises STORE_UNCORR as it reaches issue.

R231, R233, R248: LOOP with IMM = 0 and a branch, ARM or WAIT on an entry of KIND 0b11 raise ILLEGAL; ENDL of a counter at 0, a ninth
push and a pop of the empty stack raise STACK. Each is an exception of the head, part 0. -/
def Obligations.StreamControlAndExceptions : Prop :=
  (∀ (s : State) (lc tgt imm we : Nat), bundleReady s → lc < 8 → tgt < 65536 → tgt < s.str.imageLen → s.str.pc + 1 < s.str.imageLen →
     let w := waitOf s we
     let seen := (((w.hist.filter fun h => decide (h.1 + 12 ≤ s.str.cycle)).getLast?).map (·.2)).getD false
     (∃ u, exec .next s = .next u ∧ streamGoes s u (s.str.pc + 1) 0 ∧ u.str.lc = s.str.lc ∧ u.str.rstack = s.str.rstack)
       ∧ (∃ u, exec (.br tgt) s = .next u ∧ streamGoes s u tgt 2 ∧ u.str.lc = s.str.lc ∧ u.str.rstack = s.str.rstack)
       ∧ (w.kind ≠ 3 → ∃ u, exec (.brc we tgt) s = .next u ∧ (if seen then streamGoes s u tgt 2 else streamGoes s u (s.str.pc + 1) 0))
       ∧ (w.kind ≠ 3 → ∃ u, exec (.brnc we tgt) s = .next u ∧ (if seen then streamGoes s u (s.str.pc + 1) 0 else streamGoes s u tgt 2))
       ∧ (1 ≤ imm → imm < 65536 → ∃ u, exec (.loop lc imm) s = .next u ∧ streamGoes s u (s.str.pc + 1) 0 ∧ u.str.rstack = s.str.rstack
           ∧ ∀ k, u.str.lc.get k 0 = if k = lc then imm else s.str.lc.get k 0)
       ∧ (1 ≤ s.str.lc.get lc 0 → ∃ u, exec (.endl lc tgt) s = .next u ∧ u.str.rstack = s.str.rstack
           ∧ streamGoes s u (if s.str.lc.get lc 0 = 1 then s.str.pc + 1 else tgt) 0
           ∧ ∀ k, u.str.lc.get k 0 = if k = lc then s.str.lc.get lc 0 - 1 else s.str.lc.get k 0)
       ∧ (s.str.rstack.length < 8 → ∃ u, exec (.call tgt) s = .next u ∧ streamGoes s u tgt 2 ∧ u.str.lc = s.str.lc
           ∧ u.str.rstack = (s.str.pc + 1) :: s.str.rstack)
       ∧ (∀ a t, s.str.rstack = a :: t → a < s.str.imageLen → ∃ u, exec .ret s = .next u ∧ streamGoes s u a 2 ∧ u.str.lc = s.str.lc ∧ u.str.rstack = t)
       ∧ (∃ u, exec (.wrst we) s = .next u ∧ streamGoes s u (s.str.pc + 1) 0 ∧ (waitOf u we).target = w.target0 ∧ (waitOf u we).armed = false)
       ∧ ∃ u, exec .halt s = .next u ∧ u.str.ending = true ∧ u.str.pc = s.str.pc ∧ u = { s with ctr := u.ctr, str := u.str })
    ∧ (∀ (s : State) (lc tgt we : Nat), bundleReady s → lc < 8 → s.str.pc + 1 < s.str.imageLen → tgt < 65536 → tgt < s.str.imageLen →
        let raises := fun (i : Instr) (cause : Nat) => ∃ u, exec i s = .next u ∧ streamRaised s u cause 0 0
        raises (.loop lc 0) 1 ∧ (s.str.lc.get lc 0 = 0 → raises (.endl lc tgt) 9) ∧ (8 ≤ s.str.rstack.length → raises (.call tgt) 9)
          ∧ (s.str.rstack = [] → raises .ret 9)
          ∧ ((waitOf s we).kind = 3 → raises (.brc we tgt) 1 ∧ raises (.brnc we tgt) 1 ∧ raises (.arm we) 1 ∧ raises (.wait we) 1))

/-- R233 to R235: ARM arms an unarmed entry in its cycle and nothing else changes; WAIT arms it, if need be, as its bundle reached issue, and
stalls; the entry's release cycle is the first, from its arming on, in which its condition holds; a stall on it is released then: TARGET rises by
STEP, the entry is unarmed, and the bundle issues 12 cycles later, not before, when the duty lets it, also where the condition has ceased to hold; a stall beyond the capo's barrier timeout raises WAIT_TIMEOUT with the entry in DETAIL.

R236, R441: an energy checkpoint of a segment that the envelope does not have raises ILLEGAL; of one that the ledger grants, the segment
is in effect and the bundle issues 12 cycles later under the duty granted; of one that it does not, the bundle stalls at the checkpoint, and a
stall of the barrier timeout raises ENERGY. R227: 12 cycles after a bundle issued, different addresses of its issue raise LOCKSTEP with that
bundle and cycle, and equal ones change nothing but that the issue is compared. -/
def Obligations.StreamWaitsCheckpointsLockstep : Prop :=
  (∀ (s : State) (we : Nat), let w := waitOf s we
     (bundleReady s → w.kind ≠ 3 → w.armed = false →
       (∃ u, exec (.arm we) s = .next u ∧ waitOf u we = { w with armed := true, armAt := s.str.cycle, met := metFrom s w s.str.cycle } ∧ (∀ e, e ≠ we → waitOf u e = waitOf s e)
         ∧ u = { s with str := { s.str with waits := u.str.waits } })
       ∧ ∃ u, exec (.wait we) s = .next u ∧ waitOf u we = { w with armed := true, armAt := s.str.arr, met := metFrom s w s.str.arr } ∧ u.str.stall = some (1, s.clk.now, we)
         ∧ u = { s with str := { s.str with waits := u.str.waits, stall := u.str.stall } })
       ∧ (∀ c l h v, w.hist = l ++ [(h, v)] → (∀ x ∈ w.hist, x.1 ≤ c) → metFrom s w c = if v then some c else none)
       ∧ (∀ c v, w.armed = true → (w.hist.getLast?.map (·.2)) ≠ some v →
           (waitSample c v w).met = (if v then w.met.or (some c) else w.met) ∧ (waitSample c v w).hist.getLast? = some (c, v))
       ∧ (∀ r cycle, w.met = some r → cycle < r + 12 → exec (.waitRelease we cycle) s = .next s)
       ∧ (∀ t r cycle, s.str.running = true → s.str.stall = some (1, t, we) → w.armed = true → w.met = some r → r + 12 ≤ cycle → s.str.dutyAt = [] →
         1 ≤ s.str.duty → s.str.duty ≤ 16 →
         ∃ u, exec (.waitRelease we cycle) s = .next u ∧ (waitOf u we).target = w.target + w.step ∧ (waitOf u we).armed = false ∧ u.str.stall = none
           ∧ firstByDuty s.str.duty (max s.str.cycle (r + 12)) u.str.cycle ∧ u.str.pc = s.str.pc)
       ∧ ∀ t, s.str.running = true → s.str.exc = none → s.str.stall = some (1, t, we) → t + capoBto s.prog.eff s.str.capo * 1000000 < s.clk.now →
         ∃ u e, exec (.waitTimeout we) s = .next u ∧ u.str.exc = some e ∧ e.cause = 7 ∧ e.part = 0 ∧ e.detail = we)
    ∧ (∀ (s : State) (seg : Nat), bundleReady s →
        (s.str.segs.length ≤ seg → ∃ u, exec (.echk seg) s = .next u ∧ streamRaised s u 1 0 0)
          ∧ (seg < s.str.segs.length → ∃ u, exec (.echk seg) s = .next u
              ∧ match (ledgerGrant s s.str.capo (s.str.segs.getD seg (0, 0)).1).2 with
                | some d => u.str.seg = some seg ∧ u.str.segReq = none ∧ u.str.stall = none ∧ dutyNow u (s.str.arr + 12) = d
                    ∧ max s.str.cycle (s.str.arr + 12) ≤ u.str.cycle
                | none => u.str.stall = some (2, s.clk.now, seg) ∧ u.str.segReq = some (seg, s.clk.now) ∧ u.str.cycle = s.str.cycle)
          ∧ (∀ a cycle pc, s.str.issued.find? (fun x => x.1 == cycle) = some (cycle, pc) → cycle + 12 ≤ s.str.cycle →
              ∃ u, exec (.lockstepCompare a cycle) s = .next u ∧ u.str.issued = s.str.issued.filter (fun x => x.1 != cycle)
              ∧ if a.all fun x => x == a.headD 0 then u = { s with str := { s.str with issued := u.str.issued } }
                else ∃ e, u.str.exc = some e ∧ e.cause = 0x0D ∧ e.part = 7 ∧ e.pc = pc ∧ e.cycle = cycle ∧ u.str.stopAt = some (cycle + 12))
          ∧ ∀ v t, v.str.running = true → v.str.exc = none → v.str.stall = some (2, t, seg) → t + capoBto v.prog.eff v.str.capo * 1000000 ≤ v.clk.now →
            ∃ u e, exec .checkpointTimeout v = .next u ∧ u.str.exc = some e ∧ e.cause = 8 ∧ e.part = 0)

/-! The tiles (R228 to R245). -/

/-- R230: when the stream reaches a cycle, a tile takes the results that are due by then, and the others wait: an address register
reads the newest value due for it, and with nothing due the tile is as it was. An op that reads its bytes in several cycles reads one part in
each, and with the last it delivers its result.

R238, R240, R242, R245: NOP, VNOP, MNOP and SNOP change nothing; SETA, ADDA, SETS and SETL give their register its new value for the
ops of the next cycle, and ECLR clears an event counter that no raise of this cycle has touched; nothing else changes. -/
def Obligations.TileResultsAndRegisters : Prop :=
  (∀ (s : State) (n c r v : Nat) (w : PendW),
     (∀ x ∈ (tileOf (settleTile s c n) n).pend, c < pendDue x)
       ∧ ((∀ x ∈ (tileOf s n).pend, ∀ d r, x ≠ .read d r) →
           (tileOf (settleTile s c n) n).pend = (tileOf s n).pend.filter (fun x => decide (c < pendDue x)))
       ∧ (∀ (q : ReadRun) (p : Nat × Nat × Nat × Nat), q.parts = p :: q.parts.drop 1 → q.parts.drop 1 ≠ [] →
           readPart s n c q = addPend s n (.read (c + 1)
             { q with parts := q.parts.drop 1, els := q.els ++ scrBytes s n p.1 p.2.1, scales := q.scales ++ scrBytes s n p.2.2.1 p.2.2.2 }))
       ∧ (∀ (q : ReadRun), (tileOf s n).pend = [.read c q] → q.parts ≠ [] →
           settleTile s (c + q.parts.length - 1) n = readEnd (setTile s n { tileOf s n with
               pend := [], ports := (tileOf s n).ports.filter fun p => decide (c + q.parts.length - 1 ≤ p.1) }) n (c + q.parts.length - 1)
             { q with parts := [], els := q.els ++ q.parts.flatMap (fun p => scrBytes s n p.1 p.2.1)
                      scales := q.scales ++ q.parts.flatMap (fun p => scrBytes s n p.2.2.1 p.2.2.2) })
       ∧ ((∀ x ∈ (tileOf s n).pend, c < pendDue x) → settleTile s c n = s)
       ∧ ((tileOf s n).pend = [.areg c r v, w] → c < pendDue w → (tileOf (settleTile s c n) n).ad.get r 0 = v))
    ∧ (∀ (s : State) (n r imm : Nat), r < 16 → imm < 2 ^ 24 →
        let t := tileOf s n
        let later := fun (i : Instr) (w : PendW) => ∃ u, exec i s = .next u ∧ tileBecomes s u n { t with pend := t.pend ++ [w] }
        let ext : Int := if imm < 2 ^ 23 then (imm : Int) else (imm : Int) - 2 ^ 24
        exec (.nop n) s = .next s ∧ exec (.vnop n) s = .next s ∧ exec (.mnop n) s = .next s ∧ exec (.snop n) s = .next s
          ∧ (slotReady s n →
              later (.seta n r imm) (.areg (s.str.cycle + 1) r (imm * 32))
              ∧ later (.adda n r imm) (.areg (s.str.cycle + 1) r (((t.ad.get r 0 : Int) + ext * 32) % 2 ^ 29).toNat)
              ∧ later (.sets n r imm) (.sreg (s.str.cycle + 1) r (ext * 32))
              ∧ (1 ≤ imm → imm ≤ 32768 → later (.setl n imm) (.vlen (s.str.cycle + 1) imm))
              ∧ ((t.raised.get r (0, 0)).1 ≠ s.str.cycle →
                  ∃ u, exec (.eclr n r) s = .next u ∧ tileCounts s u n { t with ec := t.ec.set r 0 })
              ∧ ∀ k, t.raised.get r (0, 0) = (s.str.cycle, k) →
                  ∃ u, exec (.eclr n r) s = .next u ∧ tileCounts s u n { t with ec := t.ec.set r (BitVec.ofNat 64 k) }))

/-- R197, R238, R239, R194: a matrix op of a legal group, format and address register, on engines that are free, with its scratch ranges
within general scratch and room at the ports: STEP gives every engine of the group, for each of the 128 rows, the sum of its accumulator
and the exact dot product, rounded once; ZACC +0; LDACC the words in scratch; STACC writes the accumulators as they read; LDW fills the
idle buffer. A STEP or LDW that reads for several cycles has read all its bytes in the last of them. Accumulators of other engines stay. -/
def Obligations.MatrixOps : Prop :=
  ∀ (s : State) (n : Nat) (o : MatOp) (ms : List Nat), let t := tileOf s n
    let c := s.str.cycle
    let me := meOfTile t
    let inside := fun len scales => (∀ m ∈ ms, meAddr t o.areg m + len ≤ scrTop s) ∧ (isMx o.fmt = true → ∀ m ∈ ms, meAddr t (o.areg + 1) m + scales ≤ scrTop s)
    let free := ∀ m ∈ ms, (me m).busy ≤ c
    let k := fun m => (stepCycles (activeBuf (stepMe o (me m))).fmt o.fmt).getD 1
    let only := fun (u : State) => u = { s with tiles := u.tiles } ∧ ∀ k, k ≠ n → tileOf u k = tileOf s k
    let others := fun (u : State) => ∀ m, m ∉ ms → ∀ r, newestAcc (tileOf u n) m r = newestAcc t m r
    slotReady s n → groupMes o = some ms → o.areg < 16 → o.fmt ≤ 6 → (o.fmt ≤ 2 → o.areg % 2 = 0) →
      (free → ∃ u, exec (.zacc n o) s = .next u ∧ only u ∧ others u ∧ ∀ m ∈ ms, ∀ r < 128, newestAcc (tileOf u n) m r = 0)
      ∧ (free → (∀ m ∈ ms, meAddr t o.areg m + 512 ≤ scrTop s) → portRoom s n 0 (512 * ms.length) 0 →
          ∃ u, exec (.ldacc n o) s = .next u ∧ only u ∧ others u ∧ ∀ m ∈ ms, ∀ r < 128,
            newestAcc (tileOf u n) m r = BitVec.ofNat 32 (ofLe (scrBytes s n (meAddr t o.areg m + 4 * r) 4)))
      ∧ (free → (∀ m ∈ ms, meAddr t o.areg m + 512 ≤ scrTop s) → portRoom s n 0 0 (512 * ms.length) →
          ∃ u, exec (.stacc n o) s = .next u ∧ only u ∧ (tileOf u n).acc = t.acc
            ∧ ∀ m ∈ ms, PendW.scr (c + 6) (meAddr t o.areg m) ((List.range 128).flatMap fun r => leBytes 4 (t.acc.get (m, r) 0).toNat) ∈ (tileOf u n).pend)
      ∧ ((∀ m ∈ ms, (idleBuf (me m)).ready ≤ c) → inside (128 * rowBytes o.fmt) 1024 →
          (∀ j < loadCycles o.fmt, portRoom s n j (min 1024 (128 * rowBytes o.fmt + (if isMx o.fmt then 1024 else 0) - 1024 * j) * ms.length) 0) →
          ∃ u, exec (.ldw n o) s = .next u ∧ only u ∧ (tileOf u n).acc = t.acc ∧ others u ∧ ∀ m ∈ ms, let e := meOfTile (tileOf u n) m
            activeBuf e = activeBuf (me m) ∧ (idleBuf e).fmt = o.fmt ∧ (idleBuf e).ready = c + loadCycles o.fmt
              ∧ readsOn s u n (loadCycles o.fmt - 1) (.ldw m) (scrBytes s n (meAddr t o.areg m) (128 * rowBytes o.fmt))
                  (if isMx o.fmt then scrBytes s n (meAddr t (o.areg + 1) m) 1024 else [])
              ∧ ∀ v d els scales, let b := idleBuf (meOfTile (tileOf v n) m)
                  idleBuf (meOfTile (tileOf (readEnd v n d { what := .ldw m, els := els, scales := scales }) n) m) = { b with els := els, scales := scales })
      ∧ ((∀ m ∈ ms, stepCycles (activeBuf (stepMe o (me m))).fmt o.fmt ≠ none) → free →
          (o.flip = true → ∀ m ∈ ms, (idleBuf (me m)).ready ≤ c) → inside (rowBytes o.fmt) 8 →
          (∀ j < 4, portRoom s n j ((ms.filter fun m => decide (j < k m)).map fun m => (rowBytes o.fmt + (if isMx o.fmt then 8 else 0)) / k m).sum 0) →
          ∃ u, exec (.step n o) s = .next u ∧ u = { s with ctr := u.ctr, tiles := u.tiles } ∧ others u ∧ ∀ m ∈ ms,
            let w := activeBuf (stepMe o (me m))
            let x := scrBytes s n (meAddr t o.areg m) (rowBytes o.fmt)
            let xs := if isMx o.fmt then scrBytes s n (meAddr t (o.areg + 1) m) 8 else []
            let sum := fun (r : Nat) =>
              let row := (w.els.drop (r * rowBytes w.fmt)).take (rowBytes w.fmt)
              let ws := (w.scales.drop (r * 8)).take 8
              BitVec.ofNat 32 (stepAcc (newestAcc t m r).toNat ((List.range 256).map fun i => fpMul (scaledAt w.fmt row ws i) (scaledAt o.fmt x xs i)))
            (meOfTile (tileOf u n) m).busy = c + k m
              ∧ (k m = 1 → ∀ r < 128, newestAcc (tileOf u n) m r = sum r)
              ∧ (1 < k m → readsOn s u n (k m - 1) (.step m o.fmt ((List.range 128).map (newestAcc t m))) x xs)
              ∧ ∀ v, activeBuf (meOfTile (tileOf v n) m) = w →
                  readEnd v n (c + k m - 1) { what := .step m o.fmt ((List.range 128).map (newestAcc t m)), els := x, scales := xs }
                    = addPend v n (.acc (c + k m + 8) m ((List.range 128).map fun r => (r, sum r))))

/-- R199, R240: VFMA, VADD, VMUL, VMAX and VMIN write lanes 0 to VLEN − 1 of VD, readable 6 cycles later, from the lanes of their sources, and
VACC the lanes that its group's accumulators fill; the unit is busy for the cycle and nothing else changes. -/
def Obligations.VectorArithmetic : Prop :=
  ∀ (s : State) (n : Nat) (o : VecOp), slotReady s n → (tileOf s n).vBusy ≤ s.str.cycle → o.vd < 16 → o.va < 16 → o.vb < 16 → o.vc < 16 →
    let t := tileOf s n
    let lane := fun r i => (TMap.get (t.v.get r []) i (0 : W32)).toNat
    let makes := fun (i : Instr) (l : List (Nat × W32)) => ∃ u, exec i s = .next u
      ∧ tileBecomes s u n { t with vBusy := s.str.cycle + 1, pend := t.pend ++ [.vreg (s.str.cycle + 6) o.vd l] }
    let each := fun (f : Nat → Nat) => (List.range t.vlen).map fun i => (i, BitVec.ofNat 32 (f i))
    makes (.vfma n o) (each fun i => fpFmaEnc fp32 (lane o.va i) (lane o.vb i) (lane o.vc i))
      ∧ makes (.vadd n o) (each fun i => fpAddEnc fp32 (lane o.va i) (lane o.vb i))
      ∧ makes (.vmul n o) (each fun i => fpMulEnc fp32 (lane o.va i) (lane o.vb i))
      ∧ makes (.vmax n o) (each fun i => fpMaxEnc fp32 (lane o.va i) (lane o.vb i))
      ∧ makes (.vmin n o) (each fun i => fpMinEnc fp32 (lane o.va i) (lane o.vb i))
      ∧ (o.va < 8 → ∃ u l, exec (.vacc n o) s = .next u
          ∧ tileBecomes s u n { t with vBusy := s.str.cycle + 1, pend := t.pend ++ [.vreg (s.str.cycle + 6) o.vd l] }
          ∧ ∀ k x, (k, x) ∈ l ↔ ∃ m r, r < 128 ∧ (if 4 ≤ o.vb % 8 then 8 * (o.vb % 4) ≤ m ∧ m < 8 * (o.vb % 4) + 8 else m < 32)
              ∧ k = 4096 * o.va + 128 * m + r ∧ k < t.vlen ∧ x = t.acc.get (m, r) 0)

/-- R230, R240, R241: VLD converts VLEN elements at AD to FP32 lanes, readable 4 cycles after the last byte moves; VSPLAT gives every active
lane the word at AD; VST writes the converted lanes, 32,768 bytes a cycle, those of each cycle readable 6 cycles after it, and for an MX format
their scales at the next address register; with PI the address register moves on. -/
def Obligations.VectorMemory : Prop :=
  ∀ (s : State) (n : Nat) (o : VecOp), slotReady s n → (tileOf s n).vBusy ≤ s.str.cycle → o.vd < 16 → o.va < 16 → o.areg < 16 → o.fmt < 8 →
    let t := tileOf s n
    let c := s.str.cycle
    let mx := decide (5 ≤ o.fmt)
    let len := vecBytes o.fmt t.vlen
    let scales := vecScales o.fmt t.vlen
    let a := t.ad.get o.areg 0
    let b := t.ad.get (o.areg + 1) 0
    let k := (len + 32767) / 32768
    let fits := a + len ≤ scrTop s ∧ (mx = true → t.vlen % 32 = 0 ∧ o.areg % 2 = 0 ∧ b + scales ≤ scrTop s)
    let post := fun (by_ sc : Nat) => (if o.pi then [PendW.areg (c + 1) o.areg ((a + by_) % 2 ^ 29)] else [])
      ++ if o.pi && decide (0 < sc) then [PendW.areg (c + 1) (o.areg + 1) ((b + sc) % 2 ^ 29)] else []
    let moved := fun j => min 32768 (min 32768 (len - 32768 * j) + scales)
    let lanes := PendW.vreg (c + k + 3) o.vd ((List.range t.vlen).map fun i => (i, vecElem o.fmt (scrBytes s n a len) (scrBytes s n b scales) i))
    let writes := fun at_ (bs : List Byte) => (List.range ((bs.length + 32767) / 32768)).map fun j =>
      PendW.scr (c + j + 6) (at_ + 32768 * j) ((bs.drop (32768 * j)).take 32768)
    let only := fun (u : State) => u = { s with tiles := u.tiles } ∧ ∀ m, m ≠ n → tileOf u m = tileOf s m
    (0 < t.vlen → fits → (∀ j < k, portRoom s n j (moved j) 0) →
        ∃ u, exec (.vld n o) s = .next u ∧ only u ∧ (tileOf u n).vBusy = c + k
          ∧ (k = 1 → (tileOf u n).pend = t.pend ++ lanes :: post len scales)
          ∧ (1 < k → readsOn s u n (k - 1) (.vld o.vd o.fmt t.vlen) (scrBytes s n a len) (scrBytes s n b scales)
              ∧ (∃ w, (tileOf u n).pend = t.pend ++ w :: post len scales)
              ∧ ∀ v, readEnd v n (c + k - 1) { what := .vld o.vd o.fmt t.vlen, els := scrBytes s n a len, scales := scrBytes s n b scales }
                  = addPend v n lanes))
      ∧ (a + 4 ≤ scrTop s → portRoom s n 0 4 0 →
        ∃ u, exec (.vsplat n o) s = .next u ∧ only u ∧ (tileOf u n).vBusy = c + 1
          ∧ (tileOf u n).pend = t.pend ++ .vreg (c + 4) o.vd ((List.range t.vlen).map fun i => (i, BitVec.ofNat 32 (ofLe (scrBytes s n a 4)))) :: post 4 0)
      ∧ (0 < t.vlen → fits → (∀ j < k, portRoom s n j 0 (moved j)) →
        ∃ u, exec (.vst n o) s = .next u ∧ only u ∧ (tileOf u n).vBusy = c + k
          ∧ (tileOf u n).pend = t.pend ++ writes a (vstBytes t o).1 ++ (if mx then writes b (vstBytes t o).2 else []) ++ post len scales)

/-- R229, R238 to R242, R245, R248: the slot ops of a running stream raise, as its first exception: ILLEGAL for a reserved group, format or
lane block and for a VLEN outside 1 to 32,768; SCRATCH_RANGE with the address for a range beyond general scratch; SCRATCH_PORT where the bytes
per cycle exceed the ports; UNIT_BUSY for a unit that is busy; MOVER_QFULL for a ninth operation of an engine; HANDLER_FAULT for a ninth launch. -/
def Obligations.SlotExceptions : Prop :=
  ∀ (s : State) (n : Nat) (o : MatOp) (v : VecOp) (m : MovOp) (imm : Nat), slotReady s n →
    let t := tileOf s n
    let raises := fun (i : Instr) (cause part : Nat) (a : W64) (d : Nat) => ∃ u, exec i s = .next u ∧ slotRaised s u cause n part a d
    ((6 ≤ o.grp ∨ 7 ≤ o.fmt) → raises (.ldw n o) 1 1 0 0) ∧ (6 ≤ o.grp → raises (.zacc n o) 1 1 0 0)
      ∧ (8 ≤ v.va → raises (.vacc n v) 1 2 0 0) ∧ (imm < 2 ^ 24 → (imm = 0 ∨ 32768 < imm) → raises (.setl n imm) 1 3 0 0)
      ∧ (groupMes o = some [o.me % 32] → o.areg < 16 → s.str.cycle < (meOfTile t (o.me % 32)).busy → raises (.zacc n o) 4 1 0 0)
      ∧ (s.str.cycle < t.vBusy → raises (.vadd n v) 4 2 0 0)
      ∧ (t.vBusy ≤ s.str.cycle → v.areg < 16 → scrTop s < t.ad.get v.areg 0 + 4 →
          raises (.vsplat n v) 2 2 (BitVec.ofNat 64 (t.ad.get v.areg 0)) 0)
      ∧ (t.vBusy ≤ s.str.cycle → v.areg < 16 → t.ad.get v.areg 0 + 4 ≤ scrTop s → ¬ portRoom s n 0 4 0 → raises (.vsplat n v) 3 2 0 0)
      ∧ (m.eng < 16 → m.areg < 16 → m.freg < 16 → m.len < 4096 → t.ad.get m.areg 0 % 64 = 0 → (t.fa.get m.freg 0).toNat % 64 = 0 →
          t.fattr.get m.freg 0 = 0 → t.ad.get m.areg 0 + 262144 ≤ scrTop s → 8 ≤ (t.eng.get m.eng []).length → raises (.get n m) 5 3 0 0)
      ∧ (imm < 256 → (TMap.find s.str.handlers imm).isSome = true → 8 ≤ t.launchQ.length → raises (.launch n imm 0) 0x0B 4 0 imm)

/-- R242 to R244: GET and PUT with both addresses 64-aligned, a legal FATTR, their bytes in general scratch and fewer than 8 operations in the
engine's queue join that queue with the registers as they stand, and both address registers move on by LEN × 64, FATTR staying as it is; LDFA reads FA and
FATTR, readable 6 cycles later. An engine's first operation whose requests have all completed OK leaves the queue and raises its event counter by 1; one with
requests outstanding stays. -/
def Obligations.MoverOps : Prop :=
  ∀ (s : State) (n : Nat) (o : MovOp), o.eng < 16 → o.areg < 16 → o.freg < 16 → o.ec < 16 → o.len < 4096 →
    let t := tileOf s n
    let a := t.ad.get o.areg 0
    let fa := t.fa.get o.freg 0
    let f := t.fattr.get o.freg 0
    let len := (if o.len = 0 then 4096 else o.len) * 64
    let q := t.eng.get o.eng []
    let reserved := bits f.toNat 17 15 ≠ 0 ∨ bits f.toNat 48 16 ≠ 0
    let joins := fun (i : Instr) (kind : Nat) => ∃ u m, exec i s = .next u ∧ ((tileOf u n).eng.get o.eng []).length = q.length + 1
      ∧ ((tileOf u n).eng.get o.eng []).getLast? = some m ∧ m.kind = kind ∧ m.ec = o.ec ∧ m.fa = fa ∧ m.fattr = f ∧ m.scr = a ∧ m.bytes = len
      ∧ (tileOf u n).pend = t.pend ++ [.areg (s.str.cycle + 1) o.areg ((a + len) % 2 ^ 29), .fa (s.str.cycle + 1) o.freg (fa + BitVec.ofNat 64 len)]
      ∧ u.scratch = s.scratch ∧ ∀ k, k ≠ n → tileOf u k = tileOf s k
    (slotReady s n → a % 64 = 0 → fa.toNat % 64 = 0 → ¬ reserved → a + len ≤ scrTop s → q.length < 8 →
      joins (.get n o) 1 ∧ (bits f.toNat 0 8 ∈ [0x02, 0x20, 0x21, 0x28] → joins (.put n o) 2))
      ∧ (slotReady s n → a % 16 = 0 → a + 16 ≤ scrTop s → portRoom s n 0 16 0 →
        ∃ u, exec (.ldfa n o.areg o.freg) s = .next u ∧ u = { s with tiles := u.tiles }
          ∧ (tileOf u n).pend = t.pend ++ [.fa (s.str.cycle + 6) o.freg (BitVec.ofNat 64 (ofLe (scrBytes s n a 8))),
              .fattr (s.str.cycle + 6) o.freg (BitVec.ofNat 64 (ofLe (scrBytes s n (a + 8) 8)))])
      ∧ (∀ m r, q = m :: r → m.started = true → m.left ≠ 0 → exec (.moverOpComplete n o.eng) s = .next s)
      ∧ ∀ m, q = [m] → m.started = true → m.left = 0 → m.fail = none → m.kind ≠ 3 →
        ∃ u, exec (.moverOpComplete n o.eng) s = .next u ∧ (tileOf u n).eng.get o.eng [] = [] ∧ u = { s with tiles := u.tiles, str := { s.str with waits := u.str.waits } }
          ∧ ∀ e, (tileOf u n).ec.get e 0 = if e = m.ec then t.ec.get e 0 + 1 else t.ec.get e 0

/-- R245, R265, R276: SIGNAL joins its engine's queue as an AADD; LAUNCH puts a handler that the stream has into the tile's launch queue,
with the work item of its slot (R257, R264).

R203, R220, R245, R276: in a bundle without the same op yet, a declaration whose descriptor is legal and that R203 does not refuse makes
the window, or the shard, and waits until both members hold it; a removal takes it away; when both hold it, the event counter of its tile
rises by 1. Refusals raise DECL_REFUSED with the condition's number. -/
def Obligations.SyncLaunchesAndDeclarations : Prop :=
  (∀ (s : State) (n freg eng h ec : Nat), slotReady s n → freg < 16 → eng < 16 → ec < 16 → h < 256 →
     let t := tileOf s n
     let q := t.eng.get eng []
     let f := t.fattr.get freg 0
     (bits f.toNat 17 15 = 0 → bits f.toNat 48 16 = 0 → q.length < 8 → ¬ (eng ∈ t.bad ∧ q = []) →
         ∃ u m, exec (.signal n freg eng) s = .next u ∧ ((tileOf u n).eng.get eng []).length = q.length + 1
           ∧ ((tileOf u n).eng.get eng []).getLast? = some m ∧ m.kind = 3 ∧ m.fa = t.fa.get freg 0 ∧ m.fattr = f)
       ∧ ((TMap.find s.str.handlers h).isSome = true → t.launchQ.length < 8 →
         ∃ u, exec (.launch n h ec) s = .next u ∧ tileBecomes s u n { t with launchQ := t.launchQ ++ [
             { h := h, ec := ec, item := s.str.items.get (s.str.pc, n) (s.str.tiles.takeWhile (· != n)).length }] }))
    ∧ (∀ (s : State) (n areg ec : Nat), areg < 16 → ec < 16 →
        let t := tileOf s n
        let a := t.ad.get areg 0
        let word := fun len => ofLe (scrBytes s n a len)
        let ready := fun sop len => slotReady s n ∧ (∀ x ∈ s.str.declSeen, x.1 ≠ sop) ∧ a + len ≤ scrTop s ∧ portRoom s n 0 len 0
        let d := { winDescOf (word 64) with capo := s.str.capo, seed := s.str.seed }
        let sh := { shardDescOf (word 32) with capo := s.str.capo, memberB := (site s).memberB }
        let raised := fun (i : Instr) (detail : Nat) => ∃ u e, exec i s = .next u ∧ u.str.exc = some e ∧ e.cause = 0x0A ∧ e.tile = n ∧ e.part = 4 ∧ e.detail = detail
        (ready 4 64 → winFormOk (word 64) = true → s.prog.commits = [] → winOf s d.wid = none → winRefusal s (newWindow s d) = none →
            ∃ u, exec (.wdecl n areg ec) s = .next u ∧ (∃ w, winOf u d.wid = some w ∧ w.d = d ∧ w.st = .idle)
              ∧ u.decls = s.decls ++ [{ id := s.nextDecl, tile := n, ec := ec, win := some d }] ∧ u.shards = s.shards)
          ∧ (∀ k, ready 4 64 → winFormOk (word 64) = true → s.prog.commits = [] → winRefusal s (newWindow s d) = some k → raised (.wdecl n areg ec) k)
          ∧ (ready 5 8 → removable s (word 8 % 8192) s.str.capo = true →
            ∃ u, exec (.wrem n areg ec) s = .next u ∧ winOf u (word 8 % 8192) = none ∧ (∀ k, k ≠ word 8 % 8192 → winOf u k = winOf s k)
              ∧ u.decls = s.decls ++ [{ id := s.nextDecl, tile := n, ec := ec, remWin := some (word 8 % 8192) }])
          ∧ (ready 5 8 → removable s (word 8 % 8192) s.str.capo = false → raised (.wrem n areg ec) 0)
          ∧ (ready 6 32 → shardFormOk (word 32) = true → shardOwned sh = true →
            ∃ u, exec (.shdecl n areg ec) s = .next u ∧ (∀ k, u.shards.get k none = if k = sh.shard then some sh else s.shards.get k none)
              ∧ u.decls = s.decls ++ [{ id := s.nextDecl, tile := n, ec := ec, shard := some sh }] ∧ u.wins = s.wins)
          ∧ (ready 7 8 →
            ∃ u, exec (.shrem n areg ec) s = .next u ∧ (∀ k, u.shards.get k none = if k = word 8 % 4096 then none else s.shards.get k none)
              ∧ u.decls = s.decls ++ [{ id := s.nextDecl, tile := n, ec := ec, remShard := some (word 8 % 4096) }] ∧ u.wins = s.wins)
          ∧ ∀ x r, s.decls = x :: r → x.tile = n → (bothHold s x = false → exec (.declarationComplete x.id) s = .next s)
            ∧ (bothHold s x = true →
              ∃ u, exec (.declarationComplete x.id) s = .next u ∧ u.decls = r ∧ (tileOf u n).ec.get x.ec 0 = t.ec.get x.ec 0 + 1
                ∧ u = { s with decls := u.decls, tiles := u.tiles, str := { s.str with waits := u.str.waits } }))

/-! Clocks, time, power and resets. -/

/-- R25, R27: when the reference is lost every string and soundpost string is down, a running stream without an exception ends with CLOCK,
the MCs run on their own oscillator and the scroll holds the event; at the relock the strings that are down restart at stage 1, but those whose
OX is off, those that have not begun and those that Table 13-9 holds for an event of their own, and the member is a rebuild target; a lane PLL that loses lock takes only its own interface out.

R26, R29, R33, R38: with no command waiting, a step lets the clocks run: a count of fabric time rises by 1 ns unless it holds, the SX
datapath makes three cycles, the AON clock counts, and nothing else changes (the tick is the model's choice, log entry 2). -/
def Obligations.ReferenceLostAndBack : Prop :=
  (∀ (s : State) (k i : Nat),
    (s.clk.refLost = false → ∃ u, exec .refLost s = .next u ∧ u.clk.refLost = true ∧ u.clk.mcIntOsc = true
        ∧ (∀ x < 544, (linkOf u x).stage = 0) ∧ (∀ x, 544 ≤ x → quietLink s x → linkOf u x = linkOf s x) ∧ noted u 2 .refLost (siteMC s) []
        ∧ (s.str.running = true → s.str.exc = none → ∃ e, u.str.exc = some e ∧ e.cause = 0x0F ∧ u.str.stopAt = some (nowCycle s + 12)))
      ∧ (s.clk.refLost = true → exec .refLost s = .next s ∧ ∃ u, exec .refRelock s = .next u ∧ u.clk = { s.clk with refLost := false, mcIntOsc := false }
        ∧ u.course.rebuildTgt = true ∧ u.course.serving = false
        ∧ ∀ x < 544, (linkOf s x).stage = 0 → (linkOf u x).stage
            = if pdIsOn s (4 + oxOf x) ∧ (linkOf s x).cause ∉ [.none, .disabled, .miswire] then 1 else 0)
      ∧ ∃ u, exec (.lanePllLockLoss k i) s = .next u ∧ (k, i) ∈ u.clk.pllLost
        ∧ (k = 0 → i < 8 → ∀ x < 544, (linkOf s x).stage ≠ 0 →
            if oxOf x = i then (linkOf u x).cause = .symbol ∧ (linkOf u x).stage = 3 else (quietLink s x → linkOf u x = linkOf s x))
        ∧ (k = 1 ∨ k = 2 → noted u 2 .lanePllLost (siteMC s) [k, i] ∧ count u .pllLoss [k, i] = min (count s .pllLoss [k, i] + 1) ctrMax)
        ∧ (k = 1 → i < 8 → u.mem = { s.mem with backOut := insertOnce i s.mem.backOut } ∧ u.links = s.links)
        ∧ (k = 2 → i < 2 → u.mem = { s.mem with backOut := insertOnce (8 + i) s.mem.backOut } ∧ u.links = s.links)
        ∧ (k = 3 → i < 8 → u.links = s.links ∧ if portIsCxl s.prog.eff i then cxlTarget i ∈ u.mem.backOut else i ∈ u.pwr.portTrain))
  ∧ (∀ s : State, s.pending = [] → ∃ u, step s = .next u ∧ u = { s with clk := u.clk, sec := u.sec, brola := u.brola }
    ∧ u.clk = { s.clk with now := u.clk.now, hold := s.clk.hold - 1, up := s.clk.up + 1, sxCycle := s.clk.sxCycle + 3 }
    ∧ u.clk.now = (if s.clk.hold = 0 then s.clk.now + 1 else s.clk.now) ∧ u.sec = { s.sec with rtc := s.sec.rtc + 1 }
    ∧ u.brola = { s.brola with now := if s.brola.hold = 0 then s.brola.now + 1 else s.brola.now, hold := s.brola.hold - 1 })

/-- R30, R31, R33, R134, R430: on a beacon of its source a count that is not anchored takes the beacon plus half the round trip, unless it is
already ahead; an anchored one slews by at most 1 ns, until three consecutive beacons lie beyond 50 ns: then it steps forward, or holds, by
the whole offset. A count that a step holds goes on to hold until the beacon value reaches it. A beacon of anyone else leaves fabric time alone.
What half a nanosecond becomes is open (log entry 6).

R30, R31, R39, R134: a beacon goes out on each Ready string and on no other, with the sender's time; a follower without a beacon for more
than 1 ms is in holdover and the time lead never is; the step that a Brola reports is written to the scroll. -/
def Obligations.BeaconsCarryTime : Prop :=
  (∀ (s : State) (x time echo hold : Nat) (tsrc : Bool), x < 544 →
     let now := s.clk.now
     let rtt := if echo = 0 ∨ now < echo + hold then (linkOf s x).rtt else now - echo - hold
     let off : Int := 2 * (time : Int) + rtt - 2 * now
     let half := fun n h => 2 * h = n ∨ 2 * h + 1 = n ∨ 2 * h = n + 1
     ∃ u, exec (.beacon x tsrc time echo hold) s = .next u ∧ (linkOf u x).rtt = rtt ∧ (linkOf u x).echoTime = time ∧ (linkOf u x).echoAt = now
       ∧ (∀ y, y ≠ x → linkOf u y = linkOf s y)
       ∧ (tsrc = false ∨ timeSource s ≠ some x → u.clk = s.clk)
       ∧ (tsrc = true → timeSource s = some x →
           (s.clk.anchored = false → u.clk.anchored = true ∧ ∃ h, half rtt h ∧ u.clk.now = max now (time + h))
           ∧ (s.clk.anchored = true → s.clk.hold ≤ 1 → off.natAbs ≤ 100 ∨ s.clk.beyond ≠ 2 →
               u.clk.now = (if 2 ≤ off then now + 1 else now) ∧ u.clk.hold = (if off ≤ -2 then 1 else s.clk.hold) ∧ u.clk.stepped = s.clk.stepped
                 ∧ u.clk.beyond = (if 100 < off.natAbs then s.clk.beyond + 1 else 0))
           ∧ (s.clk.anchored = true → s.clk.hold ≤ 1 → 100 < off.natAbs → s.clk.beyond = 2 → u.clk.stepped = true ∧ u.clk.beyond = 0
               ∧ ∃ h, half off.natAbs h ∧ u.clk.now = (if 0 < off then now + h else now) ∧ u.clk.hold = if 0 < off then 0 else h)
           ∧ (s.clk.anchored = true → 1 < s.clk.hold → u.clk.now = now ∧ u.clk.stepped = s.clk.stepped ∧ u.clk.beyond = 0
               ∧ ∃ h, half off.natAbs h ∧ u.clk.hold = if off < 0 then h else 0)))
    ∧ (∀ (s : State) (t n time : Nat) (step : Int),
        (∃ u l, exec .beaconSend s = .next u ∧ u = { s with out := s.out ++ l } ∧ l.length = ((List.range 576).filter (strReady s)).length
            ∧ ∀ x < 576, strReady s x = true → ∃ tsrc hold, Out.link x (.beacon tsrc (linkNow s x) (linkOf s x).echoTime hold) ∈ l)
          ∧ (s.clk.lastBeacon = some t → isTimeLead s = false → t + 1000000 < s.clk.now →
              exec .timeHoldover s = .next { s with clk := { s.clk with holdover := true } })
          ∧ (isTimeLead s = true ∨ s.clk.now ≤ t + 1000000 → s.clk.lastBeacon = some t → exec .timeHoldover s = .next s)
          ∧ (n < 512 → ∃ u, exec (.timeStep n step time) s = .next u ∧ noted u 2 .brolaTimeStep (siteMC s) [n, unsigned step 64, time]
              ∧ u = { s with out := u.out, ctr := u.ctr, mc := u.mc, tel := u.tel }))

/-- R37 and Table 1-7: after a domain that was on has faulted it is off, every domain still on has what it requires (an MC already on stays
so without VAON, of which R37 says nothing), no domain has gone on, the fault is latched with its number, and the scroll holds it. A domain
that is off does not fault, but an MC before Rilash runs. -/
def Obligations.DomainFaults : Prop :=
  ∀ (s : State) (n : Nat), n < 36 →
    (pdIsOn s n = true → (∃ m, m < 4 ∧ pdIsOn (pdFault s n) m = true) →
        ∃ u, exec (.pdFault n) s = .next u ∧ pdIsOn u n = false ∧ (∀ m < 36, pdIsOn u m = true → pdIsOn s m = true)
          ∧ (∀ m < 36, s.pwr.onCell = false ∨ m ≠ 30 ∧ m ≠ 31 → pdIsOn u m = true → pdMet u m = true) ∧ noted u 1 .domainFault (pdSite s n) [n] ∧ u.pwr.faultLast = n ∧ u.elg.dieFell = true
          ∧ (n < 12 → u.pwr.fault = s.pwr.fault ||| BitVec.ofNat 18 (2 ^ n)))
      ∧ (pdIsOn s n = false → s.disc.phase ≠ 1 → (∃ m, m < 4 ∧ pdIsOn s m = true) → exec (.pdFault n) s = .next s)

/-- R40 to R42, Table 1-12: the samples of adjacent die sites: a link above 70 °C or 300 mV is down, one above 35 °C or 150 mV is degraded,
one that was degraded is normal again only after 1,000 samples below 31.5 °C and 135 mV. R543: the AON island goes to the cell below 1.62 V and
back at 1.70 V held for 1 ms. -/
def Obligations.MonitorsAndAonSupply : Prop :=
  ∀ (s : State) (x : D2dSample) (mv us : Nat), x.link < 38 →
    let d := d2dOf s x.link
    (∃ u, exec (.adjMonitorSample [x]) s = .next u ∧ (∀ i, i ≠ x.link → d2dOf u i = d2dOf s i)
        ∧ ((700 < x.dT ∨ 300 < x.dV) → (d2dOf u x.link).st = 2)
        ∧ (x.dT ≤ 700 → x.dV ≤ 300 → d.st ≠ 2 → (350 < x.dT ∨ 150 < x.dV) → (d2dOf u x.link).st = 1)
        ∧ (x.dT ≤ 350 → x.dV ≤ 150 → d.st = 0 → d2dOf u x.link = d)
        ∧ (x.dT ≤ 315 → x.dV ≤ 135 → d.st = 1 → (d2dOf u x.link).st = if 1000 ≤ d.good90 + 1 then 0 else 1)
        ∧ (x.dT ≤ 350 → x.dV ≤ 150 → d.st = 2 → (d2dOf u x.link).st = if 100 ≤ d.good + 1 then 1 else 2))
      ∧ (mv < 1620 → exec (.aonToVbak mv) s = .next { s with pwr := { s.pwr with onCell := true } })
      ∧ (1620 ≤ mv → exec (.aonToVbak mv) s = .next s)
      ∧ (1700 ≤ mv → 1000 ≤ us → exec (.aonToVaon mv us) s = .next { s with pwr := { s.pwr with onCell := false } })
      ∧ (mv < 1700 ∨ us < 1000 → exec (.aonToVaon mv us) s = .next s)

/-- R38, R407, R408, R540, R542: a cold reset (a low of rst_n of 1 µs or more while the supplies are good) and a power-on reset that rst_n does
not hold leave AON, the fuse records, the boot flash, the Brola and the waiting commands as they were; every switched domain is off, no string
is up, no stream runs, switch-resident memory and the counters of the package are as reset leaves them, the requester sends nothing for 16 ms
(R67), and the scroll holds the cause. A
fall of pwr_good does the same but that only AON runs.

R37, R407, R540, Table 15-1: a rail other than VIN and VMC takes its own domains off as faults; when no SX can serve, Rilash begins a
warm reset, which keeps the MCs, AON, the scroll, the fuse shadow and the ledger and resumes at the self-test; perst_n of a port resets that
port alone. -/
def Obligations.ResetsRailsAndPorts : Prop :=
  (∀ (s : State) (low rail : Nat),
     let cleared := fun (u : State) => u.pwr.pdOn = 0 ∧ u.clk = {} ∧ u.str = {} ∧ u.tiles = [] ∧ u.mem = {} ∧ u.prog = State.reset.prog ∧ u.wins = []
       ∧ (∀ x, x < 544 ∨ 576 ≤ x → linkOf u x = {}) ∧ u.disc.phase = 1 ∧ u.rq = { quietUntil := 16000000 }
     let kept := fun (u : State) => u.pending = s.pending ∧ u.brola = s.brola ∧ (s.fuse.busy = none → u.fuse.recs = s.fuse.recs) ∧ u.sec.rtc = s.sec.rtc
       ∧ u.sec.ownGen = s.sec.ownGen ∧ u.disc.bcr0 = s.disc.bcr0 ∧ u.disc.bcr1 = s.disc.bcr1 ∧ (∀ x, 544 ≤ x → x < 576 → linkOf u x = linkOf s x)
     (low < 1000 → exec (.coldReset low) s = .next s)
       ∧ (1000 ≤ low → s.pwr.pwrGood = true → ∃ u, exec (.coldReset low) s = .next u ∧ cleared u ∧ kept u ∧ u.mc.resetCause = (if s.pwr.porHeld then 1 else 2)
           ∧ noted u 1 .reset 30 [if s.pwr.porHeld then 1 else 2])
       ∧ (∃ u, exec (.powerOnReset false) s = .next u ∧ cleared u ∧ kept u ∧ u.mc.resetCause = 1 ∧ u.pwr.pwrGood = true ∧ noted u 1 .reset 30 [1])
       ∧ (∃ u, exec (.powerOnReset true) s = .next u ∧ cleared u ∧ kept u ∧ u.pwr.porHeld = true)
       ∧ (∃ u, exec .powerFail s = .next u ∧ cleared u ∧ kept u ∧ u.pwr.pwrGood = false ∧ u.tel.tail = s.tel.tail ∧ u.tel.seq = s.tel.seq)
       ∧ (s.pwr.pwrGood = true → rail = 0 ∨ rail = 6 → exec (.railFault rail) s = exec .powerFail s)
       ∧ (s.pwr.pwrGood = false → exec (.railFault rail) s = .next s))
    ∧ (∀ (s : State) (port : Nat), port < 8 →
        (s.pwr.pwrGood = true → (∃ m, m < 4 ∧ pdIsOn s m = true) → (∀ m < 36, pdIsOn s m = true → pdMet s m = true) →
            ∃ u, exec (.railFault 5) s = .next u ∧ (∀ m, 4 ≤ m → m < 12 → pdIsOn u m = false)
            ∧ ∀ m < 36, m < 4 ∨ 12 ≤ m → pdIsOn u m = pdIsOn s m)
          ∧ (3 ≤ s.disc.phase → s.disc.phase ≤ 9 → pdIsOn s 30 = true → (∀ m < 4, pdIsOn s m = false) → ∀ n, 4 ≤ n → n < 30 → pdIsOn s n = false →
              ∃ u, exec (.pdFault n) s = .next u ∧ u.disc.phase = 2 ∧ u.mc.resetCause = 4 ∧ u.clk = {} ∧ u.str = {} ∧ u.mem = {}
                ∧ (∀ m < 36, pdIsOn u m = (pdIsOn s m && decide (m = 30 ∨ m = 31))) ∧ u.fuse.entries = s.fuse.entries ∧ u.brola = s.brola
                ∧ noted u 1 .reset (siteMC s) [4])
          ∧ ∃ u, exec (.portReset port) s = .next u ∧ port ∈ u.pwr.portTrain ∧ u.links = s.links ∧ u.str = s.str ∧ u.pwr.pdOn = s.pwr.pdOn
              ∧ u.mem = { s.mem with backOut := if portIsCxl s.prog.eff port then insertOnce (cxlTarget port) s.mem.backOut else s.mem.backOut })

/-- R25, R37, R38, R264, R265, R268, R407, R408, R540, R542: faults, resets and handlers complete with their own effect, whatever else the state holds: a domain that
faults goes off; a power-on reset, a reset by rst_n low for 1 µs while the supplies are good, and a fall of pwr_good or of VIN or VMC switch every
domain off and start again from MC boot; any other rail takes its domains off; perst_n trains its port again; the reference is lost and comes back. The
first handler of a launch queue starts once its cores are free, ends once they are free again, and a core at MAXCYC stops with HANDLER_FAULT. -/
def Obligations.FaultsAndResetsComplete : Prop :=
  (∀ (s : State) (n rail port low : Nat) (held : Bool),
    let fresh := fun u : State => u.pwr.pdOn = 0 ∧ u.str.running = false ∧ u.disc.phase = 1 ∧ u.mem = {} ∧ u.wins = []
    (n < 36 → pdIsOn s n = true → ∃ u, exec (.pdFault n) s = .next u ∧ pdIsOn u n = false)
      ∧ (∃ u, exec (.powerOnReset held) s = .next u ∧ fresh u ∧ u.mc.resetCause = 1 ∧ u.pwr.pwrGood = true ∧ u.pwr.porHeld = held)
      ∧ (1000 ≤ low → s.pwr.pwrGood = true → ∃ u, exec (.coldReset low) s = .next u ∧ fresh u ∧ u.mc.resetCause = (if s.pwr.porHeld then 1 else 2)
        ∧ u.pwr.porHeld = false)
      ∧ (∃ u, exec .powerFail s = .next u ∧ fresh u ∧ u.pwr.pwrGood = false)
      ∧ (s.pwr.pwrGood = true → rail = 0 ∨ rail = 6 → ∃ u, exec (.railFault rail) s = .next u ∧ fresh u ∧ u.pwr.pwrGood = false)
      ∧ (s.pwr.pwrGood = true → rail ≠ 0 → rail ≠ 6 → ∃ u, exec (.railFault rail) s = .next u ∧ (∀ m ∈ railDomains rail, pdIsOn u m = false)
        ∧ u.pwr.pwrGood = true)
      ∧ (port < 8 → ∃ u, exec (.portReset port) s = .next u ∧ port ∈ u.pwr.portTrain)
      ∧ (s.clk.refLost = false → ∃ u, exec .refLost s = .next u ∧ u.clk.refLost = true)
      ∧ (s.clk.refLost = true → ∃ u, exec .refRelock s = .next u ∧ u.clk.refLost = false))
  ∧ ∀ (s : State) (t h c : Nat) (l : Launch) (r : List Launch),
    let e := handlerOf s l.h
    let free := ∀ c, e.first ≤ c ∧ c ≤ e.first + e.count → (coreOf s t c).running = none ∧ (coreOf s t c).xfers = []
    ((tileOf s t).launchQ = l :: r → free → ∃ u, exec (.handlerStart t) s = .next u ∧ (tileOf u t).launchQ = r
        ∧ ∀ c, e.first ≤ c ∧ c ≤ e.first + e.count → (coreOf u t c).running = some l.h ∧ (coreOf u t c).pc = e.entry)
      ∧ ((tileOf s t).handlers = l :: r → free → ∃ u, exec (.handlerEnd t l.h) s = .next u ∧ (tileOf u t).handlers = r
        ∧ (tileOf u t).ec.get l.ec 0 = (tileOf s t).ec.get l.ec 0 + 1)
      ∧ ((coreOf s t c).running = some h → (handlerOf s h).maxcyc ≤ (coreOf s t c).cycles → s.str.running = true → s.str.exc = none →
        ∃ u x, exec (.handlerMaxcyc t c) s = .next u ∧ u.str.exc = some x ∧ x.cause = 0x0B)

/-! The switch cores. -/

/-- R55, R63, R136, R153, R162, R163: a packet at an input of an SX: one whose header check fails is counted and dropped; one that the first
Kojor's checks refuse completes CAPO_VIOLATION; a request without a path completes UNREACHABLE; one that is routed to another port of this SX takes
its place at the end of the landing reserve with the present stamp. Until it is admitted no queue changes.

R140 to R142, R145, R168: an attempt to admit a landed packet with one output: while an earlier packet of its input and class holds it back,
or the queue has neither guarantee nor shared room for it, it waits and is counted; else it joins the queue's tail and leaves the reserve. -/
def Obligations.PacketsArriveAndEnter : Prop :=
  (∀ (s : State) (sx port : Nat) (p : Pkt), sx < 4 → port ≤ 135 →
     let vc := match p with
       | .req r => r.vc
       | .cmp _ _ => false
     let way := routeAt s sx port p vc
     ∃ u, exec (.packetArrival sx port p) s = .next u ∧ u.sw.queues = s.sw.queues ∧ u.mem = s.mem ∧ u.pending = s.pending
       ∧ (pktOk p = false → count u .sxHdrErr [sx, port] = min (count s .sxHdrErr [sx, port] + 1) ctrMax ∧ u.sw.landing = s.sw.landing ∧ u.out = s.out)
       ∧ (pktOk p = true → ∀ r, p = .req r →
           (firstRefuses s sx port p = true → u.sw.landing = s.sw.landing ∧ u.out = s.out ++ [.cmp (cmpOf r (mySrc s) .capoViolation)])
           ∧ (firstRefuses s sx port p = false → way = .lost → copyOwner s p = none →
               u.sw.landing = s.sw.landing ∧ u.out = s.out ++ [.cmp (cmpOf r (mySrc s) .unreachable)]))
       ∧ (pktOk p = true → firstRefuses s sx port p = false → ∀ o v, way = .to sx o v → o ≠ 255 → u.out = s.out
           ∧ ∃ x, u.sw.landing = s.sw.landing ++ [x] ∧ x.sx = sx ∧ x.port = port ∧ x.p = p ∧ x.cells = pktCells p ∧ x.outs = [(o, v && decide (o < 128), (sx, o, v))]
             ∧ x.stamp = s.clk.sxCycle % 2 ^ 32))
    ∧ (∀ (s : State) (sx n i o : Nat) (vc : Bool) (d : Nat × Nat × Bool) (x : Landed), landIndex s sx n = some i → s.sw.landing[i]? = some x →
        let t := pktTc x.p
        let pl := poolOf s (pktCapo x.p)
        let occ := poolOcc s sx o t pl
        let g := bufG s.prog.eff sx o t
        let need := (occ + x.cells - g) - (occ - g)
        let waits := exec (.packetAdmit sx n) s = .next { s with ctr := s.ctr.set (.sxAdmitWait, [sx, x.port, t]) (min (count s .sxAdmitWait [sx, x.port, t] + 1) ctrMax) }
        (heldBack s i x = true → waits)
          ∧ (heldBack s i x = false → x.outs = [(o, vc, d)] → 0 < need →
              alphaOk (bufAlpha s.prog.eff sx t) (sharedUse s sx o t pl + need) (sharedFree s sx pl + evictable s sx t pl) = false → waits)
          ∧ (heldBack s i x = false → x.outs = [(o, vc, d)] → occ + x.cells ≤ g → x.mc = 0 →
              ∃ u q, exec (.packetAdmit sx n) s = .next u ∧ queueOf u sx o t vc = queueOf s sx o t vc ++ [q] ∧ q.p = x.p ∧ q.cells = x.cells ∧ q.stamp = x.stamp
                ∧ q.inPort = x.port ∧ q.dest = d ∧ u.sw.landing = s.sw.landing.eraseIdx i
                ∧ ∀ p' c' v', (p', c', v') ≠ (o, t, vc) → queueOf u sx p' c' v' = queueOf s sx p' c' v'))

/-- R153, R154: a decision of the arbiter of an output that stores and forwards: with no emergency message the class whose score is the highest,
the lowest on a tie, is granted: its packet leaves the queue and begins to leave the SX, its lost count is zero and each other eligible class
has lost one round more, up to 255. A busy output grants no class and sends the next flit of its transmission at a flit boundary. An eligible
emergency message takes one flit, at a flit boundary of a busy output too, whose transmission then goes on.

R321: a refresh pre-empts a DDR5 channel's arbiter; of the read and the write queue the higher score wins, reads on a tie, and the other,
if eligible, loses a round. -/
def Obligations.ArbitersGrant : Prop :=
  (∀ (s : State) (sx port c : Nat) (q : QPkt) (tl : List QPkt), sx < 4 → port < 136 → isHarmonic s sx port = false →
     (port < 128 → isBridge s (linkNo sx port) = false) →
     let a := arbOf s sx port
     let fits := fun t => ∃ h r, queueOf s sx port t false = h :: r ∧ h.cells ≤ creditAt s sx port t (pktCapo h.p) false
       ∧ calFits s sx port (pktCapo h.p) (pktFlits h.p) = true ∧ mayStart s sx h = true
     let score := fun t => arbScore a (stampNow s) ((queueOf s sx port t false).map (·.stamp) |>.headD 0) t
     let out := rechannel s port q.dest.2.2 q.p
     ((s.sw.injected.get (sx, port) [] = []) → sendingAt s sx port = none → outputUp s sx port = true → c < 8 → queueOf s sx port c false = q :: tl → fits c →
         (∀ t < 8, t ≠ c → fits t → score t < score c ∨ (score t = score c ∧ c < t)) →
         ∀ b, ∃ u, exec (.arbiterDecision sx port b [] []) s = .next u ∧ queueOf u sx port c false = tl
           ∧ (∀ t v, (t, v) ≠ (c, false) → queueOf u sx port t v = queueOf s sx port t v)
           ∧ Out.fwd out sx port ∈ u.out
           ∧ sendingAt u sx port = (if pktFlits out ≤ 1 then none
               else some { ps := [q], cls := c, left := pktFlits out - 1, str := portString s sx port (pktSeq out) })
           ∧ (arbOf u sx port).lost.get c 0 = 0 ∧ (arbOf u sx port).emergRun = 0
           ∧ ∀ t < 8, t ≠ c → (fits t → (arbOf u sx port).lost.get t 0 = min (a.lost.get t 0 + 1) 255)
               ∧ (¬ fits t → (arbOf u sx port).lost.get t 0 = a.lost.get t 0))
       ∧ (∀ w, sendingAt s sx port = some w →
           (∀ e f, ∃ u, exec (.arbiterDecision sx port false e f) s = .next u ∧ u = { s with ctr := u.ctr })
           ∧ (s.sw.injected.get (sx, port) [] = [] → ∀ e f, ∃ u, exec (.arbiterDecision sx port true e f) s = .next u ∧ u.sw.queues = s.sw.queues
               ∧ (flitHere s sx w = true → sendingAt u sx port = if w.left ≤ 1 then none else some { w with left := w.left - 1 })
               ∧ (flitHere s sx w = false → u = { s with ctr := u.ctr })))
       ∧ ∀ m, emergency s sx port = some m → a.emergRun < 256 → ∀ b e f, sendingAt s sx port = none ∨ b = true →
           ∃ u, exec (.arbiterDecision sx port b e f) s = .next u ∧ (arbOf u sx port).emergRun = a.emergRun + 1
             ∧ u.sw.queues = s.sw.queues ∧ u.sw.sending = s.sw.sending
             ∧ u.sw.injected.get (sx, port) [] = (if m.left ≤ 1 then (s.sw.injected.get (sx, port) []).tail
                 else { m with left := m.left - 1 } :: (s.sw.injected.get (sx, port) []).tail))
    ∧ (∀ (s : State) (hx ch : Nat) (ra wa : Option Nat) (busy : Bool), hx < 2 → ch < 6 →
        let a := arbOf s (4 + hx) ch
        let score := fun i g => min g 0x7FFFFFFF + a.lost.get i 0 * 2 ^ a.stepLog2 + a.prio.get i 0 * 2 ^ a.unitLog2
        exec (.ddrArbiterDecision hx ch busy ra wa true) s = .next s ∧ exec (.ddrArbiterDecision hx ch true ra wa false) s = .next s
          ∧ exec (.ddrArbiterDecision hx ch false none none false) s = .next s
          ∧ (∀ r w, ra = some r → wa = some w → ∃ u, exec (.ddrArbiterDecision hx ch false ra wa false) s = .next u
              ∧ u = setArb s (4 + hx) ch { a with lost := (arbOf u (4 + hx) ch).lost }
              ∧ if score 0 r < score 1 w then (arbOf u (4 + hx) ch).lost.get 1 0 = 0 ∧ (arbOf u (4 + hx) ch).lost.get 0 0 = min (a.lost.get 0 0 + 1) 255
                else (arbOf u (4 + hx) ch).lost.get 0 0 = 0 ∧ (arbOf u (4 + hx) ch).lost.get 1 0 = min (a.lost.get 1 0 + 1) 255)
          ∧ ∀ r, ra = some r → ∃ u, exec (.ddrArbiterDecision hx ch false ra none false) s = .next u
              ∧ u = setArb s (4 + hx) ch { a with lost := (arbOf u (4 + hx) ch).lost } ∧ (arbOf u (4 + hx) ch).lost.get 0 0 = 0
              ∧ (arbOf u (4 + hx) ch).lost.get 1 0 = a.lost.get 1 0)

/-- R168, R169, R481: a CREDIT received replaces the limits held for its string, each modulo 2^16, and no other string's, the VC 1 set on a bridge
string only; a PCREDIT replaces the limit of one capo's account. A CREDIT sent states for each class the cells freed plus its dedicated count, and for the pool the same (which, where accounts of pinned capos leave less, is the model's choice,
log entry 147).

R184, R185: the bulk of a list whose head has waited BRG_CLOSE is ready, and no other list's; a bulk that fails its check is discarded whole,
its credit returned, and counted; a bulk of one packet that the SX routes onward lands it with the bulk's VC and its share of the credit. -/
def Obligations.CreditsAndBulks : Prop :=
  (∀ (s : State) (x cl capo : Nat) (c0 : CreditSet) (c1 : Option CreditSet) (vc : Bool), x < 576 →
     let k := creditKey x
     (∃ u, exec (.credit x c0 c1) s = .next u ∧ (∀ t < 8, u.sw.limit.get (k, t, false) 0 = c0.cl.getD t 0 % 65536)
         ∧ u.sw.limit.get (k, 8, false) 0 = c0.pool % 65536
         ∧ (∀ c, c1 = some c → isBridge s x = true → (∀ t < 8, u.sw.limit.get (k, t, true) 0 = c.cl.getD t 0 % 65536) ∧ u.sw.limit.get (k, 8, true) 0 = c.pool % 65536)
         ∧ (c1 = none ∨ isBridge s x = false → ∀ t, u.sw.limit.get (k, t, true) 0 = s.sw.limit.get (k, t, true) 0)
         ∧ (∀ j t v, j ≠ k → u.sw.limit.get (j, t, v) 0 = s.sw.limit.get (j, t, v) 0)
         ∧ linkOf u x = { linkOf s x with creditRx := true } ∧ (∀ y, y ≠ x → linkOf u y = linkOf s y)
         ∧ u = { s with sw := { s.sw with limit := u.sw.limit }, links := u.links })
       ∧ ((512 ≤ x ∧ x < 544) ∨ isBridge s x = true → ∃ u, exec (.pcredit x capo vc cl) s = .next u ∧ u = { s with sw := { s.sw with pLimit := u.sw.pLimit } }
           ∧ ∀ j, u.sw.pLimit.get j 0 = if j = (k, capo, vc) then cl % 65536 else s.sw.pLimit.get j 0)
       ∧ (x < 512 ∨ 544 ≤ x → isBridge s x = false → exec (.pcredit x capo vc cl) s = .next s)
       ∧ ∃ u v0 v1 l, exec (.creditSend x) s = .next u ∧ u.out = s.out ++ Out.link x (.credit v0 v1) :: l ∧ v1.isSome = isBridge s x
           ∧ (∀ t < 8, v0.cl.getD t 0 = (s.sw.freed.get (k, t, false) 0 + if brolaEnd x then 16 else dNow u (linkInput x).1 (linkInput x).2 t) % 65536)
           ∧ v0.pool = (s.sw.freed.get (k, 8, false) 0 + if brolaEnd x then 128 else landPool u (linkInput x).1 (linkInput x).2) % 65536
           ∧ linkOf u x = { linkOf s x with creditTx := true } ∧ u = { s with out := u.out, sw := { s.sw with dEff := u.sw.dEff }, links := u.links })
    ∧ (∀ (s : State) (str tc : Nat) (vc : Bool) (q : QPkt) (r : List QPkt) (h : BulkHdr) (ps : List Pkt) (p : Pkt) (o : Nat) (v : Bool), isBridge s str = true →
        (queueOf s (str / 128) (str % 128) tc vc = q :: r → q.enq + brgClose s.prog.eff ≤ s.clk.now →
            ∃ u, exec (.bulkClose str tc vc) s = .next u ∧ (∀ k, k ∈ u.sw.bulkReady ↔ k = (str, tc, vc) ∨ k ∈ s.sw.bulkReady)
              ∧ u = { s with sw := { s.sw with bulkReady := u.sw.bulkReady } })
          ∧ (queueOf s (str / 128) (str % 128) tc vc = q :: r → s.clk.now < q.enq + brgClose s.prog.eff → exec (.bulkClose str tc vc) s = .next s)
          ∧ (queueOf s (str / 128) (str % 128) tc vc = [] → exec (.bulkClose str tc vc) s = .next s)
          ∧ (∀ bcrc, bcrc ≠ bulkCrc h → ∃ u, exec (.bulkReceive str h ps bcrc) s = .next u ∧ count u .brgBulkErr [str] = min (count s .brgBulkErr [str] + 1) ctrMax
              ∧ u = { s with ctr := u.ctr, sw := { s.sw with freed := u.sw.freed } }
              ∧ (h.tc < 8 → u.sw.freed.get (str, h.tc, h.vc) 0 + u.sw.freed.get (str, 8, h.vc) 0
                  = s.sw.freed.get (str, h.tc, h.vc) 0 + s.sw.freed.get (str, 8, h.vc) 0 + (h.bytes + 64 + 255) / 256))
          ∧ (h.bytes = pktBytes p → h.count = 1 → h.bytes ≤ 65536 → pktOk p = true → firstRefuses s (str / 128) (str % 128) p = false →
              route s (str / 128) (str % 128) p h.vc = .to (str / 128) o v → o ≠ 255 →
              ∃ u x, exec (.bulkReceive str h [p] (bulkCrc h)) s = .next u ∧ u.sw.landing = s.sw.landing ++ [x] ∧ x.p = p ∧ x.vcIn = h.vc
                ∧ x.ret = some ((64 + pktBytes p + 255) / 256) ∧ u.out = s.out ∧ u.sw.queues = s.sw.queues))

/-! Requests at their responders. -/

/-- R55, R61, R63, R72, R75: every request command whose opcode it is: a header that fails its check is counted and dropped; a copy of a request
that still executes is absorbed; a non-idempotent request that its duplicate entry knows completes DUPLICATE with the original status and
result; a request of an illegal format that no step stops before completes ACC_DENIED. None of them has another effect. -/
def Obligations.RequestsStopEarly : Prop :=
  ∀ (s : State) (r : Req) (n : Nat) (x : Running) (e : DupEntry) (c : Nat × (Req → Via → Instr)), c ∈ requestCommands → r.op = c.1 →
    (hdrOk r = false → exec (c.2 r (.brola n)) s = .next { s with ctr := s.ctr.set (.brlHdrErr, [n]) (min (count s .brlHdrErr [n] + 1) ctrMax) })
      ∧ (hdrOk r = true → s.brola.asg = none → exec (c.2 r (.brola n)) s = .next s)
      ∧ (hdrOk r = true → s.brola.asg ≠ none → formatOk s .brola r = true → findRunning s .brola r = some x →
          exec (c.2 r (.brola n)) s = .next (setRunning s .brola { x with absorbed := x.absorbed + 1 }))
      ∧ (hdrOk r = true → s.brola.asg ≠ none → formatOk s .brola r = true → findRunning s .brola r = none → opIdem r.op = false →
          findDup s .brola r = some e → e.hcrc = dupCrc r →
          exec (c.2 r (.brola n)) s = .next { s with out := s.out
            ++ [.cmp { cmpOf r (brolaSrc s) .duplicate with origStatus := e.status, result := e.result }] })
      ∧ (hdrOk r = true → s.brola.asg ≠ none → formatOk s .brola r = false → findRunning s .brola r = none → opIdem r.op = true →
          oldestFinal s .brola r.src r.epoch = none →
          ∃ u, exec (c.2 r (.brola n)) s = .next u ∧ u.out = s.out ++ [.cmp (cmpOf r (brolaSrc s) .accDenied)]
            ∧ u = { s with ctr := u.ctr, out := u.out })

/-- R62, R63, R70, R79, R115: at a leaf whose windows grant it, LD answers the bytes of a clean range and changes nothing; of a range with an
error it answers that error's address and no data; ST writes its bytes, and no other byte, and is counted once for its pair; where no window
grants the first byte both complete ACC_DENIED and memory keeps its bytes.

R58, R59, R101, R102, R115: an atomic at a leaf whose windows grant it, on a clean word, returns the old word and leaves the new one; no
other byte changes. The word is r.len bytes; AMAX and AMIN compare signed where ATTR says so. -/
def Obligations.LeafMemoryOps : Prop :=
  (∀ (s : State) (r : Req) (n j : Nat), entersBrola s r → ownLeaf s r.addr = true → Memory.wf s.brola.mem = true →
     let a := aOff r.addr
     let k := countOf s .brola r.src r.epoch
     let fresh := ∀ c, k = some c → ∀ x ∈ c.seen, x.1 = r.seq → x.2 + 16000000 ≤ s.brola.now
     (r.op = 1 → leafRefusal s r = none → clean s.brola.poison s.brola.latent a r.len →
         exec (.ld r (.brola n)) s = .next { s with out := s.out ++
           [.cmp { cmpOf r (brolaSrc s) .ok with len := r.len, data := Memory.readN s.brola.mem a r.len }] })
       ∧ (r.op = 1 → leafRefusal s r = none → ∀ st w, findBad s.brola.poison s.brola.latent a r.len = some (st, w) →
         ∃ u, exec (.ld r (.brola n)) s = .next u ∧ u.brola.mem = s.brola.mem
           ∧ u.out = s.out ++ [.cmp { cmpOf r (brolaSrc s) st with errAddr := r.addr + BitVec.ofNat 64 (8 * w - a) }])
       ∧ (r.op = 2 → leafRefusal s r = none → r.data.length = r.len →
         ∃ u, exec (.st r (.brola n)) s = .next u ∧ u.out = s.out ++ [.cmp (cmpOf r (brolaSrc s) .ok)]
           ∧ (∀ i, Memory.read u.brola.mem i = if a ≤ i ∧ i < a + r.len then r.data.getD (i - a) 0 else Memory.read s.brola.mem i)
           ∧ (k = none → countFree s .brola r = true → (countOf u .brola r.src r.epoch).map (·.n) = some 1)
           ∧ (∀ c, k = some c → fresh → (countOf u .brola r.src r.epoch).map (·.n) = some (c.n + 1))
           ∧ (∀ c, k = some c → ¬ fresh → (countOf u .brola r.src r.epoch).map (·.n) = some c.n)
           ∧ u = { s with out := u.out, free := u.free, brola := { s.brola with
               mem := u.brola.mem, poison := u.brola.poison, latent := u.brola.latent, resp := u.brola.resp } })
       ∧ ((r.op = 1 ∨ r.op = 2) → permitted s (permOf r.op) a = false →
         ∃ u, exec (if r.op = 1 then .ld r (.brola n) else .st r (.brola n)) s = .next u ∧ u.out = s.out ++ [.cmp (cmpOf r (brolaSrc s) .accDenied)]
           ∧ Memory.read u.brola.mem j = Memory.read s.brola.mem j ∧ u.brola.poison = s.brola.poison))
    ∧ (∀ (s : State) (r : Req) (n : Nat), entersBrola s r → ownLeaf s r.addr = true → aKind r.addr = 0 → leafRefusal s r = none →
        clean s.brola.poison s.brola.latent (aOff r.addr) r.len → Memory.wf s.brola.mem = true →
        let k := aOff r.addr
        let m := 2 ^ (8 * r.len)
        let old := Memory.readLe s.brola.mem k r.len
        let a := r.op0.toNat % m
        let b := r.op1.toNat % m
        let below := fun x y => if bit r.attr 1 then decide (signed x (8 * r.len) < signed y (8 * r.len)) else decide (x < y)
        let gives := fun (op : Nat) (i : Instr) (new : Nat) => r.op = op → ∃ u, exec i s = .next u
          ∧ u.out = s.out ++ [.cmp { cmpOf r (brolaSrc s) .ok with result := BitVec.ofNat 64 old }]
          ∧ (∀ i, Memory.read u.brola.mem i = if k ≤ i ∧ i < k + r.len then (leBytes r.len new).getD (i - k) 0 else Memory.read s.brola.mem i)
          ∧ u = { s with out := u.out, ctr := u.ctr, brola := { s.brola with mem := u.brola.mem, resp := u.brola.resp } }
          ∧ ∃ e ∈ u.brola.resp.dups, e.src = r.src ∧ e.tc = r.tc ∧ e.seq = r.seq ∧ e.hcrc = dupCrc r ∧ e.status = .ok ∧ e.made = s.brola.now
        gives 0x10 (.aadd r (.brola n)) ((old + a) % m) ∧ gives 0x11 (.aand r (.brola n)) (old &&& a) ∧ gives 0x12 (.aor r (.brola n)) (old ||| a)
          ∧ gives 0x13 (.axor r (.brola n)) (old ^^^ a) ∧ gives 0x14 (.aswap r (.brola n)) a
          ∧ gives 0x15 (.acas r (.brola n)) (if old = a then b else old) ∧ gives 0x16 (.amax r (.brola n)) (if below old a then a else old)
          ∧ gives 0x17 (.amin r (.brola n)) (if below a old then a else old) ∧ gives 0x18 (.fadd32 r (.brola n)) (fpAddEnc fp32 old a)
          ∧ gives 0x19 (.faddb16 r (.brola n)) (fpAddEnc bf16 old a))

/-- R76, R77, R79, R164, R316, R391: a page that this member serves: LD of a clean range whose newest write the twin holds answers its bytes;
ST writes its bytes and no other; while the twin serves and holds a copy, an MWRITE with the bytes waits to be sent to it, on its port at once where
no earlier message of the page takes another path, and ST does not complete before that is confirmed; without a twin it completes at once. A region that is read-only, or a declared window, refuses the store.

R58, R59, R101, R102, R316: an atomic on a page that this member serves, outside windows, on a clean word and with no twin to hold a copy,
returns the old word and leaves the new one, and no other byte changes; on a word with an error it completes with that error and
changes no byte. -/
def Obligations.PageMemoryOps : Prop :=
  (∀ (s : State) (r : Req) (v : Via) (g : Region) (k : Nat) (m : Bool), entersKojor s r v → pageHere s r v g k m → Memory.wf s.mem.phys = true →
     let free := g.ro = false ∧ windowAt s r.capo (aOff r.addr) r.len = none
     let stored := fun (u : State) => ∀ i, Memory.read u.mem.phys i = if k ≤ i ∧ i < k + r.len then r.data.getD (i - k) 0 else Memory.read s.mem.phys i
     (r.op = 1 → clean s.mem.poison s.mem.latent k r.len → loadUnheld s g r = false →
         ∃ u, exec (.ld r v) s = .next u ∧ u.mem.phys = s.mem.phys ∧ u = { entryState s r v with out := u.out, ctr := u.ctr, mem := { s.mem with rcache := u.mem.rcache } }
           ∧ u.out = s.out ++ [.cmp { cmpOf r (mySrc s) .ok with len := r.len, data := Memory.readN s.mem.phys k r.len }])
       ∧ (r.op = 2 → free → mirrorOn s = false → s.course.alone = false → r.data.length = r.len →
         ∃ u, exec (.st r v) s = .next u ∧ stored u ∧ Out.cmp (cmpOf r (mySrc s) .ok) ∈ u.out ∧ u.str = { s.str with waits := u.str.waits }
           ∧ u.prog = s.prog ∧ u.brola = s.brola)
       ∧ (r.op = 2 → free → mirrorOn s = true → m = true → mirrorFull s r.capo = false → r.data.length = r.len →
         let b := MirrorBody.mwrite (copyKey g (aOff r.addr) (!isMine s (aOff r.addr))) r.data r.poison none
         ∃ (u : State) (q : Nat), exec (.st r v) s = .next u ∧ stored u ∧ u.out = s.out ∧ (∃ x ∈ u.course.unconf, x.mseq = q ∧ x.body = b)
           ∧ (pathBusy s.course.unconf b (mirrorPath s (viaSx v) (aOff r.addr / 4096)) = false → mirrorWaits u q b)
           ∧ ∃ x ∈ u.resp.running, x.r = r ∧ x.awaits = [q] ∧ x.done = some (cmpOf r (mySrc s) .ok))
       ∧ (r.op = 2 → ¬ free →
         ∃ u, exec (.st r v) s = .next u ∧ u.mem.phys = s.mem.phys ∧ u.out = s.out ++ [.cmp (cmpOf r (mySrc s) .accDenied)]))
    ∧ (∀ (s : State) (r : Req) (v : Via) (g : Region) (k : Nat) (c : Nat × (Req → Via → Instr)), entersKojor s r v → pageHere s r v g k false →
        c ∈ requestCommands → r.op = c.1 → opIsAtomic r.op = true → g.ro = false → windowAt s r.capo (aOff r.addr) r.len = none →
        mirrorOn s = false → s.course.alone = false → Memory.wf s.mem.phys = true →
        let old := Memory.readLe s.mem.phys k r.len
        let new := atomicNew r.op (bit r.attr 1) r.len old r.op0.toNat r.op1.toNat
        (clean s.mem.poison s.mem.latent k r.len → ∃ u, exec (c.2 r v) s = .next u
            ∧ Out.cmp { cmpOf r (mySrc s) .ok with result := BitVec.ofNat 64 old } ∈ u.out
            ∧ ∀ i, Memory.read u.mem.phys i = if k ≤ i ∧ i < k + r.len then (leBytes r.len new).getD (i - k) 0 else Memory.read s.mem.phys i)
          ∧ ∀ st w, findBad s.mem.poison s.mem.latent k r.len = some (st, w) → ∃ u, exec (c.2 r v) s = .next u ∧ u.mem.phys = s.mem.phys
            ∧ Out.cmp { cmpOf r (mySrc s) st with errAddr := r.addr } ∈ u.out)

/-- R58, R119, R120, R280, R291: flags, counters and words of control space, at a leaf and at this Kojor with no twin to tell: each operation
returns the prior value; FSET sets its flag, FCLR clears its flag or counter, AADD on a counter adds OPERAND0 modulo 2^64; FTEST of any location
changes nothing. No other location changes. -/
def Obligations.ControlSpaceOps : Prop :=
  (∀ (s : State) (r : Req) (n : Nat) (l : LfLoc), entersBrola s r → ownLeaf s r.addr = true → aKind r.addr = 4 → kindReserved r.addr = false →
    lfLoc (aOff r.addr % 2 ^ 45) = some l → lfAccepts l r = true → (∀ f, l = .flag f → f ∉ s.brola.ctlLatent ∧ f ∉ s.brola.ctlPoison) →
    let sent := [Out.cmp { cmpOf r (brolaSrc s) .ok with result := BitVec.ofNat 64 (lfWord s l) }]
    let only := fun (u : State) => u.out = s.out ++ sent ∧ u = { s with out := u.out, ctr := u.ctr, brola := { s.brola with
      flags := u.brola.flags, ctrs := u.brola.ctrs, errs := u.brola.errs, resp := u.brola.resp } }
    (r.op = 0x32 → exec (.ftest r (.brola n)) s = .next { s with out := s.out ++ sent })
      ∧ (∀ f, l = .flag f →
          (r.op = 0x30 → ∃ u, exec (.fset r (.brola n)) s = .next u ∧ only u ∧ u.brola.ctrs = s.brola.ctrs ∧ u.brola.errs = s.brola.errs
            ∧ ∀ j, u.brola.flags.get j false = if j = f then true else s.brola.flags.get j false)
          ∧ (r.op = 0x31 → ∃ u, exec (.fclr r (.brola n)) s = .next u ∧ only u ∧ u.brola.ctrs = s.brola.ctrs ∧ u.brola.errs = s.brola.errs
            ∧ ∀ j, u.brola.flags.get j false = if j = f then false else s.brola.flags.get j false))
      ∧ (∀ k, l = .ctr k →
          (r.op = 0x31 → ∃ u, exec (.fclr r (.brola n)) s = .next u ∧ only u ∧ u.brola.flags = s.brola.flags
            ∧ ∀ j, u.brola.ctrs.get j 0 = if j = k then 0 else s.brola.ctrs.get j 0)
          ∧ (r.op = 0x10 → ∃ u, exec (.aadd r (.brola n)) s = .next u ∧ only u ∧ u.brola.flags = s.brola.flags
            ∧ ∀ j, u.brola.ctrs.get j 0 = if j = k then s.brola.ctrs.get j 0 + r.op0 else s.brola.ctrs.get j 0)))
  ∧ ∀ (s : State) (r : Req) (v : Via) (l : SwLoc), entersKojor s r v → aKind r.addr = 4 → aSwitch r.addr = true → kindReserved r.addr = false → zerosOk r.addr = true →
    ctlHere s r.addr = true → swLoc (aOff r.addr % 2 ^ 45) = some l → swAccepts l r = true → mirrorOn s = false → s.course.alone = false →
    flagBad s (ctlMember r.addr) r.capo l = false →
    let m := ctlMember r.addr
    let sent := [Out.cmp { cmpOf r (mySrc s) .ok with result := BitVec.ofNat 64 (swWord s m r.capo l) }]
    let only := fun (u : State) => (∃ a b, u.out = a ++ sent ++ b) ∧ u.mem = s.mem ∧ u.brola = s.brola ∧ u.wins = s.wins ∧ u.str = { s.str with waits := u.str.waits }
    (r.op = 0x32 → exec (.ftest r v) s = .next { entryState s r v with out := s.out ++ sent })
      ∧ (∀ f, l = .flag f →
          (r.op = 0x30 → ∃ u, exec (.fset r v) s = .next u ∧ only u ∧ (∀ j, ctrOf u j = ctrOf s j) ∧ ∀ j, flagOf u j = if j = (m, r.capo, f) then true else flagOf s j)
          ∧ (r.op = 0x31 → ∃ u, exec (.fclr r v) s = .next u ∧ only u ∧ (∀ j, ctrOf u j = ctrOf s j) ∧ ∀ j, flagOf u j = if j = (m, r.capo, f) then false else flagOf s j))
      ∧ ∀ k, l = .ctr k →
          (r.op = 0x31 → ∃ u, exec (.fclr r v) s = .next u ∧ only u ∧ (∀ j, flagOf u j = flagOf s j) ∧ ∀ j, ctrOf u j = if j = (m, r.capo, k) then 0 else ctrOf s j)
          ∧ (r.op = 0x10 → ∃ u, exec (.aadd r v) s = .next u ∧ only u ∧ (∀ j, flagOf u j = flagOf s j)
              ∧ ∀ j, ctrOf u j = if j = (m, r.capo, k) then ctrOf s j + r.op0 else ctrOf s j)

/-- R292 to R295, Table 10-4: a barrier of one domain with no twin to tell: the first arrival that states the group's size opens it and is
held; a matching arrival that reaches the count releases every one held, in the same step, and the counter is idle with N = 0; one of another
epoch or size poisons the barrier, and it and every one held complete COLL_MISMATCH; at a poisoned barrier an arrival completes
COLL_MISMATCH and at an expired one TIMEOUT; a barrier that counts for the capo's barrier timeout expires, and recovers after its
completion timeout. -/
def Obligations.BarriersCount : Prop :=
  (∀ (s : State) (r : Req) (v : Via) (g e : Nat), entersKojor s r v → r.op = 0x34 → aKind r.addr = 4 → aSwitch r.addr = true → kindReserved r.addr = false → zerosOk r.addr = true →
    ctlHere s r.addr = true → swLoc (aOff r.addr % 2 ^ 45) = some (.bar g) → r.group = g → groupEntry s.prog.eff g r.capo = some e → grpXdom e = false →
    mirrorOn s = false → s.course.alone = false → barFree s (ctlMember r.addr, r.capo, g) = true →
    let k := (ctlMember r.addr, r.capo, g)
    let b := barOf s k
    let answered := fun (u : State) (q : Req) (st : Status) => ∃ c, Out.cmp c ∈ u.out ∧ c.status = st ∧ c.dst = q.src ∧ c.tc = q.tc ∧ c.seq = q.seq
    (b.st = .idle → r.op0 = BitVec.ofNat 64 (grpNtot e) → grpNtot e < 2 ^ 32 → 1 < grpNloc e →
        ∃ u, exec (.barr r v) s = .next u ∧ (barOf u k).st = .counting ∧ (barOf u k).n = 1 ∧ (barOf u k).epoch = r.epoch ∧ (barOf u k).held = [(r, v)]
          ∧ (barOf u k).openedAt = s.clk.now ∧ u.out = s.out)
      ∧ (b.st = .counting → r.epoch = b.epoch → wbits r.op0 0 32 = b.stated → b.up = false → b.n + 1 = grpNloc e →
        ∃ u, exec (.barr r v) s = .next u ∧ (barOf u k).st = .idle ∧ (barOf u k).n = 0 ∧ (barOf u k).held = [] ∧ answered u r .ok
          ∧ (∀ h ∈ b.held, answered u h.1 .ok) ∧ ∀ j, j ≠ k → barOf u j = barOf s j)
      ∧ (b.st = .counting → (r.epoch ≠ b.epoch ∨ wbits r.op0 0 32 ≠ b.stated) →
        ∃ u, exec (.barr r v) s = .next u ∧ (barOf u k).st = .poisoned ∧ answered u r .collMismatch ∧ ∀ h ∈ b.held, answered u h.1 .collMismatch)
      ∧ (b.st = .poisoned → ∃ u, exec (.barr r v) s = .next u ∧ answered u r .collMismatch ∧ barOf u k = b)
      ∧ (b.st = .expired → ∃ u, exec (.barr r v) s = .next u ∧ answered u r .timeout ∧ barOf u k = b))
  ∧ ∀ (s : State) (m : Bool) (capo g : Nat), mirrorOn s = false → s.course.alone = false → barOf s (!m, capo, g) = {} →
    let k := (m, capo, g)
    let b := barOf s k
    (b.st = .counting → b.openedAt + capoBto s.prog.eff capo * 1000000 ≤ s.clk.now →
        ∃ u, exec (.barrierTimeout capo g) s = .next u ∧ (barOf u k).st = .expired ∧ (barOf u k).held = []
          ∧ ∀ h ∈ b.held, ∃ c, Out.cmp c ∈ u.out ∧ c.status = .timeout ∧ c.dst = h.1.src ∧ c.seq = h.1.seq)
      ∧ ((b.st ≠ .counting ∨ s.clk.now < b.openedAt + capoBto s.prog.eff capo * 1000000) → exec (.barrierTimeout capo g) s = .next s)
      ∧ (b.st = .poisoned ∨ b.st = .expired → b.changedAt + capoCto s.prog.eff capo * 1000 ≤ s.clk.now →
        ∃ u, exec (.barrierRecover capo g) s = .next u ∧ barOf u k = {} ∧ u.out = s.out ∧ ∀ j, j ≠ k → barOf u j = barOf s j)
      ∧ (b.st = .idle ∨ b.st = .counting → exec (.barrierRecover capo g) s = .next s)

/-- R44, R175 to R177: a multicast store to a reserved KIND completes UNREACHABLE, one without a leaf of its capo CAPO_VIOLATION; else one copy is issued for each leaf of the set; when
half the completion timeout has run, the copies without a completion have failed, the store is over and completes PARTIAL_MCAST with the
number delivered. R121, R122: a copy descriptor that passes its checks joins the queue and completes OK, at a leaf and at a Kojor; a full
queue answers RETRY after 10 µs; a free engine takes the next descriptor. -/
def Obligations.MulticastsAndCopies : Prop :=
  (∀ (s : State) (r : Req) (v : Via), entersKojor s r v → r.op = 0x28 → kindReserved r.addr = true →
    ∃ u, exec (.mst r v) s = .next u ∧ u.out = s.out ++ [.cmp (cmpOf r (mySrc s) .unreachable)] ∧ u.mcasts = s.mcasts)
  ∧ (∀ (s : State) (r : Req) (v : Via), entersKojor s r v → r.op = 0x28 → kindReserved r.addr = false → zerosOk r.addr = true →
    let l := mcastSet s r.addr r.capo
    (l = [] → ∃ u, exec (.mst r v) s = .next u ∧ u.out = s.out ++ [.cmp (cmpOf r (mySrc s) .capoViolation)] ∧ u.mcasts = s.mcasts)
      ∧ (l ≠ [] → ∃ u, exec (.mst r v) s = .next u ∧ u.sw.nextMc = s.sw.nextMc + 1 ∧ u.rq.nextId = s.rq.nextId + l.length ∧ u.mem = s.mem ∧ u.str = s.str))
  ∧ (∀ (s : State) (m : Mcast) (x : Running), s.mcasts = [m] → m.waiting ≠ [] → findRunning s .kojor m.r = some x →
    (m.arrived + capoCto s.prog.eff m.r.capo * 500 ≤ s.clk.now →
        ∃ u c, exec (.mcastCopyTimeout m.id) s = .next u ∧ u.mcasts = [] ∧ Out.cmp c ∈ u.out ∧ c.status = .partialMcast ∧ c.delivered = m.delivered.length
          ∧ c.dst = m.r.src ∧ c.seq = m.r.seq)
      ∧ (s.clk.now < m.arrived + capoCto s.prog.eff m.r.capo * 500 → exec (.mcastCopyTimeout m.id) s = .next s))
  ∧ (∀ (s : State) (r : Req) (n : Nat), entersBrola s r → r.op = 0x38 → ownLeaf s r.addr = true → lfLoc (aOff r.addr % 2 ^ 45) = some .copyQ → copyBadB s r = none →
    (s.brola.copyQ.length < 1024 → ∃ u, exec (.cpyd r (.brola n)) s = .next u ∧ u.brola.copyQ = s.brola.copyQ ++ [r]
        ∧ u.out = s.out ++ [.cmp (cmpOf r (brolaSrc s) .ok)] ∧ u.brola.mem = s.brola.mem)
      ∧ (1024 ≤ s.brola.copyQ.length → ∃ u, exec (.cpyd r (.brola n)) s = .next u ∧ u.brola.copyQ = s.brola.copyQ
        ∧ u.out = s.out ++ [.cmp { cmpOf r (brolaSrc s) .retry with retryAfter := 10 }]))
  ∧ (∀ (s : State) (r : Req) (v : Via), entersKojor s r v → r.op = 0x38 → kindReserved r.addr = false → aSwitch r.addr = true → zerosOk r.addr = true → ctlHere s r.addr = true →
    swLoc (aOff r.addr % 2 ^ 45) = some .copyQ → copyBadK s r v = none → mirrorOn s = false → s.course.alone = false →
    (deferred s r.capo = false → ∃ u, exec (.cpyd r v) s = .next u ∧ u.ctl.copyQ = s.ctl.copyQ ++ [r] ∧ u.out = s.out ++ [.cmp (cmpOf r (mySrc s) .ok)])
      ∧ (deferred s r.capo = true → ∃ u, exec (.cpyd r v) s = .next u ∧ u.ctl.copyQ = s.ctl.copyQ ∧ u.out = s.out ++
        [.cmp { cmpOf r (mySrc s) .energyDefer with retryAfter := (1000000 - s.clk.now % 1000000) / 1000 + 1 }]))
  ∧ ∀ (s : State) (r : Req) (t : List Req), s.brola.copyQ = r :: t →
    (s.brola.copies.length < 16 → ∃ u, exec (.copyStart .brola) s = .next u ∧ u.brola.copyQ = t ∧ u.brola.nextCopy = s.brola.nextCopy + 1
        ∧ (∃ x ∈ u.brola.copies, x.id = s.brola.nextCopy ∧ x.desc = r) ∧ u.brola.mem = s.brola.mem)
      ∧ (16 ≤ s.brola.copies.length → exec (.copyStart .brola) s = .next s)

/-- R96, R126, R127, R204, R314, R325, R326: an INV of leaf lines commands the accelerator's discard and waits for it; one of translations that no
outstanding request uses drops every copy in its range and completes, and waits its turn while 32 are processed (log entry 173); one of SCOPE 0b10 drains, and when both members have drained completes. A PFA on a
declared window is refused; one that passes its checks runs over this member's pages; PFA_COMPLETE performs what remains, in a window of its capo (log entry 156), and with no twin it then completes. -/
def Obligations.InvalidatesAndPagesAhead : Prop :=
  (∀ (s : State) (r : Req) (n : Nat), entersBrola s r → r.op = 0x3C → ownLeaf s r.addr = true →
    (∃ l, lfLoc (aOff r.addr % 2 ^ 45) = some l ∧ lfAccepts l r = true) →
    (r.attr % 4 = 0 → ∃ u, exec (.invLeafLines r (.brola n)) s = .next u ∧ u.out = s.out ++ [.discard s.brola.nextDiscard r.op0.toNat r.op1.toNat]
        ∧ (∃ x ∈ u.brola.resp.running, x.r = r ∧ x.why = .discard s.brola.nextDiscard) ∧ u.brola.mem = s.brola.mem)
      ∧ (r.attr % 4 = 1 → invRoom s = false → ∃ u, exec (.invTranslation r (.brola n)) s = .next u ∧ u.out = s.out ∧ u.brola.xlates = s.brola.xlates
        ∧ u.brola.atsInv = s.brola.atsInv ++ [{ inv := some (r, .brola n), lo := r.op0.toNat, len := r.op1.toNat }])
      ∧ (r.attr % 4 = 1 → invRoom s = true → (dropXlates s r.op0.toNat r.op1.toNat).2 = [] →
        ∃ u, exec (.invTranslation r (.brola n)) s = .next u ∧ u.out = s.out ++ [.cmp (cmpOf r (brolaSrc s) .ok)] ∧ u.brola.mem = s.brola.mem
          ∧ ∀ x, x ∈ u.brola.xlates ↔ x ∈ s.brola.xlates ∧ overlap r.op0.toNat r.op1.toNat x.2.vbase x.2.size = 0))
  ∧ (∀ (s : State) (r : Req) (v : Via), entersKojor s r v → r.op = 0x3C → r.attr % 4 = 2 → kindReserved r.addr = false → zerosOk r.addr = true →
    ctlHere s r.addr = true → (∃ l, swLoc (aOff r.addr % 2 ^ 45) = some l ∧ swAccepts l r = true) → mirrorOn s = false →
    ∃ u, exec (.invRegionCache r v) s = .next u ∧ u.mem = { s.mem with drains := s.mem.drains ++ [{ r := r, v := v }] } ∧ u.out = s.out
      ∧ ∃ x ∈ u.resp.running, x.r = r ∧ x.why = .drain)
  ∧ (∀ (s : State) (d : Drain) (t : List Drain), s.mem.drains = d :: t → oldestFinal s .kojor d.r.src d.r.epoch = none →
    (drainBusy s d.r = true → exec (.invDrainComplete d.r.src d.r.tc d.r.seq) s = .next s)
      ∧ (drainBusy s d.r = false → s.course.twinUp = false → opIdem d.r.op = true →
        ∃ u, exec (.invDrainComplete d.r.src d.r.tc d.r.seq) s = .next u ∧ Out.cmp (cmpOf d.r (mySrc s) .ok) ∈ u.out
          ∧ ∀ x ∈ u.mem.drains, sameReq x.r d.r = false))
  ∧ (∀ (s : State) (r : Req) (v : Via) (c : Req → Via → Instr), entersKojor s r v → r.op = 0x3E →
    ((r.attr % 16 = 0 ∧ c = .pfaFetch) ∨ (r.attr % 16 = 1 ∧ c = .pfaZero) ∨ (r.attr % 16 = 2 ∧ c = .pfaScrub)) →
    kindReserved r.addr = false → zerosOk r.addr = true → scratchWin (aOff r.addr) = none → tierOf (aOff r.addr) ≠ none → mirrorOn s = false →
    (∀ a, pfaXlate s r = some a → ∃ u, exec (c r v) s = .next u ∧ u.mem = s.mem ∧ u.out = s.out ++ [.cmp { cmpOf r (mySrc s) .xlateFault with errAddr := a }])
      ∧ (pfaXlate s r = none → (∀ i ∈ pfaMine s r, pfaGone s r i = false) →
        (windowAt s r.capo (aOff r.op0) r.op1.toNat).isSome = true → ∃ u, exec (c r v) s = .next u ∧ u.mem = s.mem
          ∧ u.out = s.out ++ [.cmp (cmpOf r (mySrc s) .accDenied)])
      ∧ (pfaXlate s r = none → (∀ i ∈ pfaMine s r, pfaGone s r i = false) →
        windowAt s r.capo (aOff r.op0) r.op1.toNat = none → deferred s r.capo = false →
        ∃ u, exec (c r v) s = .next u ∧ u.mem = { s.mem with pfas := s.mem.pfas ++ [{ r := r, v := v, left := pfaMine s r, twinDone := true }] } ∧ u.out = s.out))
  ∧ ∀ (s : State) (p : PfaRun) (t : List PfaRun) (i : Nat) (g h : Region), s.mem.pfas = p :: t → p.left = [i] → p.twinDone = true → p.waits = [] → partyOf p.v = .kojor → p.r.op = 0x3E →
    pfaGone s p.r i = false → windowAt s p.r.capo (pfaOff p.r.op0 i) 4096 = none →
    calFits s 0 135 p.r.capo 0 = true → oldestFinal s .kojor p.r.src p.r.epoch = none → p.r.attr % 16 = 1 → Memory.wf s.mem.phys = true → h.mir = false →
    regionAt s.prog.eff p.r.capo (pfaOff p.r.addr i / 4096) = some g → regionAt s.prog.eff p.r.capo (pfaOff p.r.op0 i / 4096) = some h →
    let kd := copyKey h (pfaOff p.r.op0 i) (isMine s (pfaOff p.r.op0 i))
    ∃ u, exec (.pfaComplete p.r.src p.r.tc p.r.seq) s = .next u ∧ Out.cmp (cmpOf p.r (mySrc s) .ok) ∈ u.out
      ∧ ∀ a, Memory.read u.mem.phys a = if kd ≤ a ∧ a < kd + 4096 then 0 else Memory.read s.mem.phys a

/-- R200, R204, R205, R208, R300, Table 7-7: a contribution to a declared window of an RT in service, in an unmirrored region: into an idle window
it opens an instance of its EPOCH and FMT and its bytes are counted on its lines; an EACH window completes it OK at once and a HOLD window holds
it; one of another EPOCH in an active instance poisons it and completes COLL_MISMATCH; outside every window it completes ACC_DENIED, at a
poisoned one COLL_MISMATCH, and at an expired one it has no completion. -/
def Obligations.ContributionsArrive : Prop :=
  ∀ (s : State) (r : Req) (v : Via) (g : Region) (i : Req → Via → Instr), entersKojor s r v → ((r.op = 0x20 ∧ i = .rst) ∨ (r.op = 0x21 ∧ i = .rstx)) →
    kindReserved r.addr = false → zerosOk r.addr = true → scratchWin (aOff r.addr) = none → tierOf (aOff r.addr) ≠ none →
    regionAt s.prog.eff r.capo (aOff r.addr / 4096) = some g → g.mir = false → cached s (viaSx v) r.capo g.rid = true → isMine s (aOff r.addr) = true →
    mirrorOn s = false → s.course.alone = false →
    let off := aOff r.addr
    let up := fun (l : List Nat) => rtUp s (pageRt (cacheTouch s (viaSx v) r.capo g.rid) l r.capo off) = true
    let answered := fun (u : State) (st : Status) => ∃ c, Out.cmp c ∈ u.out ∧ c.status = st ∧ c.dst = r.src ∧ c.tc = r.tc ∧ c.seq = r.seq
    (winAt s r.capo off = none → up [] → ∃ u, exec (i r v) s = .next u ∧ answered u .accDenied ∧ u.wins = s.wins ∧ u.mem.phys = s.mem.phys)
      ∧ ∀ w, winAt s r.capo off = some w → winOf s w.d.wid = some w → up w.rtOut → off + r.len ≤ w.d.base + w.d.lenp * 4096 → winDenies w r = false →
        deferred s r.capo = false →
        (w.st = .idle → w.lastF ≠ some r.epoch → winMismatch (openInst s w r) r (off - w.d.base) = false → heldUsed s r.capo < poolPart s 262144 r.capo →
            ∃ u w', exec (i r v) s = .next u ∧ winOf u w.d.wid = some w' ∧ (w'.st = .active ∨ w'.st = .finalising) ∧ w'.epoch = r.epoch ∧ w'.fmt = r.attr % 16
              ∧ w'.exact = decide (r.op = 0x21) ∧ w'.d = w.d ∧ (∀ l ∈ lineBytes (off - w.d.base) r.len, (w'.lines.get l.1 {}).bytes = l.2)
              ∧ (w.d.each = true → answered u .ok ∧ w'.held = []) ∧ (w.d.each = false → u.out = s.out ∧ w'.held = [(r, v)]))
          ∧ (w.st = .active → r.epoch ≠ w.epoch → ∃ u w', exec (i r v) s = .next u ∧ winOf u w.d.wid = some w' ∧ w'.st = .poisoned ∧ w'.conflict = r.src
              ∧ w'.lines = [] ∧ w'.held = [] ∧ answered u .collMismatch)
          ∧ (w.st = .poisoned → ∃ u, exec (i r v) s = .next u ∧ answered u .collMismatch ∧ u.wins = s.wins)
          ∧ (w.st = .expired → ∃ u, exec (i r v) s = .next u ∧ u.out = s.out ∧ u.wins = s.wins ∧ u.resp = s.resp)

/-- R205 to R207, R283, Table 7-7: a finalised window counts its instance, keeps its EPOCH as the last, raises its arrival counter, and is idle again,
or gone if it does not rearm; one past its deadline expires, with every held contribution dropped; a poisoned or expired one recovers after the
capo's completion timeout. In any other state each of the three changes nothing. -/
def Obligations.WindowsEnd : Prop :=
  ∀ (s : State) (w : Window), winOf s w.d.wid = some w → mirrorOn s = false → s.course.alone = false →
    (w.st = .finalising → w.held = [] → w.waits = [] → (winPages w).any (winToWrite s w) = true →
        ∃ u, exec (.windowFinalised w.d.wid) s = .next u ∧ (∀ k, k ≠ w.d.wid → winOf u k = winOf s k)
          ∧ (w.d.rearm = true → ∃ w', winOf u w.d.wid = some w' ∧ w'.st = .idle ∧ w'.lastF = some w.epoch ∧ w'.finals = w.finals + 1 ∧ w'.lines = [] ∧ w'.d = w.d)
          ∧ (w.d.rearm = false → winOf u w.d.wid = none)
          ∧ (∀ k, ctrOf u k = if k = ((site s).memberB, w.d.capo, w.d.fctr) ∧ w.d.fctrInc ≠ 0 then ctrOf s k + BitVec.ofNat 64 w.d.fctrInc else ctrOf s k))
      ∧ ((w.st ≠ .finalising ∨ (winPages w).any (winToWrite s w) = false) → exec (.windowFinalised w.d.wid) s = .next s)
      ∧ (w.st = .active → w.deadlineNs ≠ 0 → w.openedAt + w.deadlineNs ≤ s.clk.now →
        ∃ u w', exec (.windowDeadline w.d.wid) s = .next u ∧ winOf u w.d.wid = some w' ∧ w'.st = .expired ∧ w'.lines = [] ∧ w'.held = [] ∧ u.out = s.out)
      ∧ ((w.st ≠ .active ∨ w.deadlineNs = 0 ∨ s.clk.now < w.openedAt + w.deadlineNs) → exec (.windowDeadline w.d.wid) s = .next s)
      ∧ ((w.st = .poisoned ∨ w.st = .expired) → w.changedAt + capoCto s.prog.eff w.d.capo * 1000 ≤ s.clk.now → w.d.rearm = true →
        ∃ u w', exec (.windowRecover w.d.wid) s = .next u ∧ winOf u w.d.wid = some w' ∧ w'.st = .idle ∧ w'.d = w.d ∧ u.out = s.out)
      ∧ (w.st ≠ .poisoned → w.st ≠ .expired → exec (.windowRecover w.d.wid) s = .next s)

/-- R66, R67, R71, R72, R112, R114: a requester and a responder's tables: a completion that matches no outstanding request is discarded and one
whose header fails is counted; RETRY sets the time of the resend and leaves the request outstanding; when that time has come it is sent again
with RETRY = 1 and its SEQ; a reset source forgets its streams and sends nothing for 16 ms; duplicate entries and count slots go 16 ms after their last use, and a
FINAL request held for the completion timeout completes TIMEOUT. -/
def Obligations.RequestersAndTables : Prop :=
  (∀ (s : State) (b : Nat) (c : Cmp) (o : Outst) (h : W32),
    (h ≠ crc32c (leBytes 60 (cmpBits c)) →
        exec (.cmp .brola b c h) s = .next { s with ctr := s.ctr.set (.brlHdrErr, [b]) (min (count s .brlHdrErr [b] + 1) ctrMax) })
      ∧ (matchOut s .brola c = none → exec (.cmp .brola b c (cmpCrc c)) s = .next s)
      ∧ (matchOut s .brola c = some o → findOut s .brola o.id = some o → (c.status = .retry ∨ c.status = .energyDefer) → isCopy o = false →
        ∃ u, exec (.cmp .brola b c (cmpCrc c)) s = .next u ∧ findOut u .brola o.id = some { o with resendAt := some (s.brola.now + c.retryAfter * 1000) }
          ∧ u = { s with brola := { s.brola with rq := { s.brola.rq with out := u.brola.rq.out } } })
      ∧ (matchOut s .brola c = some o → findOut s .brola o.id = some o → (∀ t k, o.owner = .port t k → c.status ≠ .retry → c.status ≠ .energyDefer →
          s.brola.atsInv = [] → ∃ u, exec (.cmp .brola b c (cmpCrc c)) s = .next u ∧ u.brola.rq.out = dropFirst (fun x => x.id == o.id) s.brola.rq.out)))
  ∧ (∀ (s : State) (w : Party) (o : Outst) (t : Nat), findOut s w o.id = some o →
    (o.resendAt = some t → nowOf s w < t → exec (.retryResend w o.id) s = .next s)
      ∧ (o.resendAt = none → exec (.retryResend w o.id) s = .next s)
      ∧ (w = .brola → o.resendAt = some t → t ≤ nowOf s w → ∃ u, exec (.retryResend w o.id) s = .next u ∧ ∃ o', findOut u w o.id = some o' ∧ o'.resendAt = none
          ∧ o'.r.retry = true ∧ o'.r.seq = o.r.seq ∧ o'.sentAt = o.sentAt)
      ∧ (o.released = false ∨ nowOf s w < o.sentAt + o.period → exec (.completionTimeout w o.id) s = .next s)
      ∧ (w = .brola → o.released = true → o.sentAt + o.period ≤ nowOf s w → isCopy o = false → opIdem o.r.op = true → o.retx < 3 → o.resendAt = none → o.sent = true →
          ∃ u o', exec (.completionTimeout w o.id) s = .next u ∧ findOut u w o.id = some o' ∧ o'.retx = o.retx + 1 ∧ o'.r.retry = true ∧ o'.r.seq = o.r.seq
            ∧ o'.sentAt = nowOf s w)
      ∧ (o.released = false → mayRelease s .brola o = true → w = .brola → ∃ u o', exec (.requestRelease o.id) s = .next u ∧ findOut u .brola o.id = some o'
          ∧ o'.released = true ∧ o'.firstAt = s.brola.now ∧ o'.period = ctoPeriod s .brola o.r)
      ∧ (o.released = false → mayRelease s .brola o = false → w = .brola → exec (.requestRelease o.id) s = .next s))
  ∧ ∀ (s : State) (w : Party) (src tc seq epoch : Nat),
    (∃ u, exec (.sourceReset w) s = .next u ∧ (rqOf u w).out = [] ∧ (rqOf u w).seqs = [] ∧ (rqOf u w).quietUntil = nowOf s w + 16000000)
      ∧ (∃ u, exec (.dupEntryRelease w src tc seq) s = .next u ∧ u = setResp s w { respOf s w with dups := (respOf u w).dups }
          ∧ ∀ e, e ∈ (respOf u w).dups ↔ e ∈ (respOf s w).dups ∧ ¬ (e.src = src ∧ e.tc = tc ∧ e.seq = seq ∧ e.made + 16000000 ≤ nowOf s w))
      ∧ (∀ c, countOf s w src epoch = some c → c.n = 0 → oldestFinal s w src epoch = none → c.last + 16000000 ≤ nowOf s w →
          ∃ u, exec (.countSlotRelease w src epoch) s = .next u ∧ countOf u w src epoch = none ∧ (respOf u w).dups = (respOf s w).dups)
      ∧ (∀ c, countOf s w src epoch = some c → (c.n ≠ 0 ∨ nowOf s w < c.last + 16000000) → exec (.countSlotRelease w src epoch) s = .next s)
      ∧ ∀ h t, (respOf s w).finals = h :: t → h.mine = true → s.course.twinUp = false → s.course.alone = false → partyOf h.v = w → opIdem h.r.op = true →
          (h.arrived + holdLimit s w h.r ≤ nowOf s w → ∃ u c, exec (.finalHoldTimeout w h.r.src h.r.tc h.r.seq) s = .next u ∧ Out.cmp c ∈ u.out ∧ c.status = .timeout
            ∧ c.dst = h.r.src ∧ c.seq = h.r.seq)
          ∧ (nowOf s w < h.arrived + holdLimit s w h.r → exec (.finalHoldTimeout w h.r.src h.r.tc h.r.seq) s = .next s)

/-! The Brola. -/

/-- R110, R111, R120, R125, R126, R550: the port accepts a request of a legal format: it is issued with the leaf's SRC and CAPO and the next SEQ of its
stream, and held until its release; one of an illegal format is refused with ACC_DENIED and a full port accepts none. A virtual address that no copy translates waits for the host; a
translation that comes is kept and the request goes on with its fabric address, and without one, or after the completion timeout, it completes
XLATE_FAULT. An invalidation drops every copy in its range, and completes when no request that used one is outstanding; up to 32 are processed
at once and a further one waits its turn (log entry 173). The accelerator reads a counter of the Brola there (log entry 175). -/
def Obligations.LeafPortTranslates : Prop :=
  (∀ (s : State) (p : PortReq) (k : CtrKey), p.ctr = some k →
    (isBrolaCtr k = true → ∃ u c, exec (.portRequest p) s = .next u ∧ u = { s with out := s.out ++ [.portDone p.tag c] } ∧ c.status = .ok
        ∧ c.result = BitVec.ofNat 64 (count s k.1 k.2))
      ∧ (isBrolaCtr k = false → ∃ u, exec (.portRequest p) s = .next u ∧ u.out = s.out ++ [.portRefused p.tag .accDenied]
        ∧ u = { s with out := u.out, brola := { s.brola with kernels := u.brola.kernels } }))
  ∧ (∀ (s : State) (p : PortReq), p.ctr = none → portLoc s p.req = none →
    let room := portCount s < 8192
    (p.v = false → room → portFormat p.req = true → ∃ u o, exec (.portRequest p) s = .next u ∧ u.brola.rq.out = s.brola.rq.out ++ [o] ∧ o.owner = .port p.tag p.ktag
        ∧ o.released = false
        ∧ o.r = { p.req with src := brolaSrc s, capo := (s.brola.asg.map (·.capo)).getD 0, vc := false, retry := false, hops := 0, seq := o.r.seq }
        ∧ o.r.seq = nextSeq s.brola.rq (destOf p.req.addr) p.req.tc
        ∧ u = { s with brola := { s.brola with rq := u.brola.rq } })
      ∧ (p.v = false → room → portFormat p.req = false → ∃ u, exec (.portRequest p) s = .next u
        ∧ u.out = s.out ++ [.portRefused p.tag .accDenied] ∧ kernelOf u p.ktag = ((kernelOf s p.ktag).1, (kernelOf s p.ktag).2 + 1)
        ∧ (∀ k, k ≠ p.ktag → kernelOf u k = kernelOf s k) ∧ u = { s with out := u.out, brola := { s.brola with kernels := u.brola.kernels } })
      ∧ (8192 ≤ portCount s → exec (.portRequest p) s = .next s)
      ∧ (p.v = true → room → xlateHit s p.req.addr.toNat p.pasid = none → ∃ u o, exec (.portRequest p) s = .next u ∧ u.brola.rq.out = s.brola.rq.out ++ [o]
          ∧ o.owner = .port p.tag p.ktag ∧ o.waitXlate = some (p.req.addr.toNat, p.pasid) ∧ o.id = s.brola.rq.nextId
          ∧ u.out = s.out ++ [.atsRequest s.brola.rq.nextId p.req.addr.toNat p.pasid] ∧ u.brola.xlates = s.brola.xlates)
      ∧ ∀ x, p.v = true → room → xlateHit s p.req.addr.toNat p.pasid = some x → needsWrite p.req.op = true → x.2.write = false →
          ∃ u c, exec (.portRequest p) s = .next u ∧ u.out = s.out ++ [.portDone p.tag c] ∧ c.status = .xlateFault ∧ u.brola.rq = s.brola.rq)
  ∧ (∀ (s : State) (o : Outst) (va pasid tag ktag : Nat) (x : AtsXlate), findOut s .brola o.id = some o → waiting o = some (va, pasid, tag, ktag) →
    let gone := dropFirst (fun y => y.id == o.id) s.brola.rq.out
    (∃ u c, exec (.atsTranslationComplete o.id none) s = .next u ∧ u.out = s.out ++ [.portDone tag c] ∧ c.status = .xlateFault ∧ u.brola.rq.out = gone)
      ∧ (xlateOk x va = true → x.write = true → s.brola.xlates.length < 32768 →
          portFormat { o.r with addr := x.fbase + BitVec.ofNat 64 (va - x.vbase) } = true →
          ∃ u o', exec (.atsTranslationComplete o.id (some x)) s = .next u ∧ u.brola.rq.out = gone ++ [o'] ∧ o'.r.addr = x.fbase + BitVec.ofNat 64 (va - x.vbase)
            ∧ o'.owner = .port tag ktag ∧ (s.brola.nextXlate, { x with pasid := pasid }) ∈ u.brola.xlates ∧ u.out = s.out)
      ∧ (xlateOk x va = false → ∃ u c, exec (.atsTranslationComplete o.id (some x)) s = .next u ∧ u.out = s.out ++ [.portDone tag c] ∧ c.status = .xlateFault
          ∧ u.brola.xlates = s.brola.xlates)
      ∧ (o.accepted + (s.brola.asg.map (·.cto)).getD 8000 * 1000 ≤ s.brola.now →
          ∃ u c, exec (.atsTranslationTimeout o.id) s = .next u ∧ u.out = s.out ++ [.portDone tag c] ∧ c.status = .xlateFault ∧ u.brola.rq.out = gone)
      ∧ (s.brola.now < o.accepted + (s.brola.asg.map (·.cto)).getD 8000 * 1000 → exec (.atsTranslationTimeout o.id) s = .next s))
  ∧ ∀ (s : State) (tag lo len : Nat) (i : Inval) (t : List Inval),
    (invRoom s = true → ∃ u w, exec (.atsInvalidation tag lo len) s = .next u
        ∧ u.brola.atsInv = s.brola.atsInv ++ [{ tag := some tag, lo := lo, len := len, begun := true, waits := w }]
        ∧ (∀ o ∈ s.brola.rq.out, ∀ n, o.xlateSrc = some n → (∃ x ∈ s.brola.xlates, x.1 = n ∧ overlap lo len x.2.vbase x.2.size ≠ 0) → o.id ∈ w)
        ∧ (∀ x, x ∈ u.brola.xlates ↔ x ∈ s.brola.xlates ∧ overlap lo len x.2.vbase x.2.size = 0)
        ∧ u = { s with brola := { s.brola with atsInv := u.brola.atsInv, xlates := u.brola.xlates } })
      ∧ (invRoom s = false → exec (.atsInvalidation tag lo len) s
          = .next { s with brola := { s.brola with atsInv := s.brola.atsInv ++ [{ tag := some tag, lo := lo, len := len }] } })
      ∧ (s.brola.atsInv = i :: t → i.tag = some tag →
          (i.begun = true → (∀ id ∈ i.waits, findOut s .brola id = none) → (∃ u, exec (.atsInvalidationComplete tag) s = .next u ∧ Out.atsInvDone tag ∈ u.out)
            ∧ (t = [] → exec (.atsInvalidationComplete tag) s
                = .next { s with out := s.out ++ [.atsInvDone tag], brola := { s.brola with atsInv := t } }))
          ∧ (i.begun = false ∨ (∃ id ∈ i.waits, findOut s .brola id ≠ none) → exec (.atsInvalidationComplete tag) s = .next s))

/-- R115, R116, R127, R128: a legal access window takes its place and an illegal one changes nothing; KERNEL_BEGIN commands a discard of the whole
address space and its acknowledgement signals the beginning; the end of a kernel is signalled, with its count of failures, once its requests have
completed, and not before. -/
def Obligations.LeafWindowsAndKernels : Prop :=
  ∀ (s : State) (idx k : Nat) (w : AccWin),
    (accWinOk s idx w = true → ∃ u, exec (.accessWindowDefine idx w) s = .next u ∧ (∀ j, u.brola.wins.get j {} = if j = idx then w else s.brola.wins.get j {})
        ∧ u = { s with brola := { s.brola with wins := u.brola.wins } })
      ∧ (64 ≤ idx ∨ w.base % 256 ≠ 0 ∨ w.len % 256 ≠ 0 → exec (.accessWindowDefine idx w) s = .next s)
      ∧ (∃ u, exec (.kernelBegin k) s = .next u ∧ u.out = s.out ++ [.discard s.brola.nextDiscard 0 (2 ^ 64)] ∧ u.brola.kernels.get k (true, 1) = (false, 0)
        ∧ u.brola.discards = s.brola.discards ++ [(s.brola.nextDiscard, k + 1)] ∧ u.brola.mem = s.brola.mem)
      ∧ (∀ id t, s.brola.discards = (id, k + 1) :: t → ∃ u, exec (.discardAck id) s = .next u ∧ u.out = s.out ++ [.kernelBegin k]
        ∧ (u.brola.kernels.get k (false, 0)).1 = true ∧ ∀ d ∈ u.brola.discards, d.1 ≠ id)
      ∧ (∃ u, exec (.kernelEnd k) s = .next u ∧ (∀ j, j ∈ u.brola.kEnding ↔ j = k ∨ j ∈ s.brola.kEnding)
        ∧ u = { s with brola := { s.brola with kEnding := u.brola.kEnding } })
      ∧ (k ∈ s.brola.kEnding → kernelBusy s k = false → ∃ u, exec (.kernelEndSignal k) s = .next u
        ∧ u.out = s.out ++ [.kernelEnd k (s.brola.kernels.get k (false, 0)).2] ∧ k ∉ u.brola.kEnding)
      ∧ (k ∉ s.brola.kEnding ∨ kernelBusy s k = true → exec (.kernelEndSignal k) s = .next s)

/-- R105, R107, R131 to R133, R180, R416, R506, R507: an ATTACH that fits its string is noted and one that does not takes the string down with MISWIRE;
the ASSIGN of the highest sweep applies; STEER and RESTORE change the member that requests go to; a BRIDGE_HELLO of the expected neighbour, or
twin, is accepted and any other takes the string down; a Brola keeps up to four distinct snapshot times and copies its counters when one comes. -/
def Obligations.StringFrames : Prop :=
  (∀ (s : State) (n b : Nat) (leaf : LeafReport) (id : W64) (h : BridgeHello), n < 544 → strReady s n = true →
    (n < 512 → isBridge s n = false → attachFits s n b = true → ∃ u, exec (.attach n id b leaf) s = .next u
        ∧ linkOf u n = { linkOf s n with attach := id, attachB := b, attachOk := true } ∧ (∀ m, m ≠ n → linkOf u m = linkOf s m) ∧ u = { s with links := u.links })
      ∧ (n < 512 → isBridge s n = false → attachFits s n b = false → ∃ u, exec (.attach n id b leaf) s = .next u ∧ (linkOf u n).stage = 0
        ∧ (linkOf u n).cause = .miswire ∧ (∀ m, m ≠ n → quietLink s m → linkOf u m = linkOf s m) ∧ noted u 3 .miswired (siteOX (n / 64)) [n, b])
      ∧ (n < 512 → isBridge s n = true → h = farHello s n → ∃ u, exec (.bridgeHello n h) s = .next u ∧ (linkOf u n).attachOk = true ∧ u = { s with links := u.links })
      ∧ (n < 512 → isBridge s n = true → h ≠ farHello s n → ∃ u, exec (.bridgeHello n h) s = .next u ∧ (linkOf u n).stage = 0 ∧ (linkOf u n).cause = .miswire)
      ∧ (512 ≤ n → twinHelloOk s h = true → ∃ u, exec (.bridgeHello n h) s = .next u ∧ (linkOf u n).attachOk = true ∧ u = { s with links := u.links })
      ∧ (512 ≤ n → twinHelloOk s h = false → ∃ u, exec (.bridgeHello n h) s = .next u ∧ (linkOf u n).stage = 0 ∧ (linkOf u n).cause = .miswire))
  ∧ ∀ (s : State) (b c time : Nat) (mB : Bool) (a : Assign), b < 32 →
    ((∀ x ∈ s.brola.assigns, ∀ y, x.2 = some y → y.sweep ≤ a.sweep) → s.brola.digest = some a.digest →
        ∃ u, exec (.assign b a) s = .next u ∧ u.brola.asg = some a ∧ u.brola.assigns.get b none = some a ∧ u.brola.rq = s.brola.rq
          ∧ u = { s with brola := { s.brola with asg := u.brola.asg, assigns := u.brola.assigns } })
      ∧ ((∃ x ∈ s.brola.assigns, x.1 ≠ b ∧ ∃ y, x.2 = some y ∧ a.sweep < y.sweep) →
        ∃ u z, exec (.assign b a) s = .next u ∧ u.brola.asg = some z ∧ u.brola.assigns.get b none = some a ∧ a.sweep < z.sweep
          ∧ ∀ x ∈ s.brola.assigns, x.1 ≠ b → ∀ y, x.2 = some y → y.sweep ≤ z.sweep)
      ∧ ((∀ o ∈ s.brola.rq.out, sentTo s o c mB = false) → ∃ u, exec (.steer b c mB) s = .next u
        ∧ (∀ x, x ∈ u.brola.steered ↔ x = (c, mB) ∨ x ∈ s.brola.steered) ∧ u = { s with brola := { s.brola with steered := u.brola.steered } })
      ∧ (∃ u, exec (.restore b c mB) s = .next u ∧ (∀ x, x ∈ u.brola.steered ↔ x ≠ (c, mB) ∧ x ∈ s.brola.steered)
        ∧ u = { s with brola := { s.brola with steered := u.brola.steered } })
      ∧ (time ∉ s.brola.snaps → (∀ x ∈ s.brola.snapCopies, x.1 ≠ time) → s.brola.snaps.length < 4 →
        exec (.snap b time) s = .next { s with brola := { s.brola with snaps := s.brola.snaps ++ [time] } })
      ∧ (time ∈ s.brola.snaps ∨ 4 ≤ s.brola.snaps.length → exec (.snap b time) s = .next s)
      ∧ (time ∈ s.brola.snaps → time ≤ s.brola.now → ∃ u l, exec (.brolaSnapshot time) s = .next u ∧ u.brola.snapCopies = s.brola.snapCopies ++ [(time, l)]
        ∧ time ∉ u.brola.snaps ∧ ∀ x, x ∈ l ↔ x ∈ s.ctr ∧ isBrolaCtr x.1 = true)
      ∧ (time ∉ s.brola.snaps ∨ s.brola.now < time → exec (.brolaSnapshot time) s = .next s)

/-- R292, R297 to R299, R302, R304: a posted descriptor that does not fit is refused with ACC_DENIED; out of step it ends at once with COLL_MISMATCH and
raises its counter; behind another that waits it is queued; at the head of an idle queue it begins: a reduction takes its epochs and sends its first
chunk, a gather, broadcast root or shard its stores, a barrier its BARR, and a fused one its first part. GROUP_RESET ends the out-of-step state with the group
epoch given. -/
def Obligations.CollectivesBegin : Prop :=
  (∀ (s : State) (d : CollDesc) (c : Nat × (CollDesc → Instr)),
    c ∈ [(1, Instr.allreduce), (2, .rscatter), (3, .reduce), (4, .allgather), (5, .bcast), (6, .barrier), (7, .gshard), (8, .fused)] →
    let g := d.group
    let q := collQ s g
    g ∉ s.brola.reading →
    (collOk s c.1 d = false → exec (c.2 d) s = .next { s with out := s.out ++ [.portRefused g .accDenied] })
      ∧ (collOk s c.1 d = true → q.outOfStep = true → ∃ u, exec (c.2 d) s = .next u ∧ u.brola.ctrs.get d.ctr 0 = s.brola.ctrs.get d.ctr 0 + 1
          ∧ ((s.brola.errs.get d.ctr {}).status = 0 → (u.brola.errs.get d.ctr {}).status = statusCode .collMismatch)
          ∧ u = { s with brola := { s.brola with ctrs := u.brola.ctrs, errs := u.brola.errs } })
      ∧ (∀ r, collOk s c.1 d = true → q.outOfStep = false → q.queue.length < 64 → q.run = some r → isReduction r.cop = false → r.left ≠ 0 →
          exec (c.2 d) s = .next (setCollQ s g { q with queue := q.queue ++ [(c.1, d)] }))
      ∧ (∀ e, collOk s c.1 d = true → q.outOfStep = false → q.queue = [] → q.run = none → q.entry = some e →
          (isReduction c.1 = true → 0 < collBytes c.1 d → 1 ≤ grpSlen e → 1 ≤ grpNslot e →
            ∃ u r, exec (c.2 d) s = .next u ∧ (collQ u g).run = some r ∧ r.cop = c.1 ∧ r.d = d ∧ r.ge = q.ge
              ∧ r.chunks = (collBytes c.1 d + slotBytes e - 1) / slotBytes e ∧ (collQ u g).ge = (q.ge + r.chunks) % 65536
              ∧ ∃ o ∈ u.brola.rq.out, o.owner = .coll g false 0 ∧ (o.r.op = 0x20 ∨ o.r.op = 0x21) ∧ o.r.epoch = q.ge % 65536 ∧ o.r.group = g)
          ∧ ((c.1 = 4 ∨ c.1 = 7 ∨ (c.1 = 5 ∧ rankIn s e = d.root)) → 0 < collBytes c.1 d →
            ∃ u r, exec (c.2 d) s = .next u ∧ (collQ u g).run = some r ∧ r.cop = c.1 ∧ 0 < r.left ∧ (collQ u g).ge = q.ge % 65536
              ∧ ∃ o ∈ u.brola.rq.out, o.owner = .coll g false 0 ∧ o.r.op = 0x02)
          ∧ ((c.1 = 6 ∨ (c.1 = 5 ∧ rankIn s e ≠ d.root)) →
            ∃ u r o, exec (c.2 d) s = .next u ∧ (collQ u g).run = some r ∧ r.cop = c.1 ∧ r.left = 1 ∧ (collQ u g).bepoch = (q.bepoch + 1) % 65536
              ∧ u.brola.rq.out = s.brola.rq.out ++ [o] ∧ o.r.op = 0x34 ∧ o.r.epoch = q.bepoch ∧ o.r.group = g ∧ o.r.op0 = BitVec.ofNat 64 (grpNtot e))
          ∧ (∀ x l, c.1 = 8 → fusedSubs s d = (6, x) :: l →
            ∃ u r, exec (c.2 d) s = .next u ∧ (collQ u g).run = some r ∧ r.cop = 6 ∧ r.fused = some d ∧ r.subs = l ∧ (collQ u g).bepoch = (q.bepoch + 1) % 65536)))
  ∧ ∀ (s : State) (g epoch : Nat), ((collQ s g).entry = none → exec (.groupReset g epoch) s = .next s)
    ∧ ((collQ s g).entry ≠ none → (collQ s g).run = none → (collQ s g).queue = [] →
        exec (.groupReset g epoch) s = .next (setCollQ s g { collQ s g with outOfStep := false, ge := epoch % 65536 }))

/-! Programs. -/

/-- R252, R253, R256, R258, R261, R262: an admission goes through its steps in order, and the first that fails ends it with a REFUSED record of that
step's reason. The oldest descriptor of its kind leaves the queue, and its format and scope are checked before the image is read; a failed read gives
FETCH with its status, a bad header FORMAT and a bad digest DIGEST; a control program then starts, and a stream is bound for the tiles in service.
What the binder finds in the image, or the code that firmware alone can find (log entry 182), gives BIND; bundles that do not bind the image are
none of the binder's and change nothing; a bound image is kept, and the seed is that of the descriptor, or waited for. A TRNG that releases
nothing for 10 ms gives SEED_ERROR and a segment 0 not admitted within the barrier timeout ENERGY_DEFER. -/
def Obligations.AdmissionSteps : Prop :=
  (∀ (s : State) (control : Bool) (d : Nat) (v : Via), s.prog.queue.find? (fun q => descControl q.1 == control) = some (d, v) → admOf s control = none →
    (control = true → s.prog.ctl = none) →
    let s' := { s with prog := { s.prog with queue := dropFirst (fun q => descControl q.1 == control) s.prog.queue } }
    let a : Adm := { desc := d, domain := loaderDomain s v, left := (pieces 16386 (descImage d).toNat 0 (descLen d)).length }
    (descOk s d = true → loaderMay s v (descCapo d) = true → ∃ u, exec (.admissionStart control) s = .next u
        ∧ u.prog = (setAdm s' control (some a)).prog ∧ (∃ l, u.out = s.out ++ l) ∧ u.rq.nextId = s.rq.nextId + a.left)
      ∧ (descOk s d = false → ∃ u, exec (.admissionStart control) s = .next u ∧ admRefused s' u control a 1 0)
      ∧ (descOk s d = true → loaderMay s v (descCapo d) = false → ∃ u, exec (.admissionStart control) s = .next u ∧ admRefused s' u control a 3 0))
  ∧ (∀ (s : State) (control : Bool) (a : Adm), admOf s control = some a → a.step = 1 → a.left = 0 →
    let i := (sortBy (fun x y => decide (x.1 ≤ y.1)) a.parts).flatMap (·.2)
    (∀ f, a.fail = some f → ∃ u, exec (.imageFetchComplete control) s = .next u ∧ admRefused s u control a 4 (statusCode f))
      ∧ (a.fail = none → imgOk i control = false → ∃ u, exec (.imageFetchComplete control) s = .next u ∧ admRefused s u control a 1 0)
      ∧ (a.fail = none → imgOk i control = true → digestOk i = false → ∃ u, exec (.imageFetchComplete control) s = .next u ∧ admRefused s u control a 2 0)
      ∧ (a.fail = none → imgOk i control = true → digestOk i = true →
        (control = true → ∃ u c, exec (.imageFetchComplete control) s = .next u ∧ u.prog = { s.prog with cAdm := none, ctl := some c }
            ∧ c.desc = a.desc ∧ c.domain = a.domain ∧ c.staged = [] ∧ reported s u a.desc fun r => r.event = 1)
          ∧ (control = false → inService s = [] → ∃ u, exec (.imageFetchComplete control) s = .next u ∧ admRefused s u control a 0x11 0)))
  ∧ (∀ (s : State) (a : Adm) (code : Nat) (bundles : List (Nat × BitVec 1024)), s.prog.sAdm = some a → a.step = 2 →
    let refusal := (binderRefusal a.image a.tiles.length (scrTop s)).or (if code = 2 ∨ code = 4 then some code else none)
    (∀ k, refusal = some k → ∃ u, exec (.bindComplete code bundles) s = .next u ∧ admRefused s u false a 5 k)
      ∧ (refusal = none → binds a.image a.tiles bundles = false → exec (.bindComplete code bundles) s = .next s)
      ∧ (refusal = none → binds a.image a.tiles bundles = true → ∃ u, exec (.bindComplete code bundles) s = .next u ∧ (a.digest, a.tiles, bundles) ∈ u.prog.cache ∧ u.prog.cache.length ≤ 16
        ∧ ∃ b, u.prog.sAdm = some b ∧ b.bound = bundles ∧ b.desc = a.desc ∧ (a.seed = none → descSeedSel a.desc = true → b.seed = some (descSeed a.desc))
          ∧ (a.seed = none → descSeedSel a.desc = false → s.sec.trngOk = false → b.step = 3 ∧ b.waitSince = s.clk.now ∧ u.sec.waiters = s.sec.waiters ++ [0])))
  ∧ ∀ (s : State) (a : Adm), s.prog.sAdm = some a →
    (a.step = 3 → s.sec.trngOk = false → a.waitSince + 10000000 ≤ s.clk.now → ∃ u, exec .seedWaitTimeout s = .next u ∧ admRefused s u false a 6 0)
      ∧ (a.step ≠ 3 ∨ s.clk.now < a.waitSince + 10000000 → exec .seedWaitTimeout s = .next s)
      ∧ (a.step = 4 → a.waitSince + capoBto s.prog.eff (descCapo a.desc) * 1000000 ≤ s.clk.now →
          ∃ u, exec .admissionEnergyTimeout s = .next u ∧ admRefused s u false a 7 0)
      ∧ (a.step ≠ 4 ∨ s.clk.now < a.waitSince + capoBto s.prog.eff (descCapo a.desc) * 1000000 → exec .admissionEnergyTimeout s = .next s)

/-- R25, R228, R246, R248, R253, R254, R258, R261, R263, R276, R479: a stream starts at bundle 0 once no other runs, the reference is there, its tiles are those
in service, no pending commit changes A and the slot lets it, and ADMITTED gives its seed. A stream that has issued HALT or raised an exception ends once nothing it started is
still running: its exception record, if it has one, is written at REPORT + 64 and ENDED with the cycles run; its tiles' state goes. A stream that has
run MAXCYC cycles, or whose slots are over, ends with ABORT; a boundary that the clock has passed is due until it is taken (log entry 187). -/
def Obligations.StreamsStartAndEnd : Prop :=
  (∀ (s : State) (a : Adm), s.prog.sAdm = some a → a.step = 5 → s.str.running = false → s.clk.refLost = false → a.tiles = inService s → changesA s = false →
    slotLets s (descCapo a.desc) = true → a.tiles.any (scratchOpen s.prog.eff) = false →
    ∃ u, exec .streamStart s = .next u ∧ u.str.running = true ∧ u.str.pc = 0 ∧ u.str.cycle = 0 ∧ u.str.capo = descCapo a.desc ∧ u.str.tiles = a.tiles
      ∧ u.str.store = a.bound ∧ u.str.seed = a.seed.getD 0 ∧ u.str.exc = none ∧ u.prog = { s.prog with sAdm := none, everAdm := true }
      ∧ (∀ n ∈ a.tiles, tileOf u n = {}) ∧ (∀ n, n ∉ a.tiles → tileOf u n = tileOf s n) ∧ u.mem = s.mem
      ∧ reported s u a.desc fun r => r.event = 1 ∧ r.seed = a.seed.getD 0 ∧ r.tiles = tileMask a.tiles)
  ∧ ∀ (s : State),
    (s.str.running = true → exec .streamStart s = .next s)
      ∧ (s.str.running = true → s.str.ending = true ∨ s.str.exc ≠ none → streamIdle s = true → ∃ u, exec .streamEnd s = .next u
        ∧ u.str = { exc := s.str.exc, lastPc := s.str.lastPc, nextOp := s.str.nextOp, cycle := nowCycle s }
        ∧ (∀ n, tileOf u n = if n ∈ s.str.tiles then {} else tileOf s n) ∧ u.mem = s.mem ∧ u.prog = s.prog
        ∧ (∀ e, s.str.exc = some e → reportOk s.str.desc = true → sentSince s u (.excReport (descReport s.str.desc + 64) e))
        ∧ reported s u s.str.desc fun r => r.event = 3 ∧ r.reason = 0 ∧ r.cycles = nowCycle s + 1 ∧ r.time = s.clk.now)
      ∧ (s.str.running = false ∨ streamIdle s = false ∨ s.str.ending = false ∧ s.str.exc = none → exec .streamEnd s = .next s)
      ∧ (s.str.running = true → s.str.exc = none → s.str.maxcyc ≠ 0 → s.str.maxcyc ≤ nowCycle s + 1 →
          ∃ u, exec .streamMaxcyc s = .next u ∧ streamRaised s u 0x10 0 7 ∧ u = { s with str := u.str, tiles := u.tiles })
      ∧ (s.str.maxcyc = 0 ∨ nowCycle s + 1 < s.str.maxcyc → exec .streamMaxcyc s = .next s)
      ∧ let due := s.clk.now % 1000000 = 0 ∨ s.clk.slotDue = true
        let s' := { s with clk := { s.clk with slotDue := false } }
        (due → slotEnds s = true → s.str.exc = none →
          ∃ u, exec .rtSlotBoundary s = .next u ∧ streamRaised s u 0x10 0 7 ∧ u = { s' with str := u.str, tiles := u.tiles })
        ∧ (due → slotEnds s = false → exec .rtSlotBoundary s = exec .streamStart s')
        ∧ (¬ due → exec .rtSlotBoundary s = .next s)

/-- R37, R139, R155, R269, R270, R272 to R275, R279, R464, R465, R495, R514: what each record of a running control program does. A record that only the
domain's programs may hold, or that names what does not exist, ends the program with its reason; a program ends with an ENDED record and what it
had staged is discarded. -/
def Obligations.ControlPrograms : Prop :=
  (∀ (s : State) (c : CtlProg) (tbl : Nat) (entries : List Nat), ctlRuns s c →
    let es := entries.map (· % 2 ^ (8 * tblSize tbl))
    let own := c.domain = true ∨ ∀ e ∈ es, ownEntry s (descCapo c.desc) tbl e = true
    (tblSize tbl ≠ 0 → own → ∃ u st, exec (.stage tbl entries) s = .next u ∧ u.prog = { s.prog with ctl := some { c with staged := st } }
        ∧ (∀ k, (∀ e ∈ es, k ≠ (tbl, tblKey tbl e)) → TMap.get st k 0 = TMap.get c.staged k 0)
        ∧ (∀ e, es.getLast? = some e → TMap.get st (tbl, tblKey tbl e) 0 = e))
      ∧ (tblSize tbl = 0 → ∃ u, exec (.stage tbl entries) s = .next u ∧ ctlEnded s u c 8)
      ∧ (tblSize tbl ≠ 0 → ¬ own → ∃ u, exec (.stage tbl entries) s = .next u ∧ ctlEnded s u c 3)
      ∧ exec (.unstage tbl) s = .next { s with prog := { s.prog with ctl := some { c with staged := c.staged.filter fun e => e.1.1 != tbl } } })
  ∧ (∀ (s : State) (c : CtlProg) (epoch num : Nat), ctlRuns s c →
    let s' := { s with prog := { s.prog with nCommit := s.prog.nCommit + 1, ctl := some { c with staged := [] } } }
    let draws := c.staged.any drawsSeed = true ∧ s.sec.trngOk = false
    (stageUnheld s c.staged = false → ¬ draws →
        (∀ x, commitRefusal s' c.staged (ctlCapo c) epoch = some x → ∃ u, exec (.commit epoch) s = .next u ∧ u.prog = s'.prog
          ∧ reported s u c.desc fun r => r.event = 4 ∧ r.cstate = 4 ∧ r.reason = x.1)
        ∧ (commitRefusal s' c.staged (ctlCapo c) epoch = none → ∃ u p, exec (.commit epoch) s = .next u
          ∧ u.prog = { s'.prog with commits := s.prog.commits ++ [p] } ∧ p.epoch = epoch ∧ s.clk.now + 100000 ≤ epoch ∧ epoch ≤ s.clk.now + 10000000000
          ∧ reported s u c.desc fun r => r.event = 4 ∧ r.cstate = 1 ∧ r.epoch = epoch))
      ∧ (stageUnheld s c.staged = false → draws → exec (.commit epoch) s = .next { s with
          prog := { s.prog with ctl := some { c with seedWait := some (epoch, s.clk.now) } }, sec := { s.sec with waiters := s.sec.waiters ++ [1] } })
      ∧ ∀ p, s.prog.commits.find? (fun p => p.num == num) = some p → c.domain = true →
        (s.clk.now + 1000 ≤ p.epoch → ∃ u, exec (.cancel num) s = .next u
            ∧ u.prog = { s.prog with commits := s.prog.commits.filter fun p => p.num != num } ∧ reported s u c.desc fun r => r.event = 4 ∧ r.cstate = 3)
          ∧ (p.epoch < s.clk.now + 1000 → ∃ u, exec (.cancel num) s = .next u ∧ u.prog = s.prog
            ∧ reported s u c.desc fun r => r.event = 4 ∧ r.cstate = 4 ∧ r.reason = 0x10))
  ∧ (∀ (s : State) (c : CtlProg) (e t : Nat), s.prog.ctl = some c → c.seedWait = some (e, t) →
    (t + 10000000 ≤ s.clk.now → ∃ u, exec .commitSeedWaitTimeout s = .next u ∧ u.prog.ctl = some { c with staged := [], seedWait := none }
        ∧ u.prog.commits = s.prog.commits ∧ reported s u c.desc fun r => r.event = 4 ∧ r.cstate = 4 ∧ r.reason = 6)
      ∧ (s.clk.now < t + 10000000 → exec .commitSeedWaitTimeout s = .next s))
  ∧ (∀ (s : State) (num : Nat) (p : Pending), s.prog.commits.find? (fun p => p.num == num) = some p →
    (p.epoch ≤ s.clk.now → p.desc ≠ 0 → raisedOver s p.entries = false → ∃ u, exec (.commitApply num) s = .next u ∧ (∀ q, q ∈ u.prog.commits ↔ q ∈ s.prog.commits ∧ q.num ≠ num)
        ∧ ((∀ x ∈ p.entries, x.1.1 ≠ 4) → u.prog.eff = tblApplyAll s.prog.eff (p.entries.filter fun e => e.1.1 != 0x12))
        ∧ reported s u p.desc fun r => r.event = 4 ∧ r.cstate = 2 ∧ r.epoch = p.epoch)
      ∧ (p.epoch ≤ s.clk.now → p.desc ≠ 0 → raisedOver s p.entries = true → ∃ u, exec (.commitApply num) s = .next u
        ∧ (∀ q, q ∈ u.prog.commits ↔ q ∈ s.prog.commits ∧ q.num ≠ num) ∧ u.prog.eff = s.prog.eff ∧ u.sw = s.sw ∧ u.links = s.links
        ∧ reported s u p.desc fun r => r.event = 4 ∧ r.cstate = 4 ∧ r.reason = 0x0A)
      ∧ (s.clk.now < p.epoch → exec (.commitApply num) s = .next s))
  ∧ (∀ (s : State) (c : CtlProg) (sx port entry value pd rt : Nat), ctlRuns s c → c.domain = true →
    let mayLeave := s.course.twinUp = true ∧ ∀ n < 8, rtUp s n = true
    let staysOn := pd = 30 ∨ pd = 31 ∨ pd < 4 ∧ s.course.serving = true
    (sx < 4 → port < 136 → entry < 8 → ∃ u, exec (.arbprio sx port entry value) s = .next u ∧ (∀ k, (arbOf u sx port).prio.get k 0
          = if k = entry then value % 16 else (arbOf s sx port).prio.get k 0) ∧ u = { s with sw := { s.sw with arb := u.sw.arb } })
      ∧ (6 ≤ sx → ∃ u, exec (.arbprio sx port entry value) s = .next u ∧ ctlEnded s u c 8)
      ∧ (pdRequest s pd true ≠ none → ∃ u, exec (.pdreq pd true) s = .next u ∧ pdIsOn u pd = true ∧ u.prog.ctl = some c)
      ∧ (¬ staysOn → offRefused s pd = false → pdRequest s pd false ≠ none → ∃ u, exec (.pdreq pd false) s = .next u ∧ pdIsOn u pd = false
          ∧ pdSite s pd ∈ u.prog.inTest ∧ u.prog.ctl = some c)
      ∧ (36 ≤ pd → ∃ u, exec (.pdreq pd true) s = .next u ∧ ctlEnded s u c 8)
      ∧ (staysOn → offRefused s pd = false → ∃ u, exec (.pdreq pd false) s = .next u ∧ ctlEnded s u c 8)
      ∧ (offRefused s pd = true → ∃ u, exec (.pdreq pd false) s = .next u ∧ ctlEnded s u c 0x0E)
      ∧ (rt < 8 → mayLeave → exec (.rtout rt) s = .next { s with prog := { s.prog with ctl := some { c with rtout := some (rt, s.clk.now) } } })
      ∧ (rt < 8 → ¬ mayLeave → ∃ u, exec (.rtout rt) s = .next u ∧ ctlEnded s u c 0x0E)
      ∧ (rt < 8 → rt ∈ s.prog.rtTest ∨ rt ∈ s.prog.rtOut → ∃ u, exec (.rtin rt) s = .next u ∧ rt ∉ u.prog.rtTest ∧ rt ∉ u.prog.rtOut ∧ u.prog.ctl = some c)
      ∧ (rt ∉ s.prog.rtTest → rt ∉ s.prog.rtOut → ∃ u, exec (.rtin rt) s = .next u ∧ ctlEnded s u c 8))
  ∧ (∀ (s : State) (c : CtlProg) (sx port entry value pd rt time : Nat) (on : Bool), ctlRuns s c →
    (c.domain = false → (∃ u, exec (.arbprio sx port entry value) s = .next u ∧ ctlEnded s u c 3)
        ∧ (∃ u, exec (.pdreq pd on) s = .next u ∧ ctlEnded s u c 3) ∧ (∃ u, exec (.rtout rt) s = .next u ∧ ctlEnded s u c 3)
        ∧ ∃ u, exec (.rtin rt) s = .next u ∧ ctlEnded s u c 3)
      ∧ (s.str.running = true → s.str.capo = descCapo c.desc → s.str.exc = none → ∃ u, exec .aborts s = .next u ∧ streamRaised s u 0x10 0 7
          ∧ u = { s with str := u.str, tiles := u.tiles })
      ∧ (s.str.running = false ∨ s.str.capo ≠ descCapo c.desc → exec .aborts s = .next s)
      ∧ exec (.waitt time) s = .next { s with prog := { s.prog with ctl := some { c with waitt := some time } } }
      ∧ ∃ u, exec .endProg s = .next u ∧ ctlEnded s u c 0)
  ∧ (∀ (s : State) (c : CtlProg) (rt t : Nat), s.prog.ctl = some c →
    (c.waitt = some t → t ≤ s.clk.now → exec .waittExpiry s = .next { s with prog := { s.prog with ctl := some { c with waitt := none } } })
      ∧ (c.waitt = some t → s.clk.now < t → exec .waittExpiry s = .next s)
      ∧ (c.rtout = some (rt, t) → s.str.running = false → rtHolds s rt = false → ∃ u, exec (.rtoutProceed rt) s = .next u ∧ rt ∈ u.prog.rtTest
          ∧ u.prog.ctl = some { c with rtout := none })
      ∧ (c.rtout = some (rt, t) → s.str.running = true ∨ rtHolds s rt = true → s.clk.now < t + capoBto s.prog.eff (descCapo c.desc) * 1000000 →
          exec (.rtoutProceed rt) s = .next s))
  ∧ ∀ (s : State) (st e : Nat), partInTest s st = true →
    (∃ u, exec (.inServiceTestEnd st (some e)) s = .next u ∧ u.fuse.pendMap.get st [] = s.fuse.entries.get st [] ++ [e] ∧ noted u 8 .testResult st [1, e])
      ∧ ∃ u, exec (.inServiceTestEnd st none) s = .next u ∧ u.fuse = s.fuse ∧ noted u 8 .testResult st [0, 0]

/-! Memory tiers and optics. -/

/-- R312, R313, R317, R318, R322, R323: a fetched region entry is in the cache of its SX; the scrub zeroes the next page of a target, or a page of
a removed region, and clears its poison, and passes a page on which a region in force places (the model's choice, log entry 141); a backing that returns waits for its mirrored pages and its unmirrored ones are poisoned; a supported
CXL device on a CXL port is enumerated and its pages wait for the scrub, another is refused; a CXL port that goes down is a backing out of reach. -/
def Obligations.BackingsAndPages : Prop :=
  (∀ (s : State) (sx capo rid : Nat),
    ((sx, capo, rid) ∈ s.mem.rfetch → (∀ w ∈ s.mem.rwait, w.1 ≠ sx) → ∃ u, exec (.rcacheFetchComplete sx capo rid) s = .next u
        ∧ cached u sx capo rid = true ∧ (sx, capo, rid) ∉ u.mem.rfetch ∧ u.mem = { s.mem with rcache := u.mem.rcache, rfetch := u.mem.rfetch }
        ∧ u.resp = s.resp ∧ u.prog = s.prog ∧ u.links = s.links)
      ∧ ((sx, capo, rid) ∉ s.mem.rfetch → exec (.rcacheFetchComplete sx capo rid) s = .next s))
  ∧ (∀ (s : State) (t p : Nat),
    let next := (t, p) ∉ s.mem.scrubMarks ∧ p = s.mem.scrubAt.get t 0 ∧ p < targetPages s t
    let due := (t, p) ∈ s.mem.scrubMarks ∨ next ∧ pagePlaced s t p = false
    (due → ∃ u, exec (.pageScrub t p) s = .next u
        ∧ (∀ j, Memory.read u.mem.phys j = if physKey t p 0 ≤ j ∧ j < physKey t p 0 + 4096 then 0 else Memory.read s.mem.phys j)
        ∧ (∀ w, w ∈ u.mem.poison ↔ w ∈ s.mem.poison ∧ w ∉ wordsOf (physKey t p 0) 4096) ∧ (t, p) ∉ u.mem.scrubMarks ∧ u = { s with mem := u.mem })
      ∧ (next → ∃ u, exec (.pageScrub t p) s = .next u ∧ u.mem.scrubAt.get t 0 = p + 1
        ∧ (pagePlaced s t p = true → u = { s with mem := { s.mem with scrubAt := u.mem.scrubAt } }))
      ∧ (¬ due → ¬ next → exec (.pageScrub t p) s = .next s))
  ∧ (∀ (s : State) (t : Nat),
    (t ∈ s.mem.backOut → ∃ u, exec (.backingReturn t) s = .next u ∧ (∀ x, x ∈ u.mem.backOut ↔ x ∈ s.mem.backOut ∧ x ≠ t)
        ∧ (∀ x, x ∈ u.mem.missed ↔ x ∈ s.mem.missed ∨ s.course.twinUp = true ∧ x ∈ copiesOn s t)
        ∧ (∀ w, w ∈ u.mem.poison ↔ w ∈ s.mem.poison ∨ ∃ x ∈ bareOn s t, w ∈ wordsOf (physKey x.1 x.2 0) 4096)
        ∧ u = { s with mem := { s.mem with backOut := u.mem.backOut, missed := u.mem.missed, poison := u.mem.poison } })
      ∧ (t ∉ s.mem.backOut → exec (.backingReturn t) s = .next s))
  ∧ ∀ (s : State) (port gb : Nat) (sup : Bool),
    (port < 8 → portIsCxl s.prog.eff port = true →
        (∃ u, exec (.cxlEnumerate port gb true) s = .next u ∧ u.mem.pages.get (cxlTarget port) 0 = min (gb * 1000000000 / 4096) (cxlMost - cxlBelow s port)
          ∧ u.mem.scrubAt.get (cxlTarget port) 1 = 0 ∧ cxlTarget port ∉ u.mem.backOut ∧ port ∉ u.pwr.portTrain ∧ u.mem.phys = s.mem.phys)
        ∧ (∃ u, exec (.cxlEnumerate port gb false) s = .next u ∧ u.mem = s.mem ∧ noted u 5 .cxlRefused (siteHX (port / 4)) [port])
        ∧ ∃ u, exec (.cxlLinkDown port) s = .next u ∧ (∀ t, t ∈ u.mem.backOut ↔ t = cxlTarget port ∨ t ∈ s.mem.backOut) ∧ u.mem.phys = s.mem.phys
          ∧ noted u 5 .cxlDown (siteHX (port / 4)) [port])
      ∧ (8 ≤ port ∨ portIsCxl s.prog.eff port = false → exec (.cxlEnumerate port gb sup) s = .next s ∧ exec (.cxlLinkDown port) s = .next s)

/-- R336, R337, R339, R342, Table 12-5: a period of a ring's loop. A ring with light begins to seek at P − 96 and goes on by 4 codes; a usable flank
point ends the seek; 16 fine periods in a row lock, and 64 without fail; a locked ring follows the loop step, goes into HOLD without light, into
RECOVER after four bad periods and to PARK when nothing needs it; a recovering one stays within 64 codes of its last lock. A failed ring's heater is at 0. No other ring
differs. -/
def Obligations.PegLoops : Prop :=
  ∀ (s : State) (ox f r measured : Nat) (bus light found : Bool), ox < 8 → f < 18 → r < 18 → (∀ x, moveOf s x = none) →
    let k : RingKey := (ox, f, bus, r)
    let p := pegOf s k
    let e := pegErr s k measured
    let q := loopStep p e
    let c := Instr.pegLoop ox f bus r measured light found
    let alone := fun u : State => ∀ j, j ≠ k → pegOf u j = pegOf s j
    let becomes := fun v : Peg => ∃ u, exec c s = .next u ∧ pegOf u k = v ∧ alone u
    let trims := p.st = .trim ∨ p.st = .recover
    (p.st = .off → light = false → becomes p)
      ∧ (p.st = .off → light = true → ∃ u, exec c s = .next u ∧ (pegOf u k).st = .seek ∧ (pegOf u k).code = p.pred - 96 ∧ alone u)
      ∧ (p.st = .seek → found = false → p.code < p.pred + 96 → becomes { p with code := p.code + 4, left := p.left + 1 })
      ∧ (p.st = .seek → found = true → k ∉ s.opt.reflank → 256 ≤ p.code → p.code ≤ 3839 →
          becomes { p with st := .trim, flankU := decide (p.pred < p.code), left := 0, good := 0, bad := 0 })
      ∧ (p.st = .trim → withinFine e = true → p.good < 15 → p.left < 63 → becomes { q with left := p.left + 1, good := p.good + 1 })
      ∧ (p.st = .trim → withinFine e = true → 15 ≤ p.good → becomes { q with st := .locked, lastLock := q.code, left := 0, good := 0, bad := 0 })
      ∧ (trims → withinFine e = false → 63 ≤ p.left → carried s ox f bus r = none → ∃ u, exec c s = .next u ∧ (pegOf u k).st = .failed
          ∧ (pegOf u k).code = 0 ∧ count u .oxPegFail [ox, f, ofB bus, r] = min (count s .oxPegFail [ox, f, ofB bus, r] + 1) ctrMax ∧ alone u)
      ∧ (p.st = .recover → withinFine e = false → p.left < 63 → ∃ u, exec c s = .next u ∧ (pegOf u k).st = .recover
          ∧ (pegOf u k).code = max (p.lastLock - 64) (min (p.lastLock + 64) q.code) ∧ alone u)
      ∧ (p.st = .locked → ringNeeded s k = false → becomes { p with st := .park, wl := 31, code := if bus then p.pred - 74 else p.pred })
      ∧ (p.st = .locked → ringNeeded s k = true → light = false → becomes { p with st := .hold, left := 0, bad := 0 })
      ∧ (p.st = .locked → ringNeeded s k = true → light = true → beyondBad e = false → 128 ≤ q.code → q.code ≤ 3967 →
          becomes { q with bad := 0, lastLock := q.code })
      ∧ (p.st = .locked → ringNeeded s k = true → light = true → beyondBad e = true → 3 ≤ p.bad → ∃ u, exec c s = .next u ∧ (pegOf u k).st = .recover
          ∧ count u .oxPegRecover [ox, f, ofB bus, r] = min (count s .oxPegRecover [ox, f, ofB bus, r] + 1) ctrMax ∧ alone u)
      ∧ (p.st = .hold → light = true → becomes { p with st := .recover, left := 0, good := 0 })
      ∧ (p.st = .hold → light = false → 24999 ≤ p.left → becomes { p with st := .off, code := 0, left := 0 })
      ∧ (p.st = .hold → light = false → p.left < 24999 → becomes { p with left := p.left + 1 })
      ∧ (p.st = .park → ringNeeded s k = false → becomes p)
      ∧ (p.st = .failed → becomes { p with code := 0 })

/-- R347 to R353, R355 to R357: lane moves, what the probes and the error counts lead to, and laser modules. A LANE_MOVE is granted, and the new ring
sought, unless a move runs or the spare is in use; a grant is noted by the end that asked; a refused move of a lane that has not failed ends, as does one without an
answer for 1 ms or without LANE_DONE for 20 ms. A lane with too many errors asks for a spare; a weight change that spoils a lane is withdrawn; tuning
lowers the stronger rings of a string, no further than to 128, until their lanes lie within 1.0 dB of the weakest (log entry 183). A
line below 8.00 dBm is in warning and its setpoint raised at most three times; a module removed takes its strings down and one inserted is used only
with 18 lanes on the grid. -/
def Obligations.LanesAndLasers : Prop :=
  (∀ (s : State) (m : LaneMsg), m.str < 544 → strReady s m.str = true →
    let f := if m.rx then txFibre s m.str else rxFibreOf s m.str
    let free := spareUsed s m.str (!m.rx) m.spare = false ∧ m.spare ∈ sparesOf s m.str
    (moveOf s m.str = none → m.ret = true ∨ free → (pegOf s (oxOf m.str, f, !m.rx, (moveWls s m.str m).2)).st ≠ .failed →
        ∃ u, exec (.laneMove m) s = .next u ∧ moveOf u m.str = some { m := m, mine := false, askedAt := s.clk.now, grantedAt := some s.clk.now }
          ∧ .frame .kojor m.str (.laneGrant m) ∈ u.out ∧ (m.rx = false → m.ret = false → (pegOf u (oxOf m.str, f, true, (moveWls s m.str m).2)).st = .seek))
      ∧ (moveOf s m.str ≠ none → ∃ u, exec (.laneMove m) s = .next u ∧ u.opt = s.opt ∧ u.prog = s.prog
          ∧ .frame .kojor m.str (.laneRefuse { m with reason := 3 }) ∈ u.out)
      ∧ (moveOf s m.str = none → m.ret = false → ¬ free → ∃ u, exec (.laneMove m) s = .next u ∧ u.opt = s.opt ∧ u.prog = s.prog
          ∧ .frame .kojor m.str (.laneRefuse { m with reason := 1 }) ∈ u.out))
  ∧ (∀ (s : State) (m : LaneMsg) (v : Move), moveOf s m.str = some v →
    (v.mine = true → v.grantedAt = none → v.m.q = m.q → v.m.spare = m.spare →
        ∃ u, exec (.laneGrant m) s = .next u ∧ moveOf u m.str = some { v with grantedAt := some s.clk.now })
      ∧ (v.mine = false ∨ v.grantedAt ≠ none → exec (.laneGrant m) s = .next s ∧ exec (.laneRefuse m) s = .next s)
      ∧ (v.mine = true → v.grantedAt = none → v.m.cause = 3 ∨ v.m.ret = true → ∃ u, exec (.laneRefuse m) s = .next u ∧ moveOf u m.str = none ∧ u.prog = s.prog)
      ∧ (v.grantedAt ≠ none → v.m.rx ≠ v.mine → v.m.q = m.q → ∃ u, exec (.laneDone m) s = .next u ∧ moveOf u m.str = none ∧ u.links = s.links)
      ∧ (v.grantedAt = none ∨ v.m.rx = v.mine → exec (.laneDone m) s = .next s)
      ∧ (v.mine = true → v.grantedAt = none → v.askedAt + 1000000 ≤ s.clk.now → v.m.cause = 3 ∨ v.m.ret = true →
          ∃ u, exec (.laneMoveNoAnswer m.str) s = .next u ∧ moveOf u m.str = none ∧ u.links = s.links)
      ∧ (s.clk.now < v.askedAt + 1000000 → exec (.laneMoveNoAnswer m.str) s = .next s)
      ∧ (∀ t, v.grantedAt = some t → t + 20000000 ≤ s.clk.now → ∃ u, exec (.laneMoveAbandon m.str) s = .next u ∧ moveOf u m.str = none ∧ u.links = s.links)
      ∧ (∀ t, v.grantedAt = some t → s.clk.now < t + 20000000 → exec (.laneMoveAbandon m.str) s = .next s))
  ∧ (∀ (s : State) (x q errs nbits : Nat) (levels : List Nat), x < 544 → q < 4 →
    let k := (rxFibreOf s x, rxRingOf s x q)
    (nbits < errs * 20000 → onSpare s x q true = false → strReady s x = true → moveOf s x = none → ∀ sp, freeSpare s x true = some sp →
        ∃ u, exec (.laneBerWindow x q errs nbits) s = .next u ∧ moveOf u x
          = some { m := { str := x, rx := true, q := q, spare := sp, cause := 3 }, mine := true, askedAt := s.clk.now })
      ∧ (errs * 20000 ≤ nbits → exec (.laneBerWindow x q errs nbits) s = .next s)
      ∧ (∀ t old, s.opt.changed.get k none = some (t, old) → nbits < errs * 50000 → s.clk.now ≤ t + 1000000 →
          ∃ u, exec (.laneBerCheck x q ⟨errs, nbits⟩ levels) s = .next u ∧ u.prog.eff = TMap.set s.prog.eff (5, k.1 + 32 * k.2) old
            ∧ u.opt.changed.get k none = none ∧ u.opt.suppressed = s.opt.suppressed ++ [(k.1, k.2, s.clk.now + 64 * 3600 * 1000000000)])
      ∧ (s.opt.changed.get k none = none → (linkOf s x).stage ≠ 9 ∨ levels.length ≠ 4 ∨ s.prog.commits ≠ [] →
          exec (.laneBerCheck x q ⟨errs, nbits⟩ levels) s = .next s)
      ∧ (s.opt.changed.get k none = none → (linkOf s x).stage = 9 → levels.length = 4 → s.prog.commits = [] →
          (∀ i < 4, ∀ j < 4, i ≠ j → rxRingOf s x i ≠ rxRingOf s x j) →
          let m := levels.foldl min (levels.headD 0)
          ∃ u, exec (.laneBerCheck x q ⟨errs, nbits⟩ levels) s = .next u ∧ ∀ i < 4,
            let ring := rxRingOf s x i
            let w := wbWeight s (oxOf x) k.1 ring
            wbWeight u (oxOf x) k.1 ring
              = if (wbRole s (oxOf x) k.1 ring).1 = 1 ∧ (∀ h ∈ s.opt.suppressed, h.1 = k.1 → h.2.1 = ring → h.2.2 ≤ s.clk.now) then
                  lowerW (levels.getD i 0) w m 256 w else w))
  ∧ (∀ lvl w m : Nat, w ≤ 255 → let v := lowerW lvl w m 256 w
      v ≤ w ∧ (128 ≤ w → 128 ≤ v) ∧ (128 < v → (lvl * v) ^ 10 ≤ 10 * (m * w) ^ 10))
  ∧ (∀ (s : State) (ox f ring wl oma ser : Nat) (eyes : List Nat), ox < 8 → f < 18 → wl < 18 →
    (mayProbe s ox f ring wl = true → ∃ u o, exec (.probeDwell ox f ring wl oma eyes ser) s = .next u ∧ u.opt.probes.get (ox, f, wl) (0, [], 0) = (o, eyes, ser)
        ∧ ((wbRole s ox f 16).1 ≠ 1 → o = oma) ∧ u = { s with opt := { s.opt with probes := u.opt.probes } })
      ∧ (mayProbe s ox f ring wl = false → exec (.probeDwell ox f ring wl oma eyes ser) s = .next s))
  ∧ ∀ (s : State) (lm lane cd lowMs lanes : Nat) (alarm onGrid : Bool), lm < 16 → lane < 18 →
    let l := laserOf s lm
    (l.ready = false → exec (.laserMonitor lm lane cd lowMs alarm) s = .next s)
      ∧ (l.ready = true → 800 ≤ cd → ∃ u, exec (.laserMonitor lm lane cd lowMs alarm) s = .next u ∧ (∀ j, laserOf u j = if j = lm then
            { l with alarm := alarm, warn := l.warn.filter (· != lane), dark := l.dark.filter (· != lane) } else laserOf s j)
          ∧ u = { s with opt := { s.opt with lasers := u.opt.lasers } })
      ∧ (l.ready = true → 700 ≤ cd → cd < 800 → ∃ u, exec (.laserMonitor lm lane cd lowMs alarm) s = .next u ∧ lane ∈ (laserOf u lm).warn
          ∧ (laserOf u lm).raises.get lane 0 = (if l.raises.get lane 0 < 3 then l.raises.get lane 0 + 1 else l.raises.get lane 0) ∧ u.links = s.links)
      ∧ (l.ready = true → cd < 700 → 10 ≤ lowMs → ∃ u, exec (.laserMonitor lm lane cd lowMs alarm) s = .next u ∧ lane ∈ (laserOf u lm).dark)
      ∧ (∃ u, exec (.laserModuleRemove lm) s = .next u ∧ laserOf u lm = {} ∧ (∀ x ∈ laserLinks s lm, 2 ≤ (linkOf s x).stage → (linkOf u x).stage = 1
            ∧ (linkOf u x).cause = .noLight)
          ∧ ∀ f ∈ laserFibres lm, ∀ r < 18, (pegOf s (lm / 2, f, false, r)).st = .locked → (pegOf u (lm / 2, f, false, r)).st = .hold)
      ∧ (18 ≤ lanes → onGrid = true → ∃ u, exec (.laserModuleInsert lm lanes onGrid) s = .next u ∧ laserOf u lm = { present := true, ready := true }
          ∧ (∀ f ∈ laserFibres lm, ∀ r < 18, (pegOf u (lm / 2, f, false, r)).st = .seek) ∧ u = { s with opt := u.opt })
      ∧ (lanes < 18 ∨ onGrid = false → ∃ u, exec (.laserModuleInsert lm lanes onGrid) s = .next u ∧ laserOf u lm = { present := true }
          ∧ u.opt.pegs = s.opt.pegs ∧ noted u 3 .laserRefused (siteOX (lm / 2)) [lm, lanes])

/-! String links. -/

/-- R363, R368, R370, R372 to R375, R380: a slot received and a replay. A slot that fails SCRC, or that took a bit from an uncorrectable codeword, is counted and dropped; an ACK releases the slots up to its value; the next slot in sequence is
taken, a header slot begins its packet; a duplicate is counted, and a gap, once a round trip, asks for a replay; an ABORT discards the packet in progress. When the
replay timer expires, or a REPLAY_REQ comes while none runs, every held slot goes again, oldest first, and after eight barren replays the link goes down. TRAIN gives
the round trip, the peer and CONFIRM, and one that says the far end is down takes this end down. -/
def Obligations.SlotsAndReplay : Prop :=
  (∀ (s : State) (x : Nat) (sl : Slot), x < 576 →
    let l := linkOf s x
    let d := (l.rxNext + (2 ^ 14 - sl.lseq % 2 ^ 14)) % 2 ^ 14
    let c := Instr.slotReceive x sl
    let others := fun u : State => ∀ y, y ≠ x → quietLink s y → linkOf u y = linkOf s y
    let whole := sl.blocks = [] ∧ sl.scrc = slotCrc sl
    (sl.blocks = [] → sl.scrc ≠ slotCrc sl →
        exec c s = .next { s with ctr := s.ctr.set (.lnkSlotCrc, [x]) (min (count s .lnkSlotCrc [x] + 1) ctrMax) })
      ∧ (slotOkFor s x sl = false → ∃ u, exec c s = .next u ∧ count u .lnkSlotCrc [x] = min (count s .lnkSlotCrc [x] + 1) ctrMax
          ∧ (linkOf u x).rxNext = l.rxNext ∧ (linkOf u x).held = l.held ∧ (linkOf u x).pktLeft = l.pktLeft ∧ u.out = s.out)
      ∧ (sl.scrc ≠ slotCrc sl → slotOkFor s x sl = false)
      ∧ (∀ b, sl.blocks = [b] → l.blockSeen.find b.lane = none →
          let r := readBlock 32 (l.lanes.getD b.lane (4 * laneSet s x + b.lane, 0)).1 (l.inv.getLsbD b.lane) b.syms
          ((∃ i ∈ cwsOf b.lo b.hi, r.words.getD i none = none) → slotOkFor s x sl = false)
          ∧ ∃ u, exec c s = .next u ∧ count u .lnkFecUncorr [x, b.lane]
              = min (count s .lnkFecUncorr [x, b.lane] + (r.words.filter Option.isNone).length) ctrMax)
      ∧ (whole → sl.body = .linkReserved → 8 ≤ l.stage → ∃ u, exec c s = .next u ∧ (linkOf u x).rxNext = l.rxNext
          ∧ count u .lnkFraming [x] = min (count s .lnkFraming [x] + 1) ctrMax)
      ∧ (whole → sl.body ≠ .linkReserved → l.stage < 8 → ∃ u, exec c s = .next u ∧ linkOf u x = { l with quietSince := linkNow s x } ∧ others u ∧ u = { s with links := u.links })
      ∧ (whole → 8 ≤ l.stage → sl.body = .idle → l.txQ = [] → ∃ u, exec c s = .next u ∧ (linkOf u x).held = ackLeft l.held sl.ack
          ∧ (linkOf u x).rxNext = l.rxNext ∧ others u ∧ u = { s with links := u.links })
      ∧ (whole → 8 ≤ l.stage → sl.body ≠ .idle → sl.body ≠ .linkReserved → d = 0 → ∃ u, exec c s = .next u ∧ (linkOf u x).rxNext = (l.rxNext + 1) % 2 ^ 14
          ∧ others u ∧ u.mem = s.mem
          ∧ ∀ n tc, sl.body = .head n tc → l.pktLeft = none → framable s x n = true → (linkOf u x).pktLeft = if n = 1 then none else some (n - 1))
      ∧ (whole → 8 ≤ l.stage → sl.body ≠ .idle → sl.body ≠ .linkReserved → 1 ≤ d → d ≤ 8192 → ∃ u, exec c s = .next u ∧ (linkOf u x).rxNext = l.rxNext
          ∧ (linkOf u x).pktLeft = l.pktLeft ∧ count u .sxLinkDup (portIx x) = min (count s .sxLinkDup (portIx x) + 1) ctrMax ∧ u.out = s.out)
      ∧ (whole → 8 ≤ l.stage → sl.body ≠ .idle → sl.body ≠ .linkReserved → 8192 < d → ∃ u, exec c s = .next u ∧ (linkOf u x).rxNext = l.rxNext
          ∧ (linkOf u x).pktLeft = l.pktLeft ∧ count u .lnkGap [x] = min (count s .lnkGap [x] + 1) ctrMax
          ∧ u.out = if l.lastReq.all (fun t => decide (t + l.rtt ≤ linkNow s x)) then s.out ++ [.link x (.replayReq l.rxNext)] else s.out))
  ∧ (∀ (s : State) (x lseq : Nat), x < 576 →
    let l := linkOf s x
    (l.pktLeft = none → exec (.slotAbort x false) s = .next s)
      ∧ (∃ u, exec (.slotAbort x false) s = .next u ∧ (linkOf u x).pktLeft = none ∧ ∀ y, y ≠ x → quietLink s y → linkOf u y = linkOf s y)
      ∧ (∃ u, exec (.slotAbort x true) s = .next u ∧ linkOf u x = { l with ePktLeft := none } ∧ u = { s with links := u.links })
      ∧ (∀ t, l.timerAt = some t → t ≤ linkNow s x → l.held ≠ [] → l.stage = 9 →
          (l.barren < 8 → ∃ u, exec (.replayTimerExpiry x) s = .next u ∧ u.out = s.out ++ [.slots x (l.held.map (·.lseq))] ∧ (linkOf u x).held = l.held
            ∧ (linkOf u x).barren = l.barren + 1 ∧ (linkOf u x).timerAt = some (linkNow s x + replayNs s x)
            ∧ count u .lnkReplay [x] = min (count s .lnkReplay [x] + 1) ctrMax)
          ∧ (8 ≤ l.barren → ∃ u, exec (.replayTimerExpiry x) s = .next u ∧ wentDown s u x .replay))
      ∧ (l.timerAt = none ∨ l.held = [] ∨ l.stage ≠ 9 → exec (.replayTimerExpiry x) s = .next s)
      ∧ (l.stage = 9 → l.replayUntil ≤ linkNow s x → l.held ≠ [] →
          (l.barren < 8 → ∃ u, exec (.replayReq x lseq) s = .next u ∧ u.out = s.out ++ [.slots x (l.held.map (·.lseq))] ∧ (linkOf u x).barren = l.barren + 1)
          ∧ (8 ≤ l.barren → ∃ u, exec (.replayReq x lseq) s = .next u ∧ wentDown s u x .replay))
      ∧ (l.stage ≠ 9 ∨ linkNow s x < l.replayUntil ∨ l.held = [] → exec (.replayReq x lseq) s = .next s))
  ∧ ∀ (s : State) (x : Nat) (t : Train), x < 576 →
    let l := linkOf s x
    (l.stage < 7 → exec (.train x t) s = .next s)
      ∧ (7 ≤ l.stage → l.stage ≤ 9 → t.down = true → ∃ u, exec (.train x t) s = .next u ∧ wentDown s u x .partner)
      ∧ (7 ≤ l.stage → l.stage ≤ 9 → t.down = false → ∃ u, exec (.train x t) s = .next u ∧ (linkOf u x).stage = l.stage
          ∧ (linkOf u x).peer = some (t.peerBrola, t.peer) ∧ (linkOf u x).rtt = (if t.echo = 0 then l.rtt else linkNow s x - t.echo - t.hold)
          ∧ (linkOf u x).confRx = (l.confRx || t.confirm) ∧ (linkOf u x).echoTime = t.time ∧ u = { s with links := u.links, out := u.out }
          ∧ (l.stage ≠ 7 → u.out = s.out) ∧ (l.stage = 7 → ∃ m, u.out = s.out ++ [.link x (.train m)]))

/-- R362 to R367, R378: what a lane's transmitter sends its receiver reads. The scrambler undoes itself; the guard's symbols are removed, and none follows 40 alike;
a marker is read in its polarity; and a block of codewords gives its marker and each codeword's data, with no symbol corrected, on a lane of either polarity. -/
def Obligations.LineCodeIsRead : Prop :=
  (∀ (r : Nat) (bs : List Bool), scramble r (scramble r bs) = bs)
  ∧ (∀ ks : List Nat, (∀ k ∈ ks, k < 4) → levelsOf (bitsOf ks) = ks ∧ ks.map (turn true ∘ turn true) = ks)
  ∧ (∀ ks t : List Nat, (∀ k ∈ ks, k < 4) →
      let sent := guardIn 4 0 ks
      guardOut ks.length 4 0 (sent ++ t) = (ks, sent.length - ks.length, t)
        ∧ ∀ i k, i + 41 ≤ sent.length → ∃ j, i ≤ j ∧ j < i + 41 ∧ sent[j]? ≠ some k)
  ∧ (∀ a : LaneMark, a.wl < 32 → a.q < 4 → a.str < 512 → a.soff < 256 → a.bcnt < 128 → (∀ h, a.heard = some h → h < 512) →
      (amSymbols a).length = 48 ∧ amRead (amSymbols a) = some a ∧ amInverted (amSymbols a) = false ∧ amInverted ((amSymbols a).map (turn true)) = true)
  ∧ ∀ (a : LaneMark) (words : List (List Nat)) (inverted : Bool) (wl n : Nat), a.wl < 32 → a.q < 4 → a.str < 512 → a.soff < 256 → a.bcnt < 128 →
      (∀ h, a.heard = some h → h < 512) → (∀ w ∈ words, w.length = 258 ∧ (∀ x ∈ rsEncode w, x < 1024) ∧ rsIsWord (rsEncode w) = true) →
      let sent := amSymbols a ++ sendRegion a.wl words ++ fill n
      readBlock words.length wl inverted (sent.map (turn inverted))
        = { mark := some a, guards := (sendRegion a.wl words).length - 1360 * words.length, words := words.map fun w => some (w, 0) }

/-- R25, R376 to R384, Tables 13-6 and 13-9: bring-up and the ways down. With the reference there, a link whose stage is complete enters the next one, once the
markers give each lane its polarity in stages 3 and 4 and its fibre in stage 5, and 64 good codewords on each lane, those of blocks without a slot included, end stage 6; the inverted lanes of stage 4 are
taken, stage 7 starting its sequence numbers at 0 and stage 9 Ready; a stage that exceeds its limit takes it down, as do the loss of its light,
of its slots for 50 µs and of its markers, and more than 64 uncorrectable codewords within 1 ms; none of SILENT and SYMBOL while the direction
is in electrical idle. After the delay of its cause a link restarts, at stage 1 where it has no light. -/
def Obligations.BringUpAndDown : Prop :=
  (∀ (s : State) (x : Nat) (ls : List LaneSeen) (bs : List LaneBlock), x < 608 → s.clk.refLost = false ∨ brolaEnd x = true →
    let l := linkOf s x
    let heard := heardOf s x ls
    let b := bs.foldl (takeBlock x) s
    let few := ∃ q < 4, (linkOf b x).goodCw.get q 0 < 64
    let c := Instr.stageComplete x ls bs
    (mayAdvance s x = false → exec c s = .next s)
      ∧ (mayAdvance s x = true →
        (l.stage = 1 ∨ l.stage = 2 ∨ (l.stage = 3 ∨ l.stage = 4) ∧ lanePolarity ls ≠ none →
            ∃ u, exec c s = .next u ∧ (linkOf u x).stage = l.stage + 1 ∧ (linkOf u x).stageAt = linkNow s x
            ∧ (l.stage = 1 → (linkOf u x).lit = true) ∧ (l.stage ≠ 4 → (linkOf u x).inv = l.inv)
            ∧ (∀ ps, l.stage = 4 → lanePolarity ls = some ps → ∀ q < 4, (linkOf u x).inv.getLsbD q = ps.getD q false) ∧ u = { s with links := u.links })
          ∧ (l.stage = 3 ∨ l.stage = 4 → lanePolarity ls = none → exec c s = .next s)
          ∧ (l.stage = 5 → heardRes s x heard = .ok → ∃ u, exec c s = .next u ∧ (linkOf u x).stage = 6 ∧ u = { s with links := u.links })
          ∧ (l.stage = 5 → heard = none → exec c s = .next s)
          ∧ (l.stage = 5 → heardRes s x heard = .wait → (∀ y ∈ linksOn s (oxOf x) (rxFibreOf s x) true, (linkOf s y).heard = none) →
              (∃ y ∈ linksOn s (oxOf x) (rxFibreOf s x) true, y ≠ x) → heard ≠ none → exec c s = .next (setLink s x { l with heard := heard }))
          ∧ (l.stage = 5 → heardRes s x heard = .miswired → ∃ u, exec c s = .next u ∧ wentDown s u x .miswire)
          ∧ b = { s with links := b.links, ctr := b.ctr } ∧ (∀ y, y ≠ x → linkOf b y = linkOf s y) ∧ (bs = [] → b = s)
          ∧ linkOf b x = { l with goodCw := (linkOf b x).goodCw, blockSeen := (linkOf b x).blockSeen, uncorr := (linkOf b x).uncorr }
          ∧ (l.stage = 6 → few → exec c s = .next b)
          ∧ (l.stage = 6 → ¬ few → harmEnd s x = false → ∃ u m, exec c s = .next u ∧ (linkOf u x).stage = 7 ∧ u.out = s.out ++ [.link x (.train m)])
          ∧ (l.stage = 6 → ¬ few → harmEnd s x = true → ∃ u, exec c s = .next u ∧ linkOf u x = { linkOf b x with hlock := true } ∧ u = { b with links := u.links })
          ∧ (l.stage = 7 → ∃ u, exec c s = .next u ∧ (linkOf u x).stage = 8 ∧ (linkOf u x).txNext = 0 ∧ (linkOf u x).rxNext = 0 ∧ (linkOf u x).held = []
              ∧ u = { s with links := u.links })
          ∧ (l.stage = 8 → ∃ u, exec c s = .next u ∧ strReady u x = true)))
  ∧ (∀ (s : State) (x lane t : Nat), x < 576 →
    let l := linkOf s x
    let now := linkNow s x
    (stageLimit l.stage = some t → l.hlock = false → l.stageAt + t ≤ now → l.stage ≠ 2 → ∃ u, exec (.stageLimit x false) s = .next u ∧ wentDown s u x .train)
      ∧ (stageLimit l.stage = some t → l.hlock = false → l.stageAt + t ≤ now → l.stage = 2 → ∃ u, exec (.stageLimit x false) s = .next u ∧ wentDown s u x .peg)
      ∧ (l.stage = 5 → l.hlock = false → ∃ u, exec (.stageLimit x true) s = .next u ∧ wentDown s u x .miswire)
      ∧ (stageLimit l.stage = none ∨ l.hlock = true → exec (.stageLimit x false) s = .next s)
      ∧ (stageLimit l.stage = some t → now < l.stageAt + t → exec (.stageLimit x false) s = .next s)
      ∧ (2 ≤ l.stage → ∃ u, exec (.lightLoss x) s = .next u ∧ wentDown s u x .noLight)
      ∧ (l.stage = 0 → l.cause = .miswire → s.clk.refLost = false → ∃ u, exec (.lightLoss x) s = .next u ∧ (linkOf u x).stage = 1 ∧ u = { s with links := u.links })
      ∧ (7 ≤ l.stage → l.eiRx = false → l.quietSince + 50000 ≤ now → l.stageAt + 50000 ≤ now → ∃ u, exec (.silentTimeout x) s = .next u ∧ wentDown s u x .silent)
      ∧ (l.stage < 7 ∨ l.eiRx = true ∨ now < l.quietSince + 50000 → exec (.silentTimeout x) s = .next s)
      ∧ (4 ≤ l.stage → l.eiRx = false → ∃ u, exec (.alignmentMarkerLoss x) s = .next u ∧ wentDown s u x .symbol)
      ∧ (l.stage < 4 ∨ l.eiRx = true → exec (.alignmentMarkerLoss x) s = .next s)
      ∧ (∀ bs : List LaneBlock, let b := bs.foldl (takeBlock x) s
          (l.stage < 6 → exec (.fecUncorrLimit x lane bs) s = .next s)
            ∧ (lane < 4 → 6 ≤ l.stage → uncorrNow b x lane ≤ 64 → exec (.fecUncorrLimit x lane bs) s = .next b)
            ∧ (lane < 4 → 6 ≤ l.stage → 64 < uncorrNow b x lane → ∃ u, exec (.fecUncorrLimit x lane bs) s = .next u ∧ wentDown b u x .fec))
      ∧ (l.restartAt = some t → l.stage = 0 → t ≤ now → s.clk.refLost = false → ∃ u, exec (.bringupRestart x) s = .next u ∧ (linkOf u x).stage = (if l.lit then l.restartStage else 1)
          ∧ (linkOf u x).restartAt = none ∧ u = { s with links := u.links })
      ∧ (l.restartAt = none → exec (.bringupRestart x) s = .next s))
  ∧ ∀ (s : State) (x : Nat), x < 576 →
    let l := linkOf s x
    let only := fun (u : State) (v : Link) => ∀ y, linkOf u y = if y = x then v else linkOf s y
    (l.stage = 9 → l.eiTx = false → strEidle s.prog.eff x ≠ 0 → idleReady s x = true → ∃ u, exec (.eiEntry x) s = .next u ∧ only u { l with eiTx := true }
        ∧ u.out = s.out ++ [.link x .eiEnter] ∧ count u .lnkEiEntry [x, 0] = min (count s .lnkEiEntry [x, 0] + 1) ctrMax)
      ∧ (l.stage ≠ 9 ∨ l.eiTx = true ∨ strEidle s.prog.eff x = 0 ∨ idleReady s x = false → exec (.eiEntry x) s = .next s)
      ∧ (l.stage = 9 → l.eiRx = false → ∃ u, exec (.eiEnter x) s = .next u ∧ only u { l with eiRx := true } ∧ u = { s with links := u.links, ctr := u.ctr })
      ∧ (l.eiTx = true ∨ l.eiRx = true → ∃ u, exec (.eiExit x) s = .next u ∧ only u { l with eiTx := false, eiRx := false, quietSince := linkNow s x }
        ∧ u = { s with links := u.links })
      ∧ (l.eiTx = false → l.eiRx = false → exec (.eiExit x) s = .next s)

/-! The course. -/

/-- R205, R206, R317, R318, R391, R393, R400, R403: while the twin serves, and at a rebuild target, each of the twin's messages is applied and confirmed: bytes are stored
at this member's copy, state records replace their items, contributions of EACH windows add to their lines, a finalisation marks its
instance; else it changes nothing. A target stores the items of a rebuild and keeps its journal, and at its end its pages of unmirrored regions are poisoned. MCONFIRM releases what it names. -/
def Obligations.MirrorMessages : Prop :=
  (∀ (s : State) (mseq key : Nat) (bs : List Byte) (p : Bool) (d : Option DupEntry), takesMirror s = true →
    (backUp s (keyTarget key) = true → Memory.wf s.mem.phys = true → ∃ u, exec (.mwrite mseq key bs p d) s = .next u ∧ keyStored s u key bs
        ∧ confirmedTo u mseq ∧ (∀ e, d = some e → { e with twins := true } ∈ u.resp.dups) ∧ u.wins = s.wins ∧ u.prog = s.prog)
      ∧ (backUp s (keyTarget key) = false → ∃ u, exec (.mwrite mseq key bs p d) s = .next u ∧ u.mem.phys = s.mem.phys
        ∧ (keyTarget key, keyPage key) ∈ u.mem.missed ∧ confirmedTo u mseq))
  ∧ (∀ (s : State) (mseq k c : Nat) (m v : Bool) (x : W64) (e : DupEntry), takesMirror s = true →
    (∃ u, exec (.mstate mseq (.flag m c k v)) s = .next u ∧ (∀ y, u.ctl.flags.get y false = if y = (m, c, k) then v else s.ctl.flags.get y false)
        ∧ confirmedTo u mseq ∧ u.mem = s.mem)
      ∧ (∃ u, exec (.mstate mseq (.counter m c k x)) s = .next u ∧ (∀ y, ctrOf u y = if y = (m, c, k) then x else ctrOf s y) ∧ confirmedTo u mseq ∧ u.mem = s.mem)
      ∧ ∃ u, exec (.mstate mseq (.dup e)) s = .next u ∧ { e with twins := true } ∈ u.resp.dups ∧ confirmedTo u mseq ∧ u.mem = s.mem)
  ∧ (∀ (s : State) (mseq wid off fmt : Nat) (accs : List (Nat × W64)) (p : Bool) (w : Window) (bs : List Byte) (k : Nat), takesMirror s = true →
    winOf s wid = some w → w.d.wid = wid →
    (w.st = .active → 0 < accs.length → ∃ u w', exec (.macc mseq (.macc wid w.epoch false fmt off [] accs p none)) s = .next u ∧ winOf u wid = some w'
        ∧ (∀ l ∈ lineBytes off (accs.length * fmtSize fmt), (w'.lines.get l.1 {}).bytes = (w.lines.get l.1 {}).bytes + l.2) ∧ w'.d = w.d ∧ u.mem = s.mem)
      ∧ (w.st = .active ∨ w.st = .finalising → backUp s (keyTarget k) = true → Memory.wf s.mem.phys = true → ∃ u w', exec (.mfinal mseq (.mfinal wid w.epoch [(k, bs)] [] [])) s = .next u
        ∧ keyStored s u k bs ∧ winOf u wid = some w' ∧ w' = { w with twinWritten := true } ∧ confirmedTo u mseq))
  ∧ (∀ (s : State) (mseq key wid e fmt off : Nat) (bs : List Byte) (p x : Bool) (d : Option DupEntry) (r : StateRec), takesMirror s = false →
    exec (.mwrite mseq key bs p d) s = .next s ∧ exec (.mstate mseq r) s = .next s ∧ exec (.macc mseq (.macc wid e x fmt off bs [] p d)) s = .next s
      ∧ exec (.mfinal mseq (.mfinal wid e [] [] [])) s = .next s)
  ∧ (∀ (s : State) (mseq rid i k : Nat) (bs : List Byte) (pz : List Nat) (j : Journal), s.course.rebuildTgt = true →
    (Memory.wf s.mem.phys = true → ∃ u, exec (.mcopy mseq (.page rid i k bs pz)) s = .next u ∧ keyStored s u k bs ∧ (∀ w ∈ pz, w ∈ u.mem.poison)
        ∧ (keyTarget k, keyPage k) ∉ u.mem.missed ∧ confirmedTo u mseq)
      ∧ (j.phase ≠ 4 → ∃ u, exec (.mjournal mseq j) s = .next u ∧ u.course.journal = s.course.journal ++ [j] ∧ u.course.tgtCkpt = j.ckpt
        ∧ u.course.rebuildTgt = true ∧ confirmedTo u mseq ∧ u.disc = s.disc)
      ∧ (j.phase = 4 → ∃ u, exec (.mjournal mseq j) s = .next u ∧ u.course.rebuildTgt = false ∧ u.course.serving = true ∧ u.course.twinUp = true
        ∧ (∀ w, w ∈ u.mem.poison ↔ w ∈ s.mem.poison
          ∨ ∃ g ∈ regions s.prog.eff, g.mir = false ∧ ∃ x ∈ regionPlaces g true, w ∈ wordsOf (physKey x.1 x.2 0) 4096)
        ∧ u.disc.phase = 9 ∧ confirmedTo u mseq))
  ∧ ∀ (s : State) (mseq : Nat) (qs : List Nat) (j : Journal) (i : CopyItem),
    (s.course.rebuildTgt = false → exec (.mjournal mseq j) s = .next s ∧ (copiesBack s i = false → exec (.mcopy mseq i) s = .next s))
      ∧ (s.course.copying = false → s.resp.running = [] → (∀ w ∈ s.wins.filterMap (·.2), w.waits = []) →
        (∀ y ∈ s.course.unconf, y.held = false) → ∃ u, exec (.mconfirm qs) s = .next u
        ∧ (∀ y, y ∈ u.course.unconf ↔ y ∈ s.course.unconf ∧ y.mseq ∉ qs.take 48) ∧ u.mem = s.mem ∧ u.out = s.out)

/-- R394 to R396, R398 to R400, R402, R404: heartbeats, takeover, split and rebuild. A HEARTBEAT goes out on every Ready soundpost string; one that comes
starts the miss count again, one that says LEAVING makes the survivor take over, one of an ALONE twin ends the later of two lone members,
and one of a rebuild target starts the rebuild. Eight periods without one declare the twin lost. A rebuild sends its items in order and
ends when all are confirmed; a gap of 100 ms starts it again. -/
def Obligations.HeartbeatsAndRebuild : Prop :=
  (∀ (s : State) (sp : Nat) (h : Heartbeat), sp < 32 →
    let b := { s.course with hbAt := s.course.hbAt.set sp s.clk.now, lastHb := s.clk.now, hbIn := h.hbCount, twinAlone := h.alone, paired := true }
    let taken := fun u : State => u.course.alone = true ∧ u.course.twinUp = false ∧ u.course.takeover = s.clk.now ∧ u.course.lost = true
    (∃ u, exec .heartbeatSend s = .next u ∧ u = { s with out := u.out, course := { s.course with hbOut := (s.course.hbOut + 1) % 65536 } }
        ∧ ∀ i < 32, strReady s (512 + i) = true → sentSince s u (.link (512 + i) (.heartbeat (myHeartbeat s))))
      ∧ (s.clk.now < s.course.hbAt.get sp s.clk.now + 1000 → h.leaving = false → h.failing = false → s.course.alone = false → exec (.heartbeat sp h) s = .next { s with course := b })
      ∧ (h.leaving = true ∨ h.failing = true → s.course.twinUp = true → ∃ u, exec (.heartbeat sp h) s = .next u ∧ taken u
          ∧ noted u 4 .twinLost (siteMC s) [(site s).course, s.clk.now])
      ∧ (s.course.twinUp = false → h.alone = true → s.course.alone = true →
        (s.clk.now < s.course.hbAt.get sp s.clk.now + 1000 → s.course.takeover < h.takeover → exec (.heartbeat sp h) s = .next { s with course := b })
        ∧ (h.takeover < s.course.takeover → ∃ u, exec (.heartbeat sp h) s = .next u ∧ u.course.serving = false ∧ u.course.alone = false
          ∧ u.course.rebuildTgt = true ∧ u.course.split = true ∧ u.course.leaving = true))
      ∧ (s.course.twinUp = false → h.alone = false → s.course.alone = true → h.rebuildTgt = true → s.course.copying = false →
        ∃ u, exec (.heartbeat sp h) s = .next u ∧ u.course.copying = true ∧ u.course.front = allItems s ∧ u.course.ckpt = 0
          ∧ u.course.rbid = (s.course.rbid + 1) % 2 ^ 32 ∧ u.course.alone = true ∧ u.mem = s.mem)
      ∧ (s.course.lastHb + 4000 ≤ s.clk.now → s.course.twinUp = true → ∃ u, exec .heartbeatMiss s = .next u ∧ taken u)
      ∧ (s.clk.now < s.course.lastHb + 4000 → exec .heartbeatMiss s = .next s))
  ∧ ∀ (s : State) (i : CopyItem) (t : List CopyItem),
    let goes := s.course.copying = true ∧ s.course.gapFrom = none
    (∀ j, goes → soundpostUp s = true → s.course.front = i :: t → fillItem s i = some j → (∀ y ∈ s.course.unconf, sameMsg y.body (.mcopy j) = false) →
      ∃ u q y, exec .rebuildCopy s = .next u ∧ u.out = s.out ∧ mirrorWaits u q (.mcopy j)
        ∧ u.course = { s.course with front := t, passed := s.course.passed + 1, mseq := u.course.mseq, unconf := s.course.unconf ++ [y] }
        ∧ y.mseq = q ∧ y.body = .mcopy j ∧ u.mem = s.mem)
      ∧ (goes → soundpostUp s = true → s.course.front = i :: t → fillItem s i = none →
        exec .rebuildCopy s = .next { s with course := { s.course with front := t, passed := s.course.passed + 1 } })
      ∧ (¬ goes ∨ soundpostUp s = false ∨ s.course.front = [] → exec .rebuildCopy s = .next s)
      ∧ (goes → s.course.front = [] → s.course.unconf = [] → ∃ u, exec .rebuildEnd s = .next u ∧ u.course.copying = false ∧ u.course.alone = false
        ∧ u.course.twinUp = true ∧ (u.course.journal.getLast?.map (·.phase)) = some 4)
      ∧ (¬ goes ∨ s.course.front ≠ [] ∨ s.course.unconf ≠ [] → exec .rebuildEnd s = .next s)
      ∧ (∀ g, s.course.gapFrom = some g → s.course.copying = true → g + 100000000 ≤ s.clk.now → ∃ u, exec .soundpostGapTimeout s = .next u
        ∧ u.course.gapFrom = none ∧ u.course.ckpt = 0 ∧ u.course.front = allItems s ∧ u.course.rbid = (s.course.rbid + 1) % 2 ^ 32
        ∧ count u .courseRbRestart [] = min (count s .courseRbRestart [] + 1) ctrMax)
      ∧ (∀ g, s.course.gapFrom = some g → s.clk.now < g + 100000000 → exec .soundpostGapTimeout s = .next s)

/-! Start-up and discovery. -/

/-- R25, R312, R319, R322, R411 to R417, R420, R434, R490, R521, R531: the phases of start-up, each entered only from the one before. MC boot selects the preferred image that verifies,
the other one after three tries or where it does not verify, or recovery, and derives the alias key of its digests; the domains come on in their order after the RAMPSLOT delay, whose start is the model's reading (log entry 113), and the memory is found; without a site record
the package goes no further; the soundpost strings and the leaf strings come up; a member without its twin goes on alone, or is excluded; the end of leaf attach
makes it ready for the election, or joins a domain that runs. -/
def Obligations.StartUpPhases : Prop :=
  (∀ (s : State),
    (s.mc.swapping = false → exec .mcTakeover s = .next s)
      ∧ (s.mc.swapping = true → s.course.copying = false → exec .mcTakeover s = .next { s with mc := { s.mc with
          active1 := !s.mc.active1, swapping := false, standbyOk := pdIsOn s (if s.mc.active1 then 31 else 30), resetCause := 5 } }))
  ∧ (∀ (s : State) (a b siteOk : Bool),
    let due := s.disc.phase = 1 ∧ s.pwr.pwrGood = true ∧ s.pwr.porHeld = false
    let r : Option BootRec := (bootRec s.disc).map (·.1)
    let first := if (r.map (·.tries)).getD 0 < 3 then (r.map (·.prefB)).getD false else !(r.map (·.prefB)).getD false
    let ok := fun x : Bool => if x then b else a
    (¬ due → exec (.mcBoot a b siteOk) s = .next s)
      ∧ (due → a = false → b = false → ∃ u, exec (.mcBoot a b siteOk) s = .next u ∧ u.disc.phase = 0xF ∧ u.disc.site = none)
      ∧ (due → ok first = true → ∃ u, exec (.mcBoot a b siteOk) s = .next u ∧ u.disc.phase = 2 ∧ u.disc.imageB = first ∧ (siteOk = false → u.disc.site = none)
          ∧ (s.pwr.faultMid.getLsbD 2 = false → pdIsOn u 30 = true)
          ∧ u.sec.aliasKey = some (Config.aliasKey Config.uniqueSecret (Config.image first 1) (Config.image first 2) (Config.image first 3)))
      ∧ (due → ok first = false → ok (!first) = true → ∃ u, exec (.mcBoot a b siteOk) s = .next u ∧ u.disc.phase = 2 ∧ u.disc.imageB = !first))
  ∧ (∀ (s : State) (dimms : List Dimm),
    let slot := (s.disc.site.map (·.rampSlot)).getD 0 % 32
    let fresh := s.disc.phase = 2 ∧ (∀ n < 30, pdIsOn s n = false) ∧ s.disc.bootAt + slot * 10000000 ≤ s.clk.up
    (¬ fresh → exec (.selftestStart dimms) s = .next s)
      ∧ (fresh → ∃ u, exec (.selftestStart dimms) s = .next u ∧ u.mem.dimms = dimms ∧ u.mem.chDeg = channelsOut dimms 0 ++ channelsOut dimms 1
          ∧ u.mem.pages.get 8 0 = ddrPages dimms (channelsOut dimms 0 ++ channelsOut dimms 1) 0 ∧ u.pwr.portTrain = List.range 8 ∧ u.fuse.loadWait = []
          ∧ (pdIsOn s 30 = true → ∀ n < 30, pdIsOn u n = true))
      ∧ (s.disc.phase = 2 → pdIsOn s 28 = true → s.disc.site = none → ∃ u, exec (.selftestPhaseEnd []) s = .next u ∧ u.disc.phase = 0xF)
      ∧ (s.disc.phase = 2 → pdIsOn s 28 = true → s.disc.site ≠ none → ∃ u, exec (.selftestPhaseEnd []) s = .next u ∧ u.disc.phase = 3
          ∧ ∀ t < 8, u.mem.scrubAt.get t 0 = targetPages s t)
      ∧ (s.disc.phase ≠ 2 → exec (.selftestPhaseEnd []) s = .next s))
  ∧ (∀ (s : State) (ms : Nat),
    let settled := ∀ p ∈ s.opt.pegs, p.2.st = .locked ∨ p.2.st = .park ∨ p.2.st = .failed
    let pairs := soundpostUp s = true ∧ s.course.paired = true
    let waits := ms < 800 ∧ ∃ n < 512, 2 ≤ (linkOf s n).stage ∧ (linkOf s n).stage ≤ 8 ∧ strHarmonic s.prog.eff n = false
    (s.disc.phase = 3 → settled → ∃ u, exec .opticalPhaseEnd s = .next u ∧ u.disc = { s.disc with phase := 4 }
        ∧ ∀ i < 32, pdIsOn s (4 + i / 4) = true → (linkOf s (512 + i)).stage = 0 → s.clk.refLost = false → (linkOf u (512 + i)).stage = 1)
      ∧ (s.disc.phase ≠ 3 ∨ ¬ settled → exec .opticalPhaseEnd s = .next s)
      ∧ (s.disc.phase = 4 → pairs → ∃ u, exec .soundpostPhaseEnd s = .next u ∧ u.disc = { s.disc with phase := 5 } ∧ u.course.alone = s.course.alone)
      ∧ (s.disc.phase = 4 → ¬ pairs → s.disc.twinHello = true → (site s).memberB = true → ∃ u, exec .soundpostPhaseEnd s = .next u ∧ u.disc.excl = true
          ∧ u.course.alone = s.course.alone)
      ∧ (s.disc.phase = 4 → ¬ pairs → s.disc.twinHello = false ∨ (site s).memberB = false → ∃ u, exec .soundpostPhaseEnd s = .next u
          ∧ u.disc = { s.disc with phase := 5 } ∧ u.course.alone = true ∧ u.course.takeover = s.clk.now)
      ∧ (s.disc.phase ≠ 4 → exec .soundpostPhaseEnd s = .next s)
      ∧ (s.disc.phase = 5 → s.disc.attached = false → s.disc.excl = false → ¬ waits →
        (s.disc.joining = false → joinsReady s = false → ∃ u, exec (.leafAttachPhaseEnd ms) s = .next u ∧ u.disc.attached = true
            ∧ u.disc.phase = (if s.disc.closed then 6 else 5) ∧ u.course = s.course)
        ∧ (s.disc.joining = true ∨ joinsReady s = true → ∃ u, exec (.leafAttachPhaseEnd ms) s = .next u ∧ u.disc.attached = true ∧ u.disc.joining = true
            ∧ u.course.rebuildTgt = true ∧ u.course.alone = false))
      ∧ (s.disc.phase ≠ 5 ∨ s.disc.attached = true ∨ s.disc.excl = true ∨ waits → exec (.leafAttachPhaseEnd ms) s = .next s)
      ∧ (s.disc.site ≠ none → s.disc.phase ≠ 1 → s.disc.phase ≠ 0xF → s.disc.helloSent = none →
          exec .helloSend s = .next { s with out := s.out ++ [.hello (myHello s)], disc := { s.disc with helloSent := some s.clk.up } })
      ∧ (s.disc.site = none → exec .helloSend s = .next s))

/-- R30, R31, R420 to R424, R428, R432, R433: discovery. A HELLO counts only with a session and where it agrees with this domain's; the lowest HEALTHY rank leads, 400 ms after
the first HEALTHY HELLO, and begins with a baseline sweep; a Kojor answers the lowest rank it has received; a sweep without a change ends the search in
TABLES, 300 ms ahead of their epoch; each Kojor accepts or refuses them and says so; those that refuse, do not accept by E − 50 ms, or do not
converge in time are excluded, after TABLES have been sent again three times; a lead that falls silent for 30 ms is replaced.
In service a HELLO of another domain shows it to be there, and a time domain or a lead course that is no longer heard is replaced by the lowest that is (log
entry 159). -/
def Obligations.DomainIsDiscovered : Prop :=
  (∀ (s : State) (h : Hello) (b : Bool),
    let t := site s
    let same := h.k = t.k ∧ h.w = t.w ∧ h.h = t.h ∧ h.bridges = t.bridges ∧ h.dy = t.dy ∧ h.dx = t.dx
    let joined := t.bridges = true ∧ h.bridges = true ∧ h.w = t.w ∧ h.h = t.h ∧ h.healthy = true
    (s.disc.site = none → exec (.hello h b) s = .next s)
      ∧ (s.disc.site ≠ none → h.domain ≠ t.domain → joined →
          exec (.hello h true) s = .next { s with disc := { s.disc with domAt := s.disc.domAt.set (h.dy, h.dx) s.clk.up } })
      ∧ (h.domain ≠ t.domain → ¬ joined → exec (.hello h b) s = .next s)
      ∧ exec (.hello h false) s = .next s
      ∧ (s.disc.site ≠ none → h.domain = t.domain →
        (¬ same → ∃ u, exec (.hello h true) s = .next u ∧ u.disc = s.disc ∧ noted u 4 .helloMismatch (siteMC s) [h.course, ofB h.memberB])
        ∧ (same → rankOf h.course h.memberB = myRank s → h.devid.toNat < s.fuse.devid.toNat → ∃ u, exec (.hello h true) s = .next u ∧ u.disc.excl = true)
        ∧ (same → rankOf h.course h.memberB = myRank s → s.fuse.devid.toNat ≤ h.devid.toNat → exec (.hello h true) s = .next s)
        ∧ (same → rankOf h.course h.memberB ≠ myRank s → s.disc.hellos.find (rankOf h.course h.memberB) = none → ∃ u, exec (.hello h true) s = .next u
          ∧ u.disc.hellos.find (rankOf h.course h.memberB) = some h ∧ u.disc.helloAt.get (rankOf h.course h.memberB) 0 = s.clk.up
          ∧ u = { s with disc := u.disc, course := u.course })))
  ∧ (∀ (s : State) (r t : Nat),
    let opens := s.disc.site ≠ none ∧ s.disc.closed = false ∧ s.disc.excl = false ∧ s.disc.joining = false ∧ joinsReady s = false ∧ 2 ≤ s.disc.phase ∧ s.disc.phase ≤ 5
    (opens → s.disc.firstHealthy = some t → t + 400000000 ≤ s.clk.up → (healthyRanks s).head? = some r →
        ∃ u, exec .electionClose s = .next u ∧ u.disc.closed = true ∧ u.disc.lead = r ∧ (r ≠ myRank s → u.disc.amLead = s.disc.amLead ∧ u.out = s.out)
          ∧ (r = myRank s → u.disc.amLead = true ∧ u.disc.sweepNo = 1 ∧ u.disc.baseSweep = 1 ∧ sentSince s u (.sweep 1 r)))
      ∧ (¬ opens → exec .electionClose s = .next s)
      ∧ (opens → s.disc.firstHealthy = some t → s.clk.up < t + 400000000 → (∃ q < 2 * (site s).k, q ∉ healthyRanks s) → exec .electionClose s = .next s))
  ∧ (∀ (s : State) (n rank : Nat) (l : List SurveyStr),
    let d := s.disc
    (d.amLead = false → exec .sweepSend s = .next s ∧ exec (.survey rank n l) s = .next s)
      ∧ (d.amLead = true → d.phase = 6 → d.sweepAt + 100000000 ≤ s.clk.up → d.baseSweep < d.sweepNo → seesChange s = false →
          ∃ u p x, exec .sweepSend s = .next u ∧ u.disc.phase = 7 ∧ sentSince s u (.tables d.sweepNo (s.clk.now + 300000000) p x))
      ∧ (d.amLead = true → d.phase = 6 → d.sweepAt + 100000000 ≤ s.clk.up → d.sweepNo ≤ d.baseSweep ∨ seesChange s = true → d.sweepNo < d.baseSweep + 7 →
          ∃ u, exec .sweepSend s = .next u ∧ u.disc.sweepNo = d.sweepNo + 1 ∧ u.disc.prevSurveys = d.surveys ∧ u.out = s.out ++ [.sweep (d.sweepNo + 1) (myRank s)])
      ∧ (d.amLead = true → d.phase = 6 → s.clk.up < d.sweepAt + 100000000 → exec .sweepSend s = .next s)
      ∧ (d.amLead = true → n ≠ d.sweepNo → exec (.survey rank n l) s = .next s)
      ∧ (d.amLead = true → n = d.sweepNo → d.phase ≠ 6 → exec (.survey rank n l) s = .next { s with disc := { d with surveys := d.surveys.set rank l } })
      ∧ (d.site ≠ none → d.excl = false → d.joining = false → 5 ≤ d.phase → d.phase ≤ 9 → (d.amLead = true → rank < myRank s) → d.phase = 9 ∨ rank ≤ d.following →
          ∃ u, exec (.sweep n rank) s = .next u ∧ u.disc.amLead = false ∧ u.disc.lead = rank ∧ u.disc.following = rank ∧ u.out = s.out ++ [.survey n (mySurvey s)])
      ∧ (d.amLead = true → myRank s ≤ rank → exec (.sweep n rank) s = .next s)
      ∧ (d.phase ≠ 9 → d.following < rank → exec (.sweep n rank) s = .next s))
  ∧ (∀ (s : State) (n epoch rank cstate : Nat) (present : List (Nat × W64 × Nat)) (x : List Nat) (conv : Bool),
    let d := s.disc
    let takes := d.site ≠ none ∧ d.excl = false ∧ d.joining = false ∧ d.attached = true ∧ s.course.rebuildTgt = false
    let kept := s.prog.commits.filter fun p => p.desc != 0
    (takes → myRank s ∉ x → ∃ u, exec (.tables n epoch present x) s = .next u ∧ u.disc.excluded = x
        ∧ ((∃ p c, u.prog.commits = kept ++ [p] ∧ p.epoch = epoch ∧ p.desc = 0 ∧ u.disc.cstate = 1 ∧ sentSince s u (.result 1 c))
          ∨ (∃ c, u.prog.commits = kept ∧ u.disc.cstate = 4 ∧ sentSince s u (.result 4 c))))
      ∧ (takes → myRank s ∈ x → ∃ u, exec (.tables n epoch present x) s = .next u ∧ u.disc.excl = true)
      ∧ (¬ takes → exec (.tables n epoch present x) s = .next s)
      ∧ (d.amLead = false → exec (.result rank cstate conv) s = .next s)
      ∧ (d.amLead = true → ∃ u, exec (.result rank cstate conv) s = .next u ∧ u = { s with disc := u.disc } ∧ (cstate = 1 → rank ∈ u.disc.accepted)
          ∧ (cstate = 4 → rank ∈ u.disc.excluded) ∧ (conv = true → rank ∈ u.disc.convergedR) ∧ (d.phase ≠ 7 → u.disc.phase = d.phase)))
  ∧ ∀ (s : State) (r : Nat),
    let d := s.disc
    let late := (participants s).filter fun r => if r = myRank s then !selfConverged s else decide (r ∉ d.convergedR)
    let gone := { s with disc := { d with hellos := d.hellos.erase d.lead } }
    (d.amLead = true → tablesPending s = true → d.epochE ≤ s.clk.now + 50000000 → ∃ u, exec .tablesAcceptDeadline s = .next u ∧ u = { s with disc := u.disc }
        ∧ (∀ q, q ∈ u.disc.excluded ↔ q ∈ d.excluded ∨ q ∈ participants s ∧ q ∉ d.accepted) ∧ (d.phase = 7 → u.disc.phase = 8))
      ∧ (d.amLead = false ∨ tablesPending s = false ∨ s.clk.now + 50000000 < d.epochE → exec .tablesAcceptDeadline s = .next s)
      ∧ (d.amLead = true → tablesPending s = true → d.epochE ≤ s.clk.now + 1000000 → late ≠ [] →
        (d.resends < 3 → ∃ u p x, exec .convergenceCheck s = .next u ∧ u.disc.resends = d.resends + 1 ∧ sentSince s u .cancelAll
            ∧ sentSince s u (.tables d.sweepNo (s.clk.now + 300000000) p x))
        ∧ (3 ≤ d.resends → exec .convergenceCheck s = .next { s with disc := { d with excluded := d.excluded ++ late.filter (· != myRank s) } }))
      ∧ (d.amLead = false ∨ tablesPending s = false ∨ s.clk.now + 1000000 < d.epochE ∨ late = [] → exec .convergenceCheck s = .next s)
      ∧ (d.closed = true → d.amLead = false → d.excl = false → 6 ≤ d.phase → d.phase < 9 → d.helloAt.get d.lead 0 + 30000000 ≤ s.clk.up →
          (healthyRanks gone).head? = some r → ∃ u, exec .leadLost s = .next u ∧ u.disc.lead = r ∧ u.disc.phase = 6
          ∧ (r = myRank s → u.disc.amLead = true ∧ sentSince s u (.sweep (d.sweepNo + 1) r)) ∧ (r ≠ myRank s → u.disc.amLead = false))
      ∧ (d.closed = false ∨ d.excl = true ∨ d.phase < 6 ∨ 9 < d.phase ∨ d.phase ≠ 9 ∧ (d.amLead = true ∨ s.clk.up < d.helloAt.get d.lead 0 + 30000000) →
          exec .leadLost s = .next s)
      ∧ (d.closed = true → d.excl = false → d.phase = 9 →
        let pair := [2 * (d.lead / 2), 2 * (d.lead / 2) + 1]
        let left := { s with disc := { d with hellos := d.hellos.filter fun h => decide (h.1 ∉ pair) } }
        let heard := ((site s).dy, (site s).dx) :: ((d.domAt.map (·.1)).filter fun q => decide (s.clk.up < d.domAt.get q 0 + 1030000000))
        ((site s).bridges = false → d.amLead = true ∨ myRank s ∈ pair ∨ (∃ q ∈ pair, s.clk.up < d.helloAt.get q 0 + 1030000000) → exec .leadLost s = .next s)
          ∧ ((site s).bridges = false → d.amLead = false → myRank s ∉ pair → (∀ q ∈ pair, d.helloAt.get q 0 + 1030000000 ≤ s.clk.up) →
            ((healthyRanks left).filter fun q => q != myRank s || s.course.serving).head? = some r → ∃ u, exec .leadLost s = .next u ∧ u.disc.lead = r
              ∧ (r = myRank s → u.disc.amLead = true ∧ sentSince s u (.sweep (d.sweepNo + 1) r)) ∧ (r ≠ myRank s → u = { s with disc := u.disc }))
          ∧ ((site s).bridges = true → d.refDom ≠ ((site s).dy, (site s).dx) → d.domAt.get d.refDom 0 + 1030000000 ≤ s.clk.up →
            ∃ u, exec .leadLost s = .next u ∧ u.disc.refDom ∈ heard ∧ ∀ q ∈ heard, 8 * u.disc.refDom.1 + u.disc.refDom.2 ≤ 8 * q.1 + q.2))

/-! Energy, fuses and security. -/

/-- R437 to R440, R448 to R450: a boundary closes the energy epoch: P, S, the last sixteen bases and their maximum with the guard are taken, the counters
and the throttle level follow the epoch's samples, which start anew; between boundaries nothing happens. A sample counts for its epoch, and one
at its trip point switches its die's domain off. -/
def Obligations.EnergyEpochs : Prop :=
  (∀ (s : State) (pd bal : List Nat) (su : Nat) (temps : List (Nat × Int)),
    let k := boundaries s
    let p := pd.sum / (1000 * k)
    let sd := su / (1000 * k)
    let bs := ((p - sd) :: s.elg.bases).take 16
    let l := addSamples s.elg.epTmax (temps.filter fun x => decide (x.1 < 32))
    let c := Instr.ledgerEpoch pd su bal temps
    (k = 0 → exec c s = .next s)
      ∧ (0 < k → ∃ u, exec c s = .next u ∧ u.elg.pLast = p ∧ u.elg.sLast = sd ∧ u.elg.bases = bs ∧ u.elg.bhat = bs.foldl max 0 + elgGuard (takeSettings s).prog.eff
        ∧ u.elg.lastTmax = l ∧ u.elg.epTmax = [] ∧ u.elg.settings = 0 ∧ (s.clk.refLost = false → u.elg.epoch = s.clk.now / 1000000)
        ∧ (s.elg.settings ≠ 0 → TMap.get u.prog.eff (0x12, 0) 0 = s.elg.settings)
        ∧ count u .elgEpoch [] = min (count s .elgEpoch [] + 1) ctrMax ∧ count u .elgPkgUj [] = min (count s .elgPkgUj [] + pd.sum) ctrMax
        ∧ (s.elg.level < levelOf l → u.elg.level = levelOf l ∧ u.elg.cool = 0)
        ∧ (levelOf l = 0 → s.elg.level = 0 → u.elg.level = 0)
        ∧ (levelOf l ≤ s.elg.level → s.elg.level ≠ 0 → coolBelow s.elg.level l = true → 9 ≤ s.elg.cool → u.elg.level = s.elg.level - 1)
        ∧ (levelOf l ≤ s.elg.level → s.elg.level ≠ 0 → coolBelow s.elg.level l = true → s.elg.cool < 9 → u.elg.level = s.elg.level ∧ u.elg.cool = s.elg.cool + 1)
        ∧ (levelOf l ≤ s.elg.level → s.elg.level ≠ 0 → coolBelow s.elg.level l = false → u.elg.level = s.elg.level ∧ u.elg.cool = 0)))
  ∧ ∀ (s : State) (temps : List (Nat × Int)) (x : Nat) (t : Int),
    ((∀ y ∈ temps, y.1 < 32 ∧ y.2 < (thermAt y.1).2.2) → exec (.thermalSample temps) s = .next { s with elg := { s.elg with epTmax := addSamples s.elg.epTmax temps } })
      ∧ (x < 30 → (thermAt x).2.2 ≤ t → pdIsOn s x = true → (∃ m, m < 4 ∧ pdIsOn (pdFault s x) m = true) → ∃ u, exec (.thermalSample [(x, t)]) s = .next u ∧ pdIsOn u x = false
        ∧ noted u 1 .domainFault (pdSite s x) [x])

/-- R16, R455, R456, R458, R461, R465 to R469, R473: a write to a step or a generation from an owner session programs one record when the value is one more and the
budget and the map allow it; an equal value does nothing more, any other is refused, and one of no owner is an address error. A record is in effect once
a copy is verified, and lost otherwise; the copies of an MC that is off stay blank (R458, log entry 158). Cells that take the record's own words verify, and
read back as a valid copy. A re-plan steps the first site in service below its targets, and ends when none is left. -/
def Obligations.AgeingAndFuses : Prop :=
  (∀ (s : State) (p : MPort) (value : Nat), mcAnswers s = true →
    let st := s.fuse.sel
    let cur := s.fuse.step.get st 0
    let gen := s.fuse.gen.get st 1
    let map := s.fuse.pendMap.get st []
    let only := fun (u : State) (f : Fuse) => u = { s with ctr := u.ctr, fuse := f }
    (isOwner s p = false → exec (.ageStep p value) s = .next (addrError s p) ∧ exec (.repairGen p value) s = .next (addrError s p))
      ∧ (isOwner s p = true →
        (value % 32 = cur → ∃ u, exec (.ageStep p value) s = .next u ∧ only u s.fuse)
        ∧ (value % 32 = cur + 1 → s.fuse.busy = none → ∃ u r, exec (.ageStep p value) s = .next u ∧ r.ty = 4 ∧ r.site = st ∧ r.gen = cur + 1 ∧ only u { s.fuse with
            busy := some (4, st, cur + 1), recs := s.fuse.recs ++ [r], supplyMv := s.fuse.supplyMv.set st (4 * (cur + 1)) })
        ∧ (value % 32 ≠ cur → s.fuse.busy ≠ none ∨ value % 32 < cur ∨ (cur < 31 ∧ cur + 1 < value % 32) →
            ∃ u, exec (.ageStep p value) s = .next u ∧ only u { s.fuse with refused := true })
        ∧ (value % 16 = gen → ∃ u, exec (.repairGen p value) s = .next u ∧ only u s.fuse)
        ∧ (value % 16 = gen + 1 → s.fuse.busy = none → gensUsed s.fuse st < 8 → map ≠ [] → ∃ u r, exec (.repairGen p value) s = .next u ∧ r.ty = 3 ∧ r.site = st
            ∧ r.gen = gen + 1 ∧ r.words = map.map (BitVec.ofNat 64) ∧ only u { s.fuse with busy := some (3, st, gen + 1), recs := s.fuse.recs ++ [r] })
        ∧ (gen < value % 16 → s.fuse.busy = none → 8 ≤ gensUsed s.fuse st → ∃ u, exec (.repairGen p value) s = .next u ∧ only u { s.fuse with budgetExh := true })
        ∧ (value % 16 < gen → ∃ u, exec (.repairGen p value) s = .next u ∧ only u { s.fuse with refused := true })))
  ∧ (∀ (s : State) (r : FuseRec) (i : Nat), i < 4 → copyReach s i = true →
      anyVerified s (nextWord s.fuse.recs.dropLast) (programmed s r []) = true ∧ cellsRead (programmed s r []) i = .good)
  ∧ (∀ (s : State) (r : FuseRec) (b : Nat × Nat × Nat) (odd : List (Nat × Nat × W64 × W64)),
    let r' := programmed s r odd
    let taken := anyVerified s (nextWord s.fuse.recs.dropLast) r'
    (s.fuse.busy = none → exec (.fuseProgramDone odd) s = .next s)
      ∧ (∀ i < 4, copyReach s i = false → cellsRead r' i = .blank)
      ∧ (s.fuse.busy = some b → s.fuse.recs.getLast? = some r → s.mc.warmWait = false → s.fuse.replan = false →
        (taken = true → ∃ u, exec (.fuseProgramDone odd) s = .next u ∧ u.fuse.busy = none ∧ u.fuse.recs = s.fuse.recs.dropLast ++ [r']
          ∧ (r.ty = 4 → u.fuse.step.get r.site 0 = r.gen)
          ∧ (r.ty = 3 → u.fuse.gen.get r.site 1 = r.gen ∧ u.fuse.entries.get r.site [] = r.words.map (·.toNat) ∧ r.site ∈ u.fuse.loadWait)
          ∧ (r.ty = 5 → u.sec.ownGen = r.gen ∧ u.sec.ownKey = ownerKeyOf r ∧ u.sec.ownerLost = false) ∧ (r.ty = 6 → u.fuse.debugOff = true ∧ u.sec.unlock = false))
        ∧ (taken = false → ∃ u, exec (.fuseProgramDone odd) s = .next u ∧ u.fuse.busy = none ∧ u.fuse.recs = s.fuse.recs.dropLast ++ [r']
          ∧ u.fuse.lost = true ∧ (r.ty = 3 → u.fuse.gen = s.fuse.gen))))
  ∧ ∀ (s : State) (p : MPort) (value st slack vmin : Nat) (rs : List (Nat × Nat × Nat)),
    let low := siteServes s st = true ∧ (slack < 20 ∨ vmin < 50) ∧ s.fuse.step.get st 0 < 31
    let stepped := fun u : State => u.fuse.busy = some (4, st, s.fuse.step.get st 0 + 1) ∧ u.fuse.supplyMv.get st 0 = 4 * (s.fuse.step.get st 0 + 1)
      ∧ u.fuse.replan = true
    let ready := s.fuse.replan = false ∧ s.fuse.busy = none ∧ s.disc.phase = 9 ∧ s.fuse.monitor = [] ∧ st < 32
    (mcAnswers s = true → isManager s p = false → exec (.replan p value rs) s = .next (addrError s p))
      ∧ (mcAnswers s = true → isManager s p = true → value % 2 = 1 → ready → low → ∃ u, exec (.replan p value [(st, slack, vmin)]) s = .next u ∧ stepped u)
      ∧ (mcAnswers s = true → isManager s p = true → value % 2 = 1 → ready → s.opt.probes = [] → (∀ q ∈ s.opt.pegs, q.2.st ≠ .locked) → 20 ≤ slack →
          50 ≤ vmin →
          ∃ u, exec (.replan p value [(st, slack, vmin)]) s = .next u ∧ u.fuse.replan = false ∧ u.fuse.busy = none ∧ u.fuse.lastReplan = s.clk.now)
      ∧ (mcAnswers s = true → isManager s p = true → value % 2 = 0 ∨ s.fuse.replan = true → ∃ u, exec (.replan p value rs) s = .next u ∧ u = { s with ctr := u.ctr })
      ∧ (s.clk.anchored = true → s.fuse.lastReplan + 64 * 3600 * 10 ^ 9 ≤ s.clk.now → ready → low →
          ∃ u, exec (.replanPeriod [(st, slack, vmin)]) s = .next u ∧ stepped u)
      ∧ (s.clk.anchored = false ∨ s.clk.now < s.fuse.lastReplan + 64 * 3600 * 10 ^ 9 → exec (.replanPeriod rs) s = .next s)
      ∧ (st < 32 → pdIsOn s st = true → exec (.ageingMonitorRead st slack vmin) s
          = .next { s with fuse := { s.fuse with monitor := s.fuse.monitor.set st (slack, vmin) } })
      ∧ (32 ≤ st ∨ pdIsOn s st = false → exec (.ageingMonitorRead st slack vmin) s = .next s)

/-- R489 to R499, R516, R528: SPDM connections and sessions, the owner key, entropy, and the AON alarms. A request goes on from its states alone and is else
answered with ERROR; at most eight sessions open, and none in an unowned package (the model's reading, log entry 152); measurements carry the alias key's signature over the
transcript (log entry 186); KEY_EXCHANGE and KEY_UPDATE wait while the TRNG is failed; a session without a heartbeat for 60 s closes. A
claim is taken while the package is unowned and a rotation from an owner session. Tamper zeroises the key register and, with main power, closes every session but
the owner's. -/
def Obligations.SessionsAndAlarms : Prop :=
  (∀ (s : State) (c off len n : Nat) (b : Bool) (cert : SpdmCert), mcAnswers s = true →
    let x := sessOf s c
    let replies : Nat → Host.Outcome State Fault Refusal := fun code => .next { s with out := s.out ++ [.spdm c code] }
    let moves : Sess → Nat → Host.Outcome State Fault Refusal := fun y code =>
      .next { s with out := s.out ++ [.spdm c code], sec := { s.sec with sess := s.sec.sess.set c y } }
    let waits : Host.Outcome State Fault Refusal := .next { s with sec := { s.sec with waiters := insertOnce (c + 2) s.sec.waiters } }
    (x.st < 5 → exec (.getVersion c) s = moves { st := 1, script := [0x84] } 0x04) ∧ (x.st = 5 → exec (.getVersion c) s = replies 0x04)
      ∧ exec (.getCapabilities c) s = (if x.st = 1 then moves { x with st := 2, script := x.script ++ [0xE1] } 0x61 else replies 0x7F)
      ∧ exec (.negotiateAlgorithms c b) s = (if x.st = 2 ∧ b = true then moves { x with st := 3, script := x.script ++ [0xE3] } 0x63 else replies 0x7F)
      ∧ exec (.getDigests c) s = (if 3 ≤ x.st ∧ x.st ≤ 5 then replies 0x01 else replies 0x7F)
      ∧ exec (.getCertificate c off len) s = (if 3 ≤ x.st ∧ x.st ≤ 5 ∧ off + len ≤ 65535 then replies 0x02 else replies 0x7F)
      ∧ exec (.challenge c n) s = (if 3 ≤ x.st ∧ x.st ≤ 5 then replies 0x03 else replies 0x7F)
      ∧ (3 ≤ x.st → x.st ≤ 5 → ∃ view, exec (.getMeasurements c n) s
          = .next { s with out := s.out ++ [.measurements c view (measurements s view) (s.sec.aliasKey.map fun k => Config.sign k (x.script ++ [0xE0, n]
            ++ (measurements s view).flatMap fun b => b.1 :: b.2.length :: b.2))] }
          ∧ ∀ k, x.st = 5 → x.role = .tenant k → view = some k)
      ∧ exec (.keyExchange c) s = (if x.st ≠ 3 ∨ 8 ≤ sessCount s then replies 0x7F else if s.sec.trngOk then moves { x with st := 4, beat := s.sec.rtc } 0x64 else waits)
      ∧ exec (.finish c cert) s = (if x.st ≠ 4 then replies 0x7F else if cert.ok && owned s then moves { x with st := 5, role := cert.role, beat := s.sec.rtc } 0x65 else moves {} 0x7F)
      ∧ exec (.spdmHeartbeat c) s = (if x.st = 5 then moves { x with beat := s.sec.rtc } 0x68 else replies 0x7F)
      ∧ exec (.keyUpdate c) s = (if x.st ≠ 5 then replies 0x7F else if s.sec.trngOk then moves { x with updates := x.updates + 1 } 0x69 else waits)
      ∧ (x.st = 5 → ∃ u, exec (.endSession c) s = .next u ∧ u.out = s.out ++ [.spdm c 0x6C] ∧ (∀ y, y ∈ u.sec.sess ↔ y ∈ s.sec.sess ∧ y.1 ≠ c)
          ∧ (s.sec.unlocker = some c → u.sec.unlock = false)))
  ∧ (∀ (s : State) (c : Nat),
    (4 ≤ (sessOf s c).st → (sessOf s c).beat + 60 * 10 ^ 9 ≤ s.sec.rtc → ∃ u, exec (.spdmSessionTimeout c) s = .next u
        ∧ (∀ y, y ∈ u.sec.sess ↔ y ∈ s.sec.sess ∧ y.1 ≠ c) ∧ u = { s with sec := u.sec })
      ∧ ((sessOf s c).st < 4 ∨ s.sec.rtc < (sessOf s c).beat + 60 * 10 ^ 9 → exec (.spdmSessionTimeout c) s = .next s))
  ∧ (∀ (s : State) (p : MPort) (key svn value : Nat) (x : Nat × Nat), mcAnswers s = true →
    (owned s = true → exec (.ownerClaim key svn) s = .next s)
      ∧ (owned s = false → s.fuse.busy = none → s.fuse.keyUsed < 16 → ∃ u r, exec (.ownerClaim key svn) s = .next u ∧ r.ty = 5 ∧ r.gen = s.fuse.keyUsed + 1
          ∧ r.words = ownerWords key (svn % 2 ^ 16) ∧ u.fuse = { s.fuse with busy := some (5, 0, s.fuse.keyUsed + 1), recs := s.fuse.recs ++ [r], keyUsed := s.fuse.keyUsed + 1 })
      ∧ (owned s = false → s.fuse.busy = none → 16 ≤ s.fuse.keyUsed → exec (.ownerClaim key svn) s = .next { s with fuse := { s.fuse with budgetExh := true } })
      ∧ (isOwner s p = false → exec (.secOwnerGen p value (some x)) s = .next (addrError s p))
      ∧ (isOwner s p = true → s.sec.minSvn ≤ x.2 → value % 32 = s.sec.ownGen → ∃ u, exec (.secOwnerGen p value (some x)) s = .next u
          ∧ u = { s with ctr := u.ctr, sec := { s.sec with rotation := some x } })
      ∧ (isOwner s p = true → s.sec.minSvn ≤ x.2 → value % 32 = s.sec.ownGen + 1 → s.fuse.busy = none → s.fuse.keyUsed < 16 → ∃ u r,
          exec (.secOwnerGen p value (some x)) s = .next u ∧ r.ty = 5 ∧ r.gen = s.sec.ownGen + 1 ∧ r.words = ownerWords x.1 x.2 ∧ u.fuse.recs = s.fuse.recs ++ [r]
          ∧ u.fuse.busy = some (5, 0, s.sec.ownGen + 1)))
  ∧ ∀ (s : State) (bs : List W64) (t mv : Nat) (cc : Int) (b : Bool),
    let logged := fun (u : State) (n : Nat) => u.sec.aonLog = s.sec.aonLog ++ [(n, rtcSeconds s)]
    (s.sec.trngOk = false → exec (.trngBlock b bs) s = .next s)
      ∧ (s.sec.trngOk = true → exec (.trngBlock true bs) s = .next { s with sec := { s.sec with pool := s.sec.pool ++ bs } })
      ∧ (s.sec.trngOk = true → ∃ u, exec (.trngBlock false bs) s = .next u ∧ u.sec = { s.sec with trngOk := false, trngFailLatch := true, trngFailedAt := some s.sec.rtc }
          ∧ noted u 9 .trngFailed (siteMC s) [])
      ∧ (s.sec.trngOk = true ∨ s.pwr.pwrGood = false → exec (.trngStartupRetry b) s = .next s)
      ∧ (s.sec.trngOk = false → s.sec.trngFailedAt = some t → s.sec.rtc < t + 100000000 → exec (.trngStartupRetry b) s = .next s)
      ∧ (s.sec.trngOk = false → s.pwr.pwrGood = true → s.sec.trngFailedAt = some t → t + 100000000 ≤ s.sec.rtc →
          (∃ u, exec (.trngStartupRetry true) s = .next u ∧ u.sec.trngOk = true ∧ u.sec.trngFailedAt = none)
          ∧ exec (.trngStartupRetry false) s = .next { s with sec := { s.sec with trngFailedAt := some s.sec.rtc } })
      ∧ (∃ u, exec .tamper s = .next u ∧ u.sec.tamper = true ∧ u.sec.kregZero = true ∧ u.sec.unlock = false ∧ logged u 0
          ∧ (s.pwr.pwrGood = false → u.sec.kreg = none ∧ u.sec.sess = s.sec.sess)
          ∧ (s.pwr.pwrGood = true → ∀ y, y ∈ u.sec.sess ↔ y ∈ s.sec.sess ∧ y.2.st = 5 ∧ y.2.role = .owner))
      ∧ (cc < -4000 ∨ 9500 < cc → ∃ u, exec (.aonTemperature cc) s = .next u ∧ u.sec.temp = true ∧ logged u 1)
      ∧ (-4000 ≤ cc → cc ≤ 9500 → exec (.aonTemperature cc) s = .next s)
      ∧ (mv < 2500 → ∃ u, exec (.cellLow mv) s = .next u ∧ u.sec.cellLow = true ∧ u.sec.cellAlm = true ∧ logged u 2)
      ∧ (2500 ≤ mv → exec (.cellLow mv) s = .next { s with sec := { s.sec with cellLow := false } })
      ∧ (s.pwr.onCell = true → ∃ u, exec .aonLost s = .next u ∧ u.sec.rtcValid = false ∧ u.sec.rtc = 0 ∧ u.sec.kreg = none ∧ u.sec.aonLost = true ∧ u.tel.tail = []
          ∧ u.mem = s.mem)
      ∧ (s.pwr.onCell = false → exec .aonLost s = .next s)

/-! Telemetry, boundary scan and debug. -/
/-! Management ports. -/

/-- R502, R505 to R507, R509, R511, R512, R533: a snapshot is armed by the high word of a time from 2 µs to 10 s ahead, each die copies its counters at that time,
and 1 µs later every block swaps at once and what was off is stale; a read of the present time freezes its high word. A window of the scroll that ends gives
each suppressed combination a summary; archiving takes entries in order and frees their places. -/
def Obligations.SnapshotsAndScroll : Prop :=
  (∀ (s : State) (p : MPort) (v : W32), mcAnswers s = true →
    let t := s.tel
    let at_ := t.atLo.toNat + v.toNat * 2 ^ 32
    let inTime := s.clk.now + 2000 ≤ at_ ∧ at_ ≤ s.clk.now + 10 ^ 10
    let only := fun (u : State) (x : Tel) => u = { s with ctr := u.ctr, tel := x }
    (mayWrite s p = false → exec (.snapAtLo p v) s = .next (addrError s p) ∧ exec (.snapAtHi p v) s = .next (addrError s p))
      ∧ (mayWrite s p = true →
        (t.armed = true → (∃ u, exec (.snapAtLo p v) s = .next u ∧ only u { t with snapRefused := true })
            ∧ ∃ u, exec (.snapAtHi p v) s = .next u ∧ only u { t with snapRefused := true })
        ∧ (t.armed = false → ∃ u, exec (.snapAtLo p v) s = .next u ∧ only u { t with atLo := v })
        ∧ (t.armed = false → inTime → t.snapBrola = false → ∃ u, exec (.snapAtHi p v) s = .next u ∧ only u { t with atHi := v, armed := true, copiedBlks := [] })
        ∧ (t.armed = false → inTime → t.snapBrola = true → ∃ u, exec (.snapAtHi p v) s = .next u ∧ u.tel = { t with atHi := v, armed := true, copiedBlks := [] }
          ∧ ∀ n ∈ leafStrings s, n < 512 → sentSince s u (.frame .kojor n (.snap at_)))
        ∧ (t.armed = false → ¬ inTime → ∃ u, exec (.snapAtHi p v) s = .next u ∧ only u { t with atHi := v, snapLate := true }
          ∧ count u .snapLate [] = min (count s .snapLate [] + 1) ctrMax))
      ∧ (p = .spi ∨ portRole s p ≠ none →
        (∃ u, exec (.snapNowLo p) s = .next u ∧ (u.tel.frozenHi.get (mportIx p) 0).toNat = s.clk.now / 2 ^ 32 % 2 ^ 32
          ∧ (p = .spi → u.out = s.out ++ [.spiRead (BitVec.ofNat 32 s.clk.now) false]))
        ∧ ∃ u, exec (.scrollRd p v) s = .next u ∧ only u { t with scrollRd := v })
      ∧ (p = .smbus → exec (.snapNowLo p) s = .next (addrError s p) ∧ exec (.scrollRd p v) s = .next (addrError s p)))
  ∧ (∀ (s : State) (b : Nat),
    let due := s.tel.armed = true ∧ b < 32 ∧ snapAt s ≤ s.clk.now
    (due → b ∉ s.tel.copiedBlks → pdIsOn s b = true → ∃ u, exec (.snapshotCopy b) s = .next u ∧ u.tel.copiedBlks = s.tel.copiedBlks ++ [b]
        ∧ (∀ c ∈ s.ctr, ctrMine c.1 = true → ctrBlock s c.1 = b → c ∈ u.tel.inactive) ∧ u.tel.shadow = s.tel.shadow
        ∧ u = { s with tel := u.tel })
      ∧ (¬ due ∨ b ∈ s.tel.copiedBlks ∨ pdIsOn s b = false → exec (.snapshotCopy b) s = .next s)
      ∧ (s.tel.armed = true → snapAt s + 1000 ≤ s.clk.now → ∃ u, exec .snapshotSwap s = .next u ∧ u.tel.armed = false
        ∧ u.tel.snapEpoch = (s.tel.snapEpoch + 1) % 2 ^ 32 ∧ (∀ b, b ∈ u.tel.stale ↔ b < 32 ∧ b ∉ s.tel.copiedBlks ∧ pdIsOn s b = false) ∧ u = { s with tel := u.tel })
      ∧ (s.tel.armed = false ∨ s.clk.now < snapAt s + 1000 → exec .snapshotSwap s = .next s))
  ∧ ∀ (s : State) (n k : Nat) (c : (Nat × ScrollEv × Nat × Option Nat) × (Nat × Nat × Bool)),
    let t := s.tel
    let new := (t.tail.drop (t.tail.length - t.unarchived)).take n
    let ended := t.winStart / 10000000 < s.clk.now / 10000000
    (¬ ended → exec .scrollWindowEnd s = .next s)
      ∧ (ended → t.winCount = [c] → c.2.2.1 = k → 0 < k → ∃ u, exec .scrollWindowEnd s = .next u ∧ u.tel.winCount = [] ∧ u.tel.winStart = s.clk.now / 10000000 * 10000000
        ∧ u = { s with tel := u.tel } ∧ ∃ e ∈ u.tel.tail ++ u.tel.waitQ, e.cls = 0x0B ∧ e.count = k ∧ e.sub = some (c.1.1, c.1.2.1) ∧ e.site = c.1.2.2.1 ∧ e.capo = c.1.2.2.2)
      ∧ (t.waitQ = [] → t.archive.length + new.length ≤ archiveSize → exec (.scrollArchive n) s = .next { s with tel := { t with
          archive := t.archive ++ new, unarchived := t.unarchived - new.length, lag := t.lag && decide (512 ≤ t.unarchived - new.length) } })

/-- R515 to R517: boundary scan and debug. IDCODE and BYPASS always act; EXTEST, CLAMP and HIGHZ need debug unlocked before start-up has gone on, and debug accesses
need it unlocked; where they are not available they act as BYPASS. An owner session unlocks and locks debug, until it is disabled for good by a fuse
record. -/
def Obligations.ScanAndDebug : Prop :=
  (∀ (s : State) (v a x : Nat) (sx port flits : Nat),
    let shifts := fun (code data : Nat) => { s with out := s.out ++ [.jtag code data], tel := { s.tel with jtag := code } }
    let bypass := exec (.jtagBypass 0) s
    exec (.jtagBypass v) s = .next (shifts 0 (v % 2))
      ∧ exec .jtagIdcode s = .next (shifts 1 Config.idcode.toNat)
      ∧ (∃ u d, exec (.jtagSamplePreload v) s = .next u ∧ u.out = s.out ++ [.jtag 2 d] ∧ u.tel = { s.tel with jtag := 2, bscan := v } ∧ u.free = s.free + 1)
      ∧ (jtagPins s = true → (∃ u, exec (.jtagExtest v) s = .next u ∧ u.tel = { s.tel with jtag := 3, bscan := v } ∧ u.out = s.out ++ [.jtag 3 v])
          ∧ exec .jtagClamp s = .next (shifts 4 s.tel.bscan) ∧ exec .jtagHighz s = .next (shifts 5 0))
      ∧ (jtagPins s = false → exec (.jtagExtest v) s = bypass ∧ exec .jtagClamp s = bypass ∧ exec .jtagHighz s = bypass)
      ∧ (s.sec.unlock = true →
        (∃ u, exec (.dbgacc true a x) s = .next u ∧ u.tel.dieState.get a 0 = x ∧ (∀ y, y ≠ a → u.tel.dieState.get y 0 = s.tel.dieState.get y 0) ∧ u.mem = s.mem)
        ∧ (∀ y, s.tel.dieState.find a = some y → exec (.dbgacc false a x) s = .next (shifts 6 y))
        ∧ (sx < 4 → port < 128 → 1 ≤ flits → ∃ u, exec (.dbginj sx port flits) s = .next u
          ∧ u.sw.injected.get (sx, port) [] = s.sw.injected.get (sx, port) [] ++ [{ capo := 0, left := flits, flits := flits }] ∧ u.sw.queues = s.sw.queues ∧ u.mem = s.mem))
      ∧ (s.sec.unlock = false → exec (.dbgacc true a x) s = bypass ∧ exec (.dbginj sx port flits) s = bypass))
  ∧ ∀ (s : State) (p : MPort) (v : Bool), mcAnswers s = true →
    (isOwner s p = false → exec (.unlock p v) s = .next (addrError s p) ∧ exec (.disable p v) s = .next (addrError s p))
      ∧ (isOwner s p = true →
        (s.fuse.debugOff = true → ∃ u, exec (.unlock p v) s = .next u ∧ u = { s with ctr := u.ctr })
        ∧ (s.fuse.debugOff = false → s.sec.unlock = false → ∃ u, exec (.unlock p true) s = .next u
          ∧ u = { s with ctr := u.ctr, sec := { s.sec with unlock := true, unlocks := min 255 (s.sec.unlocks + 1), unlocker := some (sessNo p) } })
        ∧ (s.fuse.debugOff = false → ∃ u, exec (.unlock p false) s = .next u ∧ u = { s with ctr := u.ctr, sec := { s.sec with unlock := false, unlocker := none } })
        ∧ (s.fuse.debugOff = false → s.fuse.busy = none → ∃ u r, exec (.disable p true) s = .next u ∧ r.ty = 6
          ∧ u = { s with ctr := u.ctr, fuse := { s.fuse with busy := some (6, 0, r.gen), recs := s.fuse.recs ++ [r] } })
        ∧ (s.fuse.debugOff = true → s.fuse.busy = none → ∃ u, exec (.disable p false) s = .next u
          ∧ u = { s with ctr := u.ctr, fuse := { s.fuse with budgetExh := true } })
        ∧ (s.fuse.debugOff = true → s.fuse.busy ≠ none → ∃ u, exec (.disable p false) s = .next u
          ∧ u = { s with ctr := u.ctr, fuse := { s.fuse with refused := true } }))

/-- R15, R18, R395, R408, R488, R518 to R525, R531: the registers and the ports that reach them. A write to no register, or one that the port may not make, is an
address error; fields that a 1 clears are cleared. The actions of MC_RESET need their key and a session that manages. A frame of SPI that is cut short,
too long, late or of a bad CRC is counted in its own bit and performs nothing; a whole one reads or writes one register. SMBus reads with a good PEC; a session reads and
writes through MCTP; a frame of Ethernet and a clock timeout change nothing. -/
def Obligations.ManagementPorts : Prop :=
  (∀ (s : State) (p : MPort) (addr data : W32) (key : Nat), mcAnswers s = true →
    let a := addr.toNat
    let c := Instr.registerWrite p addr data
    let may := regValue s p none a ≠ none ∧ mayPut s p a = true
    let manages := isManager s p = true ∧ key = 0x5A
    (¬ may → exec c s = .next (addrError s p))
      ∧ (mayPut s p 0x30 = true → a = 0x30 → ∃ u, exec c s = .next u ∧ u.mc = { s.mc with ifStatus := s.mc.ifStatus &&& ~~~(BitVec.ofNat 12 data.toNat) }
          ∧ u = { s with mc := u.mc, ctr := u.ctr })
      ∧ (mayPut s p 4 = true → a = 4 → ∃ u, exec c s = .next u ∧ u = { s with ctr := u.ctr })
      ∧ (mayPut s p 0x03000018 = true → a = 0x03000018 → ∃ u, exec c s = .next u ∧ u = { s with ctr := u.ctr, fuse := { s.fuse with sel := data.toNat % 32 } })
      ∧ (¬ manages → exec (.warm p key) s = .next (addrError s p) ∧ exec (.mcswap p key) s = .next (addrError s p) ∧ exec (.leave p key) s = .next (addrError s p))
      ∧ (manages →
        (∀ b, s.fuse.busy = some b → ∃ u, exec (.warm p key) s = .next u ∧ u = { s with ctr := u.ctr, mc := { s.mc with warmWait := true } })
        ∧ (s.fuse.busy = none → ∃ u, exec (.warm p key) s = .next u ∧ u.disc.phase = 2 ∧ u.mc.resetCause = 3 ∧ u.clk = {} ∧ u.mem = {} ∧ u.fuse.recs = s.fuse.recs
          ∧ u.brola = s.brola ∧ (∀ n < 30, pdIsOn u n = false) ∧ (pdIsOn u 30 = pdIsOn s 30))
        ∧ (s.mc.standbyOk = true → ∃ u, exec (.mcswap p key) s = .next u ∧ u.mc = { s.mc with swapping := true } ∧ u.sec.sess = [])
        ∧ (s.mc.standbyOk = false → ∃ u, exec (.mcswap p key) s = .next u ∧ u.mc.ifStatus = s.mc.ifStatus ||| 0x800 ∧ u = { s with ctr := u.ctr, mc := u.mc })
        ∧ (s.course.lost = false → s.course.alone = false → s.course.twinUp = true → ∃ u, exec (.leave p key) s = .next u ∧ u.course.leaving = true
          ∧ u.course.serving = false ∧ u.course.twinUp = false)
        ∧ (s.course.alone = true ∨ s.course.twinUp = false → ∃ u, exec (.leave p key) s = .next u ∧ u.mc.ifStatus = s.mc.ifStatus ||| 0x800
          ∧ u = { s with ctr := u.ctr, mc := u.mc })))
  ∧ (∀ (s : State) (e v : Nat) (addr data : W32) (crc : Bool), s.pwr.pwrGood = true → s.mc.swapping = false →
    exec (.spiWrite 0 addr data crc true) s = .next s ∧ exec (.spiRead 0 addr crc true) s = .next s
      ∧ exec (.spiWrite 80 addr data true true) s = exec (.registerWrite .spi addr data) s
      ∧ exec (.spiWrite 80 addr data false true) s = .next (ifEvent s 0 3)
      ∧ ((e = 8 ∨ e = 40 ∨ e = 72) → exec (.spiWrite e addr data crc true) s = .next (ifEvent s 0 1))
      ∧ (0 < e → e < 80 → e ≠ 8 → e ≠ 40 → e ≠ 72 → exec (.spiWrite e addr data crc true) s = .next (ifEvent s 0 0))
      ∧ (56 ≤ e → exec (.spiWrite e addr data crc false) s = .next (ifEvent s 0 5))
      ∧ (∃ u, exec (.spiRead 96 addr false true) s = .next u ∧ u = { ifEvent s 0 3 with out := s.out ++ [.spiRead 0 true] })
      ∧ ((e = 8 ∨ e = 40 ∨ e = 48 ∨ e = 56 ∨ e = 88) → exec (.spiRead e addr crc true) s = .next (ifEvent s 0 1))
      ∧ (regValue s .spi none addr.toNat = some v → regOff s addr.toNat = false → addr.toNat ≠ 0x04000020 → ∃ u, exec (.spiRead 96 addr true true) s = .next u
        ∧ u = { s with ctr := u.ctr, out := s.out ++ [.spiRead (BitVec.ofNat 32 v) false] })
      ∧ (e < 256 → e ≠ 2 → e ≠ 0x0B → exec (.spiUnknownOpcode e) s = .next (ifEvent s 0 4)))
  ∧ (∀ (s : State) (code v : Nat) (addr : W32), mcAnswers s = true →
    exec (.smbMctp true code) s = .next s ∧ exec (.smbMctp false code) s = .next (ifEvent s 1 6)
      ∧ exec (.smbRegisterRead false 4 addr) s = .next (ifEvent s 1 6)
      ∧ (smbBlock (addr.toNat / 2 ^ 24) = true → regValue s .smbus none addr.toNat = some v → regOff s addr.toNat = false →
        ∃ u, exec (.smbRegisterRead true 4 addr) s = .next u ∧ u = { s with ctr := u.ctr, out := s.out ++ [.smbRead (BitVec.ofNat 32 v) 0] })
      ∧ (smbBlock (addr.toNat / 2 ^ 24) = false → ∃ u, exec (.smbRegisterRead true 4 addr) s = .next u ∧ u = { addrError s .smbus with out := s.out ++ [.smbRead 0 1] })
      ∧ (s.mc.alarm ≠ 0 → exec .alertResponse s = .next { s with out := s.out ++ [.smbAlert (0x4C + s.mc.smbAddr)] })
      ∧ (s.mc.alarm = 0 → exec .alertResponse s = .next s))
  ∧ ∀ (s : State) (sess n v et ver len : Nat) (addr : W32) (ws : List W32) (x y : Bool),
    exec .smbClockTimeout s = .next s ∧ exec (.ethernetFrame x y et ver len) s = .next s
      ∧ (s.pwr.pwrGood = true → s.mc.swapping = true → 1 ≤ n → n ≤ 64 → exec (.mctpRead sess addr n) s
          = .next { s with out := s.out ++ [.mctpRead sess 3 (List.replicate n 0)] })
      ∧ (mcAnswers s = true → portRole s (.eth sess) = none → exec (.mctpRead sess addr n) s = .next s ∧ exec (.mctpWrite sess addr ws) s = .next s)
      ∧ (mcAnswers s = true → isManager s (.eth sess) = true → regValue s (.eth sess) none addr.toNat = some v → regOff s addr.toNat = false →
          addr.toNat ≠ 0x04000020 → ∃ u, exec (.mctpRead sess addr 1) s = .next u ∧ u = { s with ctr := u.ctr, out := s.out ++ [.mctpRead sess 0 [BitVec.ofNat 32 v]] })
      ∧ (mcAnswers s = true → isManager s (.eth sess) = true → regValue s (.eth sess) none addr.toNat ≠ none → mayPut s (.eth sess) addr.toNat = false → ∀ w,
          ∃ u, exec (.mctpWrite sess addr [w]) s = .next u ∧ u = { addrError s (.eth sess) with out := s.out ++ [.mctpWrite sess 2] })
      ∧ (mcAnswers s = true → isManager s (.eth sess) = true → addr.toNat = 0x03000018 → ∀ w, ∃ u, exec (.mctpWrite sess addr [w]) s = .next u
          ∧ u = { s with ctr := u.ctr, fuse := { s.fuse with sel := w.toNat % 32 }, out := s.out ++ [.mctpWrite sess 0] })

/-! Whole rules. -/
/-! The block as a whole. -/

/-- R18: an access to an address that no register occupies has no effect but its count as an address error of its interface; a read of it returns 0. -/
def Obligations.UnoccupiedAddresses : Prop :=
  ∀ (s : State) (addr data : W32) (sess : Nat), s.pwr.pwrGood = true → s.mc.swapping = false → (∀ p t, regValue s p t addr.toNat = none) →
    let counted := fun (u : State) (p : MPort) => u = { s with mc := u.mc, ctr := u.ctr, out := u.out }
      ∧ u.mc = { s.mc with ifStatus := s.mc.ifStatus ||| BitVec.ofNat 12 (2 ^ (7 + mportIx p)) }
      ∧ ∀ k ix, count u k ix = if k = .mcIfErr ∧ ix = [mportIx p, 7 + mportIx p] then min (count s k ix + 1) ctrMax else count s k ix
    (∃ u, exec (.spiRead 96 addr true true) s = .next u ∧ counted u .spi ∧ u.out = s.out ++ [.spiRead 0 false])
      ∧ (∃ u, exec (.spiWrite 80 addr data true true) s = .next u ∧ counted u .spi ∧ u.out = s.out)
      ∧ (∃ u, exec (.smbRegisterRead true 4 addr) s = .next u ∧ counted u .smbus ∧ u.out = s.out ++ [.smbRead 0 1])
      ∧ (portRole s (.eth sess) ≠ none → mayGet s (.eth sess) addr.toNat = true →
        ∃ u, exec (.mctpRead sess addr 1) s = .next u ∧ counted u (.eth sess) ∧ u.out = s.out ++ [.mctpRead sess 1 [0]])
      ∧ (portRole s (.eth sess) ≠ none → mayGet s (.eth sess) addr.toNat = false →
        ∃ u, exec (.mctpRead sess addr 1) s = .next u ∧ counted u (.eth sess) ∧ u.out = s.out ++ [.mctpRead sess 2 [0]])
      ∧ (portRole s (.eth sess) ≠ none → ∃ u, exec (.mctpWrite sess addr [data]) s = .next u ∧ counted u (.eth sess) ∧ u.out = s.out ++ [.mctpWrite sess 1])
      ∧ ∀ p, ∃ u, exec (.registerWrite p addr data) s = .next u ∧ counted u p ∧ u.out = s.out

/-- R360: of an OX that is on, what OX_PEG_SEL is written with selects the ring whose state OX_PEG_STAT then reads, and a fibre or ring above 17 makes it read 0. -/
def Obligations.RingSelection : Prop :=
  ∀ (s : State) (n : Nat) (v : W32), s.pwr.pwrGood = true → s.mc.swapping = false → n < 8 → pdIsOn s (4 + n) = true →
    let block := 0x20000000 + n * 2 ^ 24
    let f := v.toNat % 32
    let r := v.toNat / 2 ^ 16 % 32
    let stat := if 17 < f ∨ 17 < r then 0 else pegStat (pegOf s (n, f, bit v.toNat 8, r))
    ∃ u t, exec (.registerWrite .spi (BitVec.ofNat 32 (block + 0x200)) v) s = .next u
      ∧ exec (.spiRead 96 (BitVec.ofNat 32 (block + 0x204)) true true) u = .next t
      ∧ t.out = s.out ++ [.spiRead (BitVec.ofNat 32 stat) false] ∧ u.out = s.out ∧ u.opt.pegs = s.opt.pegs ∧ t.opt = u.opt

/-- R528: a session that ends, by its own request, without a heartbeat, or as the standby takes over, leaves everything that it has written, and UNLOCK clears where it had set it. -/
def Obligations.SessionsEnd : Prop :=
  ∀ (s : State) (c key : Nat) (p : MPort), mcAnswers s = true →
    let ended := fun (u : State) => (∀ y ∈ u.sec.sess, y.1 ≠ c) ∧ (s.sec.unlocker = some c → u.sec.unlock = false)
      ∧ u = { s with out := u.out, ctr := u.ctr, mc := u.mc, sec := { s.sec with sess := u.sec.sess, waiters := u.sec.waiters, unlock := u.sec.unlock } }
    ((sessOf s c).st = 5 → ∃ u, exec (.endSession c) s = .next u ∧ ended u ∧ u.mc = s.mc)
      ∧ (4 ≤ (sessOf s c).st → (sessOf s c).beat + 60 * 10 ^ 9 ≤ s.sec.rtc → ∃ u, exec (.spdmSessionTimeout c) s = .next u ∧ ended u ∧ u.mc = s.mc)
      ∧ (isManager s p = true → key = 0x5A → s.mc.standbyOk = true → ∃ u, exec (.mcswap p key) s = .next u ∧ ended u
        ∧ u.mc = { s.mc with swapping := true })

/-- A command at the front of the queue is what the next step runs, on the state with the queue's rest, and every command in every state completes: none
faults or is refused; with no command waiting the clocks run (log entry 2). -/
def Obligations.StepRunsFrontCommand : Prop :=
  (∀ (s : State) (c : Instr), step { s with pending := c :: s.pending } = exec c s) ∧ (∀ (s : State) (c : Instr), ∃ u, exec c s = .next u) ∧ ∀ (s : State), s.pending = [] → step s = .next (tick s)

/-- The state after a power-on reset: nothing waits, start-up is in MC boot, the cause is a power-on reset, every switched domain is off, no string is Ready, no
event is latched, fabric time is 0, debug is locked, no stream and no program runs, and flags are false. That memory, counters of control space and the general state of the
tiles read 0 is the model's choice (log entry 4). The memories have their canonical form: no address is listed. -/
def Obligations.ResetState : Prop :=
  let s := State.reset
  s.pending = [] ∧ s.disc.phase = 1 ∧ s.mc.resetCause = 1 ∧ (∀ n < 36, pdIsOn s n = false) ∧ (∀ x, strReady s x = false)
    ∧ s.mc.ifStatus = 0 ∧ s.mc.alarm = 0 ∧ s.pwr.fault = 0 ∧ s.clk.now = 0 ∧ s.clk.anchored = false ∧ s.sec.unlock = false ∧ s.str.running = false
    ∧ s.prog.ctl = none ∧ s.prog.queue = [] ∧ (∀ k, flagOf s k = false) ∧ (∀ k, ctrOf s k = 0) ∧ (∀ a, Memory.read s.mem.phys a = 0)
    ∧ (∀ n, tileOf s n = {}) ∧ s.course.serving = false ∧ s.sec.trngOk = false ∧ s.fuse.busy = none
    ∧ safeState s

/-- Every step, whatever command it runs and from whatever state, keeps the canonical form of the package's memory, of the tiles' scratch and of the leaf's
memory: addresses strictly rising, and no byte listed that an unlisted one would read as. -/
def Obligations.MemoryCanonicalKept : Prop :=
∀ (s t : State), safeState s → step s = .next t → safeState t
end

