-- ==== Sys2Proof/Laws/Maps.lean ====
section
/-! SUPPORT. The laws of the maps, of bit fields and of byte strings. -/

namespace Sys2Proof

theorem TMap.get_erase {κ ν : Type} [DecidableEq κ] (m : TMap κ ν) (k k' : κ) (d : ν) :
    (TMap.erase m k).get k' d = if k = k' then d else m.get k' d := by
  induction m with
  | nil => simp [TMap.erase, TMap.get]
  | cons e t ih =>
    obtain ⟨a, v⟩ := e
    by_cases h : a = k
    · subst h
      simp only [TMap.erase, List.filter, ne_eq, not_true, decide_false] at ih ⊢
      rw [ih]
      simp only [TMap.get]
      split <;> rfl
    · simp only [TMap.erase, List.filter, ne_eq, h, not_false_eq_true, decide_true, TMap.get] at ih ⊢
      rw [ih]
      by_cases h' : a = k'
      · subst h'; simp [Ne.symm h]
      · simp [h']

/-- A map reads what was written last. -/
@[simp] theorem TMap.get_set_self {κ ν : Type} [DecidableEq κ] (m : TMap κ ν) (k : κ) (v d : ν) : (TMap.set m k v).get k d = v := by
  simp [TMap.set, TMap.get]

/-- A write of one key leaves every other key alone. -/
theorem TMap.get_set {κ ν : Type} [DecidableEq κ] (m : TMap κ ν) (k k' : κ) (v d : ν) :
    (TMap.set m k v).get k' d = if k = k' then v else m.get k' d := by
  simp only [TMap.set, TMap.get, TMap.get_erase]
  split <;> rfl

theorem TMap.get_set_ne {κ ν : Type} [DecidableEq κ] (m : TMap κ ν) {k k' : κ} (v d : ν) (h : k ≠ k') :
    (TMap.set m k v).get k' d = m.get k' d := by simp [TMap.get_set, h]

theorem TMap.find_erase {κ ν : Type} [DecidableEq κ] (m : TMap κ ν) (k k' : κ) :
    (TMap.erase m k).find k' = if k = k' then none else m.find k' := by
  induction m with
  | nil => simp [TMap.erase, TMap.find]
  | cons e t ih =>
    obtain ⟨a, v⟩ := e
    by_cases h : a = k
    · subst h
      simp only [TMap.erase, List.filter, ne_eq, not_true, decide_false] at ih ⊢
      rw [ih]
      simp only [TMap.find]
      split <;> rfl
    · simp only [TMap.erase, List.filter, ne_eq, h, not_false_eq_true, decide_true, TMap.find] at ih ⊢
      rw [ih]
      by_cases h' : a = k'
      · subst h'; simp [Ne.symm h]
      · simp [h']

theorem TMap.find_set {κ ν : Type} [DecidableEq κ] (m : TMap κ ν) (k k' : κ) (v : ν) :
    (TMap.set m k v).find k' = if k = k' then some v else m.find k' := by
  simp only [TMap.set, TMap.find, TMap.find_erase]
  split <;> rfl

@[simp] theorem TMap.find_set_self {κ ν : Type} [DecidableEq κ] (m : TMap κ ν) (k : κ) (v : ν) :
    (TMap.set m k v).find k = some v := by simp [TMap.find_set]

/-- Reading with a default is finding, else the default. -/
theorem TMap.get_eq_find {κ ν : Type} [DecidableEq κ] (m : TMap κ ν) (k : κ) (d : ν) : m.get k d = (m.find k).getD d := by
  induction m with
  | nil => rfl
  | cons e t ih =>
    obtain ⟨a, v⟩ := e
    simp only [TMap.get, TMap.find]
    split
    · rfl
    · exact ih

theorem bits_lt (n lo len : Nat) : bits n lo len < 2 ^ len := Nat.mod_lt _ (Nat.two_pow_pos _)

@[simp] theorem leBytes_length (k n : Nat) : (leBytes k n).length = k := by
  induction k generalizing n with
  | zero => rfl
  | succ k ih => simp [leBytes, ih]

/-- Bytes spell the number they were taken from, within their width (R13). -/
theorem ofLe_leBytes (k n : Nat) : ofLe (leBytes k n) = n % 2 ^ (8 * k) := by
  induction k generalizing n with
  | zero => simp [leBytes, ofLe, Nat.mod_one]
  | succ k ih =>
    simp only [leBytes, ofLe, ih, BitVec.toNat_ofNat]
    have h : 2 ^ (8 * (k + 1)) = 256 * 2 ^ (8 * k) := by rw [Nat.mul_add, Nat.pow_add]; omega
    rw [h, Nat.mod_mul]

namespace Machine

/-- A counter after it is raised: by n, saturating at 2^64 − 1 (R501). -/
theorem count_bump (s : State) (c : CtrName) (ix : List Nat) (n : Nat) :
    count (bump s c ix n) c ix = min (count s c ix + n) ctrMax := by
  simp [count, bump, satAdd]

/-- A counter raised leaves every other counter alone. -/
theorem count_bump_ne (s : State) (c c' : CtrName) (ix ix' : List Nat) (n : Nat) (h : (c, ix) ≠ (c', ix')) :
    count (bump s c ix n) c' ix' = count s c' ix' := by
  simp only [count, bump]
  exact TMap.get_set_ne _ _ _ h

end Machine

end Sys2Proof
end

