-- ==== Sys2Proof/Laws/Memory.lean ====
section
/-! SUPPORT. Byte memory: every operation keeps the canonical form; what a read gives after each. -/

namespace Sys2Proof.Machine

open Sys2Proof

theorem Memory.wfFrom_mono {lo lo' : Nat} (h : lo' ≤ lo) : ∀ {m : List Host.Cell}, Memory.wfFrom lo m = true → Memory.wfFrom lo' m = true
  | [], _ => rfl
  | (a, b) :: t, w => by
    simp only [Memory.wfFrom, Bool.and_eq_true, decide_eq_true_eq] at w ⊢
    exact ⟨⟨Nat.le_trans h w.1.1, w.1.2⟩, w.2⟩

theorem Memory.wfFrom_cons {lo a : Nat} {b : Byte} {t : List Host.Cell} :
    Memory.wfFrom lo ((a, b) :: t) = true ↔ (lo ≤ a ∧ b ≠ 0) ∧ Memory.wfFrom (a + 1) t = true := by
  simp only [Memory.wfFrom, Bool.and_eq_true, decide_eq_true_eq, bne_iff_ne]

theorem Memory.wfFrom_write {lo : Nat} (k : Nat) (v : Byte) :
    ∀ {m : List Host.Cell}, lo ≤ k → Memory.wfFrom lo m = true → Memory.wfFrom lo (Memory.write m k v) = true
  | [], hk, _ => by
    simp only [Memory.write]
    split
    · rfl
    · rename_i h; exact Memory.wfFrom_cons.2 ⟨⟨hk, h⟩, rfl⟩
  | (a, b) :: t, hk, w => by
    obtain ⟨⟨ha, hb⟩, ht⟩ := Memory.wfFrom_cons.1 w
    simp only [Memory.write]
    split
    · rename_i h1
      split
      · exact w
      · rename_i h2
        exact Memory.wfFrom_cons.2 ⟨⟨hk, h2⟩, Memory.wfFrom_cons.2 ⟨⟨h1, hb⟩, ht⟩⟩
    · split
      · rename_i h1 h2
        subst h2
        split
        · exact Memory.wfFrom_mono (by omega) ht
        · rename_i h3; exact Memory.wfFrom_cons.2 ⟨⟨hk, h3⟩, ht⟩
      · exact Memory.wfFrom_cons.2 ⟨⟨ha, hb⟩, Memory.wfFrom_write k v (by omega) ht⟩

/-- A write of one byte keeps the canonical form. -/
theorem Memory.wf_write {m : List Host.Cell} (k : Nat) (v : Byte) (h : Memory.wf m = true) : Memory.wf (Memory.write m k v) = true :=
  Memory.wfFrom_write k v (Nat.zero_le k) h

/-- A write of a run of bytes keeps the canonical form. -/
theorem Memory.wf_writeN {m : List Host.Cell} (a : Nat) (bs : List Byte) (h : Memory.wf m = true) : Memory.wf (Memory.writeN m a bs) = true := by
  induction bs generalizing m a with
  | nil => exact h
  | cons b t ih => exact ih (a + 1) (Memory.wf_write a b h)

/-- A write of a number keeps the canonical form. -/
theorem Memory.wf_writeLe {m : List Host.Cell} (a n v : Nat) (h : Memory.wf m = true) : Memory.wf (Memory.writeLe m a n v) = true :=
  Memory.wf_writeN a _ h

theorem Memory.wfFrom_filter (p : Host.Cell → Bool) : ∀ {lo : Nat} {m : List Host.Cell}, Memory.wfFrom lo m = true → Memory.wfFrom lo (m.filter p) = true
  | _, [], _ => rfl
  | lo, (a, b) :: t, w => by
    obtain ⟨⟨ha, hb⟩, ht⟩ := Memory.wfFrom_cons.1 w
    have ih := Memory.wfFrom_filter p ht
    simp only [List.filter]
    split
    · exact Memory.wfFrom_cons.2 ⟨⟨ha, hb⟩, ih⟩
    · exact Memory.wfFrom_mono (by omega) ih

/-- Bytes set to zero leave the list: the canonical form is kept. -/
theorem Memory.wf_zero {m : List Host.Cell} (a n : Nat) (h : Memory.wf m = true) : Memory.wf (Memory.zero m a n) = true :=
  Memory.wfFrom_filter _ h

theorem Memory.read_below {lo : Nat} : ∀ {m : List Host.Cell} {k : Nat}, Memory.wfFrom lo m = true → k < lo → Memory.read m k = 0
  | [], _, _, _ => rfl
  | (a, b) :: t, k, w, h => by
    simp only [Memory.wfFrom, Bool.and_eq_true, decide_eq_true_eq] at w
    obtain ⟨⟨ha, -⟩, ht⟩ := w
    simp only [Memory.read]
    rw [if_neg (by omega)]
    exact Memory.read_below ht (by omega)

theorem Memory.read_write_from {lo : Nat} (k : Nat) (v : Byte) (j : Nat) :
    ∀ {m : List Host.Cell}, Memory.wfFrom lo m = true → Memory.read (Memory.write m k v) j = if k = j then v else Memory.read m j
  | [], _ => by
    simp only [Memory.write]
    split
    · rename_i h; subst h; simp [Memory.read]
    · rfl
  | (a, b) :: t, w => by
    simp only [Memory.wfFrom, Bool.and_eq_true, decide_eq_true_eq] at w
    obtain ⟨⟨ha, hb⟩, ht⟩ := w
    simp only [Memory.write]
    by_cases h1 : k < a
    · simp only [h1, if_true]
      by_cases h2 : v = 0
      · simp only [h2, if_true]
        by_cases h3 : k = j
        · subst h3
          simp only [if_true, Memory.read, if_neg (show ¬ a = k by omega)]
          exact Memory.read_below ht (by omega)
        · simp [h3]
      · simp only [h2, if_false, Memory.read]
    · simp only [h1, if_false]
      by_cases h2 : k = a
      · subst h2
        simp only [if_true]
        by_cases h3 : v = 0
        · simp only [h3, if_true, Memory.read]
          by_cases h4 : k = j
          · subst h4; simp only [if_true]; exact Memory.read_below ht (by omega)
          · simp [h4]
        · simp only [h3, if_false, Memory.read]
          split <;> rfl
      · simp only [h2, if_false, Memory.read]
        rw [Memory.read_write_from k v j ht]
        by_cases h4 : a = j
        · subst h4; simp [h2]
        · simp [h4]

/-- A byte written is read back, and every other address reads as before. -/
theorem Memory.read_write {m : List Host.Cell} (h : Memory.wf m = true) (k : Nat) (v : Byte) (j : Nat) :
    Memory.read (Memory.write m k v) j = if k = j then v else Memory.read m j :=
  Memory.read_write_from k v j h

/-- A run of bytes written: each is read back, and every other address reads as before. -/
theorem Memory.read_writeN {m : List Host.Cell} (h : Memory.wf m = true) (a : Nat) (bs : List Byte) (j : Nat) :
    Memory.read (Memory.writeN m a bs) j = if a ≤ j ∧ j < a + bs.length then bs.getD (j - a) 0 else Memory.read m j := by
  induction bs generalizing m a with
  | nil => simp only [Memory.writeN, List.length_nil]; rw [if_neg (by omega)]
  | cons b t ih =>
    simp only [Memory.writeN, List.length_cons]
    rw [ih (Memory.wf_write a b h) (a + 1), Memory.read_write h]
    by_cases h1 : a = j
    · subst h1
      rw [if_neg (by omega), if_pos rfl, if_pos (by omega), Nat.sub_self]
      rfl
    · by_cases h2 : a + 1 ≤ j ∧ j < a + 1 + t.length
      · rw [if_pos h2, if_pos (by omega), show j - a = (j - (a + 1)) + 1 by omega]
        rfl
      · rw [if_neg h2, if_neg h1, if_neg (by omega)]

/-- Bytes set to zero read zero, and every other address reads as before. -/
theorem Memory.read_zero {m : List Host.Cell} (a n j : Nat) :
    Memory.read (Memory.zero m a n) j = if a ≤ j ∧ j < a + n then 0 else Memory.read m j := by
  induction m with
  | nil => simp [Memory.zero, Memory.read]
  | cons e t ih =>
    obtain ⟨x, b⟩ := e
    simp only [Memory.zero, List.filter] at ih ⊢
    by_cases h : x < a ∨ a + n ≤ x
    · simp only [h, decide_true, Memory.read]
      by_cases hx : x = j
      · subst hx; simp only [if_true]; rw [if_neg (by omega)]
      · simp only [hx, if_false]; exact ih
    · simp only [h, decide_false, Memory.read, ih]
      by_cases hx : x = j
      · subst hx; simp only [if_true]; rw [if_pos (by omega), if_pos (by omega)]
      · simp [hx]

end Sys2Proof.Machine
end

