-- ==== Sys2Proof/Laws/State.lean ====
section
/-! SUPPORT. What each small update of the state leaves alone: one lemma per field per update. -/

namespace Sys2Proof.Machine

open Sys2Proof

/-! bump leaves everything else alone. -/
@[simp] theorem bump_pending (s : State) (c : CtrName) (ix : List Nat) (n : Nat) : (bump s c ix n).pending = s.pending := rfl
@[simp] theorem bump_out (s : State) (c : CtrName) (ix : List Nat) (n : Nat) : (bump s c ix n).out = s.out := rfl
@[simp] theorem bump_free (s : State) (c : CtrName) (ix : List Nat) (n : Nat) : (bump s c ix n).free = s.free := rfl
@[simp] theorem bump_clk (s : State) (c : CtrName) (ix : List Nat) (n : Nat) : (bump s c ix n).clk = s.clk := rfl
@[simp] theorem bump_pwr (s : State) (c : CtrName) (ix : List Nat) (n : Nat) : (bump s c ix n).pwr = s.pwr := rfl
@[simp] theorem bump_mc (s : State) (c : CtrName) (ix : List Nat) (n : Nat) : (bump s c ix n).mc = s.mc := rfl
@[simp] theorem bump_sw (s : State) (c : CtrName) (ix : List Nat) (n : Nat) : (bump s c ix n).sw = s.sw := rfl
@[simp] theorem bump_resp (s : State) (c : CtrName) (ix : List Nat) (n : Nat) : (bump s c ix n).resp = s.resp := rfl
@[simp] theorem bump_rq (s : State) (c : CtrName) (ix : List Nat) (n : Nat) : (bump s c ix n).rq = s.rq := rfl
@[simp] theorem bump_mcasts (s : State) (c : CtrName) (ix : List Nat) (n : Nat) : (bump s c ix n).mcasts = s.mcasts := rfl
@[simp] theorem bump_mem (s : State) (c : CtrName) (ix : List Nat) (n : Nat) : (bump s c ix n).mem = s.mem := rfl
@[simp] theorem bump_scratch (s : State) (c : CtrName) (ix : List Nat) (n : Nat) : (bump s c ix n).scratch = s.scratch := rfl
@[simp] theorem bump_scrPoison (s : State) (c : CtrName) (ix : List Nat) (n : Nat) : (bump s c ix n).scrPoison = s.scrPoison := rfl
@[simp] theorem bump_scrLatent (s : State) (c : CtrName) (ix : List Nat) (n : Nat) : (bump s c ix n).scrLatent = s.scrLatent := rfl
@[simp] theorem bump_accMib (s : State) (c : CtrName) (ix : List Nat) (n : Nat) : (bump s c ix n).accMib = s.accMib := rfl
@[simp] theorem bump_ctl (s : State) (c : CtrName) (ix : List Nat) (n : Nat) : (bump s c ix n).ctl = s.ctl := rfl
@[simp] theorem bump_wins (s : State) (c : CtrName) (ix : List Nat) (n : Nat) : (bump s c ix n).wins = s.wins := rfl
@[simp] theorem bump_shards (s : State) (c : CtrName) (ix : List Nat) (n : Nat) : (bump s c ix n).shards = s.shards := rfl
@[simp] theorem bump_decls (s : State) (c : CtrName) (ix : List Nat) (n : Nat) : (bump s c ix n).decls = s.decls := rfl
@[simp] theorem bump_nextDecl (s : State) (c : CtrName) (ix : List Nat) (n : Nat) : (bump s c ix n).nextDecl = s.nextDecl := rfl
@[simp] theorem bump_str (s : State) (c : CtrName) (ix : List Nat) (n : Nat) : (bump s c ix n).str = s.str := rfl
@[simp] theorem bump_tiles (s : State) (c : CtrName) (ix : List Nat) (n : Nat) : (bump s c ix n).tiles = s.tiles := rfl
@[simp] theorem bump_prog (s : State) (c : CtrName) (ix : List Nat) (n : Nat) : (bump s c ix n).prog = s.prog := rfl
@[simp] theorem bump_links (s : State) (c : CtrName) (ix : List Nat) (n : Nat) : (bump s c ix n).links = s.links := rfl
@[simp] theorem bump_opt (s : State) (c : CtrName) (ix : List Nat) (n : Nat) : (bump s c ix n).opt = s.opt := rfl
@[simp] theorem bump_course (s : State) (c : CtrName) (ix : List Nat) (n : Nat) : (bump s c ix n).course = s.course := rfl
@[simp] theorem bump_disc (s : State) (c : CtrName) (ix : List Nat) (n : Nat) : (bump s c ix n).disc = s.disc := rfl
@[simp] theorem bump_elg (s : State) (c : CtrName) (ix : List Nat) (n : Nat) : (bump s c ix n).elg = s.elg := rfl
@[simp] theorem bump_fuse (s : State) (c : CtrName) (ix : List Nat) (n : Nat) : (bump s c ix n).fuse = s.fuse := rfl
@[simp] theorem bump_sec (s : State) (c : CtrName) (ix : List Nat) (n : Nat) : (bump s c ix n).sec = s.sec := rfl
@[simp] theorem bump_tel (s : State) (c : CtrName) (ix : List Nat) (n : Nat) : (bump s c ix n).tel = s.tel := rfl
@[simp] theorem bump_brola (s : State) (c : CtrName) (ix : List Nat) (n : Nat) : (bump s c ix n).brola = s.brola := rfl

/-! emit leaves everything else alone. -/
@[simp] theorem emit_pending (s : State) (o : Out) : (emit s o).pending = s.pending := rfl
@[simp] theorem emit_free (s : State) (o : Out) : (emit s o).free = s.free := rfl
@[simp] theorem emit_ctr (s : State) (o : Out) : (emit s o).ctr = s.ctr := rfl
@[simp] theorem emit_clk (s : State) (o : Out) : (emit s o).clk = s.clk := rfl
@[simp] theorem emit_pwr (s : State) (o : Out) : (emit s o).pwr = s.pwr := rfl
@[simp] theorem emit_mc (s : State) (o : Out) : (emit s o).mc = s.mc := rfl
@[simp] theorem emit_sw (s : State) (o : Out) : (emit s o).sw = s.sw := rfl
@[simp] theorem emit_resp (s : State) (o : Out) : (emit s o).resp = s.resp := rfl
@[simp] theorem emit_rq (s : State) (o : Out) : (emit s o).rq = s.rq := rfl
@[simp] theorem emit_mcasts (s : State) (o : Out) : (emit s o).mcasts = s.mcasts := rfl
@[simp] theorem emit_mem (s : State) (o : Out) : (emit s o).mem = s.mem := rfl
@[simp] theorem emit_scratch (s : State) (o : Out) : (emit s o).scratch = s.scratch := rfl
@[simp] theorem emit_scrPoison (s : State) (o : Out) : (emit s o).scrPoison = s.scrPoison := rfl
@[simp] theorem emit_scrLatent (s : State) (o : Out) : (emit s o).scrLatent = s.scrLatent := rfl
@[simp] theorem emit_accMib (s : State) (o : Out) : (emit s o).accMib = s.accMib := rfl
@[simp] theorem emit_ctl (s : State) (o : Out) : (emit s o).ctl = s.ctl := rfl
@[simp] theorem emit_wins (s : State) (o : Out) : (emit s o).wins = s.wins := rfl
@[simp] theorem emit_shards (s : State) (o : Out) : (emit s o).shards = s.shards := rfl
@[simp] theorem emit_decls (s : State) (o : Out) : (emit s o).decls = s.decls := rfl
@[simp] theorem emit_nextDecl (s : State) (o : Out) : (emit s o).nextDecl = s.nextDecl := rfl
@[simp] theorem emit_str (s : State) (o : Out) : (emit s o).str = s.str := rfl
@[simp] theorem emit_tiles (s : State) (o : Out) : (emit s o).tiles = s.tiles := rfl
@[simp] theorem emit_prog (s : State) (o : Out) : (emit s o).prog = s.prog := rfl
@[simp] theorem emit_links (s : State) (o : Out) : (emit s o).links = s.links := rfl
@[simp] theorem emit_opt (s : State) (o : Out) : (emit s o).opt = s.opt := rfl
@[simp] theorem emit_course (s : State) (o : Out) : (emit s o).course = s.course := rfl
@[simp] theorem emit_disc (s : State) (o : Out) : (emit s o).disc = s.disc := rfl
@[simp] theorem emit_elg (s : State) (o : Out) : (emit s o).elg = s.elg := rfl
@[simp] theorem emit_fuse (s : State) (o : Out) : (emit s o).fuse = s.fuse := rfl
@[simp] theorem emit_sec (s : State) (o : Out) : (emit s o).sec = s.sec := rfl
@[simp] theorem emit_tel (s : State) (o : Out) : (emit s o).tel = s.tel := rfl
@[simp] theorem emit_brola (s : State) (o : Out) : (emit s o).brola = s.brola := rfl

/-! emits leaves everything else alone. -/
@[simp] theorem emits_pending (s : State) (os : List Out) : (emits s os).pending = s.pending := rfl
@[simp] theorem emits_free (s : State) (os : List Out) : (emits s os).free = s.free := rfl
@[simp] theorem emits_ctr (s : State) (os : List Out) : (emits s os).ctr = s.ctr := rfl
@[simp] theorem emits_clk (s : State) (os : List Out) : (emits s os).clk = s.clk := rfl
@[simp] theorem emits_pwr (s : State) (os : List Out) : (emits s os).pwr = s.pwr := rfl
@[simp] theorem emits_mc (s : State) (os : List Out) : (emits s os).mc = s.mc := rfl
@[simp] theorem emits_sw (s : State) (os : List Out) : (emits s os).sw = s.sw := rfl
@[simp] theorem emits_resp (s : State) (os : List Out) : (emits s os).resp = s.resp := rfl
@[simp] theorem emits_rq (s : State) (os : List Out) : (emits s os).rq = s.rq := rfl
@[simp] theorem emits_mcasts (s : State) (os : List Out) : (emits s os).mcasts = s.mcasts := rfl
@[simp] theorem emits_mem (s : State) (os : List Out) : (emits s os).mem = s.mem := rfl
@[simp] theorem emits_scratch (s : State) (os : List Out) : (emits s os).scratch = s.scratch := rfl
@[simp] theorem emits_scrPoison (s : State) (os : List Out) : (emits s os).scrPoison = s.scrPoison := rfl
@[simp] theorem emits_scrLatent (s : State) (os : List Out) : (emits s os).scrLatent = s.scrLatent := rfl
@[simp] theorem emits_accMib (s : State) (os : List Out) : (emits s os).accMib = s.accMib := rfl
@[simp] theorem emits_ctl (s : State) (os : List Out) : (emits s os).ctl = s.ctl := rfl
@[simp] theorem emits_wins (s : State) (os : List Out) : (emits s os).wins = s.wins := rfl
@[simp] theorem emits_shards (s : State) (os : List Out) : (emits s os).shards = s.shards := rfl
@[simp] theorem emits_decls (s : State) (os : List Out) : (emits s os).decls = s.decls := rfl
@[simp] theorem emits_nextDecl (s : State) (os : List Out) : (emits s os).nextDecl = s.nextDecl := rfl
@[simp] theorem emits_str (s : State) (os : List Out) : (emits s os).str = s.str := rfl
@[simp] theorem emits_tiles (s : State) (os : List Out) : (emits s os).tiles = s.tiles := rfl
@[simp] theorem emits_prog (s : State) (os : List Out) : (emits s os).prog = s.prog := rfl
@[simp] theorem emits_links (s : State) (os : List Out) : (emits s os).links = s.links := rfl
@[simp] theorem emits_opt (s : State) (os : List Out) : (emits s os).opt = s.opt := rfl
@[simp] theorem emits_course (s : State) (os : List Out) : (emits s os).course = s.course := rfl
@[simp] theorem emits_disc (s : State) (os : List Out) : (emits s os).disc = s.disc := rfl
@[simp] theorem emits_elg (s : State) (os : List Out) : (emits s os).elg = s.elg := rfl
@[simp] theorem emits_fuse (s : State) (os : List Out) : (emits s os).fuse = s.fuse := rfl
@[simp] theorem emits_sec (s : State) (os : List Out) : (emits s os).sec = s.sec := rfl
@[simp] theorem emits_tel (s : State) (os : List Out) : (emits s os).tel = s.tel := rfl
@[simp] theorem emits_brola (s : State) (os : List Out) : (emits s os).brola = s.brola := rfl

/-! setTile leaves everything else alone. -/
@[simp] theorem setTile_pending (s : State) (n : Nat) (t : Tile) : (setTile s n t).pending = s.pending := rfl
@[simp] theorem setTile_out (s : State) (n : Nat) (t : Tile) : (setTile s n t).out = s.out := rfl
@[simp] theorem setTile_free (s : State) (n : Nat) (t : Tile) : (setTile s n t).free = s.free := rfl
@[simp] theorem setTile_ctr (s : State) (n : Nat) (t : Tile) : (setTile s n t).ctr = s.ctr := rfl
@[simp] theorem setTile_clk (s : State) (n : Nat) (t : Tile) : (setTile s n t).clk = s.clk := rfl
@[simp] theorem setTile_pwr (s : State) (n : Nat) (t : Tile) : (setTile s n t).pwr = s.pwr := rfl
@[simp] theorem setTile_mc (s : State) (n : Nat) (t : Tile) : (setTile s n t).mc = s.mc := rfl
@[simp] theorem setTile_sw (s : State) (n : Nat) (t : Tile) : (setTile s n t).sw = s.sw := rfl
@[simp] theorem setTile_resp (s : State) (n : Nat) (t : Tile) : (setTile s n t).resp = s.resp := rfl
@[simp] theorem setTile_rq (s : State) (n : Nat) (t : Tile) : (setTile s n t).rq = s.rq := rfl
@[simp] theorem setTile_mcasts (s : State) (n : Nat) (t : Tile) : (setTile s n t).mcasts = s.mcasts := rfl
@[simp] theorem setTile_mem (s : State) (n : Nat) (t : Tile) : (setTile s n t).mem = s.mem := rfl
@[simp] theorem setTile_scratch (s : State) (n : Nat) (t : Tile) : (setTile s n t).scratch = s.scratch := rfl
@[simp] theorem setTile_scrPoison (s : State) (n : Nat) (t : Tile) : (setTile s n t).scrPoison = s.scrPoison := rfl
@[simp] theorem setTile_scrLatent (s : State) (n : Nat) (t : Tile) : (setTile s n t).scrLatent = s.scrLatent := rfl
@[simp] theorem setTile_accMib (s : State) (n : Nat) (t : Tile) : (setTile s n t).accMib = s.accMib := rfl
@[simp] theorem setTile_ctl (s : State) (n : Nat) (t : Tile) : (setTile s n t).ctl = s.ctl := rfl
@[simp] theorem setTile_wins (s : State) (n : Nat) (t : Tile) : (setTile s n t).wins = s.wins := rfl
@[simp] theorem setTile_shards (s : State) (n : Nat) (t : Tile) : (setTile s n t).shards = s.shards := rfl
@[simp] theorem setTile_decls (s : State) (n : Nat) (t : Tile) : (setTile s n t).decls = s.decls := rfl
@[simp] theorem setTile_nextDecl (s : State) (n : Nat) (t : Tile) : (setTile s n t).nextDecl = s.nextDecl := rfl
@[simp] theorem setTile_str (s : State) (n : Nat) (t : Tile) : (setTile s n t).str = s.str := rfl
@[simp] theorem setTile_prog (s : State) (n : Nat) (t : Tile) : (setTile s n t).prog = s.prog := rfl
@[simp] theorem setTile_links (s : State) (n : Nat) (t : Tile) : (setTile s n t).links = s.links := rfl
@[simp] theorem setTile_opt (s : State) (n : Nat) (t : Tile) : (setTile s n t).opt = s.opt := rfl
@[simp] theorem setTile_course (s : State) (n : Nat) (t : Tile) : (setTile s n t).course = s.course := rfl
@[simp] theorem setTile_disc (s : State) (n : Nat) (t : Tile) : (setTile s n t).disc = s.disc := rfl
@[simp] theorem setTile_elg (s : State) (n : Nat) (t : Tile) : (setTile s n t).elg = s.elg := rfl
@[simp] theorem setTile_fuse (s : State) (n : Nat) (t : Tile) : (setTile s n t).fuse = s.fuse := rfl
@[simp] theorem setTile_sec (s : State) (n : Nat) (t : Tile) : (setTile s n t).sec = s.sec := rfl
@[simp] theorem setTile_tel (s : State) (n : Nat) (t : Tile) : (setTile s n t).tel = s.tel := rfl
@[simp] theorem setTile_brola (s : State) (n : Nat) (t : Tile) : (setTile s n t).brola = s.brola := rfl

/-! setStr leaves everything else alone. -/
@[simp] theorem setStr_pending (s : State) (x : Stream) : (setStr s x).pending = s.pending := rfl
@[simp] theorem setStr_out (s : State) (x : Stream) : (setStr s x).out = s.out := rfl
@[simp] theorem setStr_free (s : State) (x : Stream) : (setStr s x).free = s.free := rfl
@[simp] theorem setStr_ctr (s : State) (x : Stream) : (setStr s x).ctr = s.ctr := rfl
@[simp] theorem setStr_clk (s : State) (x : Stream) : (setStr s x).clk = s.clk := rfl
@[simp] theorem setStr_pwr (s : State) (x : Stream) : (setStr s x).pwr = s.pwr := rfl
@[simp] theorem setStr_mc (s : State) (x : Stream) : (setStr s x).mc = s.mc := rfl
@[simp] theorem setStr_sw (s : State) (x : Stream) : (setStr s x).sw = s.sw := rfl
@[simp] theorem setStr_resp (s : State) (x : Stream) : (setStr s x).resp = s.resp := rfl
@[simp] theorem setStr_rq (s : State) (x : Stream) : (setStr s x).rq = s.rq := rfl
@[simp] theorem setStr_mcasts (s : State) (x : Stream) : (setStr s x).mcasts = s.mcasts := rfl
@[simp] theorem setStr_mem (s : State) (x : Stream) : (setStr s x).mem = s.mem := rfl
@[simp] theorem setStr_scratch (s : State) (x : Stream) : (setStr s x).scratch = s.scratch := rfl
@[simp] theorem setStr_scrPoison (s : State) (x : Stream) : (setStr s x).scrPoison = s.scrPoison := rfl
@[simp] theorem setStr_scrLatent (s : State) (x : Stream) : (setStr s x).scrLatent = s.scrLatent := rfl
@[simp] theorem setStr_accMib (s : State) (x : Stream) : (setStr s x).accMib = s.accMib := rfl
@[simp] theorem setStr_ctl (s : State) (x : Stream) : (setStr s x).ctl = s.ctl := rfl
@[simp] theorem setStr_wins (s : State) (x : Stream) : (setStr s x).wins = s.wins := rfl
@[simp] theorem setStr_shards (s : State) (x : Stream) : (setStr s x).shards = s.shards := rfl
@[simp] theorem setStr_decls (s : State) (x : Stream) : (setStr s x).decls = s.decls := rfl
@[simp] theorem setStr_nextDecl (s : State) (x : Stream) : (setStr s x).nextDecl = s.nextDecl := rfl
@[simp] theorem setStr_tiles (s : State) (x : Stream) : (setStr s x).tiles = s.tiles := rfl
@[simp] theorem setStr_prog (s : State) (x : Stream) : (setStr s x).prog = s.prog := rfl
@[simp] theorem setStr_links (s : State) (x : Stream) : (setStr s x).links = s.links := rfl
@[simp] theorem setStr_opt (s : State) (x : Stream) : (setStr s x).opt = s.opt := rfl
@[simp] theorem setStr_course (s : State) (x : Stream) : (setStr s x).course = s.course := rfl
@[simp] theorem setStr_disc (s : State) (x : Stream) : (setStr s x).disc = s.disc := rfl
@[simp] theorem setStr_elg (s : State) (x : Stream) : (setStr s x).elg = s.elg := rfl
@[simp] theorem setStr_fuse (s : State) (x : Stream) : (setStr s x).fuse = s.fuse := rfl
@[simp] theorem setStr_sec (s : State) (x : Stream) : (setStr s x).sec = s.sec := rfl
@[simp] theorem setStr_tel (s : State) (x : Stream) : (setStr s x).tel = s.tel := rfl
@[simp] theorem setStr_brola (s : State) (x : Stream) : (setStr s x).brola = s.brola := rfl

/-! setWait leaves everything else alone. -/
@[simp] theorem setWait_pending (s : State) (we : Nat) (w : WaitEntry) : (setWait s we w).pending = s.pending := rfl
@[simp] theorem setWait_out (s : State) (we : Nat) (w : WaitEntry) : (setWait s we w).out = s.out := rfl
@[simp] theorem setWait_free (s : State) (we : Nat) (w : WaitEntry) : (setWait s we w).free = s.free := rfl
@[simp] theorem setWait_ctr (s : State) (we : Nat) (w : WaitEntry) : (setWait s we w).ctr = s.ctr := rfl
@[simp] theorem setWait_clk (s : State) (we : Nat) (w : WaitEntry) : (setWait s we w).clk = s.clk := rfl
@[simp] theorem setWait_pwr (s : State) (we : Nat) (w : WaitEntry) : (setWait s we w).pwr = s.pwr := rfl
@[simp] theorem setWait_mc (s : State) (we : Nat) (w : WaitEntry) : (setWait s we w).mc = s.mc := rfl
@[simp] theorem setWait_sw (s : State) (we : Nat) (w : WaitEntry) : (setWait s we w).sw = s.sw := rfl
@[simp] theorem setWait_resp (s : State) (we : Nat) (w : WaitEntry) : (setWait s we w).resp = s.resp := rfl
@[simp] theorem setWait_rq (s : State) (we : Nat) (w : WaitEntry) : (setWait s we w).rq = s.rq := rfl
@[simp] theorem setWait_mcasts (s : State) (we : Nat) (w : WaitEntry) : (setWait s we w).mcasts = s.mcasts := rfl
@[simp] theorem setWait_mem (s : State) (we : Nat) (w : WaitEntry) : (setWait s we w).mem = s.mem := rfl
@[simp] theorem setWait_scratch (s : State) (we : Nat) (w : WaitEntry) : (setWait s we w).scratch = s.scratch := rfl
@[simp] theorem setWait_scrPoison (s : State) (we : Nat) (w : WaitEntry) : (setWait s we w).scrPoison = s.scrPoison := rfl
@[simp] theorem setWait_scrLatent (s : State) (we : Nat) (w : WaitEntry) : (setWait s we w).scrLatent = s.scrLatent := rfl
@[simp] theorem setWait_accMib (s : State) (we : Nat) (w : WaitEntry) : (setWait s we w).accMib = s.accMib := rfl
@[simp] theorem setWait_ctl (s : State) (we : Nat) (w : WaitEntry) : (setWait s we w).ctl = s.ctl := rfl
@[simp] theorem setWait_wins (s : State) (we : Nat) (w : WaitEntry) : (setWait s we w).wins = s.wins := rfl
@[simp] theorem setWait_shards (s : State) (we : Nat) (w : WaitEntry) : (setWait s we w).shards = s.shards := rfl
@[simp] theorem setWait_decls (s : State) (we : Nat) (w : WaitEntry) : (setWait s we w).decls = s.decls := rfl
@[simp] theorem setWait_nextDecl (s : State) (we : Nat) (w : WaitEntry) : (setWait s we w).nextDecl = s.nextDecl := rfl
@[simp] theorem setWait_tiles (s : State) (we : Nat) (w : WaitEntry) : (setWait s we w).tiles = s.tiles := rfl
@[simp] theorem setWait_prog (s : State) (we : Nat) (w : WaitEntry) : (setWait s we w).prog = s.prog := rfl
@[simp] theorem setWait_links (s : State) (we : Nat) (w : WaitEntry) : (setWait s we w).links = s.links := rfl
@[simp] theorem setWait_opt (s : State) (we : Nat) (w : WaitEntry) : (setWait s we w).opt = s.opt := rfl
@[simp] theorem setWait_course (s : State) (we : Nat) (w : WaitEntry) : (setWait s we w).course = s.course := rfl
@[simp] theorem setWait_disc (s : State) (we : Nat) (w : WaitEntry) : (setWait s we w).disc = s.disc := rfl
@[simp] theorem setWait_elg (s : State) (we : Nat) (w : WaitEntry) : (setWait s we w).elg = s.elg := rfl
@[simp] theorem setWait_fuse (s : State) (we : Nat) (w : WaitEntry) : (setWait s we w).fuse = s.fuse := rfl
@[simp] theorem setWait_sec (s : State) (we : Nat) (w : WaitEntry) : (setWait s we w).sec = s.sec := rfl
@[simp] theorem setWait_tel (s : State) (we : Nat) (w : WaitEntry) : (setWait s we w).tel = s.tel := rfl
@[simp] theorem setWait_brola (s : State) (we : Nat) (w : WaitEntry) : (setWait s we w).brola = s.brola := rfl

/-! addPend leaves everything else alone. -/
@[simp] theorem addPend_pending (s : State) (n : Nat) (w : PendW) : (addPend s n w).pending = s.pending := rfl
@[simp] theorem addPend_out (s : State) (n : Nat) (w : PendW) : (addPend s n w).out = s.out := rfl
@[simp] theorem addPend_free (s : State) (n : Nat) (w : PendW) : (addPend s n w).free = s.free := rfl
@[simp] theorem addPend_ctr (s : State) (n : Nat) (w : PendW) : (addPend s n w).ctr = s.ctr := rfl
@[simp] theorem addPend_clk (s : State) (n : Nat) (w : PendW) : (addPend s n w).clk = s.clk := rfl
@[simp] theorem addPend_pwr (s : State) (n : Nat) (w : PendW) : (addPend s n w).pwr = s.pwr := rfl
@[simp] theorem addPend_mc (s : State) (n : Nat) (w : PendW) : (addPend s n w).mc = s.mc := rfl
@[simp] theorem addPend_sw (s : State) (n : Nat) (w : PendW) : (addPend s n w).sw = s.sw := rfl
@[simp] theorem addPend_resp (s : State) (n : Nat) (w : PendW) : (addPend s n w).resp = s.resp := rfl
@[simp] theorem addPend_rq (s : State) (n : Nat) (w : PendW) : (addPend s n w).rq = s.rq := rfl
@[simp] theorem addPend_mcasts (s : State) (n : Nat) (w : PendW) : (addPend s n w).mcasts = s.mcasts := rfl
@[simp] theorem addPend_mem (s : State) (n : Nat) (w : PendW) : (addPend s n w).mem = s.mem := rfl
@[simp] theorem addPend_scratch (s : State) (n : Nat) (w : PendW) : (addPend s n w).scratch = s.scratch := rfl
@[simp] theorem addPend_scrPoison (s : State) (n : Nat) (w : PendW) : (addPend s n w).scrPoison = s.scrPoison := rfl
@[simp] theorem addPend_scrLatent (s : State) (n : Nat) (w : PendW) : (addPend s n w).scrLatent = s.scrLatent := rfl
@[simp] theorem addPend_accMib (s : State) (n : Nat) (w : PendW) : (addPend s n w).accMib = s.accMib := rfl
@[simp] theorem addPend_ctl (s : State) (n : Nat) (w : PendW) : (addPend s n w).ctl = s.ctl := rfl
@[simp] theorem addPend_wins (s : State) (n : Nat) (w : PendW) : (addPend s n w).wins = s.wins := rfl
@[simp] theorem addPend_shards (s : State) (n : Nat) (w : PendW) : (addPend s n w).shards = s.shards := rfl
@[simp] theorem addPend_decls (s : State) (n : Nat) (w : PendW) : (addPend s n w).decls = s.decls := rfl
@[simp] theorem addPend_nextDecl (s : State) (n : Nat) (w : PendW) : (addPend s n w).nextDecl = s.nextDecl := rfl
@[simp] theorem addPend_str (s : State) (n : Nat) (w : PendW) : (addPend s n w).str = s.str := rfl
@[simp] theorem addPend_prog (s : State) (n : Nat) (w : PendW) : (addPend s n w).prog = s.prog := rfl
@[simp] theorem addPend_links (s : State) (n : Nat) (w : PendW) : (addPend s n w).links = s.links := rfl
@[simp] theorem addPend_opt (s : State) (n : Nat) (w : PendW) : (addPend s n w).opt = s.opt := rfl
@[simp] theorem addPend_course (s : State) (n : Nat) (w : PendW) : (addPend s n w).course = s.course := rfl
@[simp] theorem addPend_disc (s : State) (n : Nat) (w : PendW) : (addPend s n w).disc = s.disc := rfl
@[simp] theorem addPend_elg (s : State) (n : Nat) (w : PendW) : (addPend s n w).elg = s.elg := rfl
@[simp] theorem addPend_fuse (s : State) (n : Nat) (w : PendW) : (addPend s n w).fuse = s.fuse := rfl
@[simp] theorem addPend_sec (s : State) (n : Nat) (w : PendW) : (addPend s n w).sec = s.sec := rfl
@[simp] theorem addPend_tel (s : State) (n : Nat) (w : PendW) : (addPend s n w).tel = s.tel := rfl
@[simp] theorem addPend_brola (s : State) (n : Nat) (w : PendW) : (addPend s n w).brola = s.brola := rfl

/-! setMe leaves everything else alone. -/
@[simp] theorem setMe_pending (s : State) (n m : Nat) (e : Me) : (setMe s n m e).pending = s.pending := rfl
@[simp] theorem setMe_out (s : State) (n m : Nat) (e : Me) : (setMe s n m e).out = s.out := rfl
@[simp] theorem setMe_free (s : State) (n m : Nat) (e : Me) : (setMe s n m e).free = s.free := rfl
@[simp] theorem setMe_ctr (s : State) (n m : Nat) (e : Me) : (setMe s n m e).ctr = s.ctr := rfl
@[simp] theorem setMe_clk (s : State) (n m : Nat) (e : Me) : (setMe s n m e).clk = s.clk := rfl
@[simp] theorem setMe_pwr (s : State) (n m : Nat) (e : Me) : (setMe s n m e).pwr = s.pwr := rfl
@[simp] theorem setMe_mc (s : State) (n m : Nat) (e : Me) : (setMe s n m e).mc = s.mc := rfl
@[simp] theorem setMe_sw (s : State) (n m : Nat) (e : Me) : (setMe s n m e).sw = s.sw := rfl
@[simp] theorem setMe_resp (s : State) (n m : Nat) (e : Me) : (setMe s n m e).resp = s.resp := rfl
@[simp] theorem setMe_rq (s : State) (n m : Nat) (e : Me) : (setMe s n m e).rq = s.rq := rfl
@[simp] theorem setMe_mcasts (s : State) (n m : Nat) (e : Me) : (setMe s n m e).mcasts = s.mcasts := rfl
@[simp] theorem setMe_mem (s : State) (n m : Nat) (e : Me) : (setMe s n m e).mem = s.mem := rfl
@[simp] theorem setMe_scratch (s : State) (n m : Nat) (e : Me) : (setMe s n m e).scratch = s.scratch := rfl
@[simp] theorem setMe_scrPoison (s : State) (n m : Nat) (e : Me) : (setMe s n m e).scrPoison = s.scrPoison := rfl
@[simp] theorem setMe_scrLatent (s : State) (n m : Nat) (e : Me) : (setMe s n m e).scrLatent = s.scrLatent := rfl
@[simp] theorem setMe_accMib (s : State) (n m : Nat) (e : Me) : (setMe s n m e).accMib = s.accMib := rfl
@[simp] theorem setMe_ctl (s : State) (n m : Nat) (e : Me) : (setMe s n m e).ctl = s.ctl := rfl
@[simp] theorem setMe_wins (s : State) (n m : Nat) (e : Me) : (setMe s n m e).wins = s.wins := rfl
@[simp] theorem setMe_shards (s : State) (n m : Nat) (e : Me) : (setMe s n m e).shards = s.shards := rfl
@[simp] theorem setMe_decls (s : State) (n m : Nat) (e : Me) : (setMe s n m e).decls = s.decls := rfl
@[simp] theorem setMe_nextDecl (s : State) (n m : Nat) (e : Me) : (setMe s n m e).nextDecl = s.nextDecl := rfl
@[simp] theorem setMe_str (s : State) (n m : Nat) (e : Me) : (setMe s n m e).str = s.str := rfl
@[simp] theorem setMe_prog (s : State) (n m : Nat) (e : Me) : (setMe s n m e).prog = s.prog := rfl
@[simp] theorem setMe_links (s : State) (n m : Nat) (e : Me) : (setMe s n m e).links = s.links := rfl
@[simp] theorem setMe_opt (s : State) (n m : Nat) (e : Me) : (setMe s n m e).opt = s.opt := rfl
@[simp] theorem setMe_course (s : State) (n m : Nat) (e : Me) : (setMe s n m e).course = s.course := rfl
@[simp] theorem setMe_disc (s : State) (n m : Nat) (e : Me) : (setMe s n m e).disc = s.disc := rfl
@[simp] theorem setMe_elg (s : State) (n m : Nat) (e : Me) : (setMe s n m e).elg = s.elg := rfl
@[simp] theorem setMe_fuse (s : State) (n m : Nat) (e : Me) : (setMe s n m e).fuse = s.fuse := rfl
@[simp] theorem setMe_sec (s : State) (n m : Nat) (e : Me) : (setMe s n m e).sec = s.sec := rfl
@[simp] theorem setMe_tel (s : State) (n m : Nat) (e : Me) : (setMe s n m e).tel = s.tel := rfl
@[simp] theorem setMe_brola (s : State) (n m : Nat) (e : Me) : (setMe s n m e).brola = s.brola := rfl

/-! setEng leaves everything else alone. -/
@[simp] theorem setEng_pending (s : State) (n e : Nat) (l : List MovRun) : (setEng s n e l).pending = s.pending := rfl
@[simp] theorem setEng_out (s : State) (n e : Nat) (l : List MovRun) : (setEng s n e l).out = s.out := rfl
@[simp] theorem setEng_free (s : State) (n e : Nat) (l : List MovRun) : (setEng s n e l).free = s.free := rfl
@[simp] theorem setEng_ctr (s : State) (n e : Nat) (l : List MovRun) : (setEng s n e l).ctr = s.ctr := rfl
@[simp] theorem setEng_clk (s : State) (n e : Nat) (l : List MovRun) : (setEng s n e l).clk = s.clk := rfl
@[simp] theorem setEng_pwr (s : State) (n e : Nat) (l : List MovRun) : (setEng s n e l).pwr = s.pwr := rfl
@[simp] theorem setEng_mc (s : State) (n e : Nat) (l : List MovRun) : (setEng s n e l).mc = s.mc := rfl
@[simp] theorem setEng_sw (s : State) (n e : Nat) (l : List MovRun) : (setEng s n e l).sw = s.sw := rfl
@[simp] theorem setEng_resp (s : State) (n e : Nat) (l : List MovRun) : (setEng s n e l).resp = s.resp := rfl
@[simp] theorem setEng_rq (s : State) (n e : Nat) (l : List MovRun) : (setEng s n e l).rq = s.rq := rfl
@[simp] theorem setEng_mcasts (s : State) (n e : Nat) (l : List MovRun) : (setEng s n e l).mcasts = s.mcasts := rfl
@[simp] theorem setEng_mem (s : State) (n e : Nat) (l : List MovRun) : (setEng s n e l).mem = s.mem := rfl
@[simp] theorem setEng_scratch (s : State) (n e : Nat) (l : List MovRun) : (setEng s n e l).scratch = s.scratch := rfl
@[simp] theorem setEng_scrPoison (s : State) (n e : Nat) (l : List MovRun) : (setEng s n e l).scrPoison = s.scrPoison := rfl
@[simp] theorem setEng_scrLatent (s : State) (n e : Nat) (l : List MovRun) : (setEng s n e l).scrLatent = s.scrLatent := rfl
@[simp] theorem setEng_accMib (s : State) (n e : Nat) (l : List MovRun) : (setEng s n e l).accMib = s.accMib := rfl
@[simp] theorem setEng_ctl (s : State) (n e : Nat) (l : List MovRun) : (setEng s n e l).ctl = s.ctl := rfl
@[simp] theorem setEng_wins (s : State) (n e : Nat) (l : List MovRun) : (setEng s n e l).wins = s.wins := rfl
@[simp] theorem setEng_shards (s : State) (n e : Nat) (l : List MovRun) : (setEng s n e l).shards = s.shards := rfl
@[simp] theorem setEng_decls (s : State) (n e : Nat) (l : List MovRun) : (setEng s n e l).decls = s.decls := rfl
@[simp] theorem setEng_nextDecl (s : State) (n e : Nat) (l : List MovRun) : (setEng s n e l).nextDecl = s.nextDecl := rfl
@[simp] theorem setEng_str (s : State) (n e : Nat) (l : List MovRun) : (setEng s n e l).str = s.str := rfl
@[simp] theorem setEng_prog (s : State) (n e : Nat) (l : List MovRun) : (setEng s n e l).prog = s.prog := rfl
@[simp] theorem setEng_links (s : State) (n e : Nat) (l : List MovRun) : (setEng s n e l).links = s.links := rfl
@[simp] theorem setEng_opt (s : State) (n e : Nat) (l : List MovRun) : (setEng s n e l).opt = s.opt := rfl
@[simp] theorem setEng_course (s : State) (n e : Nat) (l : List MovRun) : (setEng s n e l).course = s.course := rfl
@[simp] theorem setEng_disc (s : State) (n e : Nat) (l : List MovRun) : (setEng s n e l).disc = s.disc := rfl
@[simp] theorem setEng_elg (s : State) (n e : Nat) (l : List MovRun) : (setEng s n e l).elg = s.elg := rfl
@[simp] theorem setEng_fuse (s : State) (n e : Nat) (l : List MovRun) : (setEng s n e l).fuse = s.fuse := rfl
@[simp] theorem setEng_sec (s : State) (n e : Nat) (l : List MovRun) : (setEng s n e l).sec = s.sec := rfl
@[simp] theorem setEng_tel (s : State) (n e : Nat) (l : List MovRun) : (setEng s n e l).tel = s.tel := rfl
@[simp] theorem setEng_brola (s : State) (n e : Nat) (l : List MovRun) : (setEng s n e l).brola = s.brola := rfl

/-! setCore leaves everything else alone. -/
@[simp] theorem setCore_pending (s : State) (t c : Nat) (x : Core) : (setCore s t c x).pending = s.pending := rfl
@[simp] theorem setCore_out (s : State) (t c : Nat) (x : Core) : (setCore s t c x).out = s.out := rfl
@[simp] theorem setCore_free (s : State) (t c : Nat) (x : Core) : (setCore s t c x).free = s.free := rfl
@[simp] theorem setCore_ctr (s : State) (t c : Nat) (x : Core) : (setCore s t c x).ctr = s.ctr := rfl
@[simp] theorem setCore_clk (s : State) (t c : Nat) (x : Core) : (setCore s t c x).clk = s.clk := rfl
@[simp] theorem setCore_pwr (s : State) (t c : Nat) (x : Core) : (setCore s t c x).pwr = s.pwr := rfl
@[simp] theorem setCore_mc (s : State) (t c : Nat) (x : Core) : (setCore s t c x).mc = s.mc := rfl
@[simp] theorem setCore_sw (s : State) (t c : Nat) (x : Core) : (setCore s t c x).sw = s.sw := rfl
@[simp] theorem setCore_resp (s : State) (t c : Nat) (x : Core) : (setCore s t c x).resp = s.resp := rfl
@[simp] theorem setCore_rq (s : State) (t c : Nat) (x : Core) : (setCore s t c x).rq = s.rq := rfl
@[simp] theorem setCore_mcasts (s : State) (t c : Nat) (x : Core) : (setCore s t c x).mcasts = s.mcasts := rfl
@[simp] theorem setCore_mem (s : State) (t c : Nat) (x : Core) : (setCore s t c x).mem = s.mem := rfl
@[simp] theorem setCore_scratch (s : State) (t c : Nat) (x : Core) : (setCore s t c x).scratch = s.scratch := rfl
@[simp] theorem setCore_scrPoison (s : State) (t c : Nat) (x : Core) : (setCore s t c x).scrPoison = s.scrPoison := rfl
@[simp] theorem setCore_scrLatent (s : State) (t c : Nat) (x : Core) : (setCore s t c x).scrLatent = s.scrLatent := rfl
@[simp] theorem setCore_accMib (s : State) (t c : Nat) (x : Core) : (setCore s t c x).accMib = s.accMib := rfl
@[simp] theorem setCore_ctl (s : State) (t c : Nat) (x : Core) : (setCore s t c x).ctl = s.ctl := rfl
@[simp] theorem setCore_wins (s : State) (t c : Nat) (x : Core) : (setCore s t c x).wins = s.wins := rfl
@[simp] theorem setCore_shards (s : State) (t c : Nat) (x : Core) : (setCore s t c x).shards = s.shards := rfl
@[simp] theorem setCore_decls (s : State) (t c : Nat) (x : Core) : (setCore s t c x).decls = s.decls := rfl
@[simp] theorem setCore_nextDecl (s : State) (t c : Nat) (x : Core) : (setCore s t c x).nextDecl = s.nextDecl := rfl
@[simp] theorem setCore_str (s : State) (t c : Nat) (x : Core) : (setCore s t c x).str = s.str := rfl
@[simp] theorem setCore_prog (s : State) (t c : Nat) (x : Core) : (setCore s t c x).prog = s.prog := rfl
@[simp] theorem setCore_links (s : State) (t c : Nat) (x : Core) : (setCore s t c x).links = s.links := rfl
@[simp] theorem setCore_opt (s : State) (t c : Nat) (x : Core) : (setCore s t c x).opt = s.opt := rfl
@[simp] theorem setCore_course (s : State) (t c : Nat) (x : Core) : (setCore s t c x).course = s.course := rfl
@[simp] theorem setCore_disc (s : State) (t c : Nat) (x : Core) : (setCore s t c x).disc = s.disc := rfl
@[simp] theorem setCore_elg (s : State) (t c : Nat) (x : Core) : (setCore s t c x).elg = s.elg := rfl
@[simp] theorem setCore_fuse (s : State) (t c : Nat) (x : Core) : (setCore s t c x).fuse = s.fuse := rfl
@[simp] theorem setCore_sec (s : State) (t c : Nat) (x : Core) : (setCore s t c x).sec = s.sec := rfl
@[simp] theorem setCore_tel (s : State) (t c : Nat) (x : Core) : (setCore s t c x).tel = s.tel := rfl
@[simp] theorem setCore_brola (s : State) (t c : Nat) (x : Core) : (setCore s t c x).brola = s.brola := rfl

/-! setLink leaves everything else alone. -/
@[simp] theorem setLink_pending (s : State) (x : Nat) (l : Link) : (setLink s x l).pending = s.pending := rfl
@[simp] theorem setLink_out (s : State) (x : Nat) (l : Link) : (setLink s x l).out = s.out := rfl
@[simp] theorem setLink_free (s : State) (x : Nat) (l : Link) : (setLink s x l).free = s.free := rfl
@[simp] theorem setLink_ctr (s : State) (x : Nat) (l : Link) : (setLink s x l).ctr = s.ctr := rfl
@[simp] theorem setLink_clk (s : State) (x : Nat) (l : Link) : (setLink s x l).clk = s.clk := rfl
@[simp] theorem setLink_pwr (s : State) (x : Nat) (l : Link) : (setLink s x l).pwr = s.pwr := rfl
@[simp] theorem setLink_mc (s : State) (x : Nat) (l : Link) : (setLink s x l).mc = s.mc := rfl
@[simp] theorem setLink_sw (s : State) (x : Nat) (l : Link) : (setLink s x l).sw = s.sw := rfl
@[simp] theorem setLink_resp (s : State) (x : Nat) (l : Link) : (setLink s x l).resp = s.resp := rfl
@[simp] theorem setLink_rq (s : State) (x : Nat) (l : Link) : (setLink s x l).rq = s.rq := rfl
@[simp] theorem setLink_mcasts (s : State) (x : Nat) (l : Link) : (setLink s x l).mcasts = s.mcasts := rfl
@[simp] theorem setLink_mem (s : State) (x : Nat) (l : Link) : (setLink s x l).mem = s.mem := rfl
@[simp] theorem setLink_scratch (s : State) (x : Nat) (l : Link) : (setLink s x l).scratch = s.scratch := rfl
@[simp] theorem setLink_scrPoison (s : State) (x : Nat) (l : Link) : (setLink s x l).scrPoison = s.scrPoison := rfl
@[simp] theorem setLink_scrLatent (s : State) (x : Nat) (l : Link) : (setLink s x l).scrLatent = s.scrLatent := rfl
@[simp] theorem setLink_accMib (s : State) (x : Nat) (l : Link) : (setLink s x l).accMib = s.accMib := rfl
@[simp] theorem setLink_ctl (s : State) (x : Nat) (l : Link) : (setLink s x l).ctl = s.ctl := rfl
@[simp] theorem setLink_wins (s : State) (x : Nat) (l : Link) : (setLink s x l).wins = s.wins := rfl
@[simp] theorem setLink_shards (s : State) (x : Nat) (l : Link) : (setLink s x l).shards = s.shards := rfl
@[simp] theorem setLink_decls (s : State) (x : Nat) (l : Link) : (setLink s x l).decls = s.decls := rfl
@[simp] theorem setLink_nextDecl (s : State) (x : Nat) (l : Link) : (setLink s x l).nextDecl = s.nextDecl := rfl
@[simp] theorem setLink_str (s : State) (x : Nat) (l : Link) : (setLink s x l).str = s.str := rfl
@[simp] theorem setLink_tiles (s : State) (x : Nat) (l : Link) : (setLink s x l).tiles = s.tiles := rfl
@[simp] theorem setLink_prog (s : State) (x : Nat) (l : Link) : (setLink s x l).prog = s.prog := rfl
@[simp] theorem setLink_opt (s : State) (x : Nat) (l : Link) : (setLink s x l).opt = s.opt := rfl
@[simp] theorem setLink_course (s : State) (x : Nat) (l : Link) : (setLink s x l).course = s.course := rfl
@[simp] theorem setLink_disc (s : State) (x : Nat) (l : Link) : (setLink s x l).disc = s.disc := rfl
@[simp] theorem setLink_elg (s : State) (x : Nat) (l : Link) : (setLink s x l).elg = s.elg := rfl
@[simp] theorem setLink_fuse (s : State) (x : Nat) (l : Link) : (setLink s x l).fuse = s.fuse := rfl
@[simp] theorem setLink_sec (s : State) (x : Nat) (l : Link) : (setLink s x l).sec = s.sec := rfl
@[simp] theorem setLink_tel (s : State) (x : Nat) (l : Link) : (setLink s x l).tel = s.tel := rfl
@[simp] theorem setLink_brola (s : State) (x : Nat) (l : Link) : (setLink s x l).brola = s.brola := rfl

/-! setDisc leaves everything else alone. -/
@[simp] theorem setDisc_pending (s : State) (d : Disc) : (setDisc s d).pending = s.pending := rfl
@[simp] theorem setDisc_out (s : State) (d : Disc) : (setDisc s d).out = s.out := rfl
@[simp] theorem setDisc_free (s : State) (d : Disc) : (setDisc s d).free = s.free := rfl
@[simp] theorem setDisc_ctr (s : State) (d : Disc) : (setDisc s d).ctr = s.ctr := rfl
@[simp] theorem setDisc_clk (s : State) (d : Disc) : (setDisc s d).clk = s.clk := rfl
@[simp] theorem setDisc_pwr (s : State) (d : Disc) : (setDisc s d).pwr = s.pwr := rfl
@[simp] theorem setDisc_mc (s : State) (d : Disc) : (setDisc s d).mc = s.mc := rfl
@[simp] theorem setDisc_sw (s : State) (d : Disc) : (setDisc s d).sw = s.sw := rfl
@[simp] theorem setDisc_resp (s : State) (d : Disc) : (setDisc s d).resp = s.resp := rfl
@[simp] theorem setDisc_rq (s : State) (d : Disc) : (setDisc s d).rq = s.rq := rfl
@[simp] theorem setDisc_mcasts (s : State) (d : Disc) : (setDisc s d).mcasts = s.mcasts := rfl
@[simp] theorem setDisc_mem (s : State) (d : Disc) : (setDisc s d).mem = s.mem := rfl
@[simp] theorem setDisc_scratch (s : State) (d : Disc) : (setDisc s d).scratch = s.scratch := rfl
@[simp] theorem setDisc_scrPoison (s : State) (d : Disc) : (setDisc s d).scrPoison = s.scrPoison := rfl
@[simp] theorem setDisc_scrLatent (s : State) (d : Disc) : (setDisc s d).scrLatent = s.scrLatent := rfl
@[simp] theorem setDisc_accMib (s : State) (d : Disc) : (setDisc s d).accMib = s.accMib := rfl
@[simp] theorem setDisc_ctl (s : State) (d : Disc) : (setDisc s d).ctl = s.ctl := rfl
@[simp] theorem setDisc_wins (s : State) (d : Disc) : (setDisc s d).wins = s.wins := rfl
@[simp] theorem setDisc_shards (s : State) (d : Disc) : (setDisc s d).shards = s.shards := rfl
@[simp] theorem setDisc_decls (s : State) (d : Disc) : (setDisc s d).decls = s.decls := rfl
@[simp] theorem setDisc_nextDecl (s : State) (d : Disc) : (setDisc s d).nextDecl = s.nextDecl := rfl
@[simp] theorem setDisc_str (s : State) (d : Disc) : (setDisc s d).str = s.str := rfl
@[simp] theorem setDisc_tiles (s : State) (d : Disc) : (setDisc s d).tiles = s.tiles := rfl
@[simp] theorem setDisc_prog (s : State) (d : Disc) : (setDisc s d).prog = s.prog := rfl
@[simp] theorem setDisc_links (s : State) (d : Disc) : (setDisc s d).links = s.links := rfl
@[simp] theorem setDisc_opt (s : State) (d : Disc) : (setDisc s d).opt = s.opt := rfl
@[simp] theorem setDisc_course (s : State) (d : Disc) : (setDisc s d).course = s.course := rfl
@[simp] theorem setDisc_elg (s : State) (d : Disc) : (setDisc s d).elg = s.elg := rfl
@[simp] theorem setDisc_fuse (s : State) (d : Disc) : (setDisc s d).fuse = s.fuse := rfl
@[simp] theorem setDisc_sec (s : State) (d : Disc) : (setDisc s d).sec = s.sec := rfl
@[simp] theorem setDisc_tel (s : State) (d : Disc) : (setDisc s d).tel = s.tel := rfl
@[simp] theorem setDisc_brola (s : State) (d : Disc) : (setDisc s d).brola = s.brola := rfl

/-! setArb leaves everything else alone. -/
@[simp] theorem setArb_pending (s : State) (sx port : Nat) (a : Arb) : (setArb s sx port a).pending = s.pending := rfl
@[simp] theorem setArb_out (s : State) (sx port : Nat) (a : Arb) : (setArb s sx port a).out = s.out := rfl
@[simp] theorem setArb_free (s : State) (sx port : Nat) (a : Arb) : (setArb s sx port a).free = s.free := rfl
@[simp] theorem setArb_ctr (s : State) (sx port : Nat) (a : Arb) : (setArb s sx port a).ctr = s.ctr := rfl
@[simp] theorem setArb_clk (s : State) (sx port : Nat) (a : Arb) : (setArb s sx port a).clk = s.clk := rfl
@[simp] theorem setArb_pwr (s : State) (sx port : Nat) (a : Arb) : (setArb s sx port a).pwr = s.pwr := rfl
@[simp] theorem setArb_mc (s : State) (sx port : Nat) (a : Arb) : (setArb s sx port a).mc = s.mc := rfl
@[simp] theorem setArb_resp (s : State) (sx port : Nat) (a : Arb) : (setArb s sx port a).resp = s.resp := rfl
@[simp] theorem setArb_rq (s : State) (sx port : Nat) (a : Arb) : (setArb s sx port a).rq = s.rq := rfl
@[simp] theorem setArb_mcasts (s : State) (sx port : Nat) (a : Arb) : (setArb s sx port a).mcasts = s.mcasts := rfl
@[simp] theorem setArb_mem (s : State) (sx port : Nat) (a : Arb) : (setArb s sx port a).mem = s.mem := rfl
@[simp] theorem setArb_scratch (s : State) (sx port : Nat) (a : Arb) : (setArb s sx port a).scratch = s.scratch := rfl
@[simp] theorem setArb_scrPoison (s : State) (sx port : Nat) (a : Arb) : (setArb s sx port a).scrPoison = s.scrPoison := rfl
@[simp] theorem setArb_scrLatent (s : State) (sx port : Nat) (a : Arb) : (setArb s sx port a).scrLatent = s.scrLatent := rfl
@[simp] theorem setArb_accMib (s : State) (sx port : Nat) (a : Arb) : (setArb s sx port a).accMib = s.accMib := rfl
@[simp] theorem setArb_ctl (s : State) (sx port : Nat) (a : Arb) : (setArb s sx port a).ctl = s.ctl := rfl
@[simp] theorem setArb_wins (s : State) (sx port : Nat) (a : Arb) : (setArb s sx port a).wins = s.wins := rfl
@[simp] theorem setArb_shards (s : State) (sx port : Nat) (a : Arb) : (setArb s sx port a).shards = s.shards := rfl
@[simp] theorem setArb_decls (s : State) (sx port : Nat) (a : Arb) : (setArb s sx port a).decls = s.decls := rfl
@[simp] theorem setArb_nextDecl (s : State) (sx port : Nat) (a : Arb) : (setArb s sx port a).nextDecl = s.nextDecl := rfl
@[simp] theorem setArb_str (s : State) (sx port : Nat) (a : Arb) : (setArb s sx port a).str = s.str := rfl
@[simp] theorem setArb_tiles (s : State) (sx port : Nat) (a : Arb) : (setArb s sx port a).tiles = s.tiles := rfl
@[simp] theorem setArb_prog (s : State) (sx port : Nat) (a : Arb) : (setArb s sx port a).prog = s.prog := rfl
@[simp] theorem setArb_links (s : State) (sx port : Nat) (a : Arb) : (setArb s sx port a).links = s.links := rfl
@[simp] theorem setArb_opt (s : State) (sx port : Nat) (a : Arb) : (setArb s sx port a).opt = s.opt := rfl
@[simp] theorem setArb_course (s : State) (sx port : Nat) (a : Arb) : (setArb s sx port a).course = s.course := rfl
@[simp] theorem setArb_disc (s : State) (sx port : Nat) (a : Arb) : (setArb s sx port a).disc = s.disc := rfl
@[simp] theorem setArb_elg (s : State) (sx port : Nat) (a : Arb) : (setArb s sx port a).elg = s.elg := rfl
@[simp] theorem setArb_fuse (s : State) (sx port : Nat) (a : Arb) : (setArb s sx port a).fuse = s.fuse := rfl
@[simp] theorem setArb_sec (s : State) (sx port : Nat) (a : Arb) : (setArb s sx port a).sec = s.sec := rfl
@[simp] theorem setArb_tel (s : State) (sx port : Nat) (a : Arb) : (setArb s sx port a).tel = s.tel := rfl
@[simp] theorem setArb_brola (s : State) (sx port : Nat) (a : Arb) : (setArb s sx port a).brola = s.brola := rfl

/-! setPeg leaves everything else alone. -/
@[simp] theorem setPeg_pending (s : State) (k : RingKey) (p : Peg) : (setPeg s k p).pending = s.pending := rfl
@[simp] theorem setPeg_out (s : State) (k : RingKey) (p : Peg) : (setPeg s k p).out = s.out := rfl
@[simp] theorem setPeg_free (s : State) (k : RingKey) (p : Peg) : (setPeg s k p).free = s.free := rfl
@[simp] theorem setPeg_ctr (s : State) (k : RingKey) (p : Peg) : (setPeg s k p).ctr = s.ctr := rfl
@[simp] theorem setPeg_clk (s : State) (k : RingKey) (p : Peg) : (setPeg s k p).clk = s.clk := rfl
@[simp] theorem setPeg_pwr (s : State) (k : RingKey) (p : Peg) : (setPeg s k p).pwr = s.pwr := rfl
@[simp] theorem setPeg_mc (s : State) (k : RingKey) (p : Peg) : (setPeg s k p).mc = s.mc := rfl
@[simp] theorem setPeg_sw (s : State) (k : RingKey) (p : Peg) : (setPeg s k p).sw = s.sw := rfl
@[simp] theorem setPeg_resp (s : State) (k : RingKey) (p : Peg) : (setPeg s k p).resp = s.resp := rfl
@[simp] theorem setPeg_rq (s : State) (k : RingKey) (p : Peg) : (setPeg s k p).rq = s.rq := rfl
@[simp] theorem setPeg_mcasts (s : State) (k : RingKey) (p : Peg) : (setPeg s k p).mcasts = s.mcasts := rfl
@[simp] theorem setPeg_mem (s : State) (k : RingKey) (p : Peg) : (setPeg s k p).mem = s.mem := rfl
@[simp] theorem setPeg_scratch (s : State) (k : RingKey) (p : Peg) : (setPeg s k p).scratch = s.scratch := rfl
@[simp] theorem setPeg_scrPoison (s : State) (k : RingKey) (p : Peg) : (setPeg s k p).scrPoison = s.scrPoison := rfl
@[simp] theorem setPeg_scrLatent (s : State) (k : RingKey) (p : Peg) : (setPeg s k p).scrLatent = s.scrLatent := rfl
@[simp] theorem setPeg_accMib (s : State) (k : RingKey) (p : Peg) : (setPeg s k p).accMib = s.accMib := rfl
@[simp] theorem setPeg_ctl (s : State) (k : RingKey) (p : Peg) : (setPeg s k p).ctl = s.ctl := rfl
@[simp] theorem setPeg_wins (s : State) (k : RingKey) (p : Peg) : (setPeg s k p).wins = s.wins := rfl
@[simp] theorem setPeg_shards (s : State) (k : RingKey) (p : Peg) : (setPeg s k p).shards = s.shards := rfl
@[simp] theorem setPeg_decls (s : State) (k : RingKey) (p : Peg) : (setPeg s k p).decls = s.decls := rfl
@[simp] theorem setPeg_nextDecl (s : State) (k : RingKey) (p : Peg) : (setPeg s k p).nextDecl = s.nextDecl := rfl
@[simp] theorem setPeg_str (s : State) (k : RingKey) (p : Peg) : (setPeg s k p).str = s.str := rfl
@[simp] theorem setPeg_tiles (s : State) (k : RingKey) (p : Peg) : (setPeg s k p).tiles = s.tiles := rfl
@[simp] theorem setPeg_prog (s : State) (k : RingKey) (p : Peg) : (setPeg s k p).prog = s.prog := rfl
@[simp] theorem setPeg_links (s : State) (k : RingKey) (p : Peg) : (setPeg s k p).links = s.links := rfl
@[simp] theorem setPeg_course (s : State) (k : RingKey) (p : Peg) : (setPeg s k p).course = s.course := rfl
@[simp] theorem setPeg_disc (s : State) (k : RingKey) (p : Peg) : (setPeg s k p).disc = s.disc := rfl
@[simp] theorem setPeg_elg (s : State) (k : RingKey) (p : Peg) : (setPeg s k p).elg = s.elg := rfl
@[simp] theorem setPeg_fuse (s : State) (k : RingKey) (p : Peg) : (setPeg s k p).fuse = s.fuse := rfl
@[simp] theorem setPeg_sec (s : State) (k : RingKey) (p : Peg) : (setPeg s k p).sec = s.sec := rfl
@[simp] theorem setPeg_tel (s : State) (k : RingKey) (p : Peg) : (setPeg s k p).tel = s.tel := rfl
@[simp] theorem setPeg_brola (s : State) (k : RingKey) (p : Peg) : (setPeg s k p).brola = s.brola := rfl

/-! setMove leaves everything else alone. -/
@[simp] theorem setMove_pending (s : State) (x : Nat) (m : Option Move) : (setMove s x m).pending = s.pending := rfl
@[simp] theorem setMove_out (s : State) (x : Nat) (m : Option Move) : (setMove s x m).out = s.out := rfl
@[simp] theorem setMove_free (s : State) (x : Nat) (m : Option Move) : (setMove s x m).free = s.free := rfl
@[simp] theorem setMove_ctr (s : State) (x : Nat) (m : Option Move) : (setMove s x m).ctr = s.ctr := rfl
@[simp] theorem setMove_clk (s : State) (x : Nat) (m : Option Move) : (setMove s x m).clk = s.clk := rfl
@[simp] theorem setMove_pwr (s : State) (x : Nat) (m : Option Move) : (setMove s x m).pwr = s.pwr := rfl
@[simp] theorem setMove_mc (s : State) (x : Nat) (m : Option Move) : (setMove s x m).mc = s.mc := rfl
@[simp] theorem setMove_sw (s : State) (x : Nat) (m : Option Move) : (setMove s x m).sw = s.sw := rfl
@[simp] theorem setMove_resp (s : State) (x : Nat) (m : Option Move) : (setMove s x m).resp = s.resp := rfl
@[simp] theorem setMove_rq (s : State) (x : Nat) (m : Option Move) : (setMove s x m).rq = s.rq := rfl
@[simp] theorem setMove_mcasts (s : State) (x : Nat) (m : Option Move) : (setMove s x m).mcasts = s.mcasts := rfl
@[simp] theorem setMove_mem (s : State) (x : Nat) (m : Option Move) : (setMove s x m).mem = s.mem := rfl
@[simp] theorem setMove_scratch (s : State) (x : Nat) (m : Option Move) : (setMove s x m).scratch = s.scratch := rfl
@[simp] theorem setMove_scrPoison (s : State) (x : Nat) (m : Option Move) : (setMove s x m).scrPoison = s.scrPoison := rfl
@[simp] theorem setMove_scrLatent (s : State) (x : Nat) (m : Option Move) : (setMove s x m).scrLatent = s.scrLatent := rfl
@[simp] theorem setMove_accMib (s : State) (x : Nat) (m : Option Move) : (setMove s x m).accMib = s.accMib := rfl
@[simp] theorem setMove_ctl (s : State) (x : Nat) (m : Option Move) : (setMove s x m).ctl = s.ctl := rfl
@[simp] theorem setMove_wins (s : State) (x : Nat) (m : Option Move) : (setMove s x m).wins = s.wins := rfl
@[simp] theorem setMove_shards (s : State) (x : Nat) (m : Option Move) : (setMove s x m).shards = s.shards := rfl
@[simp] theorem setMove_decls (s : State) (x : Nat) (m : Option Move) : (setMove s x m).decls = s.decls := rfl
@[simp] theorem setMove_nextDecl (s : State) (x : Nat) (m : Option Move) : (setMove s x m).nextDecl = s.nextDecl := rfl
@[simp] theorem setMove_str (s : State) (x : Nat) (m : Option Move) : (setMove s x m).str = s.str := rfl
@[simp] theorem setMove_tiles (s : State) (x : Nat) (m : Option Move) : (setMove s x m).tiles = s.tiles := rfl
@[simp] theorem setMove_prog (s : State) (x : Nat) (m : Option Move) : (setMove s x m).prog = s.prog := rfl
@[simp] theorem setMove_links (s : State) (x : Nat) (m : Option Move) : (setMove s x m).links = s.links := rfl
@[simp] theorem setMove_course (s : State) (x : Nat) (m : Option Move) : (setMove s x m).course = s.course := rfl
@[simp] theorem setMove_disc (s : State) (x : Nat) (m : Option Move) : (setMove s x m).disc = s.disc := rfl
@[simp] theorem setMove_elg (s : State) (x : Nat) (m : Option Move) : (setMove s x m).elg = s.elg := rfl
@[simp] theorem setMove_fuse (s : State) (x : Nat) (m : Option Move) : (setMove s x m).fuse = s.fuse := rfl
@[simp] theorem setMove_sec (s : State) (x : Nat) (m : Option Move) : (setMove s x m).sec = s.sec := rfl
@[simp] theorem setMove_tel (s : State) (x : Nat) (m : Option Move) : (setMove s x m).tel = s.tel := rfl
@[simp] theorem setMove_brola (s : State) (x : Nat) (m : Option Move) : (setMove s x m).brola = s.brola := rfl

/-! setLaser leaves everything else alone. -/
@[simp] theorem setLaser_pending (s : State) (lm : Nat) (l : Laser) : (setLaser s lm l).pending = s.pending := rfl
@[simp] theorem setLaser_out (s : State) (lm : Nat) (l : Laser) : (setLaser s lm l).out = s.out := rfl
@[simp] theorem setLaser_free (s : State) (lm : Nat) (l : Laser) : (setLaser s lm l).free = s.free := rfl
@[simp] theorem setLaser_ctr (s : State) (lm : Nat) (l : Laser) : (setLaser s lm l).ctr = s.ctr := rfl
@[simp] theorem setLaser_clk (s : State) (lm : Nat) (l : Laser) : (setLaser s lm l).clk = s.clk := rfl
@[simp] theorem setLaser_pwr (s : State) (lm : Nat) (l : Laser) : (setLaser s lm l).pwr = s.pwr := rfl
@[simp] theorem setLaser_mc (s : State) (lm : Nat) (l : Laser) : (setLaser s lm l).mc = s.mc := rfl
@[simp] theorem setLaser_sw (s : State) (lm : Nat) (l : Laser) : (setLaser s lm l).sw = s.sw := rfl
@[simp] theorem setLaser_resp (s : State) (lm : Nat) (l : Laser) : (setLaser s lm l).resp = s.resp := rfl
@[simp] theorem setLaser_rq (s : State) (lm : Nat) (l : Laser) : (setLaser s lm l).rq = s.rq := rfl
@[simp] theorem setLaser_mcasts (s : State) (lm : Nat) (l : Laser) : (setLaser s lm l).mcasts = s.mcasts := rfl
@[simp] theorem setLaser_mem (s : State) (lm : Nat) (l : Laser) : (setLaser s lm l).mem = s.mem := rfl
@[simp] theorem setLaser_scratch (s : State) (lm : Nat) (l : Laser) : (setLaser s lm l).scratch = s.scratch := rfl
@[simp] theorem setLaser_scrPoison (s : State) (lm : Nat) (l : Laser) : (setLaser s lm l).scrPoison = s.scrPoison := rfl
@[simp] theorem setLaser_scrLatent (s : State) (lm : Nat) (l : Laser) : (setLaser s lm l).scrLatent = s.scrLatent := rfl
@[simp] theorem setLaser_accMib (s : State) (lm : Nat) (l : Laser) : (setLaser s lm l).accMib = s.accMib := rfl
@[simp] theorem setLaser_ctl (s : State) (lm : Nat) (l : Laser) : (setLaser s lm l).ctl = s.ctl := rfl
@[simp] theorem setLaser_wins (s : State) (lm : Nat) (l : Laser) : (setLaser s lm l).wins = s.wins := rfl
@[simp] theorem setLaser_shards (s : State) (lm : Nat) (l : Laser) : (setLaser s lm l).shards = s.shards := rfl
@[simp] theorem setLaser_decls (s : State) (lm : Nat) (l : Laser) : (setLaser s lm l).decls = s.decls := rfl
@[simp] theorem setLaser_nextDecl (s : State) (lm : Nat) (l : Laser) : (setLaser s lm l).nextDecl = s.nextDecl := rfl
@[simp] theorem setLaser_str (s : State) (lm : Nat) (l : Laser) : (setLaser s lm l).str = s.str := rfl
@[simp] theorem setLaser_tiles (s : State) (lm : Nat) (l : Laser) : (setLaser s lm l).tiles = s.tiles := rfl
@[simp] theorem setLaser_prog (s : State) (lm : Nat) (l : Laser) : (setLaser s lm l).prog = s.prog := rfl
@[simp] theorem setLaser_links (s : State) (lm : Nat) (l : Laser) : (setLaser s lm l).links = s.links := rfl
@[simp] theorem setLaser_course (s : State) (lm : Nat) (l : Laser) : (setLaser s lm l).course = s.course := rfl
@[simp] theorem setLaser_disc (s : State) (lm : Nat) (l : Laser) : (setLaser s lm l).disc = s.disc := rfl
@[simp] theorem setLaser_elg (s : State) (lm : Nat) (l : Laser) : (setLaser s lm l).elg = s.elg := rfl
@[simp] theorem setLaser_fuse (s : State) (lm : Nat) (l : Laser) : (setLaser s lm l).fuse = s.fuse := rfl
@[simp] theorem setLaser_sec (s : State) (lm : Nat) (l : Laser) : (setLaser s lm l).sec = s.sec := rfl
@[simp] theorem setLaser_tel (s : State) (lm : Nat) (l : Laser) : (setLaser s lm l).tel = s.tel := rfl
@[simp] theorem setLaser_brola (s : State) (lm : Nat) (l : Laser) : (setLaser s lm l).brola = s.brola := rfl

/-! setPd leaves everything else alone. -/
@[simp] theorem setPd_pending (s : State) (n : Nat) (b : Bool) : (setPd s n b).pending = s.pending := rfl
@[simp] theorem setPd_out (s : State) (n : Nat) (b : Bool) : (setPd s n b).out = s.out := rfl
@[simp] theorem setPd_free (s : State) (n : Nat) (b : Bool) : (setPd s n b).free = s.free := rfl
@[simp] theorem setPd_ctr (s : State) (n : Nat) (b : Bool) : (setPd s n b).ctr = s.ctr := rfl
@[simp] theorem setPd_clk (s : State) (n : Nat) (b : Bool) : (setPd s n b).clk = s.clk := rfl
@[simp] theorem setPd_mc (s : State) (n : Nat) (b : Bool) : (setPd s n b).mc = s.mc := rfl
@[simp] theorem setPd_sw (s : State) (n : Nat) (b : Bool) : (setPd s n b).sw = s.sw := rfl
@[simp] theorem setPd_resp (s : State) (n : Nat) (b : Bool) : (setPd s n b).resp = s.resp := rfl
@[simp] theorem setPd_rq (s : State) (n : Nat) (b : Bool) : (setPd s n b).rq = s.rq := rfl
@[simp] theorem setPd_mcasts (s : State) (n : Nat) (b : Bool) : (setPd s n b).mcasts = s.mcasts := rfl
@[simp] theorem setPd_mem (s : State) (n : Nat) (b : Bool) : (setPd s n b).mem = s.mem := rfl
@[simp] theorem setPd_scratch (s : State) (n : Nat) (b : Bool) : (setPd s n b).scratch = s.scratch := rfl
@[simp] theorem setPd_scrPoison (s : State) (n : Nat) (b : Bool) : (setPd s n b).scrPoison = s.scrPoison := rfl
@[simp] theorem setPd_scrLatent (s : State) (n : Nat) (b : Bool) : (setPd s n b).scrLatent = s.scrLatent := rfl
@[simp] theorem setPd_accMib (s : State) (n : Nat) (b : Bool) : (setPd s n b).accMib = s.accMib := rfl
@[simp] theorem setPd_ctl (s : State) (n : Nat) (b : Bool) : (setPd s n b).ctl = s.ctl := rfl
@[simp] theorem setPd_wins (s : State) (n : Nat) (b : Bool) : (setPd s n b).wins = s.wins := rfl
@[simp] theorem setPd_shards (s : State) (n : Nat) (b : Bool) : (setPd s n b).shards = s.shards := rfl
@[simp] theorem setPd_decls (s : State) (n : Nat) (b : Bool) : (setPd s n b).decls = s.decls := rfl
@[simp] theorem setPd_nextDecl (s : State) (n : Nat) (b : Bool) : (setPd s n b).nextDecl = s.nextDecl := rfl
@[simp] theorem setPd_str (s : State) (n : Nat) (b : Bool) : (setPd s n b).str = s.str := rfl
@[simp] theorem setPd_tiles (s : State) (n : Nat) (b : Bool) : (setPd s n b).tiles = s.tiles := rfl
@[simp] theorem setPd_prog (s : State) (n : Nat) (b : Bool) : (setPd s n b).prog = s.prog := rfl
@[simp] theorem setPd_links (s : State) (n : Nat) (b : Bool) : (setPd s n b).links = s.links := rfl
@[simp] theorem setPd_opt (s : State) (n : Nat) (b : Bool) : (setPd s n b).opt = s.opt := rfl
@[simp] theorem setPd_course (s : State) (n : Nat) (b : Bool) : (setPd s n b).course = s.course := rfl
@[simp] theorem setPd_disc (s : State) (n : Nat) (b : Bool) : (setPd s n b).disc = s.disc := rfl
@[simp] theorem setPd_elg (s : State) (n : Nat) (b : Bool) : (setPd s n b).elg = s.elg := rfl
@[simp] theorem setPd_fuse (s : State) (n : Nat) (b : Bool) : (setPd s n b).fuse = s.fuse := rfl
@[simp] theorem setPd_sec (s : State) (n : Nat) (b : Bool) : (setPd s n b).sec = s.sec := rfl
@[simp] theorem setPd_tel (s : State) (n : Nat) (b : Bool) : (setPd s n b).tel = s.tel := rfl
@[simp] theorem setPd_brola (s : State) (n : Nat) (b : Bool) : (setPd s n b).brola = s.brola := rfl

/-! setCtl leaves everything else alone. -/
@[simp] theorem setCtl_pending (s : State) (c : Option CtlProg) : (setCtl s c).pending = s.pending := rfl
@[simp] theorem setCtl_out (s : State) (c : Option CtlProg) : (setCtl s c).out = s.out := rfl
@[simp] theorem setCtl_free (s : State) (c : Option CtlProg) : (setCtl s c).free = s.free := rfl
@[simp] theorem setCtl_ctr (s : State) (c : Option CtlProg) : (setCtl s c).ctr = s.ctr := rfl
@[simp] theorem setCtl_clk (s : State) (c : Option CtlProg) : (setCtl s c).clk = s.clk := rfl
@[simp] theorem setCtl_pwr (s : State) (c : Option CtlProg) : (setCtl s c).pwr = s.pwr := rfl
@[simp] theorem setCtl_mc (s : State) (c : Option CtlProg) : (setCtl s c).mc = s.mc := rfl
@[simp] theorem setCtl_sw (s : State) (c : Option CtlProg) : (setCtl s c).sw = s.sw := rfl
@[simp] theorem setCtl_resp (s : State) (c : Option CtlProg) : (setCtl s c).resp = s.resp := rfl
@[simp] theorem setCtl_rq (s : State) (c : Option CtlProg) : (setCtl s c).rq = s.rq := rfl
@[simp] theorem setCtl_mcasts (s : State) (c : Option CtlProg) : (setCtl s c).mcasts = s.mcasts := rfl
@[simp] theorem setCtl_mem (s : State) (c : Option CtlProg) : (setCtl s c).mem = s.mem := rfl
@[simp] theorem setCtl_scratch (s : State) (c : Option CtlProg) : (setCtl s c).scratch = s.scratch := rfl
@[simp] theorem setCtl_scrPoison (s : State) (c : Option CtlProg) : (setCtl s c).scrPoison = s.scrPoison := rfl
@[simp] theorem setCtl_scrLatent (s : State) (c : Option CtlProg) : (setCtl s c).scrLatent = s.scrLatent := rfl
@[simp] theorem setCtl_accMib (s : State) (c : Option CtlProg) : (setCtl s c).accMib = s.accMib := rfl
@[simp] theorem setCtl_ctl (s : State) (c : Option CtlProg) : (setCtl s c).ctl = s.ctl := rfl
@[simp] theorem setCtl_wins (s : State) (c : Option CtlProg) : (setCtl s c).wins = s.wins := rfl
@[simp] theorem setCtl_shards (s : State) (c : Option CtlProg) : (setCtl s c).shards = s.shards := rfl
@[simp] theorem setCtl_decls (s : State) (c : Option CtlProg) : (setCtl s c).decls = s.decls := rfl
@[simp] theorem setCtl_nextDecl (s : State) (c : Option CtlProg) : (setCtl s c).nextDecl = s.nextDecl := rfl
@[simp] theorem setCtl_str (s : State) (c : Option CtlProg) : (setCtl s c).str = s.str := rfl
@[simp] theorem setCtl_tiles (s : State) (c : Option CtlProg) : (setCtl s c).tiles = s.tiles := rfl
@[simp] theorem setCtl_links (s : State) (c : Option CtlProg) : (setCtl s c).links = s.links := rfl
@[simp] theorem setCtl_opt (s : State) (c : Option CtlProg) : (setCtl s c).opt = s.opt := rfl
@[simp] theorem setCtl_course (s : State) (c : Option CtlProg) : (setCtl s c).course = s.course := rfl
@[simp] theorem setCtl_disc (s : State) (c : Option CtlProg) : (setCtl s c).disc = s.disc := rfl
@[simp] theorem setCtl_elg (s : State) (c : Option CtlProg) : (setCtl s c).elg = s.elg := rfl
@[simp] theorem setCtl_fuse (s : State) (c : Option CtlProg) : (setCtl s c).fuse = s.fuse := rfl
@[simp] theorem setCtl_sec (s : State) (c : Option CtlProg) : (setCtl s c).sec = s.sec := rfl
@[simp] theorem setCtl_tel (s : State) (c : Option CtlProg) : (setCtl s c).tel = s.tel := rfl
@[simp] theorem setCtl_brola (s : State) (c : Option CtlProg) : (setCtl s c).brola = s.brola := rfl

/-! setWin leaves everything else alone. -/
@[simp] theorem setWin_pending (s : State) (w : Window) : (setWin s w).pending = s.pending := rfl
@[simp] theorem setWin_out (s : State) (w : Window) : (setWin s w).out = s.out := rfl
@[simp] theorem setWin_free (s : State) (w : Window) : (setWin s w).free = s.free := rfl
@[simp] theorem setWin_ctr (s : State) (w : Window) : (setWin s w).ctr = s.ctr := rfl
@[simp] theorem setWin_clk (s : State) (w : Window) : (setWin s w).clk = s.clk := rfl
@[simp] theorem setWin_pwr (s : State) (w : Window) : (setWin s w).pwr = s.pwr := rfl
@[simp] theorem setWin_mc (s : State) (w : Window) : (setWin s w).mc = s.mc := rfl
@[simp] theorem setWin_sw (s : State) (w : Window) : (setWin s w).sw = s.sw := rfl
@[simp] theorem setWin_resp (s : State) (w : Window) : (setWin s w).resp = s.resp := rfl
@[simp] theorem setWin_rq (s : State) (w : Window) : (setWin s w).rq = s.rq := rfl
@[simp] theorem setWin_mcasts (s : State) (w : Window) : (setWin s w).mcasts = s.mcasts := rfl
@[simp] theorem setWin_mem (s : State) (w : Window) : (setWin s w).mem = s.mem := rfl
@[simp] theorem setWin_scratch (s : State) (w : Window) : (setWin s w).scratch = s.scratch := rfl
@[simp] theorem setWin_scrPoison (s : State) (w : Window) : (setWin s w).scrPoison = s.scrPoison := rfl
@[simp] theorem setWin_scrLatent (s : State) (w : Window) : (setWin s w).scrLatent = s.scrLatent := rfl
@[simp] theorem setWin_accMib (s : State) (w : Window) : (setWin s w).accMib = s.accMib := rfl
@[simp] theorem setWin_ctl (s : State) (w : Window) : (setWin s w).ctl = s.ctl := rfl
@[simp] theorem setWin_shards (s : State) (w : Window) : (setWin s w).shards = s.shards := rfl
@[simp] theorem setWin_decls (s : State) (w : Window) : (setWin s w).decls = s.decls := rfl
@[simp] theorem setWin_nextDecl (s : State) (w : Window) : (setWin s w).nextDecl = s.nextDecl := rfl
@[simp] theorem setWin_str (s : State) (w : Window) : (setWin s w).str = s.str := rfl
@[simp] theorem setWin_tiles (s : State) (w : Window) : (setWin s w).tiles = s.tiles := rfl
@[simp] theorem setWin_prog (s : State) (w : Window) : (setWin s w).prog = s.prog := rfl
@[simp] theorem setWin_links (s : State) (w : Window) : (setWin s w).links = s.links := rfl
@[simp] theorem setWin_opt (s : State) (w : Window) : (setWin s w).opt = s.opt := rfl
@[simp] theorem setWin_course (s : State) (w : Window) : (setWin s w).course = s.course := rfl
@[simp] theorem setWin_disc (s : State) (w : Window) : (setWin s w).disc = s.disc := rfl
@[simp] theorem setWin_elg (s : State) (w : Window) : (setWin s w).elg = s.elg := rfl
@[simp] theorem setWin_fuse (s : State) (w : Window) : (setWin s w).fuse = s.fuse := rfl
@[simp] theorem setWin_sec (s : State) (w : Window) : (setWin s w).sec = s.sec := rfl
@[simp] theorem setWin_tel (s : State) (w : Window) : (setWin s w).tel = s.tel := rfl
@[simp] theorem setWin_brola (s : State) (w : Window) : (setWin s w).brola = s.brola := rfl

/-! setFlag leaves everything else alone. -/
@[simp] theorem setFlag_pending (s : State) (k : Bool × Nat × Nat) (x : Bool) : (setFlag s k x).pending = s.pending := rfl
@[simp] theorem setFlag_out (s : State) (k : Bool × Nat × Nat) (x : Bool) : (setFlag s k x).out = s.out := rfl
@[simp] theorem setFlag_free (s : State) (k : Bool × Nat × Nat) (x : Bool) : (setFlag s k x).free = s.free := rfl
@[simp] theorem setFlag_ctr (s : State) (k : Bool × Nat × Nat) (x : Bool) : (setFlag s k x).ctr = s.ctr := rfl
@[simp] theorem setFlag_clk (s : State) (k : Bool × Nat × Nat) (x : Bool) : (setFlag s k x).clk = s.clk := rfl
@[simp] theorem setFlag_pwr (s : State) (k : Bool × Nat × Nat) (x : Bool) : (setFlag s k x).pwr = s.pwr := rfl
@[simp] theorem setFlag_mc (s : State) (k : Bool × Nat × Nat) (x : Bool) : (setFlag s k x).mc = s.mc := rfl
@[simp] theorem setFlag_sw (s : State) (k : Bool × Nat × Nat) (x : Bool) : (setFlag s k x).sw = s.sw := rfl
@[simp] theorem setFlag_resp (s : State) (k : Bool × Nat × Nat) (x : Bool) : (setFlag s k x).resp = s.resp := rfl
@[simp] theorem setFlag_rq (s : State) (k : Bool × Nat × Nat) (x : Bool) : (setFlag s k x).rq = s.rq := rfl
@[simp] theorem setFlag_mcasts (s : State) (k : Bool × Nat × Nat) (x : Bool) : (setFlag s k x).mcasts = s.mcasts := rfl
@[simp] theorem setFlag_mem (s : State) (k : Bool × Nat × Nat) (x : Bool) : (setFlag s k x).mem = s.mem := rfl
@[simp] theorem setFlag_scratch (s : State) (k : Bool × Nat × Nat) (x : Bool) : (setFlag s k x).scratch = s.scratch := rfl
@[simp] theorem setFlag_scrPoison (s : State) (k : Bool × Nat × Nat) (x : Bool) : (setFlag s k x).scrPoison = s.scrPoison := rfl
@[simp] theorem setFlag_scrLatent (s : State) (k : Bool × Nat × Nat) (x : Bool) : (setFlag s k x).scrLatent = s.scrLatent := rfl
@[simp] theorem setFlag_accMib (s : State) (k : Bool × Nat × Nat) (x : Bool) : (setFlag s k x).accMib = s.accMib := rfl
@[simp] theorem setFlag_wins (s : State) (k : Bool × Nat × Nat) (x : Bool) : (setFlag s k x).wins = s.wins := rfl
@[simp] theorem setFlag_shards (s : State) (k : Bool × Nat × Nat) (x : Bool) : (setFlag s k x).shards = s.shards := rfl
@[simp] theorem setFlag_decls (s : State) (k : Bool × Nat × Nat) (x : Bool) : (setFlag s k x).decls = s.decls := rfl
@[simp] theorem setFlag_nextDecl (s : State) (k : Bool × Nat × Nat) (x : Bool) : (setFlag s k x).nextDecl = s.nextDecl := rfl
@[simp] theorem setFlag_str (s : State) (k : Bool × Nat × Nat) (x : Bool) : (setFlag s k x).str = s.str := rfl
@[simp] theorem setFlag_tiles (s : State) (k : Bool × Nat × Nat) (x : Bool) : (setFlag s k x).tiles = s.tiles := rfl
@[simp] theorem setFlag_prog (s : State) (k : Bool × Nat × Nat) (x : Bool) : (setFlag s k x).prog = s.prog := rfl
@[simp] theorem setFlag_links (s : State) (k : Bool × Nat × Nat) (x : Bool) : (setFlag s k x).links = s.links := rfl
@[simp] theorem setFlag_opt (s : State) (k : Bool × Nat × Nat) (x : Bool) : (setFlag s k x).opt = s.opt := rfl
@[simp] theorem setFlag_course (s : State) (k : Bool × Nat × Nat) (x : Bool) : (setFlag s k x).course = s.course := rfl
@[simp] theorem setFlag_disc (s : State) (k : Bool × Nat × Nat) (x : Bool) : (setFlag s k x).disc = s.disc := rfl
@[simp] theorem setFlag_elg (s : State) (k : Bool × Nat × Nat) (x : Bool) : (setFlag s k x).elg = s.elg := rfl
@[simp] theorem setFlag_fuse (s : State) (k : Bool × Nat × Nat) (x : Bool) : (setFlag s k x).fuse = s.fuse := rfl
@[simp] theorem setFlag_sec (s : State) (k : Bool × Nat × Nat) (x : Bool) : (setFlag s k x).sec = s.sec := rfl
@[simp] theorem setFlag_tel (s : State) (k : Bool × Nat × Nat) (x : Bool) : (setFlag s k x).tel = s.tel := rfl
@[simp] theorem setFlag_brola (s : State) (k : Bool × Nat × Nat) (x : Bool) : (setFlag s k x).brola = s.brola := rfl

/-! A sample of the waits changes the wait table alone; setCtr leaves everything else alone. -/
theorem sampleWaits_eq (s : State) : ∃ ws, sampleWaits s = { s with str := { s.str with waits := ws } } := by
  unfold sampleWaits setStr
  split
  · exact ⟨_, rfl⟩
  · exact ⟨s.str.waits, rfl⟩
theorem setCtr_eq (s : State) (k : Bool × Nat × Nat) (x : W64) :
    ∃ ws, setCtr s k x = { s with ctl := { s.ctl with ctrs := s.ctl.ctrs.set k x }, str := { s.str with waits := ws } } := by
  obtain ⟨ws, h⟩ := sampleWaits_eq { s with ctl := { s.ctl with ctrs := s.ctl.ctrs.set k x } }
  exact ⟨ws, h⟩
@[simp] theorem setCtr_ctl (s : State) (k : Bool × Nat × Nat) (x : W64) : (setCtr s k x).ctl = { s.ctl with ctrs := s.ctl.ctrs.set k x } := by
  obtain ⟨ws, h⟩ := setCtr_eq s k x; rw [h]
@[simp] theorem setCtr_pending (s : State) (k : Bool × Nat × Nat) (x : W64) : (setCtr s k x).pending = s.pending := by
  obtain ⟨ws, h⟩ := setCtr_eq s k x; rw [h]
@[simp] theorem setCtr_out (s : State) (k : Bool × Nat × Nat) (x : W64) : (setCtr s k x).out = s.out := by
  obtain ⟨ws, h⟩ := setCtr_eq s k x; rw [h]
@[simp] theorem setCtr_free (s : State) (k : Bool × Nat × Nat) (x : W64) : (setCtr s k x).free = s.free := by
  obtain ⟨ws, h⟩ := setCtr_eq s k x; rw [h]
@[simp] theorem setCtr_ctr (s : State) (k : Bool × Nat × Nat) (x : W64) : (setCtr s k x).ctr = s.ctr := by
  obtain ⟨ws, h⟩ := setCtr_eq s k x; rw [h]
@[simp] theorem setCtr_clk (s : State) (k : Bool × Nat × Nat) (x : W64) : (setCtr s k x).clk = s.clk := by
  obtain ⟨ws, h⟩ := setCtr_eq s k x; rw [h]
@[simp] theorem setCtr_pwr (s : State) (k : Bool × Nat × Nat) (x : W64) : (setCtr s k x).pwr = s.pwr := by
  obtain ⟨ws, h⟩ := setCtr_eq s k x; rw [h]
@[simp] theorem setCtr_mc (s : State) (k : Bool × Nat × Nat) (x : W64) : (setCtr s k x).mc = s.mc := by
  obtain ⟨ws, h⟩ := setCtr_eq s k x; rw [h]
@[simp] theorem setCtr_sw (s : State) (k : Bool × Nat × Nat) (x : W64) : (setCtr s k x).sw = s.sw := by
  obtain ⟨ws, h⟩ := setCtr_eq s k x; rw [h]
@[simp] theorem setCtr_resp (s : State) (k : Bool × Nat × Nat) (x : W64) : (setCtr s k x).resp = s.resp := by
  obtain ⟨ws, h⟩ := setCtr_eq s k x; rw [h]
@[simp] theorem setCtr_rq (s : State) (k : Bool × Nat × Nat) (x : W64) : (setCtr s k x).rq = s.rq := by
  obtain ⟨ws, h⟩ := setCtr_eq s k x; rw [h]
@[simp] theorem setCtr_mcasts (s : State) (k : Bool × Nat × Nat) (x : W64) : (setCtr s k x).mcasts = s.mcasts := by
  obtain ⟨ws, h⟩ := setCtr_eq s k x; rw [h]
@[simp] theorem setCtr_mem (s : State) (k : Bool × Nat × Nat) (x : W64) : (setCtr s k x).mem = s.mem := by
  obtain ⟨ws, h⟩ := setCtr_eq s k x; rw [h]
@[simp] theorem setCtr_scratch (s : State) (k : Bool × Nat × Nat) (x : W64) : (setCtr s k x).scratch = s.scratch := by
  obtain ⟨ws, h⟩ := setCtr_eq s k x; rw [h]
@[simp] theorem setCtr_scrPoison (s : State) (k : Bool × Nat × Nat) (x : W64) : (setCtr s k x).scrPoison = s.scrPoison := by
  obtain ⟨ws, h⟩ := setCtr_eq s k x; rw [h]
@[simp] theorem setCtr_scrLatent (s : State) (k : Bool × Nat × Nat) (x : W64) : (setCtr s k x).scrLatent = s.scrLatent := by
  obtain ⟨ws, h⟩ := setCtr_eq s k x; rw [h]
@[simp] theorem setCtr_accMib (s : State) (k : Bool × Nat × Nat) (x : W64) : (setCtr s k x).accMib = s.accMib := by
  obtain ⟨ws, h⟩ := setCtr_eq s k x; rw [h]
@[simp] theorem setCtr_wins (s : State) (k : Bool × Nat × Nat) (x : W64) : (setCtr s k x).wins = s.wins := by
  obtain ⟨ws, h⟩ := setCtr_eq s k x; rw [h]
@[simp] theorem setCtr_shards (s : State) (k : Bool × Nat × Nat) (x : W64) : (setCtr s k x).shards = s.shards := by
  obtain ⟨ws, h⟩ := setCtr_eq s k x; rw [h]
@[simp] theorem setCtr_decls (s : State) (k : Bool × Nat × Nat) (x : W64) : (setCtr s k x).decls = s.decls := by
  obtain ⟨ws, h⟩ := setCtr_eq s k x; rw [h]
@[simp] theorem setCtr_nextDecl (s : State) (k : Bool × Nat × Nat) (x : W64) : (setCtr s k x).nextDecl = s.nextDecl := by
  obtain ⟨ws, h⟩ := setCtr_eq s k x; rw [h]
@[simp] theorem setCtr_tiles (s : State) (k : Bool × Nat × Nat) (x : W64) : (setCtr s k x).tiles = s.tiles := by
  obtain ⟨ws, h⟩ := setCtr_eq s k x; rw [h]
@[simp] theorem setCtr_prog (s : State) (k : Bool × Nat × Nat) (x : W64) : (setCtr s k x).prog = s.prog := by
  obtain ⟨ws, h⟩ := setCtr_eq s k x; rw [h]
@[simp] theorem setCtr_links (s : State) (k : Bool × Nat × Nat) (x : W64) : (setCtr s k x).links = s.links := by
  obtain ⟨ws, h⟩ := setCtr_eq s k x; rw [h]
@[simp] theorem setCtr_opt (s : State) (k : Bool × Nat × Nat) (x : W64) : (setCtr s k x).opt = s.opt := by
  obtain ⟨ws, h⟩ := setCtr_eq s k x; rw [h]
@[simp] theorem setCtr_course (s : State) (k : Bool × Nat × Nat) (x : W64) : (setCtr s k x).course = s.course := by
  obtain ⟨ws, h⟩ := setCtr_eq s k x; rw [h]
@[simp] theorem setCtr_disc (s : State) (k : Bool × Nat × Nat) (x : W64) : (setCtr s k x).disc = s.disc := by
  obtain ⟨ws, h⟩ := setCtr_eq s k x; rw [h]
@[simp] theorem setCtr_elg (s : State) (k : Bool × Nat × Nat) (x : W64) : (setCtr s k x).elg = s.elg := by
  obtain ⟨ws, h⟩ := setCtr_eq s k x; rw [h]
@[simp] theorem setCtr_fuse (s : State) (k : Bool × Nat × Nat) (x : W64) : (setCtr s k x).fuse = s.fuse := by
  obtain ⟨ws, h⟩ := setCtr_eq s k x; rw [h]
@[simp] theorem setCtr_sec (s : State) (k : Bool × Nat × Nat) (x : W64) : (setCtr s k x).sec = s.sec := by
  obtain ⟨ws, h⟩ := setCtr_eq s k x; rw [h]
@[simp] theorem setCtr_tel (s : State) (k : Bool × Nat × Nat) (x : W64) : (setCtr s k x).tel = s.tel := by
  obtain ⟨ws, h⟩ := setCtr_eq s k x; rw [h]
@[simp] theorem setCtr_brola (s : State) (k : Bool × Nat × Nat) (x : W64) : (setCtr s k x).brola = s.brola := by
  obtain ⟨ws, h⟩ := setCtr_eq s k x; rw [h]

/-! setSess leaves everything else alone. -/
@[simp] theorem setSess_pending (s : State) (c : Nat) (x : Sess) : (setSess s c x).pending = s.pending := rfl
@[simp] theorem setSess_out (s : State) (c : Nat) (x : Sess) : (setSess s c x).out = s.out := rfl
@[simp] theorem setSess_free (s : State) (c : Nat) (x : Sess) : (setSess s c x).free = s.free := rfl
@[simp] theorem setSess_ctr (s : State) (c : Nat) (x : Sess) : (setSess s c x).ctr = s.ctr := rfl
@[simp] theorem setSess_clk (s : State) (c : Nat) (x : Sess) : (setSess s c x).clk = s.clk := rfl
@[simp] theorem setSess_pwr (s : State) (c : Nat) (x : Sess) : (setSess s c x).pwr = s.pwr := rfl
@[simp] theorem setSess_mc (s : State) (c : Nat) (x : Sess) : (setSess s c x).mc = s.mc := rfl
@[simp] theorem setSess_sw (s : State) (c : Nat) (x : Sess) : (setSess s c x).sw = s.sw := rfl
@[simp] theorem setSess_resp (s : State) (c : Nat) (x : Sess) : (setSess s c x).resp = s.resp := rfl
@[simp] theorem setSess_rq (s : State) (c : Nat) (x : Sess) : (setSess s c x).rq = s.rq := rfl
@[simp] theorem setSess_mcasts (s : State) (c : Nat) (x : Sess) : (setSess s c x).mcasts = s.mcasts := rfl
@[simp] theorem setSess_mem (s : State) (c : Nat) (x : Sess) : (setSess s c x).mem = s.mem := rfl
@[simp] theorem setSess_scratch (s : State) (c : Nat) (x : Sess) : (setSess s c x).scratch = s.scratch := rfl
@[simp] theorem setSess_scrPoison (s : State) (c : Nat) (x : Sess) : (setSess s c x).scrPoison = s.scrPoison := rfl
@[simp] theorem setSess_scrLatent (s : State) (c : Nat) (x : Sess) : (setSess s c x).scrLatent = s.scrLatent := rfl
@[simp] theorem setSess_accMib (s : State) (c : Nat) (x : Sess) : (setSess s c x).accMib = s.accMib := rfl
@[simp] theorem setSess_ctl (s : State) (c : Nat) (x : Sess) : (setSess s c x).ctl = s.ctl := rfl
@[simp] theorem setSess_wins (s : State) (c : Nat) (x : Sess) : (setSess s c x).wins = s.wins := rfl
@[simp] theorem setSess_shards (s : State) (c : Nat) (x : Sess) : (setSess s c x).shards = s.shards := rfl
@[simp] theorem setSess_decls (s : State) (c : Nat) (x : Sess) : (setSess s c x).decls = s.decls := rfl
@[simp] theorem setSess_nextDecl (s : State) (c : Nat) (x : Sess) : (setSess s c x).nextDecl = s.nextDecl := rfl
@[simp] theorem setSess_str (s : State) (c : Nat) (x : Sess) : (setSess s c x).str = s.str := rfl
@[simp] theorem setSess_tiles (s : State) (c : Nat) (x : Sess) : (setSess s c x).tiles = s.tiles := rfl
@[simp] theorem setSess_prog (s : State) (c : Nat) (x : Sess) : (setSess s c x).prog = s.prog := rfl
@[simp] theorem setSess_links (s : State) (c : Nat) (x : Sess) : (setSess s c x).links = s.links := rfl
@[simp] theorem setSess_opt (s : State) (c : Nat) (x : Sess) : (setSess s c x).opt = s.opt := rfl
@[simp] theorem setSess_course (s : State) (c : Nat) (x : Sess) : (setSess s c x).course = s.course := rfl
@[simp] theorem setSess_disc (s : State) (c : Nat) (x : Sess) : (setSess s c x).disc = s.disc := rfl
@[simp] theorem setSess_elg (s : State) (c : Nat) (x : Sess) : (setSess s c x).elg = s.elg := rfl
@[simp] theorem setSess_fuse (s : State) (c : Nat) (x : Sess) : (setSess s c x).fuse = s.fuse := rfl
@[simp] theorem setSess_tel (s : State) (c : Nat) (x : Sess) : (setSess s c x).tel = s.tel := rfl
@[simp] theorem setSess_brola (s : State) (c : Nat) (x : Sess) : (setSess s c x).brola = s.brola := rfl

/-! setKernel leaves everything else alone. -/
@[simp] theorem setKernel_pending (s : State) (ktag : Nat) (x : Bool × Nat) : (setKernel s ktag x).pending = s.pending := rfl
@[simp] theorem setKernel_out (s : State) (ktag : Nat) (x : Bool × Nat) : (setKernel s ktag x).out = s.out := rfl
@[simp] theorem setKernel_free (s : State) (ktag : Nat) (x : Bool × Nat) : (setKernel s ktag x).free = s.free := rfl
@[simp] theorem setKernel_ctr (s : State) (ktag : Nat) (x : Bool × Nat) : (setKernel s ktag x).ctr = s.ctr := rfl
@[simp] theorem setKernel_clk (s : State) (ktag : Nat) (x : Bool × Nat) : (setKernel s ktag x).clk = s.clk := rfl
@[simp] theorem setKernel_pwr (s : State) (ktag : Nat) (x : Bool × Nat) : (setKernel s ktag x).pwr = s.pwr := rfl
@[simp] theorem setKernel_mc (s : State) (ktag : Nat) (x : Bool × Nat) : (setKernel s ktag x).mc = s.mc := rfl
@[simp] theorem setKernel_sw (s : State) (ktag : Nat) (x : Bool × Nat) : (setKernel s ktag x).sw = s.sw := rfl
@[simp] theorem setKernel_resp (s : State) (ktag : Nat) (x : Bool × Nat) : (setKernel s ktag x).resp = s.resp := rfl
@[simp] theorem setKernel_rq (s : State) (ktag : Nat) (x : Bool × Nat) : (setKernel s ktag x).rq = s.rq := rfl
@[simp] theorem setKernel_mcasts (s : State) (ktag : Nat) (x : Bool × Nat) : (setKernel s ktag x).mcasts = s.mcasts := rfl
@[simp] theorem setKernel_mem (s : State) (ktag : Nat) (x : Bool × Nat) : (setKernel s ktag x).mem = s.mem := rfl
@[simp] theorem setKernel_scratch (s : State) (ktag : Nat) (x : Bool × Nat) : (setKernel s ktag x).scratch = s.scratch := rfl
@[simp] theorem setKernel_scrPoison (s : State) (ktag : Nat) (x : Bool × Nat) : (setKernel s ktag x).scrPoison = s.scrPoison := rfl
@[simp] theorem setKernel_scrLatent (s : State) (ktag : Nat) (x : Bool × Nat) : (setKernel s ktag x).scrLatent = s.scrLatent := rfl
@[simp] theorem setKernel_accMib (s : State) (ktag : Nat) (x : Bool × Nat) : (setKernel s ktag x).accMib = s.accMib := rfl
@[simp] theorem setKernel_ctl (s : State) (ktag : Nat) (x : Bool × Nat) : (setKernel s ktag x).ctl = s.ctl := rfl
@[simp] theorem setKernel_wins (s : State) (ktag : Nat) (x : Bool × Nat) : (setKernel s ktag x).wins = s.wins := rfl
@[simp] theorem setKernel_shards (s : State) (ktag : Nat) (x : Bool × Nat) : (setKernel s ktag x).shards = s.shards := rfl
@[simp] theorem setKernel_decls (s : State) (ktag : Nat) (x : Bool × Nat) : (setKernel s ktag x).decls = s.decls := rfl
@[simp] theorem setKernel_nextDecl (s : State) (ktag : Nat) (x : Bool × Nat) : (setKernel s ktag x).nextDecl = s.nextDecl := rfl
@[simp] theorem setKernel_str (s : State) (ktag : Nat) (x : Bool × Nat) : (setKernel s ktag x).str = s.str := rfl
@[simp] theorem setKernel_tiles (s : State) (ktag : Nat) (x : Bool × Nat) : (setKernel s ktag x).tiles = s.tiles := rfl
@[simp] theorem setKernel_prog (s : State) (ktag : Nat) (x : Bool × Nat) : (setKernel s ktag x).prog = s.prog := rfl
@[simp] theorem setKernel_links (s : State) (ktag : Nat) (x : Bool × Nat) : (setKernel s ktag x).links = s.links := rfl
@[simp] theorem setKernel_opt (s : State) (ktag : Nat) (x : Bool × Nat) : (setKernel s ktag x).opt = s.opt := rfl
@[simp] theorem setKernel_course (s : State) (ktag : Nat) (x : Bool × Nat) : (setKernel s ktag x).course = s.course := rfl
@[simp] theorem setKernel_disc (s : State) (ktag : Nat) (x : Bool × Nat) : (setKernel s ktag x).disc = s.disc := rfl
@[simp] theorem setKernel_elg (s : State) (ktag : Nat) (x : Bool × Nat) : (setKernel s ktag x).elg = s.elg := rfl
@[simp] theorem setKernel_fuse (s : State) (ktag : Nat) (x : Bool × Nat) : (setKernel s ktag x).fuse = s.fuse := rfl
@[simp] theorem setKernel_sec (s : State) (ktag : Nat) (x : Bool × Nat) : (setKernel s ktag x).sec = s.sec := rfl
@[simp] theorem setKernel_tel (s : State) (ktag : Nat) (x : Bool × Nat) : (setKernel s ktag x).tel = s.tel := rfl

/-! setCollQ leaves everything else alone. -/
@[simp] theorem setCollQ_pending (s : State) (g : Nat) (q : CollQ) : (setCollQ s g q).pending = s.pending := rfl
@[simp] theorem setCollQ_out (s : State) (g : Nat) (q : CollQ) : (setCollQ s g q).out = s.out := rfl
@[simp] theorem setCollQ_free (s : State) (g : Nat) (q : CollQ) : (setCollQ s g q).free = s.free := rfl
@[simp] theorem setCollQ_ctr (s : State) (g : Nat) (q : CollQ) : (setCollQ s g q).ctr = s.ctr := rfl
@[simp] theorem setCollQ_clk (s : State) (g : Nat) (q : CollQ) : (setCollQ s g q).clk = s.clk := rfl
@[simp] theorem setCollQ_pwr (s : State) (g : Nat) (q : CollQ) : (setCollQ s g q).pwr = s.pwr := rfl
@[simp] theorem setCollQ_mc (s : State) (g : Nat) (q : CollQ) : (setCollQ s g q).mc = s.mc := rfl
@[simp] theorem setCollQ_sw (s : State) (g : Nat) (q : CollQ) : (setCollQ s g q).sw = s.sw := rfl
@[simp] theorem setCollQ_resp (s : State) (g : Nat) (q : CollQ) : (setCollQ s g q).resp = s.resp := rfl
@[simp] theorem setCollQ_rq (s : State) (g : Nat) (q : CollQ) : (setCollQ s g q).rq = s.rq := rfl
@[simp] theorem setCollQ_mcasts (s : State) (g : Nat) (q : CollQ) : (setCollQ s g q).mcasts = s.mcasts := rfl
@[simp] theorem setCollQ_mem (s : State) (g : Nat) (q : CollQ) : (setCollQ s g q).mem = s.mem := rfl
@[simp] theorem setCollQ_scratch (s : State) (g : Nat) (q : CollQ) : (setCollQ s g q).scratch = s.scratch := rfl
@[simp] theorem setCollQ_scrPoison (s : State) (g : Nat) (q : CollQ) : (setCollQ s g q).scrPoison = s.scrPoison := rfl
@[simp] theorem setCollQ_scrLatent (s : State) (g : Nat) (q : CollQ) : (setCollQ s g q).scrLatent = s.scrLatent := rfl
@[simp] theorem setCollQ_accMib (s : State) (g : Nat) (q : CollQ) : (setCollQ s g q).accMib = s.accMib := rfl
@[simp] theorem setCollQ_ctl (s : State) (g : Nat) (q : CollQ) : (setCollQ s g q).ctl = s.ctl := rfl
@[simp] theorem setCollQ_wins (s : State) (g : Nat) (q : CollQ) : (setCollQ s g q).wins = s.wins := rfl
@[simp] theorem setCollQ_shards (s : State) (g : Nat) (q : CollQ) : (setCollQ s g q).shards = s.shards := rfl
@[simp] theorem setCollQ_decls (s : State) (g : Nat) (q : CollQ) : (setCollQ s g q).decls = s.decls := rfl
@[simp] theorem setCollQ_nextDecl (s : State) (g : Nat) (q : CollQ) : (setCollQ s g q).nextDecl = s.nextDecl := rfl
@[simp] theorem setCollQ_str (s : State) (g : Nat) (q : CollQ) : (setCollQ s g q).str = s.str := rfl
@[simp] theorem setCollQ_tiles (s : State) (g : Nat) (q : CollQ) : (setCollQ s g q).tiles = s.tiles := rfl
@[simp] theorem setCollQ_prog (s : State) (g : Nat) (q : CollQ) : (setCollQ s g q).prog = s.prog := rfl
@[simp] theorem setCollQ_links (s : State) (g : Nat) (q : CollQ) : (setCollQ s g q).links = s.links := rfl
@[simp] theorem setCollQ_opt (s : State) (g : Nat) (q : CollQ) : (setCollQ s g q).opt = s.opt := rfl
@[simp] theorem setCollQ_course (s : State) (g : Nat) (q : CollQ) : (setCollQ s g q).course = s.course := rfl
@[simp] theorem setCollQ_disc (s : State) (g : Nat) (q : CollQ) : (setCollQ s g q).disc = s.disc := rfl
@[simp] theorem setCollQ_elg (s : State) (g : Nat) (q : CollQ) : (setCollQ s g q).elg = s.elg := rfl
@[simp] theorem setCollQ_fuse (s : State) (g : Nat) (q : CollQ) : (setCollQ s g q).fuse = s.fuse := rfl
@[simp] theorem setCollQ_sec (s : State) (g : Nat) (q : CollQ) : (setCollQ s g q).sec = s.sec := rfl
@[simp] theorem setCollQ_tel (s : State) (g : Nat) (q : CollQ) : (setCollQ s g q).tel = s.tel := rfl

/-! setCollRun leaves everything else alone. -/
@[simp] theorem setCollRun_pending (s : State) (g : Nat) (r : CollRun) : (setCollRun s g r).pending = s.pending := rfl
@[simp] theorem setCollRun_out (s : State) (g : Nat) (r : CollRun) : (setCollRun s g r).out = s.out := rfl
@[simp] theorem setCollRun_free (s : State) (g : Nat) (r : CollRun) : (setCollRun s g r).free = s.free := rfl
@[simp] theorem setCollRun_ctr (s : State) (g : Nat) (r : CollRun) : (setCollRun s g r).ctr = s.ctr := rfl
@[simp] theorem setCollRun_clk (s : State) (g : Nat) (r : CollRun) : (setCollRun s g r).clk = s.clk := rfl
@[simp] theorem setCollRun_pwr (s : State) (g : Nat) (r : CollRun) : (setCollRun s g r).pwr = s.pwr := rfl
@[simp] theorem setCollRun_mc (s : State) (g : Nat) (r : CollRun) : (setCollRun s g r).mc = s.mc := rfl
@[simp] theorem setCollRun_sw (s : State) (g : Nat) (r : CollRun) : (setCollRun s g r).sw = s.sw := rfl
@[simp] theorem setCollRun_resp (s : State) (g : Nat) (r : CollRun) : (setCollRun s g r).resp = s.resp := rfl
@[simp] theorem setCollRun_rq (s : State) (g : Nat) (r : CollRun) : (setCollRun s g r).rq = s.rq := rfl
@[simp] theorem setCollRun_mcasts (s : State) (g : Nat) (r : CollRun) : (setCollRun s g r).mcasts = s.mcasts := rfl
@[simp] theorem setCollRun_mem (s : State) (g : Nat) (r : CollRun) : (setCollRun s g r).mem = s.mem := rfl
@[simp] theorem setCollRun_scratch (s : State) (g : Nat) (r : CollRun) : (setCollRun s g r).scratch = s.scratch := rfl
@[simp] theorem setCollRun_scrPoison (s : State) (g : Nat) (r : CollRun) : (setCollRun s g r).scrPoison = s.scrPoison := rfl
@[simp] theorem setCollRun_scrLatent (s : State) (g : Nat) (r : CollRun) : (setCollRun s g r).scrLatent = s.scrLatent := rfl
@[simp] theorem setCollRun_accMib (s : State) (g : Nat) (r : CollRun) : (setCollRun s g r).accMib = s.accMib := rfl
@[simp] theorem setCollRun_ctl (s : State) (g : Nat) (r : CollRun) : (setCollRun s g r).ctl = s.ctl := rfl
@[simp] theorem setCollRun_wins (s : State) (g : Nat) (r : CollRun) : (setCollRun s g r).wins = s.wins := rfl
@[simp] theorem setCollRun_shards (s : State) (g : Nat) (r : CollRun) : (setCollRun s g r).shards = s.shards := rfl
@[simp] theorem setCollRun_decls (s : State) (g : Nat) (r : CollRun) : (setCollRun s g r).decls = s.decls := rfl
@[simp] theorem setCollRun_nextDecl (s : State) (g : Nat) (r : CollRun) : (setCollRun s g r).nextDecl = s.nextDecl := rfl
@[simp] theorem setCollRun_str (s : State) (g : Nat) (r : CollRun) : (setCollRun s g r).str = s.str := rfl
@[simp] theorem setCollRun_tiles (s : State) (g : Nat) (r : CollRun) : (setCollRun s g r).tiles = s.tiles := rfl
@[simp] theorem setCollRun_prog (s : State) (g : Nat) (r : CollRun) : (setCollRun s g r).prog = s.prog := rfl
@[simp] theorem setCollRun_links (s : State) (g : Nat) (r : CollRun) : (setCollRun s g r).links = s.links := rfl
@[simp] theorem setCollRun_opt (s : State) (g : Nat) (r : CollRun) : (setCollRun s g r).opt = s.opt := rfl
@[simp] theorem setCollRun_course (s : State) (g : Nat) (r : CollRun) : (setCollRun s g r).course = s.course := rfl
@[simp] theorem setCollRun_disc (s : State) (g : Nat) (r : CollRun) : (setCollRun s g r).disc = s.disc := rfl
@[simp] theorem setCollRun_elg (s : State) (g : Nat) (r : CollRun) : (setCollRun s g r).elg = s.elg := rfl
@[simp] theorem setCollRun_fuse (s : State) (g : Nat) (r : CollRun) : (setCollRun s g r).fuse = s.fuse := rfl
@[simp] theorem setCollRun_sec (s : State) (g : Nat) (r : CollRun) : (setCollRun s g r).sec = s.sec := rfl
@[simp] theorem setCollRun_tel (s : State) (g : Nat) (r : CollRun) : (setCollRun s g r).tel = s.tel := rfl

/-! setBar leaves everything else alone. -/
@[simp] theorem setBar_pending (s : State) (k : BarKey) (b : Barrier) : (setBar s k b).pending = s.pending := rfl
@[simp] theorem setBar_out (s : State) (k : BarKey) (b : Barrier) : (setBar s k b).out = s.out := rfl
@[simp] theorem setBar_free (s : State) (k : BarKey) (b : Barrier) : (setBar s k b).free = s.free := rfl
@[simp] theorem setBar_ctr (s : State) (k : BarKey) (b : Barrier) : (setBar s k b).ctr = s.ctr := rfl
@[simp] theorem setBar_clk (s : State) (k : BarKey) (b : Barrier) : (setBar s k b).clk = s.clk := rfl
@[simp] theorem setBar_pwr (s : State) (k : BarKey) (b : Barrier) : (setBar s k b).pwr = s.pwr := rfl
@[simp] theorem setBar_mc (s : State) (k : BarKey) (b : Barrier) : (setBar s k b).mc = s.mc := rfl
@[simp] theorem setBar_sw (s : State) (k : BarKey) (b : Barrier) : (setBar s k b).sw = s.sw := rfl
@[simp] theorem setBar_resp (s : State) (k : BarKey) (b : Barrier) : (setBar s k b).resp = s.resp := rfl
@[simp] theorem setBar_rq (s : State) (k : BarKey) (b : Barrier) : (setBar s k b).rq = s.rq := rfl
@[simp] theorem setBar_mcasts (s : State) (k : BarKey) (b : Barrier) : (setBar s k b).mcasts = s.mcasts := rfl
@[simp] theorem setBar_mem (s : State) (k : BarKey) (b : Barrier) : (setBar s k b).mem = s.mem := rfl
@[simp] theorem setBar_scratch (s : State) (k : BarKey) (b : Barrier) : (setBar s k b).scratch = s.scratch := rfl
@[simp] theorem setBar_scrPoison (s : State) (k : BarKey) (b : Barrier) : (setBar s k b).scrPoison = s.scrPoison := rfl
@[simp] theorem setBar_scrLatent (s : State) (k : BarKey) (b : Barrier) : (setBar s k b).scrLatent = s.scrLatent := rfl
@[simp] theorem setBar_accMib (s : State) (k : BarKey) (b : Barrier) : (setBar s k b).accMib = s.accMib := rfl
@[simp] theorem setBar_wins (s : State) (k : BarKey) (b : Barrier) : (setBar s k b).wins = s.wins := rfl
@[simp] theorem setBar_shards (s : State) (k : BarKey) (b : Barrier) : (setBar s k b).shards = s.shards := rfl
@[simp] theorem setBar_decls (s : State) (k : BarKey) (b : Barrier) : (setBar s k b).decls = s.decls := rfl
@[simp] theorem setBar_nextDecl (s : State) (k : BarKey) (b : Barrier) : (setBar s k b).nextDecl = s.nextDecl := rfl
@[simp] theorem setBar_str (s : State) (k : BarKey) (b : Barrier) : (setBar s k b).str = s.str := rfl
@[simp] theorem setBar_tiles (s : State) (k : BarKey) (b : Barrier) : (setBar s k b).tiles = s.tiles := rfl
@[simp] theorem setBar_prog (s : State) (k : BarKey) (b : Barrier) : (setBar s k b).prog = s.prog := rfl
@[simp] theorem setBar_links (s : State) (k : BarKey) (b : Barrier) : (setBar s k b).links = s.links := rfl
@[simp] theorem setBar_opt (s : State) (k : BarKey) (b : Barrier) : (setBar s k b).opt = s.opt := rfl
@[simp] theorem setBar_course (s : State) (k : BarKey) (b : Barrier) : (setBar s k b).course = s.course := rfl
@[simp] theorem setBar_disc (s : State) (k : BarKey) (b : Barrier) : (setBar s k b).disc = s.disc := rfl
@[simp] theorem setBar_elg (s : State) (k : BarKey) (b : Barrier) : (setBar s k b).elg = s.elg := rfl
@[simp] theorem setBar_fuse (s : State) (k : BarKey) (b : Barrier) : (setBar s k b).fuse = s.fuse := rfl
@[simp] theorem setBar_sec (s : State) (k : BarKey) (b : Barrier) : (setBar s k b).sec = s.sec := rfl
@[simp] theorem setBar_tel (s : State) (k : BarKey) (b : Barrier) : (setBar s k b).tel = s.tel := rfl
@[simp] theorem setBar_brola (s : State) (k : BarKey) (b : Barrier) : (setBar s k b).brola = s.brola := rfl

/-! scratchWrite leaves everything else alone. -/
@[simp] theorem scratchWrite_pending (s : State) (k : Nat) (bs : List Byte) (poison : Bool) : (scratchWrite s k bs poison).pending = s.pending := rfl
@[simp] theorem scratchWrite_out (s : State) (k : Nat) (bs : List Byte) (poison : Bool) : (scratchWrite s k bs poison).out = s.out := rfl
@[simp] theorem scratchWrite_free (s : State) (k : Nat) (bs : List Byte) (poison : Bool) : (scratchWrite s k bs poison).free = s.free := rfl
@[simp] theorem scratchWrite_ctr (s : State) (k : Nat) (bs : List Byte) (poison : Bool) : (scratchWrite s k bs poison).ctr = s.ctr := rfl
@[simp] theorem scratchWrite_clk (s : State) (k : Nat) (bs : List Byte) (poison : Bool) : (scratchWrite s k bs poison).clk = s.clk := rfl
@[simp] theorem scratchWrite_pwr (s : State) (k : Nat) (bs : List Byte) (poison : Bool) : (scratchWrite s k bs poison).pwr = s.pwr := rfl
@[simp] theorem scratchWrite_mc (s : State) (k : Nat) (bs : List Byte) (poison : Bool) : (scratchWrite s k bs poison).mc = s.mc := rfl
@[simp] theorem scratchWrite_sw (s : State) (k : Nat) (bs : List Byte) (poison : Bool) : (scratchWrite s k bs poison).sw = s.sw := rfl
@[simp] theorem scratchWrite_resp (s : State) (k : Nat) (bs : List Byte) (poison : Bool) : (scratchWrite s k bs poison).resp = s.resp := rfl
@[simp] theorem scratchWrite_rq (s : State) (k : Nat) (bs : List Byte) (poison : Bool) : (scratchWrite s k bs poison).rq = s.rq := rfl
@[simp] theorem scratchWrite_mcasts (s : State) (k : Nat) (bs : List Byte) (poison : Bool) : (scratchWrite s k bs poison).mcasts = s.mcasts := rfl
@[simp] theorem scratchWrite_mem (s : State) (k : Nat) (bs : List Byte) (poison : Bool) : (scratchWrite s k bs poison).mem = s.mem := rfl
@[simp] theorem scratchWrite_accMib (s : State) (k : Nat) (bs : List Byte) (poison : Bool) : (scratchWrite s k bs poison).accMib = s.accMib := rfl
@[simp] theorem scratchWrite_ctl (s : State) (k : Nat) (bs : List Byte) (poison : Bool) : (scratchWrite s k bs poison).ctl = s.ctl := rfl
@[simp] theorem scratchWrite_wins (s : State) (k : Nat) (bs : List Byte) (poison : Bool) : (scratchWrite s k bs poison).wins = s.wins := rfl
@[simp] theorem scratchWrite_shards (s : State) (k : Nat) (bs : List Byte) (poison : Bool) : (scratchWrite s k bs poison).shards = s.shards := rfl
@[simp] theorem scratchWrite_decls (s : State) (k : Nat) (bs : List Byte) (poison : Bool) : (scratchWrite s k bs poison).decls = s.decls := rfl
@[simp] theorem scratchWrite_nextDecl (s : State) (k : Nat) (bs : List Byte) (poison : Bool) : (scratchWrite s k bs poison).nextDecl = s.nextDecl := rfl
@[simp] theorem scratchWrite_str (s : State) (k : Nat) (bs : List Byte) (poison : Bool) : (scratchWrite s k bs poison).str = s.str := rfl
@[simp] theorem scratchWrite_tiles (s : State) (k : Nat) (bs : List Byte) (poison : Bool) : (scratchWrite s k bs poison).tiles = s.tiles := rfl
@[simp] theorem scratchWrite_prog (s : State) (k : Nat) (bs : List Byte) (poison : Bool) : (scratchWrite s k bs poison).prog = s.prog := rfl
@[simp] theorem scratchWrite_links (s : State) (k : Nat) (bs : List Byte) (poison : Bool) : (scratchWrite s k bs poison).links = s.links := rfl
@[simp] theorem scratchWrite_opt (s : State) (k : Nat) (bs : List Byte) (poison : Bool) : (scratchWrite s k bs poison).opt = s.opt := rfl
@[simp] theorem scratchWrite_course (s : State) (k : Nat) (bs : List Byte) (poison : Bool) : (scratchWrite s k bs poison).course = s.course := rfl
@[simp] theorem scratchWrite_disc (s : State) (k : Nat) (bs : List Byte) (poison : Bool) : (scratchWrite s k bs poison).disc = s.disc := rfl
@[simp] theorem scratchWrite_elg (s : State) (k : Nat) (bs : List Byte) (poison : Bool) : (scratchWrite s k bs poison).elg = s.elg := rfl
@[simp] theorem scratchWrite_fuse (s : State) (k : Nat) (bs : List Byte) (poison : Bool) : (scratchWrite s k bs poison).fuse = s.fuse := rfl
@[simp] theorem scratchWrite_sec (s : State) (k : Nat) (bs : List Byte) (poison : Bool) : (scratchWrite s k bs poison).sec = s.sec := rfl
@[simp] theorem scratchWrite_tel (s : State) (k : Nat) (bs : List Byte) (poison : Bool) : (scratchWrite s k bs poison).tel = s.tel := rfl
@[simp] theorem scratchWrite_brola (s : State) (k : Nat) (bs : List Byte) (poison : Bool) : (scratchWrite s k bs poison).brola = s.brola := rfl

/-! ifEvent leaves everything else alone. -/
@[simp] theorem ifEvent_pending (s : State) (port bit_ : Nat) : (ifEvent s port bit_).pending = s.pending := rfl
@[simp] theorem ifEvent_out (s : State) (port bit_ : Nat) : (ifEvent s port bit_).out = s.out := rfl
@[simp] theorem ifEvent_free (s : State) (port bit_ : Nat) : (ifEvent s port bit_).free = s.free := rfl
@[simp] theorem ifEvent_clk (s : State) (port bit_ : Nat) : (ifEvent s port bit_).clk = s.clk := rfl
@[simp] theorem ifEvent_pwr (s : State) (port bit_ : Nat) : (ifEvent s port bit_).pwr = s.pwr := rfl
@[simp] theorem ifEvent_sw (s : State) (port bit_ : Nat) : (ifEvent s port bit_).sw = s.sw := rfl
@[simp] theorem ifEvent_resp (s : State) (port bit_ : Nat) : (ifEvent s port bit_).resp = s.resp := rfl
@[simp] theorem ifEvent_rq (s : State) (port bit_ : Nat) : (ifEvent s port bit_).rq = s.rq := rfl
@[simp] theorem ifEvent_mcasts (s : State) (port bit_ : Nat) : (ifEvent s port bit_).mcasts = s.mcasts := rfl
@[simp] theorem ifEvent_mem (s : State) (port bit_ : Nat) : (ifEvent s port bit_).mem = s.mem := rfl
@[simp] theorem ifEvent_scratch (s : State) (port bit_ : Nat) : (ifEvent s port bit_).scratch = s.scratch := rfl
@[simp] theorem ifEvent_scrPoison (s : State) (port bit_ : Nat) : (ifEvent s port bit_).scrPoison = s.scrPoison := rfl
@[simp] theorem ifEvent_scrLatent (s : State) (port bit_ : Nat) : (ifEvent s port bit_).scrLatent = s.scrLatent := rfl
@[simp] theorem ifEvent_accMib (s : State) (port bit_ : Nat) : (ifEvent s port bit_).accMib = s.accMib := rfl
@[simp] theorem ifEvent_ctl (s : State) (port bit_ : Nat) : (ifEvent s port bit_).ctl = s.ctl := rfl
@[simp] theorem ifEvent_wins (s : State) (port bit_ : Nat) : (ifEvent s port bit_).wins = s.wins := rfl
@[simp] theorem ifEvent_shards (s : State) (port bit_ : Nat) : (ifEvent s port bit_).shards = s.shards := rfl
@[simp] theorem ifEvent_decls (s : State) (port bit_ : Nat) : (ifEvent s port bit_).decls = s.decls := rfl
@[simp] theorem ifEvent_nextDecl (s : State) (port bit_ : Nat) : (ifEvent s port bit_).nextDecl = s.nextDecl := rfl
@[simp] theorem ifEvent_str (s : State) (port bit_ : Nat) : (ifEvent s port bit_).str = s.str := rfl
@[simp] theorem ifEvent_tiles (s : State) (port bit_ : Nat) : (ifEvent s port bit_).tiles = s.tiles := rfl
@[simp] theorem ifEvent_prog (s : State) (port bit_ : Nat) : (ifEvent s port bit_).prog = s.prog := rfl
@[simp] theorem ifEvent_links (s : State) (port bit_ : Nat) : (ifEvent s port bit_).links = s.links := rfl
@[simp] theorem ifEvent_opt (s : State) (port bit_ : Nat) : (ifEvent s port bit_).opt = s.opt := rfl
@[simp] theorem ifEvent_course (s : State) (port bit_ : Nat) : (ifEvent s port bit_).course = s.course := rfl
@[simp] theorem ifEvent_disc (s : State) (port bit_ : Nat) : (ifEvent s port bit_).disc = s.disc := rfl
@[simp] theorem ifEvent_elg (s : State) (port bit_ : Nat) : (ifEvent s port bit_).elg = s.elg := rfl
@[simp] theorem ifEvent_fuse (s : State) (port bit_ : Nat) : (ifEvent s port bit_).fuse = s.fuse := rfl
@[simp] theorem ifEvent_sec (s : State) (port bit_ : Nat) : (ifEvent s port bit_).sec = s.sec := rfl
@[simp] theorem ifEvent_tel (s : State) (port bit_ : Nat) : (ifEvent s port bit_).tel = s.tel := rfl
@[simp] theorem ifEvent_brola (s : State) (port bit_ : Nat) : (ifEvent s port bit_).brola = s.brola := rfl

/-! scrollAppend leaves everything else alone. -/
@[simp] theorem scrollAppend_pending (s : State) (e : ScrollEntry) : (scrollAppend s e).pending = s.pending := rfl
@[simp] theorem scrollAppend_out (s : State) (e : ScrollEntry) : (scrollAppend s e).out = s.out := rfl
@[simp] theorem scrollAppend_free (s : State) (e : ScrollEntry) : (scrollAppend s e).free = s.free := rfl
@[simp] theorem scrollAppend_ctr (s : State) (e : ScrollEntry) : (scrollAppend s e).ctr = s.ctr := rfl
@[simp] theorem scrollAppend_clk (s : State) (e : ScrollEntry) : (scrollAppend s e).clk = s.clk := rfl
@[simp] theorem scrollAppend_pwr (s : State) (e : ScrollEntry) : (scrollAppend s e).pwr = s.pwr := rfl
@[simp] theorem scrollAppend_mc (s : State) (e : ScrollEntry) : (scrollAppend s e).mc = s.mc := rfl
@[simp] theorem scrollAppend_sw (s : State) (e : ScrollEntry) : (scrollAppend s e).sw = s.sw := rfl
@[simp] theorem scrollAppend_resp (s : State) (e : ScrollEntry) : (scrollAppend s e).resp = s.resp := rfl
@[simp] theorem scrollAppend_rq (s : State) (e : ScrollEntry) : (scrollAppend s e).rq = s.rq := rfl
@[simp] theorem scrollAppend_mcasts (s : State) (e : ScrollEntry) : (scrollAppend s e).mcasts = s.mcasts := rfl
@[simp] theorem scrollAppend_mem (s : State) (e : ScrollEntry) : (scrollAppend s e).mem = s.mem := rfl
@[simp] theorem scrollAppend_scratch (s : State) (e : ScrollEntry) : (scrollAppend s e).scratch = s.scratch := rfl
@[simp] theorem scrollAppend_scrPoison (s : State) (e : ScrollEntry) : (scrollAppend s e).scrPoison = s.scrPoison := rfl
@[simp] theorem scrollAppend_scrLatent (s : State) (e : ScrollEntry) : (scrollAppend s e).scrLatent = s.scrLatent := rfl
@[simp] theorem scrollAppend_accMib (s : State) (e : ScrollEntry) : (scrollAppend s e).accMib = s.accMib := rfl
@[simp] theorem scrollAppend_ctl (s : State) (e : ScrollEntry) : (scrollAppend s e).ctl = s.ctl := rfl
@[simp] theorem scrollAppend_wins (s : State) (e : ScrollEntry) : (scrollAppend s e).wins = s.wins := rfl
@[simp] theorem scrollAppend_shards (s : State) (e : ScrollEntry) : (scrollAppend s e).shards = s.shards := rfl
@[simp] theorem scrollAppend_decls (s : State) (e : ScrollEntry) : (scrollAppend s e).decls = s.decls := rfl
@[simp] theorem scrollAppend_nextDecl (s : State) (e : ScrollEntry) : (scrollAppend s e).nextDecl = s.nextDecl := rfl
@[simp] theorem scrollAppend_str (s : State) (e : ScrollEntry) : (scrollAppend s e).str = s.str := rfl
@[simp] theorem scrollAppend_tiles (s : State) (e : ScrollEntry) : (scrollAppend s e).tiles = s.tiles := rfl
@[simp] theorem scrollAppend_prog (s : State) (e : ScrollEntry) : (scrollAppend s e).prog = s.prog := rfl
@[simp] theorem scrollAppend_links (s : State) (e : ScrollEntry) : (scrollAppend s e).links = s.links := rfl
@[simp] theorem scrollAppend_opt (s : State) (e : ScrollEntry) : (scrollAppend s e).opt = s.opt := rfl
@[simp] theorem scrollAppend_course (s : State) (e : ScrollEntry) : (scrollAppend s e).course = s.course := rfl
@[simp] theorem scrollAppend_disc (s : State) (e : ScrollEntry) : (scrollAppend s e).disc = s.disc := rfl
@[simp] theorem scrollAppend_elg (s : State) (e : ScrollEntry) : (scrollAppend s e).elg = s.elg := rfl
@[simp] theorem scrollAppend_fuse (s : State) (e : ScrollEntry) : (scrollAppend s e).fuse = s.fuse := rfl
@[simp] theorem scrollAppend_sec (s : State) (e : ScrollEntry) : (scrollAppend s e).sec = s.sec := rfl
@[simp] theorem scrollAppend_brola (s : State) (e : ScrollEntry) : (scrollAppend s e).brola = s.brola := rfl

/-! setAlarmBit leaves everything else alone. -/
@[simp] theorem setAlarmBit_pending (s : State) (cls : Nat) : (setAlarmBit s cls).pending = s.pending := rfl
@[simp] theorem setAlarmBit_out (s : State) (cls : Nat) : (setAlarmBit s cls).out = s.out := rfl
@[simp] theorem setAlarmBit_free (s : State) (cls : Nat) : (setAlarmBit s cls).free = s.free := rfl
@[simp] theorem setAlarmBit_ctr (s : State) (cls : Nat) : (setAlarmBit s cls).ctr = s.ctr := rfl
@[simp] theorem setAlarmBit_clk (s : State) (cls : Nat) : (setAlarmBit s cls).clk = s.clk := rfl
@[simp] theorem setAlarmBit_pwr (s : State) (cls : Nat) : (setAlarmBit s cls).pwr = s.pwr := rfl
@[simp] theorem setAlarmBit_sw (s : State) (cls : Nat) : (setAlarmBit s cls).sw = s.sw := rfl
@[simp] theorem setAlarmBit_resp (s : State) (cls : Nat) : (setAlarmBit s cls).resp = s.resp := rfl
@[simp] theorem setAlarmBit_rq (s : State) (cls : Nat) : (setAlarmBit s cls).rq = s.rq := rfl
@[simp] theorem setAlarmBit_mcasts (s : State) (cls : Nat) : (setAlarmBit s cls).mcasts = s.mcasts := rfl
@[simp] theorem setAlarmBit_mem (s : State) (cls : Nat) : (setAlarmBit s cls).mem = s.mem := rfl
@[simp] theorem setAlarmBit_scratch (s : State) (cls : Nat) : (setAlarmBit s cls).scratch = s.scratch := rfl
@[simp] theorem setAlarmBit_scrPoison (s : State) (cls : Nat) : (setAlarmBit s cls).scrPoison = s.scrPoison := rfl
@[simp] theorem setAlarmBit_scrLatent (s : State) (cls : Nat) : (setAlarmBit s cls).scrLatent = s.scrLatent := rfl
@[simp] theorem setAlarmBit_accMib (s : State) (cls : Nat) : (setAlarmBit s cls).accMib = s.accMib := rfl
@[simp] theorem setAlarmBit_ctl (s : State) (cls : Nat) : (setAlarmBit s cls).ctl = s.ctl := rfl
@[simp] theorem setAlarmBit_wins (s : State) (cls : Nat) : (setAlarmBit s cls).wins = s.wins := rfl
@[simp] theorem setAlarmBit_shards (s : State) (cls : Nat) : (setAlarmBit s cls).shards = s.shards := rfl
@[simp] theorem setAlarmBit_decls (s : State) (cls : Nat) : (setAlarmBit s cls).decls = s.decls := rfl
@[simp] theorem setAlarmBit_nextDecl (s : State) (cls : Nat) : (setAlarmBit s cls).nextDecl = s.nextDecl := rfl
@[simp] theorem setAlarmBit_str (s : State) (cls : Nat) : (setAlarmBit s cls).str = s.str := rfl
@[simp] theorem setAlarmBit_tiles (s : State) (cls : Nat) : (setAlarmBit s cls).tiles = s.tiles := rfl
@[simp] theorem setAlarmBit_prog (s : State) (cls : Nat) : (setAlarmBit s cls).prog = s.prog := rfl
@[simp] theorem setAlarmBit_links (s : State) (cls : Nat) : (setAlarmBit s cls).links = s.links := rfl
@[simp] theorem setAlarmBit_opt (s : State) (cls : Nat) : (setAlarmBit s cls).opt = s.opt := rfl
@[simp] theorem setAlarmBit_course (s : State) (cls : Nat) : (setAlarmBit s cls).course = s.course := rfl
@[simp] theorem setAlarmBit_disc (s : State) (cls : Nat) : (setAlarmBit s cls).disc = s.disc := rfl
@[simp] theorem setAlarmBit_elg (s : State) (cls : Nat) : (setAlarmBit s cls).elg = s.elg := rfl
@[simp] theorem setAlarmBit_fuse (s : State) (cls : Nat) : (setAlarmBit s cls).fuse = s.fuse := rfl
@[simp] theorem setAlarmBit_sec (s : State) (cls : Nat) : (setAlarmBit s cls).sec = s.sec := rfl
@[simp] theorem setAlarmBit_tel (s : State) (cls : Nat) : (setAlarmBit s cls).tel = s.tel := rfl
@[simp] theorem setAlarmBit_brola (s : State) (cls : Nat) : (setAlarmBit s cls).brola = s.brola := rfl

/-! scrollEntry leaves everything else alone. -/
@[simp] theorem scrollEntry_pending (s : State) (e : ScrollEntry) (alarm : Bool) : (scrollEntry s e alarm).pending = s.pending := by cases alarm <;> simp only [scrollEntry, if_true, if_false, Bool.false_eq_true] <;> split <;> rfl
@[simp] theorem scrollEntry_free (s : State) (e : ScrollEntry) (alarm : Bool) : (scrollEntry s e alarm).free = s.free := by cases alarm <;> simp only [scrollEntry, if_true, if_false, Bool.false_eq_true] <;> split <;> rfl
@[simp] theorem scrollEntry_clk (s : State) (e : ScrollEntry) (alarm : Bool) : (scrollEntry s e alarm).clk = s.clk := by cases alarm <;> simp only [scrollEntry, if_true, if_false, Bool.false_eq_true] <;> split <;> rfl
@[simp] theorem scrollEntry_pwr (s : State) (e : ScrollEntry) (alarm : Bool) : (scrollEntry s e alarm).pwr = s.pwr := by cases alarm <;> simp only [scrollEntry, if_true, if_false, Bool.false_eq_true] <;> split <;> rfl
@[simp] theorem scrollEntry_sw (s : State) (e : ScrollEntry) (alarm : Bool) : (scrollEntry s e alarm).sw = s.sw := by cases alarm <;> simp only [scrollEntry, if_true, if_false, Bool.false_eq_true] <;> split <;> rfl
@[simp] theorem scrollEntry_resp (s : State) (e : ScrollEntry) (alarm : Bool) : (scrollEntry s e alarm).resp = s.resp := by cases alarm <;> simp only [scrollEntry, if_true, if_false, Bool.false_eq_true] <;> split <;> rfl
@[simp] theorem scrollEntry_rq (s : State) (e : ScrollEntry) (alarm : Bool) : (scrollEntry s e alarm).rq = s.rq := by cases alarm <;> simp only [scrollEntry, if_true, if_false, Bool.false_eq_true] <;> split <;> rfl
@[simp] theorem scrollEntry_mcasts (s : State) (e : ScrollEntry) (alarm : Bool) : (scrollEntry s e alarm).mcasts = s.mcasts := by cases alarm <;> simp only [scrollEntry, if_true, if_false, Bool.false_eq_true] <;> split <;> rfl
@[simp] theorem scrollEntry_mem (s : State) (e : ScrollEntry) (alarm : Bool) : (scrollEntry s e alarm).mem = s.mem := by cases alarm <;> simp only [scrollEntry, if_true, if_false, Bool.false_eq_true] <;> split <;> rfl
@[simp] theorem scrollEntry_scratch (s : State) (e : ScrollEntry) (alarm : Bool) : (scrollEntry s e alarm).scratch = s.scratch := by cases alarm <;> simp only [scrollEntry, if_true, if_false, Bool.false_eq_true] <;> split <;> rfl
@[simp] theorem scrollEntry_scrPoison (s : State) (e : ScrollEntry) (alarm : Bool) : (scrollEntry s e alarm).scrPoison = s.scrPoison := by cases alarm <;> simp only [scrollEntry, if_true, if_false, Bool.false_eq_true] <;> split <;> rfl
@[simp] theorem scrollEntry_scrLatent (s : State) (e : ScrollEntry) (alarm : Bool) : (scrollEntry s e alarm).scrLatent = s.scrLatent := by cases alarm <;> simp only [scrollEntry, if_true, if_false, Bool.false_eq_true] <;> split <;> rfl
@[simp] theorem scrollEntry_accMib (s : State) (e : ScrollEntry) (alarm : Bool) : (scrollEntry s e alarm).accMib = s.accMib := by cases alarm <;> simp only [scrollEntry, if_true, if_false, Bool.false_eq_true] <;> split <;> rfl
@[simp] theorem scrollEntry_ctl (s : State) (e : ScrollEntry) (alarm : Bool) : (scrollEntry s e alarm).ctl = s.ctl := by cases alarm <;> simp only [scrollEntry, if_true, if_false, Bool.false_eq_true] <;> split <;> rfl
@[simp] theorem scrollEntry_wins (s : State) (e : ScrollEntry) (alarm : Bool) : (scrollEntry s e alarm).wins = s.wins := by cases alarm <;> simp only [scrollEntry, if_true, if_false, Bool.false_eq_true] <;> split <;> rfl
@[simp] theorem scrollEntry_shards (s : State) (e : ScrollEntry) (alarm : Bool) : (scrollEntry s e alarm).shards = s.shards := by cases alarm <;> simp only [scrollEntry, if_true, if_false, Bool.false_eq_true] <;> split <;> rfl
@[simp] theorem scrollEntry_decls (s : State) (e : ScrollEntry) (alarm : Bool) : (scrollEntry s e alarm).decls = s.decls := by cases alarm <;> simp only [scrollEntry, if_true, if_false, Bool.false_eq_true] <;> split <;> rfl
@[simp] theorem scrollEntry_nextDecl (s : State) (e : ScrollEntry) (alarm : Bool) : (scrollEntry s e alarm).nextDecl = s.nextDecl := by cases alarm <;> simp only [scrollEntry, if_true, if_false, Bool.false_eq_true] <;> split <;> rfl
@[simp] theorem scrollEntry_str (s : State) (e : ScrollEntry) (alarm : Bool) : (scrollEntry s e alarm).str = s.str := by cases alarm <;> simp only [scrollEntry, if_true, if_false, Bool.false_eq_true] <;> split <;> rfl
@[simp] theorem scrollEntry_tiles (s : State) (e : ScrollEntry) (alarm : Bool) : (scrollEntry s e alarm).tiles = s.tiles := by cases alarm <;> simp only [scrollEntry, if_true, if_false, Bool.false_eq_true] <;> split <;> rfl
@[simp] theorem scrollEntry_prog (s : State) (e : ScrollEntry) (alarm : Bool) : (scrollEntry s e alarm).prog = s.prog := by cases alarm <;> simp only [scrollEntry, if_true, if_false, Bool.false_eq_true] <;> split <;> rfl
@[simp] theorem scrollEntry_links (s : State) (e : ScrollEntry) (alarm : Bool) : (scrollEntry s e alarm).links = s.links := by cases alarm <;> simp only [scrollEntry, if_true, if_false, Bool.false_eq_true] <;> split <;> rfl
@[simp] theorem scrollEntry_opt (s : State) (e : ScrollEntry) (alarm : Bool) : (scrollEntry s e alarm).opt = s.opt := by cases alarm <;> simp only [scrollEntry, if_true, if_false, Bool.false_eq_true] <;> split <;> rfl
@[simp] theorem scrollEntry_course (s : State) (e : ScrollEntry) (alarm : Bool) : (scrollEntry s e alarm).course = s.course := by cases alarm <;> simp only [scrollEntry, if_true, if_false, Bool.false_eq_true] <;> split <;> rfl
@[simp] theorem scrollEntry_disc (s : State) (e : ScrollEntry) (alarm : Bool) : (scrollEntry s e alarm).disc = s.disc := by cases alarm <;> simp only [scrollEntry, if_true, if_false, Bool.false_eq_true] <;> split <;> rfl
@[simp] theorem scrollEntry_elg (s : State) (e : ScrollEntry) (alarm : Bool) : (scrollEntry s e alarm).elg = s.elg := by cases alarm <;> simp only [scrollEntry, if_true, if_false, Bool.false_eq_true] <;> split <;> rfl
@[simp] theorem scrollEntry_fuse (s : State) (e : ScrollEntry) (alarm : Bool) : (scrollEntry s e alarm).fuse = s.fuse := by cases alarm <;> simp only [scrollEntry, if_true, if_false, Bool.false_eq_true] <;> split <;> rfl
@[simp] theorem scrollEntry_sec (s : State) (e : ScrollEntry) (alarm : Bool) : (scrollEntry s e alarm).sec = s.sec := by cases alarm <;> simp only [scrollEntry, if_true, if_false, Bool.false_eq_true] <;> split <;> rfl
@[simp] theorem scrollEntry_brola (s : State) (e : ScrollEntry) (alarm : Bool) : (scrollEntry s e alarm).brola = s.brola := by cases alarm <;> simp only [scrollEntry, if_true, if_false, Bool.false_eq_true] <;> split <;> rfl

/-! scroll leaves everything else alone. -/
@[simp] theorem scroll_pending (s : State) (cls : Nat) (ev : ScrollEv) (site : Nat) (args : List Nat) (capo : Option Nat) : (scroll s cls ev site args capo).pending = s.pending := by simp [scroll]
@[simp] theorem scroll_free (s : State) (cls : Nat) (ev : ScrollEv) (site : Nat) (args : List Nat) (capo : Option Nat) : (scroll s cls ev site args capo).free = s.free := by simp [scroll]
@[simp] theorem scroll_clk (s : State) (cls : Nat) (ev : ScrollEv) (site : Nat) (args : List Nat) (capo : Option Nat) : (scroll s cls ev site args capo).clk = s.clk := by simp [scroll]
@[simp] theorem scroll_pwr (s : State) (cls : Nat) (ev : ScrollEv) (site : Nat) (args : List Nat) (capo : Option Nat) : (scroll s cls ev site args capo).pwr = s.pwr := by simp [scroll]
@[simp] theorem scroll_sw (s : State) (cls : Nat) (ev : ScrollEv) (site : Nat) (args : List Nat) (capo : Option Nat) : (scroll s cls ev site args capo).sw = s.sw := by simp [scroll]
@[simp] theorem scroll_resp (s : State) (cls : Nat) (ev : ScrollEv) (site : Nat) (args : List Nat) (capo : Option Nat) : (scroll s cls ev site args capo).resp = s.resp := by simp [scroll]
@[simp] theorem scroll_rq (s : State) (cls : Nat) (ev : ScrollEv) (site : Nat) (args : List Nat) (capo : Option Nat) : (scroll s cls ev site args capo).rq = s.rq := by simp [scroll]
@[simp] theorem scroll_mcasts (s : State) (cls : Nat) (ev : ScrollEv) (site : Nat) (args : List Nat) (capo : Option Nat) : (scroll s cls ev site args capo).mcasts = s.mcasts := by simp [scroll]
@[simp] theorem scroll_mem (s : State) (cls : Nat) (ev : ScrollEv) (site : Nat) (args : List Nat) (capo : Option Nat) : (scroll s cls ev site args capo).mem = s.mem := by simp [scroll]
@[simp] theorem scroll_scratch (s : State) (cls : Nat) (ev : ScrollEv) (site : Nat) (args : List Nat) (capo : Option Nat) : (scroll s cls ev site args capo).scratch = s.scratch := by simp [scroll]
@[simp] theorem scroll_scrPoison (s : State) (cls : Nat) (ev : ScrollEv) (site : Nat) (args : List Nat) (capo : Option Nat) : (scroll s cls ev site args capo).scrPoison = s.scrPoison := by simp [scroll]
@[simp] theorem scroll_scrLatent (s : State) (cls : Nat) (ev : ScrollEv) (site : Nat) (args : List Nat) (capo : Option Nat) : (scroll s cls ev site args capo).scrLatent = s.scrLatent := by simp [scroll]
@[simp] theorem scroll_accMib (s : State) (cls : Nat) (ev : ScrollEv) (site : Nat) (args : List Nat) (capo : Option Nat) : (scroll s cls ev site args capo).accMib = s.accMib := by simp [scroll]
@[simp] theorem scroll_ctl (s : State) (cls : Nat) (ev : ScrollEv) (site : Nat) (args : List Nat) (capo : Option Nat) : (scroll s cls ev site args capo).ctl = s.ctl := by simp [scroll]
@[simp] theorem scroll_wins (s : State) (cls : Nat) (ev : ScrollEv) (site : Nat) (args : List Nat) (capo : Option Nat) : (scroll s cls ev site args capo).wins = s.wins := by simp [scroll]
@[simp] theorem scroll_shards (s : State) (cls : Nat) (ev : ScrollEv) (site : Nat) (args : List Nat) (capo : Option Nat) : (scroll s cls ev site args capo).shards = s.shards := by simp [scroll]
@[simp] theorem scroll_decls (s : State) (cls : Nat) (ev : ScrollEv) (site : Nat) (args : List Nat) (capo : Option Nat) : (scroll s cls ev site args capo).decls = s.decls := by simp [scroll]
@[simp] theorem scroll_nextDecl (s : State) (cls : Nat) (ev : ScrollEv) (site : Nat) (args : List Nat) (capo : Option Nat) : (scroll s cls ev site args capo).nextDecl = s.nextDecl := by simp [scroll]
@[simp] theorem scroll_str (s : State) (cls : Nat) (ev : ScrollEv) (site : Nat) (args : List Nat) (capo : Option Nat) : (scroll s cls ev site args capo).str = s.str := by simp [scroll]
@[simp] theorem scroll_tiles (s : State) (cls : Nat) (ev : ScrollEv) (site : Nat) (args : List Nat) (capo : Option Nat) : (scroll s cls ev site args capo).tiles = s.tiles := by simp [scroll]
@[simp] theorem scroll_prog (s : State) (cls : Nat) (ev : ScrollEv) (site : Nat) (args : List Nat) (capo : Option Nat) : (scroll s cls ev site args capo).prog = s.prog := by simp [scroll]
@[simp] theorem scroll_links (s : State) (cls : Nat) (ev : ScrollEv) (site : Nat) (args : List Nat) (capo : Option Nat) : (scroll s cls ev site args capo).links = s.links := by simp [scroll]
@[simp] theorem scroll_opt (s : State) (cls : Nat) (ev : ScrollEv) (site : Nat) (args : List Nat) (capo : Option Nat) : (scroll s cls ev site args capo).opt = s.opt := by simp [scroll]
@[simp] theorem scroll_course (s : State) (cls : Nat) (ev : ScrollEv) (site : Nat) (args : List Nat) (capo : Option Nat) : (scroll s cls ev site args capo).course = s.course := by simp [scroll]
@[simp] theorem scroll_disc (s : State) (cls : Nat) (ev : ScrollEv) (site : Nat) (args : List Nat) (capo : Option Nat) : (scroll s cls ev site args capo).disc = s.disc := by simp [scroll]
@[simp] theorem scroll_elg (s : State) (cls : Nat) (ev : ScrollEv) (site : Nat) (args : List Nat) (capo : Option Nat) : (scroll s cls ev site args capo).elg = s.elg := by simp [scroll]
@[simp] theorem scroll_fuse (s : State) (cls : Nat) (ev : ScrollEv) (site : Nat) (args : List Nat) (capo : Option Nat) : (scroll s cls ev site args capo).fuse = s.fuse := by simp [scroll]
@[simp] theorem scroll_sec (s : State) (cls : Nat) (ev : ScrollEv) (site : Nat) (args : List Nat) (capo : Option Nat) : (scroll s cls ev site args capo).sec = s.sec := by simp [scroll]
@[simp] theorem scroll_brola (s : State) (cls : Nat) (ev : ScrollEv) (site : Nat) (args : List Nat) (capo : Option Nat) : (scroll s cls ev site args capo).brola = s.brola := by simp [scroll]

/-! alarm leaves everything else alone. -/
@[simp] theorem alarm_pending (s : State) (cls : Nat) (ev : ScrollEv) (site : Nat) (args : List Nat) : (alarm s cls ev site args).pending = s.pending := by simp [alarm]
@[simp] theorem alarm_free (s : State) (cls : Nat) (ev : ScrollEv) (site : Nat) (args : List Nat) : (alarm s cls ev site args).free = s.free := by simp [alarm]
@[simp] theorem alarm_clk (s : State) (cls : Nat) (ev : ScrollEv) (site : Nat) (args : List Nat) : (alarm s cls ev site args).clk = s.clk := by simp [alarm]
@[simp] theorem alarm_pwr (s : State) (cls : Nat) (ev : ScrollEv) (site : Nat) (args : List Nat) : (alarm s cls ev site args).pwr = s.pwr := by simp [alarm]
@[simp] theorem alarm_sw (s : State) (cls : Nat) (ev : ScrollEv) (site : Nat) (args : List Nat) : (alarm s cls ev site args).sw = s.sw := by simp [alarm]
@[simp] theorem alarm_resp (s : State) (cls : Nat) (ev : ScrollEv) (site : Nat) (args : List Nat) : (alarm s cls ev site args).resp = s.resp := by simp [alarm]
@[simp] theorem alarm_rq (s : State) (cls : Nat) (ev : ScrollEv) (site : Nat) (args : List Nat) : (alarm s cls ev site args).rq = s.rq := by simp [alarm]
@[simp] theorem alarm_mcasts (s : State) (cls : Nat) (ev : ScrollEv) (site : Nat) (args : List Nat) : (alarm s cls ev site args).mcasts = s.mcasts := by simp [alarm]
@[simp] theorem alarm_mem (s : State) (cls : Nat) (ev : ScrollEv) (site : Nat) (args : List Nat) : (alarm s cls ev site args).mem = s.mem := by simp [alarm]
@[simp] theorem alarm_scratch (s : State) (cls : Nat) (ev : ScrollEv) (site : Nat) (args : List Nat) : (alarm s cls ev site args).scratch = s.scratch := by simp [alarm]
@[simp] theorem alarm_scrPoison (s : State) (cls : Nat) (ev : ScrollEv) (site : Nat) (args : List Nat) : (alarm s cls ev site args).scrPoison = s.scrPoison := by simp [alarm]
@[simp] theorem alarm_scrLatent (s : State) (cls : Nat) (ev : ScrollEv) (site : Nat) (args : List Nat) : (alarm s cls ev site args).scrLatent = s.scrLatent := by simp [alarm]
@[simp] theorem alarm_accMib (s : State) (cls : Nat) (ev : ScrollEv) (site : Nat) (args : List Nat) : (alarm s cls ev site args).accMib = s.accMib := by simp [alarm]
@[simp] theorem alarm_ctl (s : State) (cls : Nat) (ev : ScrollEv) (site : Nat) (args : List Nat) : (alarm s cls ev site args).ctl = s.ctl := by simp [alarm]
@[simp] theorem alarm_wins (s : State) (cls : Nat) (ev : ScrollEv) (site : Nat) (args : List Nat) : (alarm s cls ev site args).wins = s.wins := by simp [alarm]
@[simp] theorem alarm_shards (s : State) (cls : Nat) (ev : ScrollEv) (site : Nat) (args : List Nat) : (alarm s cls ev site args).shards = s.shards := by simp [alarm]
@[simp] theorem alarm_decls (s : State) (cls : Nat) (ev : ScrollEv) (site : Nat) (args : List Nat) : (alarm s cls ev site args).decls = s.decls := by simp [alarm]
@[simp] theorem alarm_nextDecl (s : State) (cls : Nat) (ev : ScrollEv) (site : Nat) (args : List Nat) : (alarm s cls ev site args).nextDecl = s.nextDecl := by simp [alarm]
@[simp] theorem alarm_str (s : State) (cls : Nat) (ev : ScrollEv) (site : Nat) (args : List Nat) : (alarm s cls ev site args).str = s.str := by simp [alarm]
@[simp] theorem alarm_tiles (s : State) (cls : Nat) (ev : ScrollEv) (site : Nat) (args : List Nat) : (alarm s cls ev site args).tiles = s.tiles := by simp [alarm]
@[simp] theorem alarm_prog (s : State) (cls : Nat) (ev : ScrollEv) (site : Nat) (args : List Nat) : (alarm s cls ev site args).prog = s.prog := by simp [alarm]
@[simp] theorem alarm_links (s : State) (cls : Nat) (ev : ScrollEv) (site : Nat) (args : List Nat) : (alarm s cls ev site args).links = s.links := by simp [alarm]
@[simp] theorem alarm_opt (s : State) (cls : Nat) (ev : ScrollEv) (site : Nat) (args : List Nat) : (alarm s cls ev site args).opt = s.opt := by simp [alarm]
@[simp] theorem alarm_course (s : State) (cls : Nat) (ev : ScrollEv) (site : Nat) (args : List Nat) : (alarm s cls ev site args).course = s.course := by simp [alarm]
@[simp] theorem alarm_disc (s : State) (cls : Nat) (ev : ScrollEv) (site : Nat) (args : List Nat) : (alarm s cls ev site args).disc = s.disc := by simp [alarm]
@[simp] theorem alarm_elg (s : State) (cls : Nat) (ev : ScrollEv) (site : Nat) (args : List Nat) : (alarm s cls ev site args).elg = s.elg := by simp [alarm]
@[simp] theorem alarm_fuse (s : State) (cls : Nat) (ev : ScrollEv) (site : Nat) (args : List Nat) : (alarm s cls ev site args).fuse = s.fuse := by simp [alarm]
@[simp] theorem alarm_sec (s : State) (cls : Nat) (ev : ScrollEv) (site : Nat) (args : List Nat) : (alarm s cls ev site args).sec = s.sec := by simp [alarm]
@[simp] theorem alarm_brola (s : State) (cls : Nat) (ev : ScrollEv) (site : Nat) (args : List Nat) : (alarm s cls ev site args).brola = s.brola := by simp [alarm]

/-! raiseRec leaves everything else alone. -/
@[simp] theorem raiseRec_pending (s : State) (e : ExcRec) : (raiseRec s e).pending = s.pending := by unfold raiseRec; (repeat' split) <;> rfl
@[simp] theorem raiseRec_out (s : State) (e : ExcRec) : (raiseRec s e).out = s.out := by unfold raiseRec; (repeat' split) <;> rfl
@[simp] theorem raiseRec_free (s : State) (e : ExcRec) : (raiseRec s e).free = s.free := by unfold raiseRec; (repeat' split) <;> rfl
@[simp] theorem raiseRec_ctr (s : State) (e : ExcRec) : (raiseRec s e).ctr = s.ctr := by unfold raiseRec; (repeat' split) <;> rfl
@[simp] theorem raiseRec_clk (s : State) (e : ExcRec) : (raiseRec s e).clk = s.clk := by unfold raiseRec; (repeat' split) <;> rfl
@[simp] theorem raiseRec_pwr (s : State) (e : ExcRec) : (raiseRec s e).pwr = s.pwr := by unfold raiseRec; (repeat' split) <;> rfl
@[simp] theorem raiseRec_mc (s : State) (e : ExcRec) : (raiseRec s e).mc = s.mc := by unfold raiseRec; (repeat' split) <;> rfl
@[simp] theorem raiseRec_sw (s : State) (e : ExcRec) : (raiseRec s e).sw = s.sw := by unfold raiseRec; (repeat' split) <;> rfl
@[simp] theorem raiseRec_resp (s : State) (e : ExcRec) : (raiseRec s e).resp = s.resp := by unfold raiseRec; (repeat' split) <;> rfl
@[simp] theorem raiseRec_rq (s : State) (e : ExcRec) : (raiseRec s e).rq = s.rq := by unfold raiseRec; (repeat' split) <;> rfl
@[simp] theorem raiseRec_mcasts (s : State) (e : ExcRec) : (raiseRec s e).mcasts = s.mcasts := by unfold raiseRec; (repeat' split) <;> rfl
@[simp] theorem raiseRec_mem (s : State) (e : ExcRec) : (raiseRec s e).mem = s.mem := by unfold raiseRec; (repeat' split) <;> rfl
@[simp] theorem raiseRec_scratch (s : State) (e : ExcRec) : (raiseRec s e).scratch = s.scratch := by unfold raiseRec; (repeat' split) <;> rfl
@[simp] theorem raiseRec_scrPoison (s : State) (e : ExcRec) : (raiseRec s e).scrPoison = s.scrPoison := by unfold raiseRec; (repeat' split) <;> rfl
@[simp] theorem raiseRec_scrLatent (s : State) (e : ExcRec) : (raiseRec s e).scrLatent = s.scrLatent := by unfold raiseRec; (repeat' split) <;> rfl
@[simp] theorem raiseRec_accMib (s : State) (e : ExcRec) : (raiseRec s e).accMib = s.accMib := by unfold raiseRec; (repeat' split) <;> rfl
@[simp] theorem raiseRec_ctl (s : State) (e : ExcRec) : (raiseRec s e).ctl = s.ctl := by unfold raiseRec; (repeat' split) <;> rfl
@[simp] theorem raiseRec_wins (s : State) (e : ExcRec) : (raiseRec s e).wins = s.wins := by unfold raiseRec; (repeat' split) <;> rfl
@[simp] theorem raiseRec_shards (s : State) (e : ExcRec) : (raiseRec s e).shards = s.shards := by unfold raiseRec; (repeat' split) <;> rfl
@[simp] theorem raiseRec_decls (s : State) (e : ExcRec) : (raiseRec s e).decls = s.decls := by unfold raiseRec; (repeat' split) <;> rfl
@[simp] theorem raiseRec_nextDecl (s : State) (e : ExcRec) : (raiseRec s e).nextDecl = s.nextDecl := by unfold raiseRec; (repeat' split) <;> rfl
@[simp] theorem raiseRec_prog (s : State) (e : ExcRec) : (raiseRec s e).prog = s.prog := by unfold raiseRec; (repeat' split) <;> rfl
@[simp] theorem raiseRec_links (s : State) (e : ExcRec) : (raiseRec s e).links = s.links := by unfold raiseRec; (repeat' split) <;> rfl
@[simp] theorem raiseRec_opt (s : State) (e : ExcRec) : (raiseRec s e).opt = s.opt := by unfold raiseRec; (repeat' split) <;> rfl
@[simp] theorem raiseRec_course (s : State) (e : ExcRec) : (raiseRec s e).course = s.course := by unfold raiseRec; (repeat' split) <;> rfl
@[simp] theorem raiseRec_disc (s : State) (e : ExcRec) : (raiseRec s e).disc = s.disc := by unfold raiseRec; (repeat' split) <;> rfl
@[simp] theorem raiseRec_elg (s : State) (e : ExcRec) : (raiseRec s e).elg = s.elg := by unfold raiseRec; (repeat' split) <;> rfl
@[simp] theorem raiseRec_fuse (s : State) (e : ExcRec) : (raiseRec s e).fuse = s.fuse := by unfold raiseRec; (repeat' split) <;> rfl
@[simp] theorem raiseRec_sec (s : State) (e : ExcRec) : (raiseRec s e).sec = s.sec := by unfold raiseRec; (repeat' split) <;> rfl
@[simp] theorem raiseRec_tel (s : State) (e : ExcRec) : (raiseRec s e).tel = s.tel := by unfold raiseRec; (repeat' split) <;> rfl
@[simp] theorem raiseRec_brola (s : State) (e : ExcRec) : (raiseRec s e).brola = s.brola := by unfold raiseRec; (repeat' split) <;> rfl

/-! raiseExc leaves everything else alone. -/
@[simp] theorem raiseExc_pending (s : State) (cause tile part : Nat) (errAddr : W64) (detail : Nat) (status : Nat) : (raiseExc s cause tile part errAddr detail status).pending = s.pending := by simp [raiseExc]
@[simp] theorem raiseExc_out (s : State) (cause tile part : Nat) (errAddr : W64) (detail : Nat) (status : Nat) : (raiseExc s cause tile part errAddr detail status).out = s.out := by simp [raiseExc]
@[simp] theorem raiseExc_free (s : State) (cause tile part : Nat) (errAddr : W64) (detail : Nat) (status : Nat) : (raiseExc s cause tile part errAddr detail status).free = s.free := by simp [raiseExc]
@[simp] theorem raiseExc_ctr (s : State) (cause tile part : Nat) (errAddr : W64) (detail : Nat) (status : Nat) : (raiseExc s cause tile part errAddr detail status).ctr = s.ctr := by simp [raiseExc]
@[simp] theorem raiseExc_clk (s : State) (cause tile part : Nat) (errAddr : W64) (detail : Nat) (status : Nat) : (raiseExc s cause tile part errAddr detail status).clk = s.clk := by simp [raiseExc]
@[simp] theorem raiseExc_pwr (s : State) (cause tile part : Nat) (errAddr : W64) (detail : Nat) (status : Nat) : (raiseExc s cause tile part errAddr detail status).pwr = s.pwr := by simp [raiseExc]
@[simp] theorem raiseExc_mc (s : State) (cause tile part : Nat) (errAddr : W64) (detail : Nat) (status : Nat) : (raiseExc s cause tile part errAddr detail status).mc = s.mc := by simp [raiseExc]
@[simp] theorem raiseExc_sw (s : State) (cause tile part : Nat) (errAddr : W64) (detail : Nat) (status : Nat) : (raiseExc s cause tile part errAddr detail status).sw = s.sw := by simp [raiseExc]
@[simp] theorem raiseExc_resp (s : State) (cause tile part : Nat) (errAddr : W64) (detail : Nat) (status : Nat) : (raiseExc s cause tile part errAddr detail status).resp = s.resp := by simp [raiseExc]
@[simp] theorem raiseExc_rq (s : State) (cause tile part : Nat) (errAddr : W64) (detail : Nat) (status : Nat) : (raiseExc s cause tile part errAddr detail status).rq = s.rq := by simp [raiseExc]
@[simp] theorem raiseExc_mcasts (s : State) (cause tile part : Nat) (errAddr : W64) (detail : Nat) (status : Nat) : (raiseExc s cause tile part errAddr detail status).mcasts = s.mcasts := by simp [raiseExc]
@[simp] theorem raiseExc_mem (s : State) (cause tile part : Nat) (errAddr : W64) (detail : Nat) (status : Nat) : (raiseExc s cause tile part errAddr detail status).mem = s.mem := by simp [raiseExc]
@[simp] theorem raiseExc_scratch (s : State) (cause tile part : Nat) (errAddr : W64) (detail : Nat) (status : Nat) : (raiseExc s cause tile part errAddr detail status).scratch = s.scratch := by simp [raiseExc]
@[simp] theorem raiseExc_scrPoison (s : State) (cause tile part : Nat) (errAddr : W64) (detail : Nat) (status : Nat) : (raiseExc s cause tile part errAddr detail status).scrPoison = s.scrPoison := by simp [raiseExc]
@[simp] theorem raiseExc_scrLatent (s : State) (cause tile part : Nat) (errAddr : W64) (detail : Nat) (status : Nat) : (raiseExc s cause tile part errAddr detail status).scrLatent = s.scrLatent := by simp [raiseExc]
@[simp] theorem raiseExc_accMib (s : State) (cause tile part : Nat) (errAddr : W64) (detail : Nat) (status : Nat) : (raiseExc s cause tile part errAddr detail status).accMib = s.accMib := by simp [raiseExc]
@[simp] theorem raiseExc_ctl (s : State) (cause tile part : Nat) (errAddr : W64) (detail : Nat) (status : Nat) : (raiseExc s cause tile part errAddr detail status).ctl = s.ctl := by simp [raiseExc]
@[simp] theorem raiseExc_wins (s : State) (cause tile part : Nat) (errAddr : W64) (detail : Nat) (status : Nat) : (raiseExc s cause tile part errAddr detail status).wins = s.wins := by simp [raiseExc]
@[simp] theorem raiseExc_shards (s : State) (cause tile part : Nat) (errAddr : W64) (detail : Nat) (status : Nat) : (raiseExc s cause tile part errAddr detail status).shards = s.shards := by simp [raiseExc]
@[simp] theorem raiseExc_decls (s : State) (cause tile part : Nat) (errAddr : W64) (detail : Nat) (status : Nat) : (raiseExc s cause tile part errAddr detail status).decls = s.decls := by simp [raiseExc]
@[simp] theorem raiseExc_nextDecl (s : State) (cause tile part : Nat) (errAddr : W64) (detail : Nat) (status : Nat) : (raiseExc s cause tile part errAddr detail status).nextDecl = s.nextDecl := by simp [raiseExc]
@[simp] theorem raiseExc_prog (s : State) (cause tile part : Nat) (errAddr : W64) (detail : Nat) (status : Nat) : (raiseExc s cause tile part errAddr detail status).prog = s.prog := by simp [raiseExc]
@[simp] theorem raiseExc_links (s : State) (cause tile part : Nat) (errAddr : W64) (detail : Nat) (status : Nat) : (raiseExc s cause tile part errAddr detail status).links = s.links := by simp [raiseExc]
@[simp] theorem raiseExc_opt (s : State) (cause tile part : Nat) (errAddr : W64) (detail : Nat) (status : Nat) : (raiseExc s cause tile part errAddr detail status).opt = s.opt := by simp [raiseExc]
@[simp] theorem raiseExc_course (s : State) (cause tile part : Nat) (errAddr : W64) (detail : Nat) (status : Nat) : (raiseExc s cause tile part errAddr detail status).course = s.course := by simp [raiseExc]
@[simp] theorem raiseExc_disc (s : State) (cause tile part : Nat) (errAddr : W64) (detail : Nat) (status : Nat) : (raiseExc s cause tile part errAddr detail status).disc = s.disc := by simp [raiseExc]
@[simp] theorem raiseExc_elg (s : State) (cause tile part : Nat) (errAddr : W64) (detail : Nat) (status : Nat) : (raiseExc s cause tile part errAddr detail status).elg = s.elg := by simp [raiseExc]
@[simp] theorem raiseExc_fuse (s : State) (cause tile part : Nat) (errAddr : W64) (detail : Nat) (status : Nat) : (raiseExc s cause tile part errAddr detail status).fuse = s.fuse := by simp [raiseExc]
@[simp] theorem raiseExc_sec (s : State) (cause tile part : Nat) (errAddr : W64) (detail : Nat) (status : Nat) : (raiseExc s cause tile part errAddr detail status).sec = s.sec := by simp [raiseExc]
@[simp] theorem raiseExc_tel (s : State) (cause tile part : Nat) (errAddr : W64) (detail : Nat) (status : Nat) : (raiseExc s cause tile part errAddr detail status).tel = s.tel := by simp [raiseExc]
@[simp] theorem raiseExc_brola (s : State) (cause tile part : Nat) (errAddr : W64) (detail : Nat) (status : Nat) : (raiseExc s cause tile part errAddr detail status).brola = s.brola := by simp [raiseExc]

/-! headExc leaves everything else alone. -/
@[simp] theorem headExc_pending (s : State) (cause : Nat) (detail : Nat) : (headExc s cause detail).pending = s.pending := by simp [headExc]
@[simp] theorem headExc_out (s : State) (cause : Nat) (detail : Nat) : (headExc s cause detail).out = s.out := by simp [headExc]
@[simp] theorem headExc_free (s : State) (cause : Nat) (detail : Nat) : (headExc s cause detail).free = s.free := by simp [headExc]
@[simp] theorem headExc_ctr (s : State) (cause : Nat) (detail : Nat) : (headExc s cause detail).ctr = s.ctr := by simp [headExc]
@[simp] theorem headExc_clk (s : State) (cause : Nat) (detail : Nat) : (headExc s cause detail).clk = s.clk := by simp [headExc]
@[simp] theorem headExc_pwr (s : State) (cause : Nat) (detail : Nat) : (headExc s cause detail).pwr = s.pwr := by simp [headExc]
@[simp] theorem headExc_mc (s : State) (cause : Nat) (detail : Nat) : (headExc s cause detail).mc = s.mc := by simp [headExc]
@[simp] theorem headExc_sw (s : State) (cause : Nat) (detail : Nat) : (headExc s cause detail).sw = s.sw := by simp [headExc]
@[simp] theorem headExc_resp (s : State) (cause : Nat) (detail : Nat) : (headExc s cause detail).resp = s.resp := by simp [headExc]
@[simp] theorem headExc_rq (s : State) (cause : Nat) (detail : Nat) : (headExc s cause detail).rq = s.rq := by simp [headExc]
@[simp] theorem headExc_mcasts (s : State) (cause : Nat) (detail : Nat) : (headExc s cause detail).mcasts = s.mcasts := by simp [headExc]
@[simp] theorem headExc_mem (s : State) (cause : Nat) (detail : Nat) : (headExc s cause detail).mem = s.mem := by simp [headExc]
@[simp] theorem headExc_scratch (s : State) (cause : Nat) (detail : Nat) : (headExc s cause detail).scratch = s.scratch := by simp [headExc]
@[simp] theorem headExc_scrPoison (s : State) (cause : Nat) (detail : Nat) : (headExc s cause detail).scrPoison = s.scrPoison := by simp [headExc]
@[simp] theorem headExc_scrLatent (s : State) (cause : Nat) (detail : Nat) : (headExc s cause detail).scrLatent = s.scrLatent := by simp [headExc]
@[simp] theorem headExc_accMib (s : State) (cause : Nat) (detail : Nat) : (headExc s cause detail).accMib = s.accMib := by simp [headExc]
@[simp] theorem headExc_ctl (s : State) (cause : Nat) (detail : Nat) : (headExc s cause detail).ctl = s.ctl := by simp [headExc]
@[simp] theorem headExc_wins (s : State) (cause : Nat) (detail : Nat) : (headExc s cause detail).wins = s.wins := by simp [headExc]
@[simp] theorem headExc_shards (s : State) (cause : Nat) (detail : Nat) : (headExc s cause detail).shards = s.shards := by simp [headExc]
@[simp] theorem headExc_decls (s : State) (cause : Nat) (detail : Nat) : (headExc s cause detail).decls = s.decls := by simp [headExc]
@[simp] theorem headExc_nextDecl (s : State) (cause : Nat) (detail : Nat) : (headExc s cause detail).nextDecl = s.nextDecl := by simp [headExc]
@[simp] theorem headExc_prog (s : State) (cause : Nat) (detail : Nat) : (headExc s cause detail).prog = s.prog := by simp [headExc]
@[simp] theorem headExc_links (s : State) (cause : Nat) (detail : Nat) : (headExc s cause detail).links = s.links := by simp [headExc]
@[simp] theorem headExc_opt (s : State) (cause : Nat) (detail : Nat) : (headExc s cause detail).opt = s.opt := by simp [headExc]
@[simp] theorem headExc_course (s : State) (cause : Nat) (detail : Nat) : (headExc s cause detail).course = s.course := by simp [headExc]
@[simp] theorem headExc_disc (s : State) (cause : Nat) (detail : Nat) : (headExc s cause detail).disc = s.disc := by simp [headExc]
@[simp] theorem headExc_elg (s : State) (cause : Nat) (detail : Nat) : (headExc s cause detail).elg = s.elg := by simp [headExc]
@[simp] theorem headExc_fuse (s : State) (cause : Nat) (detail : Nat) : (headExc s cause detail).fuse = s.fuse := by simp [headExc]
@[simp] theorem headExc_sec (s : State) (cause : Nat) (detail : Nat) : (headExc s cause detail).sec = s.sec := by simp [headExc]
@[simp] theorem headExc_tel (s : State) (cause : Nat) (detail : Nat) : (headExc s cause detail).tel = s.tel := by simp [headExc]
@[simp] theorem headExc_brola (s : State) (cause : Nat) (detail : Nat) : (headExc s cause detail).brola = s.brola := by simp [headExc]

end Sys2Proof.Machine
end

