-- ==== Sys2Proof/Laws/Reads.lean ====
section
/-! SUPPORT. What reading a part of the state gives after that part, or another, is written. -/

namespace Sys2Proof.Machine

open Sys2Proof

@[simp] theorem tileOf_setTile_self (s : State) (n : Nat) (t : Tile) : tileOf (setTile s n t) n = t := by simp [tileOf, setTile]

theorem tileOf_setTile (s : State) (n m : Nat) (t : Tile) : tileOf (setTile s n t) m = if n = m then t else tileOf s m := by
  simp only [tileOf, setTile, TMap.get_set]

@[simp] theorem coreOf_setCore_self (s : State) (t c : Nat) (x : Core) : coreOf (setCore s t c x) t c = x := by simp [coreOf, setCore]

theorem coreOf_setCore (s : State) (t c t' c' : Nat) (x : Core) :
    coreOf (setCore s t c x) t' c' = if t = t' ∧ c = c' then x else coreOf s t' c' := by
  simp only [coreOf, setCore, tileOf_setTile]
  by_cases h : t = t'
  · subst h; simp [TMap.get_set]
  · simp [h]

theorem tileOf_setCore (s : State) (t c n : Nat) (x : Core) :
    tileOf (setCore s t c x) n = { tileOf s n with cores := (tileOf (setCore s t c x) n).cores } := by
  simp only [setCore, tileOf_setTile]
  split
  · rename_i h; subst h; rfl
  · rfl

theorem xreg_setX (x : Core) (rd r : Nat) (v : W64) :
    xreg (setX x rd v) r = if r % 32 = rd % 32 ∧ rd % 32 ≠ 0 then v else xreg x r := by
  simp only [xreg, setX]
  by_cases h0 : r % 32 = 0
  · simp only [h0, if_true]; rw [if_neg (by omega)]
  · by_cases h1 : rd % 32 = 0
    · simp [h1]
    · simp only [h0, h1, if_false, TMap.get_set]
      by_cases h2 : rd % 32 = r % 32
      · simp [h2]; intro h; exact absurd h h0
      · rw [if_neg h2, if_neg (by tauto)]

@[simp] theorem setX_pc (x : Core) (rd : Nat) (v : W64) : (setX x rd v).pc = x.pc := by unfold setX; split <;> rfl
@[simp] theorem setX_cycles (x : Core) (rd : Nat) (v : W64) : (setX x rd v).cycles = x.cycles := by unfold setX; split <;> rfl
@[simp] theorem setX_running (x : Core) (rd : Nat) (v : W64) : (setX x rd v).running = x.running := by unfold setX; split <;> rfl
@[simp] theorem setX_waiting (x : Core) (rd : Nat) (v : W64) : (setX x rd v).waiting = x.waiting := by unfold setX; split <;> rfl
@[simp] theorem setX_xfers (x : Core) (rd : Nat) (v : W64) : (setX x rd v).xfers = x.xfers := by unfold setX; split <;> rfl

@[simp] theorem linkOf_setLink_self (s : State) (x : Nat) (l : Link) : linkOf (setLink s x l) x = l := by simp [linkOf, setLink]
theorem linkOf_setLink (s : State) (x y : Nat) (l : Link) : linkOf (setLink s x l) y = if x = y then l else linkOf s y := by
  simp only [linkOf, setLink, TMap.get_set]

@[simp] theorem pegOf_setPeg_self (s : State) (k : RingKey) (p : Peg) : pegOf (setPeg s k p) k = p := by simp [pegOf, setPeg]
theorem pegOf_setPeg (s : State) (k j : RingKey) (p : Peg) : pegOf (setPeg s k p) j = if k = j then p else pegOf s j := by
  simp only [pegOf, setPeg, TMap.get_set]

@[simp] theorem waitOf_setWait_self (s : State) (we : Nat) (w : WaitEntry) : waitOf (setWait s we w) we = w := by simp [waitOf, setWait, setStr]
theorem waitOf_setWait (s : State) (we e : Nat) (w : WaitEntry) : waitOf (setWait s we w) e = if we = e then w else waitOf s e := by
  simp only [waitOf, setWait, setStr, TMap.get_set]

@[simp] theorem setStr_str (s : State) (x : Stream) : (setStr s x).str = x := rfl
@[simp] theorem setDisc_disc (s : State) (d : Disc) : (setDisc s d).disc = d := rfl

@[simp] theorem arbOf_setArb_self (s : State) (sx port : Nat) (a : Arb) : arbOf (setArb s sx port a) sx port = a := by simp [arbOf, setArb]
@[simp] theorem laserOf_setLaser_self (s : State) (lm : Nat) (l : Laser) : laserOf (setLaser s lm l) lm = l := by simp [laserOf, setLaser]
theorem laserOf_setLaser (s : State) (lm k : Nat) (l : Laser) : laserOf (setLaser s lm l) k = if lm = k then l else laserOf s k := by
  simp only [laserOf, setLaser, TMap.get_set]

@[simp] theorem sessOf_setSess_self (s : State) (c : Nat) (x : Sess) : sessOf (setSess s c x) c = x := by simp [sessOf, setSess]
theorem sessOf_setSess (s : State) (c d : Nat) (x : Sess) : sessOf (setSess s c x) d = if c = d then x else sessOf s d := by
  simp only [sessOf, setSess, TMap.get_set]

/-- What one instruction of a core does: nothing where the core does not run, waits or has spent its cycles; a fault where the PC is
beyond local store; else its effect, on the core with the cycle counted and the PC at the next word. -/
theorem coreStep_of (s : State) (t c h : Nat) (f : State → Core → State) (hr : (coreOf s t c).running = some h)
    (hw : (coreOf s t c).waiting = false) (hc : (coreOf s t c).cycles < (handlerOf s h).maxcyc) (hp : (coreOf s t c).pc + 4 ≤ localSize) :
    coreStep s t c f = f s { coreOf s t c with cycles := (coreOf s t c).cycles + 1, pc := (coreOf s t c).pc + 4 } := by
  simp only [coreStep, hr, hw, Bool.false_or]
  rw [if_neg (by simpa using hc), if_neg (by omega)]

end Sys2Proof.Machine
end

