-- ==== Sys2Proof/Tests/Slice0.lean ====
section
/-! SUPPORT. Small checks of the model on single commands: witnesses that the hypotheses of the statements can be met, values at the
edges of the ranges that the manual gives, and commands that the well-formedness checks refuse. -/

section

open Sys2Proof Sys2Proof.Machine

-- One theorem at a time: each waits for the kernel, and waiting threads take memory.
set_option Elab.async false

/-- The state that a command answers. -/
def after (i : Instr) (s : State) : State :=
  match exec i s with
  | .next u => u
  | _ => s

/-! Well-formedness: for each check a command that it refuses, beside one that it takes. -/

def refusesAll (l : List Instr) : Bool := l.all fun i => !i.wf
def takesAll (l : List Instr) : Bool := l.all fun i => i.wf

theorem test_wf_parts :
    takesAll [.lanePllLockLoss 4 37, .arbiterDecision 3 143 false [] [], .adjMonitorSample [{ link := 37, dT := 0, dV := 0 }], .pdreq 35 true, .railFault 7, .portReset 7, .packetAdmit 3 0, .ddrArbiterDecision 1 5 false none none false] = true
      ∧ refusesAll [.lanePllLockLoss 5 0, .lanePllLockLoss 2 2, .adjMonitorSample [{ link := 38, dT := 0, dV := 0 }], .pdFault 36, .pdreq 36 true, .railFault 8, .portReset 8, .cxlEnumerate 8 1 true, .cxlLinkDown 8,
          .packetAdmit 4 0, .arbiterDecision 4 0 false [] [], .arbiterDecision 0 144 false [] [], .ddrArbiterDecision 2 0 false none none false,
          .ddrArbiterDecision 0 6 false none none false, .rtout 8, .rtoutProceed 8, .rtin 8, .inServiceTestEnd 32 none, .ageingMonitorRead 32 0 0, .rcacheFetchComplete 4 0 0,
          .rcacheFetchComplete 0 512 0, .pageScrub 18 0, .backingReturn 18, .snapshotCopy 32, .laserMonitor 16 0 0 0 false, .laserMonitor 0 18 0 0 false, .laserModuleRemove 16,
          .laserModuleInsert 16 18 true] = true := by decide +kernel

theorem test_wf_links :
    takesAll [.beacon 575 false 0 0 0, .creditSend 575, .pcredit 575 511 false 0, .bulkClose 511 7 false, .slotReceive 575 {}, .fecUncorrLimit 607 3 [], .stageComplete 607 [{ marks := [[3]] }] [], .laneBerCheck 543 3 ⟨0, 1⟩ [0], .laneMoveNoAnswer 543] = true
      ∧ refusesAll [.beacon 576 false 0 0 0, .beacon 0 false (2 ^ 64) 0 0, .beacon 0 false 0 (2 ^ 64) 0, .beacon 0 false 0 0 (2 ^ 64), .creditSend 576, .credit 576 {} none, .slotAbort 576 false,
          .replayTimerExpiry 576, .train 576 {}, .eiEntry 576, .eiEnter 576, .eiExit 576, .stageComplete 608 [] [], .stageComplete 0 [{ marks := [[4]] }] [], .stageComplete 0 [] [⟨4, 0, 0, []⟩], .fecUncorrLimit 0 0 [⟨0, 0, 0, [4]⟩], .stageLimit 608 false, .lightLoss 608, .silentTimeout 576,
          .bringupRestart 608, .alignmentMarkerLoss 608, .pcredit 576 0 false 0, .pcredit 0 512 false 0, .bulkClose 447 0 false, .bulkClose 512 0 false, .bulkClose 448 8 false, .timeStep 576 0 0,
          .slotReceive 576 {}, .slotReceive 0 { lseq := 2 ^ 14 }, .slotReceive 0 { ack := 2 ^ 14 }, .slotReceive 0 { payload := 2 ^ 512 }, .slotReceive 0 { blocks := [⟨4, 0, 0, []⟩] }, .slotReceive 0 { blocks := [⟨0, 0, 0, [4]⟩] }, .replayReq 576 0, .replayReq 0 (2 ^ 14), .fecUncorrLimit 608 0 [], .fecUncorrLimit 0 4 [],
          .laneBerCheck 544 0 ⟨0, 1⟩ [], .laneBerWindow 0 4 0 1, .laneMove { str := 544 }, .laneGrant { q := 4 }, .laneRefuse { spare := 15 }, .laneDone { spare := 18 }, .laneMoveNoAnswer 544,
          .laneMoveAbandon 544, .pegLoop 8 0 true 0 0 true true, .pegLoop 0 18 true 0 0 true true, .pegLoop 0 0 true 18 0 true true, .probeDwell 8 0 0 0 0 [] 0, .probeDwell 0 18 0 0 0 [] 0,
          .probeDwell 0 0 18 0 0 [] 0, .probeDwell 0 0 0 18 0 [] 0] = true := by decide +kernel

theorem test_wf_requests :
    let ld := fun r : Req => Instr.ld r .self
    takesAll [ld { seq := 2 ^ 24 - 1, attr := 2047, len := 4096 }, .st { len := 2, data := [1, 2] } (.string 511), .cmp .kojor 511 {} 0] = true
      ∧ refusesAll [ld { op := 256 }, ld { tc := 8 }, ld { src := 2 ^ 16 }, ld { capo := 512 }, ld { hops := 16 }, ld { seq := 2 ^ 24 }, ld { epoch := 2 ^ 16 }, ld { expect := 2 ^ 16 }, ld { len := 4097 },
          ld { attr := 2048 }, ld { group := 4096 }, .st { len := 2, data := [1] } .self, .ld {} (.string 512), .ld {} (.soundpost 8), .ld {} (.host 8), .ld {} (.brola 32), .aadd { op := 256 } .self,
          .packetArrival 4 0 (.req {}), .packetArrival 0 136 (.req {}), .packetArrival 0 0 (.req { tc := 8 }), .packetArrival 0 0 (.cmp { dst := 2 ^ 16 } 0), .portRequest { req := { tc := 8 } }] = true := by decide +kernel

theorem test_wf_completions :
    let c := fun c : Cmp => Instr.cmp .kojor 0 c 0
    refusesAll [.cmp .kojor 512 {} 0, c { tc := 8 }, c { src := 2 ^ 16 }, c { dst := 2 ^ 16 }, c { seq := 2 ^ 24 }, c { epoch := 2 ^ 16 }, c { origOp := 256 }, c { len := 4097 }, c { capo := 512 },
        c { mask := 2 ^ 32 }, c { delivered := 33 }, c { retryAfter := 2 ^ 16 }, c { len := 2, data := [1] }, .invDrainComplete (2 ^ 16) 0 0, .pfaComplete 0 8 0, .finalHoldTimeout .kojor 0 0 (2 ^ 24),
        .dupEntryRelease .kojor 0 8 0, .countSlotRelease .kojor (2 ^ 16) 0, .countSlotRelease .kojor 0 (2 ^ 16), .accessWindowDefine 64 {}, .accessWindowDefine 0 { base := 255 },
        .accessWindowDefine 0 { len := 255 }, .attach 608 0 0 {}, .attach 0 0 512 {}, .attach 0 0 0 { spad := 2 ^ 16 }, .assign 32 {}, .assign 0 { capo := 512 }, .steer 32 0 false, .restore 0 16 false,
        .bridgeHello 447 {}, .bridgeHello 544 {}, .snap 32 0] = true := by decide +kernel

theorem test_wf_collectives :
    let a := Instr.allreduce
    takesAll [a { fmt := 15, rop := 3, group := 4095, ctr := 65535, root := 32767 }, .groupReset 4095 65535, .windowFinalised 8191, .barrierTimeout 511 4095] = true
      ∧ refusesAll [a { fmt := 16 }, a { rop := 4 }, a { group := 4096 }, a { count := 2 ^ 32 }, a { srcBuf := 2 ^ 64 }, a { ctr := 2 ^ 16 }, a { root := 2 ^ 15 }, a { mrec := 2 ^ 64 }, .gshard { fmt := 16 },
          .groupReset 4096 0, .groupReset 0 65536, .windowFinalised 8192, .windowDeadline 8192, .windowRecover 8192, .barrierTimeout 512 0, .barrierRecover 0 4096] = true := by decide +kernel

theorem test_wf_stream :
    takesAll [.arm 255, .br 65535, .loop 7 65535, .endl 7 65535, .step 7 { grp := 7, me := 31, areg := 15, fmt := 7 }, .get 7 { eng := 15, len := 4096, ec := 15 }, .seta 7 15 (2 ^ 24 - 1)] = true
      ∧ refusesAll [.arm 256, .wait 256, .waitRelease 256 0, .bindComplete 1 [], .waitTimeout 256, .wrst 256, .br 65536, .call 65536, .brc 256 0, .brnc 0 65536, .loop 8 0, .loop 0 65536, .endl 8 0, .endl 0 65536, .nop 8,
          .vnop 8, .mnop 8, .snop 8, .handlerStart 8, .step 8 {}, .step 0 { grp := 8 }, .ldw 0 { me := 32 }, .zacc 0 { areg := 16 }, .stacc 0 { fmt := 8 }, .vld 8 {}, .vld 0 { vd := 16 }, .vfma 0 { va := 16 },
          .vadd 0 { vb := 16 }, .vmul 0 { vc := 16 }, .vmax 0 { areg := 16 }, .vacc 0 { fmt := 8 }, .get 8 {}, .get 0 { eng := 16 }, .put 0 { areg := 16 }, .put 0 { freg := 16 }, .get 0 { len := 0 },
          .get 0 { len := 4097 }, .get 0 { ec := 16 }, .ldfa 8 0 0, .ldfa 0 16 0, .ldfa 0 0 16, .seta 8 0 0, .adda 0 16 0, .sets 0 0 (2 ^ 24), .setl 8 0, .setl 0 (2 ^ 24), .moverOpComplete 8 0,
          .moverOpComplete 0 16, .launch 8 0 0, .launch 0 256 0, .launch 0 0 16, .signal 8 0 0, .signal 0 16 0, .signal 0 0 16, .eclr 8 0, .eclr 0 16, .wdecl 8 0 0, .wrem 0 16 0, .shdecl 0 0 16, .shrem 8 0 0,
          .handlerEnd 8 0, .handlerEnd 0 256, .handlerMaxcyc 8 0, .handlerMaxcyc 0 256] = true := by decide +kernel

theorem test_wf_cores :
    takesAll [.add 7 255 31 31 31, .cvt 7 255 31 31 15 15] = true
      ∧ refusesAll [.add 8 0 0 0 0, .sub 0 256 0 0 0, .mul 0 0 32 0 0, .scin 0 0 0 32 0, .scout 0 0 0 0 32, .addi 0 0 32 0 0, .scLd 0 0 0 32 0, .beq 8 0 0 0 0, .lui 0 0 32 0, .jmp 0 0 32 0, .cvt 0 0 32 0 0 0,
          .cvt 0 0 0 0 16 0, .cvt 0 0 0 0 0 16, .scwait 8 0, .scHalt 0 256] = true := by decide +kernel

theorem test_wf_programs :
    takesAll [.stage 1 [], .stage 0x12 [], .arbprio 5 255 15 0, .heartbeat 31 {}, .sweep 0 31, .thermalSample [(31, 0)], .ageStep (.eth 7) 31, .repairGen .spi 15, .mctpRead 7 0 64] = true
      ∧ refusesAll [.stage 0 [], .stage 0x13 [], .unstage 0, .commit (2 ^ 64), .arbprio 6 0 0 0, .arbprio 0 256 0 0, .arbprio 0 0 16 0, .waitt (2 ^ 64), .heartbeat 32 {}, .heartbeat 0 { hbCount := 2 ^ 16 },
          .sweep 0 32, .survey 32 0 [], .result 32 0 false, .ledgerEpoch [] 0 [] [], .ledgerEpoch (List.replicate 36 0) 0 (List.replicate 8 0) [(32, 0)], .thermalSample [(32, 0)], .ageStep (.eth 8) 0,
          .ageStep .spi 32, .secOwnerGen .spi 32 none, .repairGen (.eth 8) 0, .repairGen .spi 16, .replan (.eth 8) 0 [], .replan .spi 0 [(32, 0, 0)], .replanPeriod [(32, 0, 0)], .getVersion 8, .finish 8 {},
          .snapAtLo (.eth 8) 0, .registerWrite (.eth 8) 0 0, .dbginj 4 0 1, .dbginj 0 128 1, .dbginj 0 0 0, .spiUnknownOpcode 256, .spiUnknownOpcode 2, .spiUnknownOpcode 11, .mctpRead 8 0 1, .mctpRead 0 0 0,
          .mctpRead 0 0 65, .mctpWrite 8 0 [0], .mctpWrite 0 0 []] = true := by decide +kernel

/-! Small cores. -/

/-- Core 0 of tile 0 runs handler 3, with x1 = 5, x2 = 7, x4 the last word of local store. -/
def scOne : State :=
  { State.reset with
    str := { running := true, handlers := [(3, { maxcyc := 100, entry := 8, param := 9 })], seed := 0x55 }
    tiles := [(0, { cores := [(0, { xs := [(1, 5), (2, 7), (4, 262140), (5, 4096), (6, 258048)], running := some 3 })], launchQ := [{ h := 3, ec := 2 }] })] }

theorem witness_coreReady : coreReady scOne 0 0 := ⟨3, by decide +kernel⟩

theorem test_sc_add : xreg (coreOf (after (.add 0 0 31 1 2) scOne) 0 0) 31 = 12 ∧ (coreOf (after (.add 0 0 31 1 2) scOne) 0 0).pc = 4 := by decide +kernel
theorem test_sc_sub : xreg (coreOf (after (.sub 0 0 31 1 2) scOne) 0 0) 31 = BitVec.ofInt 64 (-2) := by decide +kernel
theorem test_sc_x0 : xreg (coreOf (after (.addi 0 0 0 1 1) scOne) 0 0) 0 = 0 := by decide +kernel
theorem test_sc_blt : (coreOf (after (.blt 0 0 1 2 16) scOne) 0 0).pc = 64 := by decide +kernel

/-- A convertible number in range and the widest access that ends at the end of local store. -/
theorem witness_scMemory :
    (-(2 ^ 31) ≤ (xreg (coreOf scOne 0 0) 1).toInt ∧ (xreg (coreOf scOne 0 0) 1).toInt < 2 ^ 31)
      ∧ (xreg (coreOf scOne 0 0) 4 + ((2 : BitVec 11) &&& 0x7FC).signExtend 64).toNat + 2 ^ ((2 : BitVec 11).toNat % 4) = localSize
      ∧ (xreg (coreOf scOne 0 0) 4).toNat % 4 = 0 ∧ Memory.wf scOne.scratch = true := by decide +kernel

theorem test_sc_store_load : let u := after (.scSt 0 0 2 4 2) scOne
    Memory.read u.scratch (localKey 0 0 262140) = 7 ∧ xreg (coreOf (after (.scLd 0 0 9 4 2) u) 0 0) 9 = 7 := by decide +kernel

/-- A transfer of 4,096 bytes, the longest, to the end of local store. -/
theorem witness_scTransfers : let R := fun r => (xreg (coreOf scOne 0 0) r).toNat
    R 5 ≤ 4096 ∧ R 5 % 8 = 0 ∧ R 6 + R 5 ≤ localSize ∧ R 1 + R 5 ≤ scrTop scOne := by decide +kernel

theorem test_sc_transfer : let u := after (.scin 0 0 6 1 5) scOne
    (coreOf u 0 0).xfers = [(false, 258048, 5, 4096)] ∧ (coreOf (after (.scwait 0 0) u) 0 0).waiting = true := by decide +kernel

/-- A handler that may start: no core of its range runs. -/
def scFree : State := { scOne with tiles := [(0, { launchQ := [{ h := 3, ec := 2 }], handlers := [{ h := 3, ec := 2 }] })] }

theorem witness_handlers : (tileOf scFree 0).launchQ = [{ h := 3, ec := 2 }] ∧ (coreOf scFree 0 0).running = none ∧ (coreOf scFree 0 0).xfers = []
    ∧ (handlerOf scFree 3).first = 0 ∧ (handlerOf scFree 3).count = 0 := by decide +kernel

theorem test_handler : (tileOf (after (.handlerEnd 0 3) scFree) 0).ec.get 2 0 = 1
    ∧ (coreOf (after (.handlerStart 0) scFree) 0 0).running = some 3 ∧ xreg (coreOf (after (.handlerStart 0) scFree) 0 0) 3 = 9 := by decide +kernel

/-- A core that has reached MAXCYC. -/
theorem witness_maxcyc : let s := { scOne with tiles := [(0, { cores := [(0, { running := some 3, cycles := 100 })] })] }
    (coreOf s 0 0).running = some 3 ∧ (handlerOf s 3).maxcyc ≤ (coreOf s 0 0).cycles
      ∧ ((after (.handlerMaxcyc 0 0) s).str.exc.map (·.cause)) = some 0x0B := by decide +kernel

/-! The chip stream. -/

/-- A stream of two bundles whose first issues now; loop counter 1 is at 1, the stack holds one address, wait entry 255 is armed. -/
def strOne : State :=
  { State.reset with
    str := { running := true, imageLen := 2, tiles := [0], lc := [(1, 1)], rstack := [1], cycle := 40, arr := 40,
             waits := [(0, { kind := 1, target0 := 5 }), (1, { kind := 0, target0 := 9 }), (255, { kind := 0, armed := true, armAt := 40, met := some 41, hist := [(28, true)], step := 3 })], issued := [(28, 0)],
             segs := [(100, 0)] } }

theorem witness_bundleReady : bundleReady strOne := by unfold bundleReady; decide +kernel

theorem witness_streamControl : (1 : Nat) < strOne.str.imageLen ∧ strOne.str.pc + 1 < strOne.str.imageLen ∧ (waitOf strOne 255).kind ≠ 3
    ∧ 1 ≤ strOne.str.lc.get 1 0 ∧ strOne.str.rstack.length < 8 ∧ strOne.str.rstack = [1] := by decide +kernel

theorem test_stream_loop : (after (.loop 7 65535) strOne).str.lc.get 7 0 = 65535 ∧ (after (.endl 1 0) strOne).str.pc = 1
    ∧ (after (.endl 1 0) strOne).str.lc.get 1 0 = 0 := by decide +kernel
theorem test_stream_branch : (after (.br 1) strOne).str.pc = 1 ∧ (after (.br 1) strOne).str.cycle = 43
    ∧ (after (.brc 255 1) strOne).str.arr = 43 ∧ (after (.brnc 255 1) strOne).str.arr = 41 := by decide +kernel
theorem test_stream_call : (after (.call 0) strOne).str.rstack = [1, 1] ∧ (after .ret strOne).str.pc = 1 := by decide +kernel

/-- The states in which the head raises: a counter at 0, a full and an empty stack, an entry that is unused. -/
theorem witness_headExceptions :
    let full := { strOne with str := { strOne.str with rstack := [1, 1, 1, 1, 1, 1, 1, 1] } }
    let empty := { strOne with str := { strOne.str with rstack := [] } }
    strOne.str.lc.get 0 0 = 0 ∧ 8 ≤ full.str.rstack.length ∧ empty.str.rstack = [] ∧ (waitOf strOne 7).kind = 3
      ∧ ((after (.call 0) full).str.exc.map (·.cause)) = some 9 ∧ ((after .ret empty).str.exc.map (·.cause)) = some 9
      ∧ ((after (.endl 0 1) strOne).str.exc.map (·.cause)) = some 9 ∧ ((after (.wait 7) strOne).str.exc.map (·.cause)) = some 1
      ∧ ((after (.loop 0 0) strOne).str.exc.map (·.cause)) = some 1 := by decide +kernel

theorem witness_waits : (waitOf strOne 0).kind ≠ 3 ∧ (waitOf strOne 0).armed = false ∧ (after (.wait 0) strOne).str.stall = some (1, 0, 0)
    ∧ (waitOf (after (.arm 0) strOne) 0).armAt = 40 := by decide +kernel

/-- A stall on entry 255, whose condition holds, and one that has lasted longer than the barrier timeout of its capo. -/
theorem witness_waitEnds :
    let s := { strOne with str := { strOne.str with stall := some (1, 0, 255) } }
    let late := { s with clk := { s.clk with now := capoBto s.prog.eff 0 * 1000000 + 1 } }
    s.str.stall = some (1, 0, 255) ∧ (waitOf s 255).armed = true ∧ (waitOf s 255).met = some 41 ∧ s.str.dutyAt = []
      ∧ (after (.waitRelease 255 53) s).str.cycle = 53 ∧ (after (.waitRelease 255 52) s).str.stall = s.str.stall ∧ (waitOf (after (.waitRelease 255 53) s) 255).target = 3
      ∧ ((after (.waitTimeout 255) late).str.exc.map fun e => (e.cause, e.detail)) = some (7, 255) := by decide +kernel

theorem witness_checkpoints :
    let s := { strOne with str := { strOne.str with stall := some (2, 0, 0) } }
    let late := { s with clk := { s.clk with now := capoBto s.prog.eff 0 * 1000000 } }
    strOne.str.segs.length ≤ 1 ∧ 0 < strOne.str.segs.length ∧ ((after (.echk 1) strOne).str.exc.map (·.cause)) = some 1
      ∧ ((after (.echk 0) strOne).str.seg = some 0 ∨ (after (.echk 0) strOne).str.stall.isSome = true)
      ∧ ((after .checkpointTimeout late).str.exc.map (·.cause)) = some 8 := by decide +kernel

/-- An issue 12 cycles ago. -/
theorem test_lockstep : (strOne.str.issued.find? fun x => x.1 == 28) = some (28, 0) ∧ (after (.lockstepCompare [0, 0, 0] 28) strOne).str.exc = none
    ∧ ((after (.lockstepCompare [0, 1, 0] 28) strOne).str.exc.map fun e => (e.cause, e.cycle)) = some (0x0D, 28) := by decide +kernel

/-- A wait entry that has never sampled, one whose last sample held, and one whose condition comes to hold. -/
theorem witness_waitMet : (waitOf strOne 0).hist = [] ∧ (waitOf strOne 255).hist = [] ++ [(28, true)] ∧ (waitOf strOne 255).armed = true
    ∧ (waitSample 50 true { kind := 0, armed := true, hist := [(28, false)] }).met = some 50 := by decide +kernel

/-! The tiles. -/

/-- A stream issues to tile 0, with general scratch to 0x1C000000. The weights of engine 31 are 1.0 in E4M3; so are 256 bytes of scratch at 0x1000,
and a window descriptor stands at 0x2000. AD15 points at the last 4 bytes of general scratch. -/
def tileOne : State :=
  let d : Nat := 4095 + (0x10 * 4096) * 2 ^ 16 + 1 * 2 ^ 64 + 1 * 2 ^ 106 + 1 * 2 ^ 109 + 1 * 2 ^ 128
  let sh : Nat := 4095 + 0 * 2 ^ 16 + 1 * 2 ^ 64
  { State.reset with
    str := { running := true, imageLen := 2, tiles := [0], cycle := 16, handlers := [(255, {})] }
    scratch := (List.range 256).map (fun i => (0x1000 + i, (0x38 : BitVec 8))) ++ ((leBytes 64 d).zipIdx.map fun x => (0x2000 + x.2, x.1)).filter (fun x => x.2 ≠ 0)
      ++ ((leBytes 32 sh).zipIdx.map fun x => (0x3000 + x.2, x.1)).filter (fun x => x.2 ≠ 0)
    prog := { State.reset.prog with eff := [((0x0C, 1), 1 + 0x10 * 2 ^ 96 + 1 * 2 ^ 160)] }
    accMib := 0
    tiles := [(0, { vlen := 2, ad := [(15, 0x1C000000 - 4), (2, 0x1000), (4, 0x2000), (6, 0x3000)]
                    v := [(1, [(0, 0x3F800000)]), (2, [(0, 0x40000000)]), (3, [(0, 0x40400000)])]
                    mes := [(31, { b0 := { fmt := 3, els := List.replicate 32768 0x38 } })] })] }

theorem witness_slotReady : slotReady tileOne 0 ∧ portRoom tileOne 0 0 57344 0 := by unfold slotReady portRoom; decide +kernel

theorem witness_results : let s := { tileOne with tiles := [(0, { pend := [.areg 17 3 64, .areg 18 3 128] })] }
    (tileOf s 0).pend = [.areg 17 3 64, .areg 18 3 128] ∧ 17 < pendDue (.areg 18 3 128) ∧ (∀ x ∈ (tileOf s 0).pend, 16 < pendDue x)
      ∧ (tileOf (settleTile s 17 0) 0).ad.get 3 0 = 64 := by decide +kernel

theorem test_seta : (tileOf (after (.seta 0 1 (2 ^ 24 - 1)) tileOne) 0).pend = [.areg 17 1 ((2 ^ 24 - 1) * 32)]
    ∧ (tileOf (after (.sets 0 1 (2 ^ 24 - 1)) tileOne) 0).pend = [.sreg 17 1 (-32)]
    ∧ (tileOf (after (.setl 0 32768) tileOne) 0).pend = [.vlen 17 32768] := by decide +kernel

/-- An event counter that was raised by 2 in this cycle, and one that was not. -/
theorem witness_eclr : let s := { tileOne with tiles := [(0, { ec := [(1, 9), (2, 9)], raised := [(1, (16, 2)), (2, (15, 1))] })] }
    (tileOf s 0).raised.get 1 (0, 0) = (16, 2) ∧ ((tileOf s 0).raised.get 2 (0, 0)).1 ≠ s.str.cycle
      ∧ (tileOf (after (.eclr 0 1) s) 0).ec.get 1 0 = 2 ∧ (tileOf (after (.eclr 0 2) s) 0).ec.get 2 0 = 0 := by decide +kernel

/-- A VLD of two elements, a byte of which it reads in each of two cycles. -/
theorem witness_reads :
    let q : ReadRun := { what := .vld 1 3 2, parts := [(0x1000, 1, 0, 0), (0x1001, 1, 0, 0)] }
    let s := { tileOne with tiles := [(0, { pend := [.read 17 q] })] }
    q.parts = (0x1000, 1, 0, 0) :: q.parts.drop 1 ∧ q.parts.drop 1 ≠ [] ∧ (tileOf s 0).pend = [.read 17 q]
      ∧ (tileOf (settleTile s 18 0) 0).pend = [.vreg 22 1 [(0, 0x3F800000), (1, 0x3F800000)]] := by decide +kernel

/-- Engine 31 alone is free and its operands are within scratch. -/
def oneMe : MatOp := { grp := 5, me := 31, areg := 2, fmt := 3 }

theorem witness_matrix : groupMes oneMe = some [31] ∧ (meOfTile (tileOf tileOne 0) 31).busy ≤ 16 ∧ (idleBuf (meOfTile (tileOf tileOne 0) 31)).ready ≤ 16
    ∧ stepCycles (activeBuf (stepMe oneMe (meOfTile (tileOf tileOne 0) 31))).fmt 3 = some 2 ∧ meAddr (tileOf tileOne 0) 2 31 + 128 * rowBytes 3 ≤ scrTop tileOne := by
  decide +kernel

theorem witness_matrix_ports : portRoom tileOne 0 1 1024 0 ∧ portRoom tileOne 0 0 0 512 ∧ portRoom tileOne 0 0 512 0 := by unfold portRoom; decide +kernel

/-- The two parts of the operand are read in two cycles; the sum stands after the second. -/
theorem test_step : newestAcc (tileOf (settleTile (after (.step 0 oneMe) tileOne) 18 0) 0) 31 0 = 0x43800000 := by decide +kernel

theorem witness_vector : (tileOf tileOne 0).vBusy ≤ 16 ∧ (tileOf (after (.vadd 0 { vd := 15, va := 1, vb := 2 }) tileOne) 0).pend = [.vreg 22 15 [(0, 0x40400000), (1, 0)]]
    ∧ (tileOf (after (.vfma 0 { vd := 15, va := 2, vb := 2, vc := 3 }) tileOne) 0).pend = [.vreg 22 15 [(0, 0x40E00000), (1, 0)]] := by decide +kernel

theorem test_vmax : (tileOf (after (.vmax 0 { vd := 4, va := 1, vb := 2 }) tileOne) 0).pend = [.vreg 22 4 [(0, 0x40000000), (1, 0)]]
    ∧ (tileOf (after (.vmin 0 { vd := 4, va := 1, vb := 2 }) tileOne) 0).pend = [.vreg 22 4 [(0, 0x3F800000), (1, 0)]]
    ∧ (tileOf (after (.vmul 0 { vd := 4, va := 2, vb := 3 }) tileOne) 0).pend = [.vreg 22 4 [(0, 0x40C00000), (1, 0)]] := by decide +kernel

/-- Two E4M3 elements that end at the last byte of general scratch. -/
theorem witness_vectorMemory : let s := { tileOne with tiles := [(0, { vlen := 2, ad := [(15, 0x1C000000 - 2), (2, 0x1000)] })] }
    0 < (tileOf s 0).vlen ∧ (tileOf s 0).ad.get 15 0 + vecBytes 3 2 ≤ scrTop s
      ∧ (tileOf (after (.vld 0 { vd := 1, areg := 2, fmt := 3, pi := true }) s) 0).pend = [.vreg 20 1 [(0, 0x3F800000), (1, 0x3F800000)], .areg 17 2 0x1002] := by
  decide +kernel

/-- The states in which slot ops raise: a busy engine, a busy unit, a range one byte too long, ports one byte too full, a full queue. -/
theorem witness_slotExceptions :
    let t : Tile := { vlen := 2, ad := [(1, 0x1C000000 - 3)], vBusy := 17, mes := [(31, { busy := 17 })], launchQ := List.replicate 8 { h := 0, ec := 0 },
                      ports := [(16, 57341, 0)], eng := [(3, List.replicate 8 { opid := 0, kind := 1, ec := 0, fa := 0, fattr := 0, scr := 0, bytes := 64 })] }
    let s := { tileOne with tiles := [(0, t)] }
    let free := { tileOne with tiles := [(0, { t with vBusy := 16 })] }
    let cause := fun (i : Instr) (s : State) => (after i s).str.exc.map fun e => (e.cause, e.part, e.detail)
    cause (.zacc 0 oneMe) s = some (4, 1, 0) ∧ cause (.vadd 0 {}) s = some (4, 2, 0) ∧ cause (.vsplat 0 { areg := 1 }) free = some (2, 2, 0)
      ∧ cause (.vsplat 0 { areg := 0 }) free = some (3, 2, 0) ∧ cause (.get 0 { eng := 3, len := 4095 }) s = some (5, 3, 0)
      ∧ cause (.launch 0 255 0) s = some (0x0B, 4, 255) ∧ cause (.setl 0 32769) s = some (1, 3, 0) ∧ cause (.ldw 0 { fmt := 7 }) s = some (1, 1, 0)
      ∧ cause (.vacc 0 { va := 8 }) s = some (1, 2, 0) := by decide +kernel

theorem witness_slotExceptions_ports : let t : Tile := { ports := [(16, 57341, 0)] }
    ¬ portRoom { tileOne with tiles := [(0, t)] } 0 0 4 0 := by unfold portRoom; decide +kernel

/-- A GET of 4,095 units, both addresses aligned, and an operation whose requests have all completed. -/
theorem witness_mover :
    let m : MovRun := { opid := 0, kind := 1, ec := 7, fa := 0, fattr := 0, scr := 0, bytes := 64, started := true }
    let s := { tileOne with tiles := [(0, { eng := [(4, [m]), (5, [{ m with left := 1 }])] })] }
    let o : MovOp := { eng := 15, areg := 1, freg := 15, len := 4095, ec := 15 }
    ((tileOf tileOne 0).fa.get 15 0).toNat % 64 = 0 ∧ (tileOf tileOne 0).ad.get 1 0 + 4095 * 64 ≤ scrTop tileOne
      ∧ ((tileOf (after (.get 0 { o with len := 1 }) tileOne) 0).eng.get 15 []).map (·.bytes) = [64] ∧ (tileOf (after (.moverOpComplete 0 4) s) 0).ec.get 7 0 = 1
      ∧ ((tileOf (after (.moverOpComplete 0 5) s) 0).eng.get 5 []).length = 1 := by decide +kernel

/-- PUT as an atomic store needs one of four opcodes in FATTR. -/
theorem test_put : let s := { tileOne with tiles := [(0, { fattr := [(1, 0x28)] })] }
    ((tileOf (after (.put 0 { eng := 1, freg := 1, len := 1 }) s) 0).eng.get 1 []).map (·.kind) = [2] := by decide +kernel

theorem witness_launches : ((tileOf (after (.signal 0 15 15) tileOne) 0).eng.get 15 []).map (·.kind) = [3]
    ∧ (TMap.find tileOne.str.handlers 255).isSome = true ∧ (tileOf (after (.launch 0 255 15) tileOne) 0).launchQ = [{ h := 255, ec := 15 }] := by decide +kernel

/-- The declaration in scratch is legal and not refused, and once made it can be removed; the shard is legal. -/
theorem witness_declarations :
    let e := ofLe (scrBytes tileOne 0 0x2000 64)
    let d := winDescOf e
    let u := after (.wdecl 0 4 3) tileOne
    let ok := { tileOne with accMib := 64 }
    let v := after (.wdecl 0 4 3) ok
    let rm := { u with str := tileOne.str, scratch := [(0x4000, 0xFF), (0x4001, 0x0F)], tiles := [(0, { ad := [(1, 0x4000)] })] }
    let none' := { rm with wins := [] }
    winFormOk e = true ∧ winOf tileOne d.wid = none ∧ (winRefusal tileOne (newWindow tileOne d)).isSome = true
      ∧ (u.str.exc.map (·.cause)) = some 0x0A
      ∧ winRefusal ok (newWindow ok d) = none ∧ (winOf v 4095).isSome = true ∧ (v.decls.map (·.ec)) = [3]
      ∧ removable { rm with wins := v.wins } 4095 0 = true ∧ (winOf (after (.wrem 0 1 3) { rm with wins := v.wins }) 4095).isNone = true
      ∧ removable none' 4095 0 = false ∧ ((after (.wrem 0 1 3) none').str.exc.map (·.cause)) = some 0x0A := by decide +kernel

theorem witness_shards :
    let e := ofLe (scrBytes tileOne 0 0x3000 32)
    shardFormOk e = true ∧ shardOwned { shardDescOf e with capo := 0, memberB := false } = true
      ∧ ((after (.shdecl 0 6 3) tileOne).decls.map (·.ec)) = [3] ∧ ((after (.shrem 0 6 3) tileOne).decls.map (·.remShard)) = [some 4095] := by decide +kernel

/-- A declaration that both members hold, with no message of it unconfirmed, and one that the twin has not confirmed. -/
theorem witness_declared :
    let x : Decl := { id := 4, tile := 0, ec := 15, remWin := some 3 }
    let s := { tileOne with decls := [x] }
    let w := { s with course := { s.course with unconf := [{ mseq := 1, body := .mstate (.dropWindow 3) }] } }
    bothHold s x = true ∧ bothHold w x = false ∧ (tileOf (after (.declarationComplete 4) s) 0).ec.get 15 0 = 1
      ∧ (after (.declarationComplete 4) w).decls = [x] := by decide +kernel

/-! Clocks, time, power and resets. -/

/-- A package whose 36 domains are on and whose start-up is over; it serves. -/
def onAll : State :=
  { State.reset with pwr := { pdOn := BitVec.allOnes 36 }, disc := { phase := 9, site := some {} }, course := { serving := true }, clk := { now := 2000000, anchored := true } }

theorem test_tick : State.reset.pending = [] ∧ (match step State.reset with | .next u => u.clk.now | _ => 0) = 1 := by decide +kernel

theorem witness_reference : onAll.clk.refLost = false ∧ (after .refLost onAll).clk.refLost = true
    ∧ ((after .refLost { onAll with str := { running := true } }).str.exc.map (·.cause)) = some 0x0F
    ∧ (linkOf (after .refRelock (after .refLost { onAll with links := [(543, { stage := 9 })] })) 543).stage = 1
    ∧ (linkOf (after .refRelock (after .refLost onAll)) 543).stage = 0 := by decide +kernel

/-- An interface of each kind. -/
theorem witness_lanePll : let s := { onAll with links := [(3, { stage := 9 })] }
    (linkOf s 3).stage ≠ 0 ∧ (linkOf (after (.lanePllLockLoss 0 (oxOf 3)) s) 3).stage = 3 ∧ (after (.lanePllLockLoss 1 7) s).mem.backOut = [7]
      ∧ (after (.lanePllLockLoss 2 1) s).mem.backOut = [9] ∧ (after (.lanePllLockLoss 3 7) s).pwr.portTrain = [7] := by decide +kernel

/-- A follower whose source is string 3; it is 51 ns and 50 ns behind, and the third beacon in a row lies beyond. -/
def follower : State :=
  { onAll with disc := { phase := 9, site := some { dx := 1 } }, links := [(3, { stage := 9 })],
               prog := { State.reset.prog with eff := [((4, 3), 3 + 2 ^ 9)] }, clk := { now := 1000, anchored := true, beyond := 2, lastBeacon := some 0 } }

theorem witness_beacon : timeSource follower = some 3 ∧ isTimeLead follower = false
    ∧ (after (.beacon 3 true 1051 0 0) follower).clk.now = 1051 ∧ (after (.beacon 3 true 1051 0 0) follower).clk.stepped = true
    ∧ (after (.beacon 3 true 1050 0 0) follower).clk.now = 1001 ∧ (after (.beacon 3 true 949 0 0) follower).clk.hold = 51
    ∧ (after (.beacon 3 true 2000 0 0) { follower with clk := {} }).clk.now = 2000 := by decide +kernel
theorem witness_beacon_far : (after (.beacon 3 false 1051 0 0) follower).clk = follower.clk
    ∧ (linkOf (after (.beacon 3 true 1051 900 20) follower) 3).rtt = 80 := by decide +kernel

/-- A count that a step holds for 60 ns more, with beacons on time and 10 ns behind. -/
theorem witness_beacon_held : let s := { follower with clk := { follower.clk with hold := 60 } }
    (after (.beacon 3 true 1000 0 0) s).clk.hold = 0 ∧ (after (.beacon 3 true 990 0 0) s).clk.hold = 10 ∧ (after (.beacon 3 true 990 0 0) s).clk.now = 1000 := by
  decide +kernel

theorem witness_beaconsSent : ((after .beaconSend follower).out.length) = ((List.range 576).filter (strReady follower)).length
    ∧ (follower.clk.lastBeacon = some 0 ∧ 0 + 1000000 < ({ follower with clk := { follower.clk with now := 1000001 } } : State).clk.now) := by decide +kernel

/-- An SX is left when an OX faults; an OX that is off does not fault. -/
theorem witness_domainFault : pdIsOn onAll 4 = true ∧ pdIsOn (pdFault onAll 4) 0 = true ∧ pdIsOn (after (.pdFault 4) onAll) 4 = false
    ∧ (after (.pdFault 4) onAll).pwr.fault = 16 ∧ pdIsOn State.reset 4 = false
    ∧ (after (.pdFault 35) onAll).pwr.faultLast = 35 := by decide +kernel

/-- Samples at the limits and just beyond them. -/
theorem test_monitors :
    let st := fun (d : D2d) (t v : Nat) => (d2dOf (after (.adjMonitorSample [{ link := 37, dT := t, dV := v }]) { onAll with pwr := { onAll.pwr with d2d := [(37, d)] } }) 37).st
    st {} 700 300 = 1 ∧ st {} 701 0 = 2 ∧ st {} 0 301 = 2 ∧ st {} 350 150 = 0 ∧ st {} 351 0 = 1 ∧ st { st := 1, good90 := 999 } 315 135 = 0
      ∧ st { st := 1, good90 := 998 } 315 135 = 1 ∧ st { st := 2, good := 99 } 350 150 = 1 ∧ st { st := 2, good := 98 } 350 150 = 2 := by decide +kernel

theorem test_aon : (after (.aonToVbak 1619) onAll).pwr.onCell = true ∧ (after (.aonToVbak 1620) onAll).pwr.onCell = false
    ∧ (after (.aonToVaon 1700 1000) { onAll with pwr := { onCell := true } }).pwr.onCell = false
    ∧ (after (.aonToVaon 1699 1000) { onAll with pwr := { onCell := true } }).pwr.onCell = true := by decide +kernel

theorem witness_coldReset : onAll.fuse.busy = none ∧ onAll.pwr.pwrGood = true ∧ (after (.coldReset 1000) onAll).pwr.pdOn = 0 ∧ (after (.coldReset 1000) onAll).mc.resetCause = 2
    ∧ (after (.coldReset 999) onAll).pwr.pdOn = onAll.pwr.pdOn ∧ (after .powerFail onAll).pwr.pwrGood = false
    ∧ (after (.powerOnReset false) onAll).mc.resetCause = 1 ∧ (after (.powerOnReset true) onAll).pwr.porHeld = true
    ∧ (after (.railFault 0) onAll).pwr.pwrGood = false ∧ (after (.railFault 6) onAll).pwr.pwrGood = false := by decide +kernel

/-- A rail that is no supply of the whole package, and rst_n at 1 µs while a power-on reset is held. -/
theorem witness_faults : pdIsOn (after (.railFault 5) onAll) 4 = false ∧ (after (.railFault 5) onAll).pwr.pwrGood = true ∧ 4 ∈ railDomains 5
    ∧ (after (.coldReset 1000) { onAll with pwr := { porHeld := true } }).mc.resetCause = 1 ∧ (after (.coldReset 1000) { onAll with pwr := { porHeld := true } }).pwr.porHeld = false := by
  decide +kernel

/-- Every domain that is on has what it requires; and a package of which only MC0, Rilash and an OX are on, with an MC. -/
theorem witness_rails : (∀ m < 36, pdIsOn onAll m = true → pdMet onAll m = true) ∧ pdIsOn onAll 3 = true ∧ pdIsOn (after (.railFault 5) onAll) 11 = false
    ∧ pdIsOn (after (.railFault 5) onAll) 12 = true := by decide +kernel

theorem witness_warmReset : let s := { onAll with pwr := { pdOn := BitVec.ofNat 36 (2 ^ 30 + 2 ^ 31) } }
    3 ≤ s.disc.phase ∧ s.disc.phase ≤ 9 ∧ pdIsOn s 30 = true ∧ (∀ m < 4, pdIsOn s m = false) ∧ pdIsOn s 29 = false ∧ pdIsOn s 4 = false
      ∧ (after (.pdFault 29) s).disc.phase = 2 ∧ (after (.pdFault 4) s).mc.resetCause = 4 ∧ (after (.portReset 7) s).pwr.portTrain = [7] := by decide +kernel

/-! The switch cores. -/

/-- Capo 5 holds every leaf; strings 3 and 448 are Ready; the bridges are in use. -/
def swOne : State :=
  { State.reset with
    pwr := { pdOn := BitVec.allOnes 36 }, course := { serving := true }, clk := { now := 1000, sxCycle := 3000, anchored := true }
    disc := { phase := 9, site := some { w := 3, h := 3, bridges := true } }, links := [(3, { stage := 9 }), (448, { stage := 9 })]
    prog := { State.reset.prog with eff := [((1, 5), 5 + 2 ^ 9 + (2 ^ 512 - 1) * 2 ^ 512)] } }

/-- A load of leaf i of this domain from leaf 0. -/
def leafLoad (i : Nat) : Req := sealReq { op := 1, tc := 3, capo := 5, len := 8, addr := mkAddr 0 0 0 (i / 32) (i % 32) 0 }

theorem witness_packetArrives : let p := Pkt.req (leafLoad (stringLeaf swOne 3))
    pktOk p = true ∧ firstRefuses swOne 0 0 p = false ∧ routeAt swOne 0 0 p false = .to 0 3 false
      ∧ ((after (.packetArrival 0 0 p) swOne).sw.landing.map fun x => (x.port, x.cells, x.stamp)) = [(0, pktCells p, 3000)] := by decide +kernel

/-- The other clauses: a bad check, a source of another capo, and a leaf that no Ready string reaches. -/
theorem witness_packetLost :
    let bad := Pkt.req { leafLoad 3 with hcrc := (leafLoad 3).hcrc + 1 }
    let foreign := Pkt.req (sealReq { leafLoad 3 with capo := 6 })
    let far := Pkt.req (leafLoad (stringLeaf swOne 3 + 1))
    pktOk bad = false ∧ count (after (.packetArrival 3 135 bad) swOne) .sxHdrErr [3, 135] = 1
      ∧ firstRefuses swOne 0 0 foreign = true ∧ (after (.packetArrival 0 0 foreign) swOne).out = [.cmp (cmpOf (sealReq { leafLoad 3 with capo := 6 }) (mySrc swOne) .capoViolation)]
      ∧ routeAt swOne 0 0 far false = .lost ∧ copyOwner swOne far = none ∧ firstRefuses swOne 0 0 far = false
      ∧ (after (.packetArrival 0 0 far) swOne).out = [.cmp (cmpOf (leafLoad (stringLeaf swOne 3 + 1)) (mySrc swOne) .unreachable)] := by decide +kernel

/-- A packet that has landed for the queue of class 3 at port 3, whose guarantee of 64 cells has room for it, and where it has none. -/
def landedOne (cells : Nat) : Landed := { sx := 0, port := 0, p := .req (leafLoad 3), cells := cells, stamp := 7, outs := [(3, false, (0, 3, false))], mc := 0 }

theorem witness_admit :
    let s := { swOne with sw := { landing := [landedOne 64] } }
    landIndex s 0 0 = some 0 ∧ heldBack s 0 (landedOne 64) = false ∧ poolOcc s 0 3 3 (poolOf s 5) + 64 ≤ bufG s.prog.eff 0 3 3
      ∧ ((queueOf (after (.packetAdmit 0 0) s) 0 3 3 false).map (·.stamp)) = [7] ∧ (after (.packetAdmit 0 0) s).sw.landing = [] := by decide +kernel

theorem witness_admitWaits :
    let s := { swOne with sw := { landing := [landedOne 1, landedOne 1] } }
    let big := { swOne with sw := { landing := [landedOne 1000000] } }
    landIndex s 0 1 = some 1 ∧ heldBack s 1 (landedOne 1) = true ∧ count (after (.packetAdmit 0 1) s) .sxAdmitWait [0, 0, 3] = 1
      ∧ heldBack big 0 (landedOne 1000000) = false
      ∧ alphaOk (bufAlpha big.prog.eff 0 3) (sharedUse big 0 3 3 none + 999936) (sharedFree big 0 none + evictable big 0 3 none) = false
      ∧ poolOf big 5 = none ∧ count (after (.packetAdmit 0 0) big) .sxAdmitWait [0, 0, 3] = 1 := by decide +kernel

/-- Class 3 and class 5 of port 3 both hold a packet that fits, with credits for it; class 5's is older. -/
def arbOne : State :=
  let q := fun stamp => ({ p := .req (leafLoad 3), cells := 1, stamp := stamp, inPort := 0, enq := 0, mc := 0, dest := (0, 3, false) } : QPkt)
  { swOne with sw := { queues := [((0, 3, 3, false), [q 2990]), ((0, 3, 5, false), [q 2980])], limit := [((3, 3, false), 9), ((3, 5, false), 9), ((3, 8, false), 9)] } }

theorem witness_arbiter : isHarmonic arbOne 0 3 = false ∧ isBridge arbOne (linkNo 0 3) = false ∧ arbOne.sw.injected.get (0, 3) [] = [] ∧ outputUp arbOne 0 3 = true
    ∧ 1 ≤ creditAt arbOne 0 3 3 5 false ∧ calFits arbOne 0 3 5 1 = true
    ∧ arbScore (arbOf arbOne 0 3) (stampNow arbOne) 2990 3 < arbScore (arbOf arbOne 0 3) (stampNow arbOne) 2980 5
    ∧ queueOf (after (.arbiterDecision 0 3 false [] []) arbOne) 0 3 5 false = []
    ∧ (arbOf (after (.arbiterDecision 0 3 false [] []) arbOne) 0 3).lost.get 3 0 = 1
    ∧ queueOf (after (.arbiterDecision 0 3 true [] []) arbOne) 0 3 5 false = []
    ∧ sendingAt arbOne 0 3 = none ∧ (sendingAt (after (.arbiterDecision 0 3 true [] []) arbOne) 0 3).isNone = true := by decide +kernel

/-- An output with two flits left to send: a packet all of which is there, and one of which only the first flit has come. -/
theorem witness_sending :
    let p := Pkt.req { leafLoad 3 with op := 2, len := 256, data := List.replicate 256 0 }
    let q : QPkt := { p := p, cells := 2, stamp := 2990, inPort := 0, enq := 0, mc := 0, dest := (0, 3, false) }
    let w : Sending := { ps := [q], cls := 3, left := pktFlits p - 1, str := some 3 }
    let s := { swOne with sw := { sending := [((0, 3), some w)] } }
    let part := { s with links := [(0, { stage := 9, pktLeft := some (pktFlits p - 1), pktLen := pktFlits p, pktIn := some (2990, p) })] }
    flitHere s 0 w = true ∧ flitHere part 0 w = false ∧ sendingAt s 0 3 = some w
      ∧ sendingAt (after (.arbiterDecision 0 3 true [] []) s) 0 3 = some { w with left := w.left - 1 } ∧ 1 < w.left
      ∧ sendingAt (after (.arbiterDecision 0 3 true [] []) part) 0 3 = some w ∧ sendingAt (after (.arbiterDecision 0 3 false [] []) s) 0 3 = some w := by decide +kernel

/-- An emergency message of two flits at port 3. -/
theorem witness_emergency : let s := { swOne with sec := { unlock := true }, sw := { injected := [((0, 3), [{ capo := 5, left := 2, flits := 2 }])] } }
    (emergency s 0 3).isSome = true ∧ (arbOf s 0 3).emergRun < 256 ∧ (arbOf (after (.arbiterDecision 0 3 true [] []) s) 0 3).emergRun = 1
      ∧ (after (.arbiterDecision 0 3 true [] []) s).sw.injected.get (0, 3) [] = [{ capo := 5, left := 1, flits := 2 }] := by decide +kernel

/-- The older of a read and a write wins, and reads on a tie; a refresh goes first. -/
theorem test_ddrArbiter : let lost := fun (r w : Option Nat) (i : Nat) => (arbOf (after (.ddrArbiterDecision 1 5 false r w false) swOne) 5 5).lost.get i 0
    lost (some 7) (some 7) 1 = 1 ∧ lost (some 7) (some 8) 0 = 1 ∧ lost (some 7) none 1 = 0
      ∧ (after (.ddrArbiterDecision 1 5 false (some 7) none true) swOne).sw.arb = [] := by decide +kernel

theorem witness_credits : isBridge swOne 448 = true ∧ isBridge swOne 3 = false
    ∧ (after (.credit 448 { cl := [65536, 1, 2, 3, 4, 5, 6, 7], pool := 65535 } (some { cl := [1], pool := 2 })) swOne).sw.limit.get (creditKey 448, 8, false) 0 = 65535
    ∧ (after (.pcredit 448 511 true 65537) swOne).sw.pLimit.get (creditKey 448, 511, true) 0 = 1
    ∧ (after (.pcredit 3 511 true 65537) swOne).sw.pLimit = [] ∧ (linkOf (after (.creditSend 3) swOne) 3).creditTx = true := by decide +kernel

/-- The header of a bulk of one packet of class 3. -/
def bulkOne (n : Nat) : BulkHdr :=
  { tc := 3, bytes := n, count := 1, vc := false, fromDy := 0, fromDx := 2, toDy := 0, toDx := 0, course := 0, memberB := false, dir := 0, time := 0 }

/-- A bulk list whose head has waited BRG_CLOSE to the nanosecond, and one that has not. -/
theorem witness_bulks :
    let q : QPkt := { p := .req (leafLoad 3), cells := 1, stamp := 0, inPort := 0, enq := 750, mc := 0, dest := (3, 64, false) }
    let s := { swOne with sw := { queues := [((3, 64, 3, false), [q])] } }
    let early := { swOne with sw := { queues := [((3, 64, 3, false), [{ q with enq := 751 }])] } }
    q.enq + brgClose s.prog.eff ≤ s.clk.now ∧ (after (.bulkClose 448 3 false) s).sw.bulkReady = [(448, 3, false)]
      ∧ early.clk.now < 751 + brgClose early.prog.eff ∧ (after (.bulkClose 448 3 false) early).sw.bulkReady = []
      ∧ count (after (.bulkReceive 448 (bulkOne 64) [] (bulkCrc (bulkOne 64) + 1)) swOne) .brgBulkErr [448] = 1 := by decide +kernel

/-- A bulk of one packet for a leaf beyond another bridge string of the same SX. -/
theorem witness_bulkReceive :
    let r := sealReq { leafLoad 3 with addr := mkAddr 0 1 0 0 0 0 }
    let s := { swOne with links := [(448, { stage := 9 }), (480, { stage := 9 })] }
    let h := bulkOne (pktBytes (.req r))
    firstRefuses s 3 64 (.req r) = false ∧ route s 3 64 (.req r) false = .to 3 96 false ∧ pktOk (.req r) = true
      ∧ ((after (.bulkReceive 448 h [.req r] (bulkCrc h)) s).sw.landing.map (·.ret)) = [some ((64 + pktBytes (.req r) + 255) / 256)] := by decide +kernel

/-! Requests at their responders. -/

/-- The Brola of L(0,0), capo 5, with one open window of 256 bytes that grants all; byte 0x40 holds 7, the word 0x80 is poisoned. -/
def leafOne : State :=
  { State.reset with brola := { asg := some { capo := 5 }, now := 99, wins := [(63, { base := 0, len := 256, rd := true, wr := true, atm := true, isOpen := true })]
                                mem := [(0x40, 7)], poison := [16] } }

/-- A request of L(0,1) for a byte of the leaf. -/
def leafReq (op off len : Nat) : Req := sealReq { op := op, attr := if 0x10 ≤ op ∧ op ≤ 0x17 then 1 else 0, src := mkLeafSrc 0 0 0 1, capo := 5, seq := 9, len := len, addr := mkAddr 0 0 0 0 0 off, op0 := 0xFF, op1 := 1 }
def leafStore : Req := { leafReq 2 248 8 with data := [1, 2, 3, 4, 5, 6, 7, 8] }

/-- A request of each kind enters: a load of the last 8 bytes of the window, a store there, an atomic. -/
theorem witness_entersBrola : entersBrola leafOne (leafReq 1 248 8) ∧ entersBrola leafOne leafStore ∧ entersBrola leafOne (leafReq 0x10 0x40 8) := by
  unfold entersBrola; decide +kernel

theorem witness_leafLoadStore : ownLeaf leafOne (leafReq 1 248 8).addr = true ∧ (leafRefusal leafOne (leafReq 1 248 8)).isNone = true ∧ (leafRefusal leafOne leafStore).isNone = true
    ∧ findBad leafOne.brola.poison leafOne.brola.latent 0x80 8 = some (.poison, 16) ∧ (leafRefusal leafOne (leafReq 1 0x80 8)).isNone = true
    ∧ permitted leafOne (permOf 1) 256 = false ∧ countFree leafOne .brola leafStore = true ∧ (countOf leafOne .brola (leafReq 2 0 8).src 0).isNone = true
    ∧ (after (.st leafStore (.brola 31)) leafOne).out = [.cmp (cmpOf leafStore (brolaSrc leafOne) .ok)]
    ∧ Memory.read (after (.st leafStore (.brola 31)) leafOne).brola.mem 255 = 8 := by decide +kernel

theorem test_leafLoad : (after (.ld (leafReq 1 0x40 8) (.brola 0)) leafOne).out = [.cmp { cmpOf (leafReq 1 0x40 8) (brolaSrc leafOne) .ok with len := 8, data := [7, 0, 0, 0, 0, 0, 0, 0] }]
    ∧ (after (.ld (leafReq 1 256 8) (.brola 0)) leafOne).out = [.cmp (cmpOf (leafReq 1 256 8) (brolaSrc leafOne) .accDenied)]
    ∧ (after (.ld (leafReq 1 0x80 8) (.brola 0)) leafOne).out = [.cmp { cmpOf (leafReq 1 0x80 8) (brolaSrc leafOne) .poison with errAddr := (leafReq 1 0x80 8).addr }] := by
  decide +kernel

theorem witness_clean : clean leafOne.brola.poison leafOne.brola.latent 248 8 := by
  intro w h1 h2; have : w = 31 := by omega
  subst this; decide

/-- The atomics on the word at 0x40, which holds 7, with OPERAND0 = 255 and OPERAND1 = 1. -/
theorem test_atomics : let m := fun (op : Nat) (c : Req → Via → Instr) => Memory.readLe (after (c (leafReq op 0x40 8) (.brola 0)) leafOne).brola.mem 0x40 8
    m 0x10 .aadd = 262 ∧ m 0x11 .aand = 7 ∧ m 0x12 .aor = 255 ∧ m 0x13 .axor = 248 ∧ m 0x14 .aswap = 255 ∧ m 0x15 .acas = 7 ∧ m 0x16 .amax = 255 ∧ m 0x17 .amin = 7 := by
  decide +kernel

/-- What ends a request early: a bad check, no ASSIGN, a copy that executes, a known duplicate, an illegal format. -/
theorem witness_stopEarly :
    let r := leafReq 0x10 0x40 8
    let bad := { r with hcrc := r.hcrc + 1 }
    let odd := sealReq { leafReq 1 0x40 8 with attr := 1 }
    let e : DupEntry := { src := r.src, tc := 0, seq := 9, hcrc := dupCrc r, status := .ok, result := 5, made := 90, capo := 5 }
    let x : Running := { r := r, v := .brola 0, why := .final }
    let dup := { leafOne with brola := { leafOne.brola with resp := { dups := [e] } } }
    let run := { leafOne with brola := { leafOne.brola with resp := { running := [x] } } }
    hdrOk bad = false ∧ count (after (.aadd bad (.brola 31)) leafOne) .brlHdrErr [31] = 1 ∧ State.reset.brola.asg = none
      ∧ findRunning run .brola r = some x ∧ formatOk run .brola r = true ∧ opIdem 0x10 = false ∧ findDup dup .brola r = some e
      ∧ (after (.aadd r (.brola 0)) dup).out = [.cmp { cmpOf r (brolaSrc dup) .duplicate with origStatus := .ok, result := 5 }]
      ∧ hdrOk odd = true ∧ formatOk leafOne .brola odd = false ∧ opIdem 1 = true
      ∧ (after (.ld odd (.brola 0)) leafOne).out = [.cmp (cmpOf odd (brolaSrc leafOne) .accDenied)] := by decide +kernel

/-- Every request command occurs with its opcode. -/
theorem test_requestCommands : requestCommands.map (·.1) = [0x01, 0x02, 0x10, 0x11, 0x12, 0x13, 0x14, 0x15, 0x16, 0x17, 0x18, 0x19, 0x20, 0x21, 0x28, 0x30, 0x31, 0x32, 0x34, 0x38] := by
  decide

/-- A serving member of course 0 whose capo 5 has page 0x10 in tier A, cached in SX0; the flag and the counter memory are as reset leaves them. -/
def kojOne : State :=
  { State.reset with
    pwr := { pdOn := BitVec.allOnes 36 }, course := { serving := true }, clk := { now := 500000000, anchored := true }, disc := { phase := 9, site := some {} }
    mem := { rcache := [(0, [(5, 1)])], pages := [(0, 16777216)] }
    prog := { State.reset.prog with eff := [((1, 5), 5 + 2 ^ 9 + (2 ^ 512 - 1) * 2 ^ 512), ((0x0C, 1), 1 + 5 * 2 ^ 16 + 2 ^ 27 + 0x10 * 2 ^ 96 + 2 * 2 ^ 160)] } }

/-- A request of this Kojor itself for page 0x10 of its own course. -/
def kojReq (op kind off len : Nat) : Req :=
  sealReq { op := op, attr := if 0x10 ≤ op ∧ op ≤ 0x17 then 1 else 0, src := mySrc kojOne, capo := 5, seq := 9, len := len, addr := mkAddr kind 0 0 0 0 off, op0 := 0xFF, op1 := 1 }
def pageStore : Req := { kojReq 2 2 0x10FF8 8 with data := [1, 2, 3, 4, 5, 6, 7, 8] }
def regionOne : Region := { rid := 1, capo := 5, tier := 0, mir := true, ro := false, place := 0, vpage := 0x10, npages := 2, pbase := 0 }

theorem witness_entersKojor : entersKojor kojOne (kojReq 1 2 0x10FF8 8) .self ∧ entersKojor kojOne pageStore .self ∧ entersKojor kojOne (kojReq 0x10 2 0x10FF8 8) .self :=
  ⟨⟨nofun, nofun, by decide +kernel⟩, ⟨nofun, nofun, by decide +kernel⟩, ⟨nofun, nofun, by decide +kernel⟩⟩

/-- The page is this member's: with no twin nothing is mirrored, and with one the store sends its copy an MWRITE. -/
theorem witness_pageHere : let r := kojReq 1 2 0x10FF8 8
    kindReserved r.addr = false ∧ aKind r.addr = 2 ∧ zerosOk r.addr = true ∧ scratchWin (aOff r.addr) = none ∧ tierOf (aOff r.addr) = some 0
      ∧ regionAt kojOne.prog.eff 5 0x10 = some regionOne ∧ cached kojOne (viaSx .self) 5 1 = true
      ∧ (match serveAt (cacheTouch kojOne (viaSx .self) 5 1) regionOne (aOff r.addr) false with
          | .here _ m => !m
          | _ => false) = true := by decide +kernel

/-- The mirror messages that wait at the emergency requesters. -/
def sentMirrors (u : State) : List MirrorBody := u.sw.injected.flatMap fun e => e.2.filterMap fun i => i.msg.map (·.2)

theorem witness_pages :
    let twin := { kojOne with course := { serving := true, twinUp := true }, links := [(512, { stage := 9 })] }
    mirrorOn kojOne = false ∧ kojOne.course.alone = false ∧ mirrorOn twin = true ∧ mirrorFull twin 5 = false ∧ (windowAt kojOne 5 0x10FF8 8).isNone = true
      ∧ (after (.st pageStore .self) kojOne).out = [.cmp (cmpOf pageStore (mySrc kojOne) .ok)]
      ∧ (sentMirrors (after (.st pageStore .self) twin)).filterMap (fun b => match b with
          | .mwrite _ d _ _ => some d
          | _ => none) = [pageStore.data]
      ∧ ((after (.st pageStore .self) twin).course.unconf.length) = 1
      ∧ loadUnheld kojOne regionOne (kojReq 1 2 0x10FF8 8) = false
      ∧ ((after (.ld { kojReq 1 2 0x10FF8 8 with seq := 10, hcrc := (sealReq { kojReq 1 2 0x10FF8 8 with seq := 10 }).hcrc } .self) (after (.st pageStore .self) kojOne)).out.drop 1).map
          (fun o => match o with | .cmp c => c.data | _ => []) = [pageStore.data] := by decide +kernel

theorem test_pageAtomic : let u := after (.acas (sealReq { kojReq 0x15 2 0x10FF8 8 with op0 := 0 }) .self) kojOne
    (u.out.map fun o => match o with | .cmp c => (c.status, c.result) | _ => (.retry, 0)) = [(.ok, 0)] ∧ u.mem.phys.map (·.2) = [1] := by decide +kernel

/-- A page in a read-only region, and one whose word is poisoned. -/
theorem witness_pageRefused :
    let ro := { kojOne with prog := { kojOne.prog with eff := [((1, 5), 5 + 2 ^ 9 + (2 ^ 512 - 1) * 2 ^ 512), ((0x0C, 1), 1 + 5 * 2 ^ 16 + 2 ^ 27 + 2 ^ 28 + 0x10 * 2 ^ 96 + 2 * 2 ^ 160)] } }
    ((regionAt ro.prog.eff 5 0x10).map (·.ro)) = some true ∧ (after (.st pageStore .self) ro).out = [.cmp (cmpOf pageStore (mySrc ro) .accDenied)] := by decide +kernel

/-! Control space, barriers, copies and invalidations. -/

/-- A request for the last flag, and for counter 65,535 of the leaf, and of this Kojor's course. -/
def leafCtl (op off : Nat) : Req := sealReq { leafReq op 0 8 with addr := mkAddr 4 0 0 0 0 off }
def kojCtl (op off : Nat) : Req := sealReq { kojReq op 2 0 8 with op1 := 0, addr := mkAddr 4 0 0 0 0 (2 ^ 45 + off) }

theorem witness_leafControl :
    let f := leafCtl 0x30 0xFFF8
    let k := leafCtl 0x10 0x8FFF8
    hdrOk f = true ∧ formatOk leafOne .brola f = true ∧ ownLeaf leafOne f.addr = true ∧ lfLoc (aOff f.addr % 2 ^ 45) = some (.flag 8191) ∧ lfAccepts (.flag 8191) f = true
      ∧ (after (.fset f (.brola 0)) leafOne).brola.flags.get 8191 false = true
      ∧ formatOk leafOne .brola k = true ∧ lfLoc (aOff k.addr % 2 ^ 45) = some (.ctr 65535) ∧ (after (.aadd k (.brola 0)) leafOne).brola.ctrs.get 65535 0 = 255
      ∧ (after (.fclr { leafCtl 0x31 0xFFF8 with seq := 10, hcrc := hdrCrc { leafCtl 0x31 0xFFF8 with seq := 10 } } (.brola 0)) (after (.fset f (.brola 0)) leafOne)).brola.flags.get 8191 true = false := by
  decide +kernel

theorem witness_switchControl :
    let f := kojCtl 0x30 0x7FFF8
    let k := kojCtl 0x10 0xFFFF8
    hdrOk f = true ∧ formatOk kojOne .kojor f = true ∧ answersHere kojOne f = true ∧ ctlHere kojOne f.addr = true ∧ swLoc (aOff f.addr % 2 ^ 45) = some (.flag 65535)
      ∧ swAccepts (.flag 65535) f = true ∧ flagBad kojOne (ctlMember f.addr) 5 (.flag 65535) = false ∧ zerosOk f.addr = true
      ∧ flagOf (after (.fset f .self) kojOne) (false, 5, 65535) = true ∧ formatOk kojOne .kojor k = true
      ∧ swLoc (aOff k.addr % 2 ^ 45) = some (.ctr 65535) ∧ ctrOf (after (.aadd k .self) kojOne) (false, 5, 65535) = 255
      ∧ ((after (.ftest (kojCtl 0x32 0x7FFF8) .self) kojOne).out.length) = 1 := by decide +kernel

/-- Group 7 of capo 5 has two participants, both here, and the barrier of group 7 stands as b. -/
def barOne (b : Barrier) : State :=
  { kojOne with prog := { kojOne.prog with eff := ((0x0F, 7 + 5 * 4096), 7 + 5 * 4096 + 2 * 2 ^ 24 + 2 * 2 ^ 39) :: kojOne.prog.eff }, ctl := { bars := [((false, 5, 7), b)] } }
def barReq (n epoch : Nat) : Req := sealReq { kojCtl 0x34 0x100038 with group := 7, op0 := BitVec.ofNat 64 n, epoch := epoch }

theorem witness_barriers :
    let s := barOne {}
    let one : Barrier := { st := .counting, n := 1, stated := 2, epoch := 4, openedAt := 400000000, held := [({ barReq 2 4 with seq := 1 }, .self)] }
    hdrOk (barReq 2 4) = true ∧ formatOk s .kojor (barReq 2 4) = true ∧ (groupEntry s.prog.eff 7 5).isSome = true ∧ barFree s (false, 5, 7) = true
      ∧ swLoc (aOff (barReq 2 4).addr % 2 ^ 45) = some (.bar 7) ∧ ctlMember (barReq 2 4).addr = false
      ∧ (barOf (after (.barr (barReq 2 4) .self) s) (false, 5, 7)).st = .counting
      ∧ barFree (barOne one) (false, 5, 7) = true ∧ (barOf (after (.barr (barReq 2 4) .self) (barOne one)) (false, 5, 7)).st = .idle
      ∧ ((after (.barr (barReq 2 4) .self) (barOne one)).out.length) = 2
      ∧ (barOf (after (.barr (barReq 2 5) .self) (barOne one)) (false, 5, 7)).st = .poisoned
      ∧ ((after (.barr (barReq 2 4) .self) (barOne { st := .expired })).out.map fun o => match o with | .cmp c => c.status | _ => .ok) = [.timeout]
      ∧ ((after (.barr (barReq 2 4) .self) (barOne { st := .poisoned })).out.map fun o => match o with | .cmp c => c.status | _ => .ok) = [.collMismatch] := by
  decide +kernel

/-- A barrier that has counted for exactly the barrier timeout of its capo, and one whose completion timeout is over. -/
theorem witness_barrierEnds :
    let s := barOne { st := .counting, n := 1, stated := 2, openedAt := 400000000 }
    let e := barOne { st := .expired, changedAt := 492000000 }
    (barOf s (false, 5, 7)).openedAt + capoBto s.prog.eff 5 * 1000000 = s.clk.now ∧ barOf s (true, 5, 7) = {}
      ∧ (barOf (after (.barrierTimeout 5 7) s) (false, 5, 7)).st = .expired
      ∧ (barOf e (false, 5, 7)).changedAt + capoCto e.prog.eff 5 * 1000 = e.clk.now ∧ barOf (after (.barrierRecover 5 7) e) (false, 5, 7) = {} := by decide +kernel

/-- A multicast of capo 5 to row 0, and one to a set in which its capo has no leaf. -/
def mstReq (capo : Nat) : Req := sealReq { kojReq 0x28 3 0 8 with capo := capo, data := List.replicate 8 1, addr := mkAddr 3 0 0 0 0 0 }

theorem witness_multicast :
    let m : Mcast := { id := 4, r := mstReq 5, v := .string 3, arrived := 496000000, waiting := [0], delivered := [1] }
    let s := { kojOne with mcasts := [m], resp := { running := [{ r := mstReq 5, v := .string 3, why := .mcast }] } }
    hdrOk (mstReq 5) = true ∧ formatOk kojOne .kojor (mstReq 5) = true ∧ mcastSet kojOne (mstReq 6).addr 6 = [] ∧ zerosOk (mstReq 5).addr = true
      ∧ m.arrived + capoCto s.prog.eff 5 * 500 = s.clk.now ∧ (findRunning s .kojor (mstReq 5)).isSome = true
      ∧ (after (.mcastCopyTimeout 4) s).mcasts = []
      ∧ ((after (.mcastCopyTimeout 4) s).out.map fun o => match o with | .cmp c => (c.status, c.delivered) | _ => (.ok, 0)) = [(.partialMcast, 1)] := by decide +kernel

/-- A multicast whose capo has no leaf comes over a soundpost or a bridge string only: elsewhere the first checks refuse it. -/
theorem witness_multicastEmpty :
    hdrOk (mstReq 6) = true ∧ answersHere kojOne (mstReq 6) = true ∧ isFirst kojOne (.soundpost 0) = false ∧ mcastSet kojOne (mstReq 6).addr 6 = []
      ∧ ((after (.mst (mstReq 6) (.soundpost 0)) kojOne).out.map fun o => match o with | .cmp c => c.status | _ => .ok) = [.capoViolation] := by decide +kernel

/-- A multicast for which the set has one leaf. -/
theorem witness_multicastOne :
    let s := { kojOne with prog := { kojOne.prog with eff := ((2, 3), 3 + 2 ^ 9) :: kojOne.prog.eff } }
    (mcastSet s (mstReq 5).addr 5).length = 1 ∧ (after (.mst (mstReq 5) .self) s).rq.nextId = 1 := by decide +kernel

/-- A copy of 8 bytes within the leaf, and one within the page of capo 5. -/
def leafCopy : Req := sealReq { leafReq 0x38 0 64 with addr := mkAddr 4 0 0 0 0 0x190000, data := leBytes 64 (8 * 2 ^ 64 + 8 * 2 ^ 128) }
def kojCopy : Req := sealReq { kojCtl 0x38 0x1C0000 with len := 64, data := leBytes 64 ((mkAddr 2 0 0 0 0 0x10000).toNat + (mkAddr 2 0 0 0 0 0x10800).toNat * 2 ^ 64 + 8 * 2 ^ 128) }

theorem witness_copies :
    let full := { leafOne with brola := { leafOne.brola with copyQ := List.replicate 1024 leafCopy } }
    hdrOk leafCopy = true ∧ formatOk leafOne .brola leafCopy = true ∧ lfLoc (aOff leafCopy.addr % 2 ^ 45) = some .copyQ ∧ (copyBadB leafOne leafCopy).isNone = true
      ∧ (after (.cpyd leafCopy (.brola 0)) leafOne).brola.copyQ = [leafCopy] ∧ ((after (.cpyd leafCopy (.brola 0)) full).brola.copyQ.length) = 1024
      ∧ hdrOk kojCopy = true ∧ formatOk kojOne .kojor kojCopy = true ∧ swLoc (aOff kojCopy.addr % 2 ^ 45) = some .copyQ ∧ (copyBadK kojOne kojCopy .self).isNone = true
      ∧ deferred kojOne 5 = false ∧ (after (.cpyd kojCopy .self) kojOne).ctl.copyQ = [kojCopy]
      ∧ (after (.copyStart .brola) { leafOne with brola := { leafOne.brola with copyQ := [leafCopy] } }).brola.nextCopy = 1 := by decide +kernel

theorem witness_copyDeferred : let s := { kojOne with elg := { defer := true } }
    deferred s 5 = true ∧ (after (.cpyd kojCopy .self) s).ctl.copyQ = [] := by decide +kernel

/-- An INV of leaf lines and of translations, with a translation in and one out of its range. -/
theorem witness_inv :
    let r := sealReq { leafCtl 0x3C 0 with len := 0, attr := 1, op0 := 0x1000, op1 := 0x1000 }
    let s := { leafOne with brola := { leafOne.brola with xlates := [(0, { vbase := 0x1FFF, size := 1, fbase := 0, write := true }), (1, { vbase := 0x2000, size := 1, fbase := 0, write := true })] } }
    hdrOk r = true ∧ formatOk s .brola r = true ∧ lfAccepts (.flag 0) r = true ∧ (dropXlates s 0x1000 0x1000).2 = []
      ∧ ((after (.invTranslation r (.brola 0)) s).brola.xlates.map (·.1)) = [1]
      ∧ ((after (.invLeafLines (sealReq { r with attr := 0 }) (.brola 0)) s).out) = [.discard 0 0x1000 0x1000] := by decide +kernel

/-- An INV of SCOPE 0b10 of a host port: it drains, and completes with no twin. -/
def invReq : Req := sealReq { kojCtl 0x3C 0 with src := hostSrc kojOne 7, len := 0, attr := 2, op0 := 0, op1 := 0x1000 }

theorem witness_invDrain :
    let s := { kojOne with prog := { kojOne.prog with eff := ((3, 7), 7 + 2 ^ 4) :: kojOne.prog.eff } }
    let u := after (.invRegionCache invReq (.host 7)) s
    hdrOk invReq = true ∧ srcOk s invReq (.host 7) = true ∧ targetOk s invReq = true ∧ formatOk s .kojor invReq = true ∧ swAccepts (.flag 0) invReq = true
      ∧ (u.mem.drains.map (·.r)) = [invReq] ∧ drainBusy u invReq = false ∧ (oldestFinal u .kojor invReq.src 0).isNone = true
      ∧ (after (.invDrainComplete invReq.src 0 9) u).out = [.cmp (cmpOf invReq (mySrc s) .ok)] := by decide +kernel

/-- A PFA of two pages that is in the capo's region, one that is not, and one whose last page is left. -/
def pfaReq (attr off : Nat) : Req := sealReq { kojReq 0x3E 2 off 0 with attr := attr, op0 := mkAddr 2 0 0 0 0 off, op1 := 8192 }

theorem witness_pfa :
    let r := pfaReq 1 0x10000
    let s := kojOne
    let u := after (.pfaZero r .self) s
    hdrOk r = true ∧ formatOk s .kojor r = true ∧ pfaXlate s r = none ∧ pfaMine s r = [0, 1] ∧ pfaLost s r r.addr 0 = false ∧ pfaLost s r r.addr 1 = false
      ∧ (windowAt s 5 0x10000 8192).isNone = true ∧ (u.mem.pfas.map (·.left)) = [[0, 1]] ∧ u.out = []
      ∧ pfaXlate s (pfaReq 1 0x20000) = some (mkAddr 2 0 0 0 0 0x20000) ∧ (after (.pfaZero (pfaReq 1 0x20000) .self) s).mem.pfas = [] := by decide +kernel

theorem witness_pfaComplete :
    let r := pfaReq 1 0x10000
    let s := { kojOne with mem := { kojOne.mem with phys := [(4095, 7), (4096, 7)], pfas := [{ r := r, v := .self, left := [0], twinDone := true }] }
                           prog := { kojOne.prog with eff := [((0x0C, 1), 1 + 5 * 2 ^ 16 + 0x10 * 2 ^ 96 + 2 * 2 ^ 160)] } }
    let h := regionAt s.prog.eff 5 (pfaOff r.op0 0 / 4096)
    (h.map (·.mir)) = some false ∧ (h.map fun g => copyKey g (pfaOff r.op0 0) (isMine s (pfaOff r.op0 0))) = some 0 ∧ (oldestFinal s .kojor r.src 0).isNone = true
      ∧ (s.mem.pfas.map (·.left)) = [[0]] := by decide +kernel

/-! Windows, requesters and tables. -/

/-- Capo 5 has an unmirrored region and window 8191 over its first page, which stands as `f` makes it. -/
def winOne (f : Window → Window) : State :=
  { kojOne with
    accMib := 64
    prog := { kojOne.prog with eff := [((1, 5), 5 + 2 ^ 9 + (2 ^ 512 - 1) * 2 ^ 512), ((0x0C, 1), 1 + 5 * 2 ^ 16 + 0x10 * 2 ^ 96 + 2 * 2 ^ 160)] }
    wins := [(8191, some (f { d := { wid := 8191, base := 0x10000, lenp := 1, fmt := 15, mode := 2, each := true, rearm := true, e := 1000, fctr := 3, fctrInc := 2, capo := 5 } }))] }

/-- A contribution of 64 bytes of FP32 to the last line of the page. -/
def rstReq (epoch off : Nat) : Req := { sealReq { kojReq 0x20 2 off 64 with epoch := epoch, attr := 0, op0 := 0, op1 := 0 } with data := List.replicate 64 0 }

theorem witness_contributions :
    let s := winOne id
    let r := rstReq 6 0x10FC0
    hdrOk r = true ∧ formatOk s .kojor r = true ∧ ((regionAt s.prog.eff 5 0x10).map (·.mir)) = some false ∧ cached s (viaSx .self) 5 1 = true ∧ isMine s 0x10FC0 = true
      ∧ ((winAt s 5 0x10FC0).map (·.d.wid)) = some 8191 ∧ rtUp s (pageRt (cacheTouch s (viaSx .self) 5 1) [] 5 0x10FC0) = true ∧ deferred s 5 = false
      ∧ ((winOf s 8191).map fun w => (w.st, winDenies w r, winMismatch (openInst s w r) r 0xFC0)) = some (.idle, false, false) ∧ heldUsed s 5 < poolPart s 262144 5
      ∧ ((winOf (after (.rst r .self) s) 8191).map fun w => (w.st, w.epoch, w.exact)) = some (.active, 6, false)
      ∧ (winAt s 5 0x11000).isNone = true := by decide +kernel

/-- An active, a poisoned and an expired window answer as Table 7-7 says. -/
theorem test_contributions :
    let st := fun (s : State) => (after (.rst (rstReq 6 0x10FC0) .self) s).out.map fun o => match o with | .cmp c => c.status | _ => .ok
    st (winOne id) = [.ok] ∧ st (winOne fun w => { w with st := .active, epoch := 5 }) = [.collMismatch] ∧ st (winOne fun w => { w with st := .poisoned }) = [.collMismatch]
      ∧ st (winOne fun w => { w with st := .expired }) = [] := by decide +kernel

theorem witness_windowsEnd :
    let fin := winOne fun w => { w with st := .finalising, epoch := 6 }
    let act := winOne fun w => { w with st := .active, deadlineNs := 100, openedAt := 499999900 }
    let exp := winOne fun w => { w with st := .expired, changedAt := 492000000 }
    let get : State → Option (WinState × Option Nat × Nat) := fun s => (winOf s 8191).map fun w => (w.st, w.lastF, w.finals)
    ((winOf fin 8191).map fun w => (w.st, w.held.length)) = some (.finalising, 0) ∧ get (after (.windowFinalised 8191) fin) = some (.idle, some 6, 1)
      ∧ ctrOf (after (.windowFinalised 8191) fin) (false, 5, 3) = 2
      ∧ ((winOf act 8191).map fun w => decide (w.openedAt + w.deadlineNs = act.clk.now)) = some true ∧ ((winOf (after (.windowDeadline 8191) act) 8191).map (·.st)) = some .expired
      ∧ ((winOf exp 8191).map fun w => decide (w.changedAt + capoCto exp.prog.eff 5 * 1000 = exp.clk.now)) = some true
      ∧ ((winOf (after (.windowRecover 8191) exp) 8191).map (·.st)) = some .idle := by decide +kernel

/-- A leaf with one load outstanding, to the switch memory of course 1; its completion asks for a resend after 3 µs. -/
def outOne (f : Outst → Outst) : State :=
  { leafOne with brola := { leafOne.brola with now := 9000000, digest := some 0, rq := { out := [f
      { id := 4, r := sealReq { op := 1, capo := 5, seq := 7, len := 8, addr := mkAddr 2 0 0 1 0 0x10000 }, dest := .course 0 0 1, owner := .port 2 0, released := true, firstAt := 1000000,
        sentAt := 1000000, period := 8000000, sent := true }] } } }
def cmpFor (st : Status) : Cmp := { cmpOf (sealReq { op := 1, capo := 5, seq := 7, len := 8, addr := mkAddr 2 0 0 1 0 0x10000 }) (mkKojorSrc 0 0 1 false 0) st with retryAfter := 3 }

theorem witness_requester :
    let s := outOne id
    let u := after (.cmp .brola 0 (cmpFor .retry) (cmpCrc (cmpFor .retry))) s
    ((matchOut s .brola (cmpFor .retry)).map (·.id)) = some 4 ∧ ((findOut u .brola 4).map (·.resendAt)) = some (some 9003000)
      ∧ (matchOut State.reset .brola (cmpFor .retry)).isNone = true ∧ (after (.cmp .brola 0 (cmpFor .ok) (cmpCrc (cmpFor .ok))) s).brola.rq.out = []
      ∧ count (after (.cmp .brola 511 (cmpFor .ok) (cmpCrc (cmpFor .ok) + 1)) s) .brlHdrErr [511] = 1
      ∧ ((findOut (after (.retryResend .brola 4) (outOne fun o => { o with resendAt := some 9000000 })) .brola 4).map fun o => (o.r.retry, o.r.seq, o.resendAt)) = some (true, 7, none)
      ∧ ((findOut (after (.retryResend .brola 4) (outOne fun o => { o with resendAt := some 9000001 })) .brola 4).map (·.r.retry)) = some false := by decide +kernel

theorem witness_requesterTimes :
    let held := outOne fun o => { o with released := false }
    ((findOut (outOne id) .brola 4).map fun o => decide (o.sentAt + o.period = 9000000 ∧ o.retx < 3 ∧ o.resendAt = none) && !isCopy o && opIdem o.r.op) = some true
      ∧ ((findOut (after (.completionTimeout .brola 4) (outOne id)) .brola 4).map fun o => (o.retx, o.sentAt)) = some (1, 9000000)
      ∧ ((findOut held .brola 4).map fun o => mayRelease held .brola o) = some true
      ∧ ((findOut (after (.requestRelease 4) held) .brola 4).map (·.released)) = some true
      ∧ ((findOut { held with brola := { held.brola with rq := { held.brola.rq with quietUntil := 9000001 } } } .brola 4).map fun o =>
          mayRelease { held with brola := { held.brola with rq := { held.brola.rq with quietUntil := 9000001 } } } .brola o) = some false := by decide +kernel

theorem witness_tables :
    let e : DupEntry := { src := 1, tc := 7, seq := 5, hcrc := 0, status := .ok, result := 0, made := 0, capo := 5 }
    let h : HeldFinal := { r := { leafReq 2 248 8 with final := true }, v := .brola 0, arrived := 992000000 }
    let s := { leafOne with brola := { leafOne.brola with now := 1000000000, resp := { dups := [e, { e with made := 990000000 }], counts := [((1, 3), {}), ((1, 4), { n := 1 })] } } }
    let f := { leafOne with brola := { leafOne.brola with now := 1000000000, resp := { finals := [h] } } }
    (after (.sourceReset .brola) (outOne id)).brola.rq.quietUntil = 25000000 ∧ (after (.dupEntryRelease .brola 1 7 5) s).brola.resp.dups = [{ e with made := 990000000 }]
      ∧ (countOf s .brola 1 3).isSome = true ∧ (countOf (after (.countSlotRelease .brola 1 3) s) .brola 1 3).isNone = true
      ∧ (countOf (after (.countSlotRelease .brola 1 4) s) .brola 1 4).isSome = true
      ∧ h.arrived + holdLimit f .brola h.r = f.brola.now ∧ opIdem h.r.op = true
      ∧ ((after (.finalHoldTimeout .brola h.r.src 0 9) f).out.map fun o => match o with | .cmp c => c.status | _ => .ok) = [.timeout] := by decide +kernel

/-! The Brola. -/

/-- A port that has every request outstanding, by their number alone, and one with a translation of page 0x1000 that may not be written. -/
def portOne (op : Nat) (v : Bool) (va : Nat) : PortReq := { tag := 3, ktag := 1, v := v, pasid := 2, req := { op := op, tc := 7, len := 8, addr := BitVec.ofNat 64 va } }

theorem witness_port :
    let s := { leafOne with brola := { leafOne.brola with xlates := [(0, { pasid := 2, vbase := 0x1000, size := 4096, fbase := 0, write := false })] } }
    (portLoc s (portOne 1 false 0).req).isNone = true ∧ portCount s < 8192 ∧ portFormat (portOne 1 false 8).req = true ∧ portFormat (portOne 1 false 4).req = false
      ∧ ((after (.portRequest (portOne 1 false 8)) s).brola.rq.out.map fun o => (o.r.tc, o.r.capo, o.released)) = [(7, 5, false)]
      ∧ (after (.portRequest (portOne 1 false 4)) s).out = [.portRefused 3 .accDenied]
      ∧ (xlateHit s 0x2000 2).isNone = true ∧ (after (.portRequest (portOne 1 true 0x2000)) s).out = [.atsRequest 0 0x2000 2]
      ∧ ((xlateHit s 0x1FF8 2).map (·.2.write)) = some false ∧ needsWrite 2 = true
      ∧ ((after (.portRequest (portOne 2 true 0x1FF8)) s).out.map fun o => match o with | .portDone t c => (t, c.status) | _ => (0, .ok)) = [(3, .xlateFault)] := by decide +kernel

/-- The accelerator reads a counter of the Brola, and may not read one of the switch. -/
theorem witness_portCounter :
    let s := { leafOne with ctr := [((.brlHdrErr, [3]), 9)] }
    let ask := fun k : CtrKey => (after (.portRequest { tag := 3, ctr := some k }) s).out
    isBrolaCtr (.brlHdrErr, [3]) = true ∧ isBrolaCtr (.sxHdrErr, [0, 3]) = false ∧ ask (.sxHdrErr, [0, 3]) = [.portRefused 3 .accDenied]
      ∧ ((ask (.brlHdrErr, [3])).map fun o => match o with | .portDone t c => (t, c.result) | _ => (0, 0)) = [(3, 9)] := by decide +kernel

/-- A request that waits for the translation of 0x2FF8; one comes that covers it to the last word, one that does not, and none. -/
theorem witness_xlate :
    let s := after (.portRequest (portOne 2 true 0x2FF8)) leafOne
    let x : AtsXlate := { vbase := 0x2000, size := 4096, fbase := mkAddr 2 0 0 0 0 0x10000, write := true }
    let late := { s with brola := { s.brola with now := 99 + 8000000 } }
    ((findOut s .brola 0).bind waiting) = some (0x2FF8, 2, 3, 1) ∧ xlateOk x 0x2FF8 = true ∧ xlateOk { x with vbase := 0x3000 } 0x2FF8 = false ∧ s.brola.xlates.length < 32768
      ∧ ((after (.atsTranslationComplete 0 (some x)) s).brola.rq.out.map (·.r.addr)) = [mkAddr 2 0 0 0 0 0x10FF8]
      ∧ (after (.atsTranslationComplete 0 none) s).brola.rq.out = []
      ∧ ((findOut late .brola 0).map fun o => decide (o.accepted + (late.brola.asg.map (·.cto)).getD 8000 * 1000 = late.brola.now)) = some true
      ∧ (after (.atsTranslationTimeout 0) late).brola.rq.out = [] ∧ (after (.atsTranslationTimeout 0) s).brola.rq.out.length = 1 := by decide +kernel

theorem witness_atsInvalidation :
    let i : Inval := { tag := some 31, begun := true, waits := [4] }
    let s := outOne id
    let a := { s with brola := { s.brola with atsInv := [i] } }
    let b := { leafOne with brola := { leafOne.brola with atsInv := [i] } }
    let full := { s with brola := { s.brola with atsInv := List.replicate 32 i } }
    invRoom s = true ∧ invRoom full = false ∧ ((after (.atsInvalidation 9 0 4096) full).brola.atsInv.map (·.begun)) = List.replicate 32 true ++ [false] ∧ (after (.atsInvalidation 31 0 4096) s).brola.atsInv.length = 1 ∧ (findOut a .brola 4).isSome = true ∧ (findOut b .brola 4).isNone = true
      ∧ (after (.atsInvalidationComplete 31) a).out = [] ∧ (after (.atsInvalidationComplete 31) b).out = [.atsInvDone 31] := by decide +kernel

/-- Windows 63 and 64, and a kernel whose requests have and have not completed. -/
theorem witness_kernels :
    let w : AccWin := { base := 256, len := 512, rd := true, isOpen := true }
    let s := { leafOne with brola := { leafOne.brola with kEnding := [1], kernels := [(1, (true, 3))], discards := [(0, 2)] } }
    let busy := { outOne (fun o => { o with owner := .port 2 1 }) with brola := { (outOne (fun o => { o with owner := .port 2 1 })).brola with kEnding := [1] } }
    accWinOk s 63 w = true ∧ accWinOk s 64 w = false ∧ (after (.accessWindowDefine 63 w) s).brola.wins.get 63 {} = w ∧ (after (.accessWindowDefine 64 w) s).brola.wins = s.brola.wins
      ∧ (after (.kernelBegin 1) leafOne).out = [.discard 0 0 (2 ^ 64)] ∧ (after (.discardAck 0) s).out = [.kernelBegin 1]
      ∧ kernelBusy s 1 = false ∧ (after (.kernelEndSignal 1) s).out = [.kernelEnd 1 3] ∧ kernelBusy busy 1 = true ∧ (after (.kernelEndSignal 1) busy).out = [] := by decide +kernel

/-- String 3 of this member and its leaf's string; the neighbour's values at bridge string 448; the twin's at string 543. -/
theorem witness_strings :
    let s := { swOne with links := [(3, { stage := 9 }), (448, { stage := 9 }), (543, { stage := 9 })] }
    let twin : BridgeHello := { memberB := true }
    let b := 2 * (3 % max (stringsPerLeaf s) 1)
    strReady s 3 = true ∧ attachFits s 3 b = true ∧ (linkOf (after (.attach 3 9 b {}) s) 3).attachOk = true ∧ attachFits s 3 (b + 1) = false
      ∧ (linkOf (after (.attach 3 9 (b + 1) {}) s) 3).cause = .miswire ∧ isBridge s 448 = true ∧ (linkOf (after (.bridgeHello 448 (farHello s 448)) s) 448).attachOk = true
      ∧ (linkOf (after (.bridgeHello 448 { farHello s 448 with course := 1 }) s) 448).cause = .miswire
      ∧ twinHelloOk s twin = true ∧ (linkOf (after (.bridgeHello 543 twin) s) 543).attachOk = true ∧ twinHelloOk s { twin with memberB := false } = false
      ∧ (linkOf (after (.bridgeHello 543 { twin with memberB := false }) s) 543).cause = .miswire := by decide +kernel

theorem witness_brolaFrames :
    let a : Assign := { sweep := 8, capo := 5, digest := 6 }
    let s := { leafOne with brola := { leafOne.brola with digest := some 6, assigns := [(0, some { a with sweep := 8 }), (1, none)], snaps := [99], steered := [(1, true)] } }
    (after (.assign 31 a) s).brola.asg = some a ∧ (after (.assign 31 { a with sweep := 7 }) s).brola.asg = some a
      ∧ (after (.steer 0 15 true) s).brola.steered.length = 2 ∧ (after (.restore 0 1 true) s).brola.steered = []
      ∧ (after (.snap 0 100) s).brola.snaps = [99, 100] ∧ (after (.snap 0 99) s).brola.snaps = [99]
      ∧ (after (.brolaSnapshot 99) s).brola.snaps = [] ∧ (after (.brolaSnapshot 98) s).brola.snaps = [99] := by decide +kernel

/-- Group 7 of capo 5 at this leaf: two participants, one slot of one page whose window this Kojor holds; its queue as f makes it. -/
def collOne (f : CollQ → CollQ) : State :=
  let e := 7 + 5 * 4096 + 2 * 2 ^ 24 + 2 * 2 ^ 39 + 1 * 2 ^ 80 + 1 * 2 ^ 192 + 1 * 2 ^ 512
  { winOne (fun w => { w with d := { w.d with wid := 0 } }) with
    wins := [(0, some { d := { base := 0x10000, lenp := 1, fmt := 0, capo := 5, group := 7, e := 1000 } })]
    brola := { leafOne.brola with digest := some 0, mem := (leBytes 64 (6 + 7 * 2 ^ 16)).zipIdx.filterMap fun x => if x.1 = 0 then none else some (x.2, x.1)
                                  groups := [(7, f { entry := some e })] } }

theorem witness_collectives :
    let s := collOne id
    let d : CollDesc := { group := 7, count := 16, dstBuf := mkAddr 2 0 0 0 0 0x10000 }
    let cop := fun (u : State) => (collQ u 7).run.map (·.cop)
    collOk s 1 d = true ∧ collOk s 1 { d with fmt := 7 } = false ∧ (after (.allreduce { d with fmt := 7 }) s).out = [.portRefused 7 .accDenied]
      ∧ cop (after (.rscatter d) s) = some 2 ∧ cop (after (.reduce d) s) = some 3 ∧ cop (after (.allgather d) s) = some 4 ∧ cop (after (.bcast d) s) = some 5
      ∧ cop (after (.barrier d) s) = some 6 ∧ cop (after (.gshard d) s) = some 7 ∧ fusedSubs s { d with count := 1 } = [(6, { d with count := 0, dstBuf := 0 })]
      ∧ cop (after (.fused { d with count := 1 }) s) = some 6
      ∧ ((after (.allreduce d) s).brola.rq.out.map fun o => (o.r.op, o.r.group)) = [(0x20, 7)] := by decide +kernel

theorem witness_collectiveQueues :
    let d : CollDesc := { group := 7, count := 16 }
    let out := collOne fun q => { q with outOfStep := true }
    let busy := collOne fun q => { q with run := some { cop := 6, d := d, e := 0, ge := 0, chunks := 0, left := 1 } }
    (after (.allreduce d) out).brola.ctrs.get 0 0 = 1 ∧ collOk busy 1 d = true ∧ ((collQ (after (.allreduce d) busy) 7).queue.length) = 1
      ∧ (collQ (after (.groupReset 7 65537) out) 7).ge = 1 ∧ (collQ (after (.groupReset 7 65537) out) 7).outOfStep = false
      ∧ (collQ (after (.groupReset 8 1) out) 8).ge = 0 := by decide +kernel

/-! Programs. -/

/-- The shortest image of a control program: a header, one empty section, the digest of both. -/
def imgHead : List Byte := leBytes 64 (0x53495350 + 2 ^ 32 + 2 ^ 40 + 2 ^ 48) ++ leBytes 16 (7 + 80 * 2 ^ 32)
def imgOne : List Byte := imgHead ++ sha384 imgHead

/-- A descriptor of a control program, or a stream, of capo 5, of an image of 128 bytes, and a member in which it is queued or being admitted. -/
def descOne (control : Bool) : Nat := 128 * 2 ^ 64 + ofB control * 2 ^ 96 + 2 ^ 97 + 5 * 2 ^ 112 + 7 * 2 ^ 128
def progOne (p : Prog) : State := { kojOne with prog := { p with eff := kojOne.prog.eff } }

theorem witness_admissionStart :
    let s := progOne { queue := [(descOne true, .host 0), (descOne false, .self)] }
    let bad := progOne { queue := [(descOne false + 2 ^ 98, .self)] }
    descOk s (descOne true) = true ∧ loaderMay s (.host 0) 5 = false ∧ loaderMay s .self 5 = true ∧ descOk s (descOne false + 2 ^ 98) = false ∧ descCapo (descOne true) = 5
      ∧ (after (.admissionStart true) s).prog.queue.length = 1 ∧ (after (.admissionStart true) s).prog.cAdm = none
      ∧ ((after (.admissionStart true) s).out.map fun o => match o with | .report _ r _ => (r.event, r.reason) | _ => (0, 0)).headD (0, 0) = (2, 3)
      ∧ ((after (.admissionStart false) s).prog.sAdm.map (·.left)) = some 1 ∧ (after (.admissionStart false) bad).prog.sAdm = none := by decide +kernel

theorem witness_imageFetch :
    let a : Adm := { desc := descOne true, left := 0, parts := [(0, imgOne)] }
    let s := progOne { cAdm := some a }
    let bad := progOne { cAdm := some { a with parts := [(0, imgHead ++ List.replicate 48 0)] } }
    let fail := progOne { cAdm := some { a with fail := some .poison } }
    imgOk imgOne true = true ∧ digestOk imgOne = true ∧ ((after (.imageFetchComplete true) s).prog.ctl.map (·.desc)) = some (descOne true)
      ∧ imgOk (imgHead ++ List.replicate 48 0) true = true ∧ digestOk (imgHead ++ List.replicate 48 0) = false ∧ (after (.imageFetchComplete true) bad).prog.ctl = none
      ∧ imgOk imgOne false = false ∧ (after (.imageFetchComplete true) fail).prog.cAdm = none ∧ inService State.reset = [] := by decide +kernel

/-- The shortest image of a stream: a HALT for one item, and an envelope of one segment. -/
def imgHalt : List Byte :=
  leBytes 64 (2 * 2 ^ 48 + 2 ^ 96) ++ leBytes 16 (1 + 96 * 2 ^ 32 + 16 * 2 ^ 96) ++ leBytes 16 (6 + 112 * 2 ^ 32 + 6 * 2 ^ 96) ++ leBytes 16 (8 * 2 ^ 32) ++ leBytes 6 100

theorem witness_bind :
    let a : Adm := { desc := descOne false, step := 2, tiles := [0], seg0 := some 16, image := imgHalt }
    let s := progOne { sAdm := some a }
    let w := progOne { sAdm := some { a with desc := descOne false - 2 ^ 97 } }
    let bare := progOne { sAdm := some { a with image := [] } }
    descSeedSel (descOne false) = true ∧ binderRefusal a.image a.tiles.length (scrTop s) = none ∧ binds a.image a.tiles [(0, 8)] = true ∧ binds a.image a.tiles [(0, 0)] = false
      ∧ ((after (.bindComplete 0 [(0, 8)]) s).prog.sAdm.map (·.seed)) = some (some 7) ∧ (after (.bindComplete 0 [(0, 8)]) s).prog.cache.length = 1
      ∧ ((after (.bindComplete 0 [(0, 0)]) s).prog.sAdm.map (·.step)) = some 2 ∧ (after (.bindComplete 2 [(0, 8)]) s).prog.sAdm = none
      ∧ binderRefusal [] 1 (scrTop s) = some 9 ∧ (after (.bindComplete 0 []) bare).prog.sAdm = none
      ∧ w.sec.trngOk = false ∧ ((after (.bindComplete 0 [(0, 8)]) w).prog.sAdm.map (·.step)) = some 3 := by decide +kernel

theorem witness_admissionTimeouts :
    let a : Adm := { desc := descOne false, step := 3, waitSince := 490000000 }
    let s := progOne { sAdm := some a }
    let e := progOne { sAdm := some { a with step := 4, waitSince := 400000000 } }
    a.waitSince + 10000000 = s.clk.now ∧ (after .seedWaitTimeout s).prog.sAdm = none ∧ (after .seedWaitTimeout e).prog.sAdm ≠ none
      ∧ 400000000 + capoBto e.prog.eff (descCapo a.desc) * 1000000 = e.clk.now ∧ (after .admissionEnergyTimeout e).prog.sAdm = none
      ∧ (after .admissionEnergyTimeout s).prog.sAdm ≠ none := by decide +kernel

theorem witness_streamStart :
    let a : Adm := { desc := descOne false, step := 5, tiles := List.range 8, seed := some 7, bound := [(0, 9)] }
    let s := progOne { sAdm := some a }
    a.tiles = inService s ∧ changesA s = false ∧ slotLets s 5 = true ∧ a.tiles.any (scratchOpen s.prog.eff) = false ∧ s.str.running = false
      ∧ (after .streamStart s).str.running = true ∧ (after .streamStart s).str.seed = 7 := by decide +kernel

/-- A stream that ends, one that has run MAXCYC cycles, one at a boundary where its slots are over, and one that is busy. -/
theorem witness_streamEnd :
    let s := { strOne with str := { strOne.str with ending := true, desc := descOne false, maxcyc := 41 }, clk := { now := 1000000 } }
    let busy := { s with tiles := [(0, { launchQ := [{ h := 0, ec := 0 }] })] }
    let slots := { s with prog := { s.prog with eff := [((1, 5), 5 + 2 ^ 9 + 2 ^ 10 + 0xFFFF * 2 ^ 16)] } }
    streamIdle s = true ∧ (after .streamEnd s).str.running = false ∧ streamIdle busy = false ∧ (after .streamEnd busy).str.running = true
      ∧ s.str.maxcyc = s.str.cycle + 1 ∧ ((after .streamMaxcyc s).str.exc.map (·.cause)) = some 0x10
      ∧ s.clk.now % 1000000 = 0 ∧ slotEnds slots = true ∧ ((after .rtSlotBoundary slots).str.exc.map (·.cause)) = some 0x10 ∧ slotEnds s = false := by decide +kernel

/-- A boundary that a step of the clock has passed, and a time that is none. -/
theorem witness_slotDue :
    let s := { strOne with clk := { now := 1000001, slotDue := true }, prog := { strOne.prog with eff := [((1, 5), 5 + 2 ^ 9 + 2 ^ 10 + 0xFFFF * 2 ^ 16)] } }
    slotEnds s = true ∧ ((after .rtSlotBoundary s).str.exc.map (·.cause)) = some 0x10 ∧ (after .rtSlotBoundary s).clk.slotDue = false
      ∧ (after .rtSlotBoundary { s with clk := { now := 1000001 } }).str.exc = none := by decide +kernel

/-- A control program of capo 5, of the domain's scope or of its capo's. -/
def ctlOne (domain : Bool) (f : CtlProg → CtlProg) : State := progOne { ctl := some (f { desc := descOne true, domain := domain }) }

theorem witness_ctlRuns : ctlRuns (ctlOne true id) { desc := descOne true, domain := true } ∧ ctlRuns (ctlOne false id) { desc := descOne true, domain := false } := by
  unfold ctlRuns; decide +kernel

theorem test_stage :
    tblSize 0x0C = 32 ∧ tblSize 0x13 = 0 ∧ ownEntry (ctlOne false id) 5 0x0F (7 + 5 * 4096) = true ∧ ownEntry (ctlOne false id) 5 0x0F (7 + 6 * 4096) = false
      ∧ ((after (.stage 0x0F [7 + 5 * 4096]) (ctlOne false id)).prog.ctl.map (·.staged.length)) = some 1
      ∧ (after (.stage 0x0F [7 + 6 * 4096]) (ctlOne false id)).prog.ctl = none ∧ (after (.stage 0x13 []) (ctlOne true id)).prog.ctl = none
      ∧ ((after (.unstage 0x0F) (ctlOne true fun c => { c with staged := [((0x0F, 7), 7), ((7, 1), 1)] })).prog.ctl.map (·.staged)) = some [((7, 1), 1)] := by decide +kernel

/-- The earliest epoch that a commit may name, and one a nanosecond too early. -/
theorem witness_commit :
    let s := ctlOne true fun c => { c with staged := [((0x0B, 1), 1 + 100 * 2 ^ 16)] }
    let draws := ctlOne true fun c => { c with staged := [((0x0D, 1), 2 ^ 108)] }
    let t := { s with prog := { s.prog with nCommit := 1 } }
    commitRefusal t [((0x0B, 1), 1 + 100 * 2 ^ 16)] none 500100000 = none ∧ stageUnheld s [((0x0B, 1), 1 + 100 * 2 ^ 16)] = false
      ∧ ((after (.commit 500100000) s).prog.commits.map (·.epoch)) = [500100000]
      ∧ (commitRefusal t [((0x0B, 1), 1 + 100 * 2 ^ 16)] none 500099999).isSome = true ∧ (after (.commit 500099999) s).prog.commits.length = 0
      ∧ drawsSeed ((0x0D, 1), 2 ^ 108) = true ∧ ((after (.commit 500100000) draws).prog.ctl.bind (·.seedWait)) = some (500100000, 500000000) := by decide +kernel

/-- A pending commit that CANCEL still stops, one it does not, and one whose epoch has come. -/
theorem witness_commitEnds :
    let p : Pending := { num := 4, epoch := 500001000, entries := [((0x0B, 1), 1 + 100 * 2 ^ 16)], capo := none, desc := descOne true }
    let s := { ctlOne true id with prog := { (ctlOne true id).prog with commits := [p] } }
    let late := { s with clk := { s.clk with now := 500000001 } }
    let due := { s with clk := { s.clk with now := 500001000 } }
    s.clk.now + 1000 = p.epoch ∧ (after (.cancel 4) s).prog.commits.length = 0 ∧ (after (.cancel 4) late).prog.commits.length = 1
      ∧ (after (.commitApply 4) due).prog.commits.length = 0 ∧ brgClose (after (.commitApply 4) due).prog.eff = 100 ∧ (after (.commitApply 4) s).prog.commits.length = 1
      ∧ ((after .commitSeedWaitTimeout (ctlOne true fun c => { c with seedWait := some (0, 490000000) })).prog.ctl.map (·.seedWait)) = some none
      ∧ ((after .commitSeedWaitTimeout (ctlOne true fun c => { c with seedWait := some (0, 490000001) })).prog.ctl.map (·.seedWait)) = some (some (0, 490000001)) := by
  decide +kernel

/-- A due commit that raises a guarantee by one cell where the pool of SX0 has none left. -/
theorem witness_raisedOver :
    let es := [((6, 1), 1 + 65 * 2 ^ 32)]
    let p : Pending := { num := 4, epoch := 500000000, entries := es, capo := none, desc := descOne true }
    let q : QPkt := { p := .req (leafLoad 3), cells := 2000000, stamp := 0, inPort := 0, enq := 0, mc := 0, dest := (0, 3, false) }
    let s := { ctlOne true id with prog := { (ctlOne true id).prog with commits := [p] } }
    let full := { s with sw := { queues := [((0, 3, 3, false), [q])] } }
    raisedOver s es = false ∧ raisedOver full es = true ∧ (after (.commitApply 4) full).prog.eff = full.prog.eff ∧ bufG (after (.commitApply 4) s).prog.eff 0 0 0 = 65 := by
  decide +kernel

theorem witness_controlActs :
    let s := ctlOne true id
    let twin := { s with course := { serving := true, twinUp := true } }
    let out := { s with prog := { s.prog with rtTest := [7], rtOut := [6] } }
    (arbOf (after (.arbprio 3 135 7 31) s) 3 135).prio.get 7 0 = 15 ∧ (after (.arbprio 6 0 0 0) s).prog.ctl = none
      ∧ (pdRequest s 35 true).isSome = true ∧ pdIsOn (after (.pdreq 35 true) s) 35 = true ∧ offRefused s 4 = true ∧ (after (.pdreq 4 false) s).prog.ctl = none
      ∧ offRefused twin 4 = false ∧ (pdRequest twin 4 false).isSome = true ∧ pdIsOn (after (.pdreq 4 false) twin) 4 = false ∧ ((after (.pdreq 31 true) s).prog.ctl).isSome = true
      ∧ offRefused twin 31 = false ∧ (after (.pdreq 31 false) twin).prog.ctl = none
      ∧ (∀ n < 8, rtUp twin n = true) ∧ ((after (.rtout 7) twin).prog.ctl.bind (·.rtout)) = some (7, 500000000) ∧ (after (.rtout 7) s).prog.ctl = none
      ∧ (after (.rtin 7) out).prog.rtTest = [] ∧ (after (.rtin 6) out).prog.rtOut = [] ∧ (after (.rtin 5) out).prog.ctl = none := by decide +kernel

theorem witness_controlEnds :
    let s := ctlOne false id
    let run := { s with str := { running := true, capo := 5 } }
    let r := ctlOne true fun c => { c with rtout := some (7, 500000000) }
    (after (.pdreq 4 true) s).prog.ctl = none ∧ ((after .aborts run).str.exc.map (·.cause)) = some 0x10 ∧ (after .aborts s).str.exc = none
      ∧ ((after (.waitt 9) s).prog.ctl.bind (·.waitt)) = some 9 ∧ (after .endProg s).prog.ctl = none
      ∧ ((after .waittExpiry (ctlOne true fun c => { c with waitt := some 500000000 })).prog.ctl.map (·.waitt)) = some none
      ∧ ((after .waittExpiry (ctlOne true fun c => { c with waitt := some 500000001 })).prog.ctl.map (·.waitt)) = some (some 500000001)
      ∧ rtHolds r 7 = false ∧ (after (.rtoutProceed 7) r).prog.rtTest = [7] ∧ (after (.rtoutProceed 7) { r with str := { running := true } }).prog.rtTest = [] := by decide +kernel

theorem witness_inServiceTest :
    let s := progOne { inTest := [4] }
    partInTest s 4 = true ∧ (after (.inServiceTestEnd 4 (some 9)) s).fuse.pendMap.get 4 [] = [9] ∧ (after (.inServiceTestEnd 4 none) s).fuse.pendMap = [] := by decide +kernel

/-! Memory tiers and optics. -/

theorem witness_backings :
    let s := { kojOne with mem := { kojOne.mem with rfetch := [(3, 5, 1)], scrubMarks := [(10, 4)], backOut := [0, 17], poison := [512], scrubAt := [(0, 16777215)] },
                           prog := { kojOne.prog with eff := [((3, 7), 7 + 2 ^ 3), ((0x0C, 1), 1 + 5 * 2 ^ 16 + 2 ^ 27 + 0x10 * 2 ^ 96 + 2 * 2 ^ 160)] } }
    cached (after (.rcacheFetchComplete 3 5 1) s) 3 5 1 = true ∧ (after (.rcacheFetchComplete 2 5 1) s).mem.rfetch = s.mem.rfetch
      ∧ 16777215 = s.mem.scrubAt.get 0 0 ∧ 16777215 < targetPages s 0 ∧ (after (.pageScrub 10 4) s).mem.scrubMarks = [] ∧ (after (.pageScrub 1 1) s).mem.scrubMarks = [(10, 4)]
      ∧ (after (.backingReturn 17) s).mem.backOut = [0] ∧ (after (.backingReturn 1) s).mem.backOut = [0, 17]
      ∧ portIsCxl s.prog.eff 7 = true ∧ (after (.cxlEnumerate 7 1 true) s).mem.backOut = [0] ∧ (after (.cxlEnumerate 7 1 true) s).mem.pages.get 17 0 = 244140
      ∧ (after (.cxlEnumerate 7 1 false) s).mem.pages = s.mem.pages ∧ (after (.cxlLinkDown 7) s).mem.backOut.length = 2 ∧ portIsCxl s.prog.eff 6 = false
      ∧ (after (.cxlLinkDown 6) s).mem.backOut = [0, 17] := by decide +kernel

/-- Weight-bank ring 17 of fibre 17 of OX7 as a peg p, with the error of a measured value; the ring's target is 255 of 255. -/
def pegState (p : Peg) : State := { swOne with opt := { pegs := [((7, 17, true, 17), p)] } }
def pegAfter (p : Peg) (measured : Nat) (light found : Bool) : Peg := pegOf (after (.pegLoop 7 17 true 17 measured light found) (pegState p)) (7, 17, true, 17)

/-- The errors that are just within 0.02 and just beyond 0.10. -/
theorem witness_pegErrors : let e := pegErr (pegState {}) (7, 17, true, 17)
    e 261120 = 0 ∧ withinFine (e (261120 - 5222)) = true ∧ withinFine (e (261120 - 5223)) = false ∧ beyondBad (e (261120 - 26112)) = false ∧ beyondBad (e (261120 - 26113)) = true
      ∧ ringNeeded (pegState {}) (7, 17, true, 17) = true ∧ carried (pegState {}) 7 17 true 17 = none := by decide +kernel

theorem test_pegSeek : (pegAfter { pred := 1000 } 0 true false).code = 904 ∧ (pegAfter { pred := 1000 } 0 false false).st = .off
    ∧ (pegAfter { st := .seek, pred := 1000, code := 1092 } 0 true false).code = 1096 ∧ (pegAfter { st := .seek, pred := 1000, code := 256 } 0 true true).st = .trim := by
  decide +kernel

theorem test_pegTrim : (pegAfter { st := .trim, code := 1000, good := 14, left := 62 } 261120 true false).good = 15
    ∧ (pegAfter { st := .trim, code := 1000, good := 15 } 261120 true false).st = .locked ∧ (pegAfter { st := .trim, code := 1000, left := 63 } 0 true false).st = .failed
    ∧ (pegAfter { st := .recover, code := 1064, lastLock := 1000, flankU := true } 522240 true false).code = 1064 := by decide +kernel

theorem test_pegLocked : let locked : Peg := { st := .locked, code := 1000, wl := 17, bad := 3 }
    (pegAfter locked 261120 true false).lastLock = 1000 ∧ (pegAfter locked 0 false false).st = .hold ∧ (pegAfter locked 0 true false).st = .recover
      ∧ (pegAfter { st := .hold, left := 24999 } 0 false false).st = .off ∧ (pegAfter { st := .hold, left := 24998 } 0 false false).st = .hold
      ∧ (pegAfter { st := .hold } 0 true false).st = .recover ∧ (pegAfter { st := .failed, code := 5 } 0 true false).code = 0 := by decide +kernel

/-- A modulator ring that no string uses parks. -/
theorem witness_pegPark : let s := { swOne with opt := { pegs := [((7, 17, false, 17), { st := .locked }), ((7, 17, false, 16), { st := .park })] } }
    ringNeeded s (7, 17, false, 17) = false ∧ (pegOf (after (.pegLoop 7 17 false 17 0 true false) s) (7, 17, false, 17)).st = .park
      ∧ (pegOf (after (.pegLoop 7 17 false 16 0 true false) s) (7, 17, false, 16)).st = .park := by decide +kernel

/-- A lane of string 0, whose set has spare 16. -/
def laneOne : State := { swOne with links := [(0, { stage := 9 })] }
def laneMsg : LaneMsg := { str := 0, rx := false, q := 3, spare := 16, cause := 3 }

theorem witness_laneMove :
    let busy := { laneOne with opt := { moves := [(0, some { m := laneMsg, mine := true, askedAt := 1000 })] } }
    strReady laneOne 0 = true ∧ spareUsed laneOne 0 true 16 = false ∧ 16 ∈ sparesOf laneOne 0 ∧ (moveOf laneOne 0).isNone = true
      ∧ (pegOf laneOne (0, rxFibreOf laneOne 0, true, 16)).st = .off ∧ ((moveOf (after (.laneMove laneMsg) laneOne) 0).map (·.mine)) = some false
      ∧ (after (.laneMove laneMsg) busy).out = [.frame .kojor 0 (.laneRefuse { laneMsg with reason := 3 })]
      ∧ 17 ∉ sparesOf laneOne 0 ∧ (after (.laneMove { laneMsg with spare := 17 }) laneOne).out = [.frame .kojor 0 (.laneRefuse { laneMsg with spare := 17, reason := 1 })] := by
  decide +kernel

/-- A move that this end asked for, without an answer for 1 ms, and one granted 20 ms ago. -/
theorem witness_laneMoves :
    let v : Move := { m := { laneMsg with rx := true }, mine := true, askedAt := 1000 }
    let at_ := fun (v : Move) (t : Nat) => { laneOne with opt := { moves := [(0, some v)] }, clk := { now := t } }
    let granted : Move := { v with m := laneMsg, grantedAt := some 1000 }
    (moveOf (after (.laneGrant { laneMsg with rx := true }) (at_ v 2000)) 0).bind (·.grantedAt) = some 2000 ∧ (moveOf (after (.laneRefuse laneMsg) (at_ v 2000)) 0) = none
      ∧ (moveOf (after (.laneMoveNoAnswer 0) (at_ v 1001000)) 0) = none ∧ (moveOf (after (.laneMoveNoAnswer 0) (at_ v 1000999)) 0).isSome = true
      ∧ (moveOf (after (.laneDone laneMsg) (at_ granted 2000)) 0) = none ∧ granted.m.rx ≠ granted.mine
      ∧ (moveOf (after (.laneMoveAbandon 0) (at_ granted 20001000)) 0) = none ∧ (moveOf (after (.laneMoveAbandon 0) (at_ granted 20000999)) 0).isSome = true := by decide +kernel

/-- More than 5 × 10⁻⁵ bit errors, and a weight change whose lane exceeds 2 × 10⁻⁵ within 1 ms of it. -/
theorem witness_laneBer :
    let s := { laneOne with opt := { changed := [((rxFibreOf laneOne 0, rxRingOf laneOne 0 3), some (0, 77))] }, clk := { now := 1000000 } }
    19999 < 1 * 20000 ∧ onSpare laneOne 0 3 true = false ∧ freeSpare laneOne 0 true = some 16
      ∧ ((moveOf (after (.laneBerWindow 0 3 1 19999) laneOne) 0).map (·.m.spare)) = some 16 ∧ (moveOf (after (.laneBerWindow 0 3 1 20000) laneOne) 0).isNone = true
      ∧ (after (.laneBerCheck 0 3 ⟨1, 49999⟩ []) s).opt.suppressed.length = 1 ∧ (after (.laneBerCheck 0 3 ⟨1, 49999⟩ []) laneOne).opt.suppressed = [] := by decide +kernel

/-- Four lanes of which the first comes in stronger than 1 dB above the others. -/
theorem witness_equalise :
    let u := after (.laneBerCheck 0 0 ⟨0, 1⟩ [400, 100, 100, 100]) laneOne
    (∀ i < 4, ∀ j < 4, i ≠ j → rxRingOf laneOne 0 i ≠ rxRingOf laneOne 0 j) ∧ wbWeight laneOne 0 (rxFibreOf laneOne 0) 0 = 235 ∧ (wbRole laneOne 0 (rxFibreOf laneOne 0) 0).1 = 1
      ∧ wbWeight u 0 (rxFibreOf laneOne 0) 0 = 128 ∧ wbWeight u 0 (rxFibreOf laneOne 0) 1 = 235 ∧ lowerW 150 235 100 256 235 = 197 := by decide +kernel

theorem witness_probes : mayProbe laneOne 7 17 16 0 = true ∧ mayProbe laneOne 7 17 15 0 = false ∧ (after (.probeDwell 7 17 16 17 5 [1, 2, 3] 9) laneOne).opt.probes.get (7, 17, 17) (0, [], 0) = (5, [1, 2, 3], 9)
    ∧ (wbRole laneOne 7 17 16).1 ≠ 1 := by decide +kernel

/-- Powers at and just below 8.00 and 7.00 dBm, on a module that is ready. -/
theorem witness_lasers :
    let s := { laneOne with opt := { lasers := [(15, { present := true, ready := true, raises := [(17, 2)] })], pegs := [((7, 17, false, 0), { st := .locked })] }, links := [(508, { stage := 9 })] }
    let l := fun (i : Instr) => laserOf (after i s) 15
    (l (.laserMonitor 15 17 800 0 true)).alarm = true ∧ (l (.laserMonitor 15 17 799 0 false)).warn = [17] ∧ (l (.laserMonitor 15 17 700 0 false)).raises.get 17 0 = 3
      ∧ (l (.laserMonitor 15 17 699 10 false)).dark = [17] ∧ (laserOf s 14).ready = false ∧ l (.laserModuleRemove 15) = {}
      ∧ (pegOf (after (.laserModuleRemove 15) s) (7, 17, false, 0)).st = .hold ∧ l (.laserModuleInsert 15 18 true) = { present := true, ready := true }
      ∧ l (.laserModuleInsert 15 17 true) = { present := true } := by decide +kernel

/-! String links: slots, bring-up and the ways down. -/

/-- String 0 as a link l, at 1 ms. -/
def lk (l : Link) : State := { State.reset with links := [(0, l)], clk := { now := 1000000 }, pwr := { pdOn := BitVec.allOnes 36 } }
def lkAfter (i : Instr) (l : Link) : Link := linkOf (after i (lk l)) 0

/-- A Ready link that expects LSEQ 5, holds slots 3 and 4 and is in a packet. -/
def lkUp : Link :=
  { stage := 9, rxNext := 5, held := [{ body := .head 1 0, lseq := 3 }, { body := .head 1 0, lseq := 4 }], txNext := 5, timerAt := some 1000000, rtt := 300 }

/-- A slot at each distance where the clauses meet: next, a duplicate at 1 and at 8,192 behind, a gap at 1 ahead. -/
theorem witness_slots :
    let d := fun q => (lkUp.rxNext + (2 ^ 14 - q % 2 ^ 14)) % 2 ^ 14
    d 5 = 0 ∧ d 4 = 1 ∧ d 8197 = 8192 ∧ d 8196 = 8193 ∧ d 6 = 16383
      ∧ (lkAfter (.slotReceive 0 (sealSlot { body := .head 65 0, lseq := 5 })) lkUp).pktLeft = some 64 ∧ framable (lk lkUp) 0 65 = true ∧ framable (lk lkUp) 0 66 = false
      ∧ count (after (.slotReceive 0 (sealSlot { body := .data, lseq := 8197 })) (lk lkUp)) .sxLinkDup [0, 0] = 1
      ∧ (after (.slotReceive 0 (sealSlot { body := .data, lseq := 8196 })) (lk lkUp)).out = [.link 0 (.replayReq 5)]
      ∧ (after (.slotReceive 0 (sealSlot { body := .data, lseq := 6 })) (lk { lkUp with lastReq := some 999701 })).out = []
      ∧ (lkAfter (.slotReceive 0 (sealSlot { ack := 3 })) lkUp).held = [{ body := .head 1 0, lseq := 4 }]
      ∧ count (after (.slotReceive 0 { scrc := slotCrc {} + 1 }) (lk lkUp)) .lnkSlotCrc [0] = 1
      ∧ (lkAfter (.slotReceive 0 (sealSlot { body := .head 65 0, lseq := 5 })) { lkUp with stage := 7 }).rxNext = 5
      ∧ count (after (.slotReceive 0 (sealSlot { body := .linkReserved })) (lk lkUp)) .lnkFraming [0] = 1 := by decide +kernel

/-- A replay timer that has just expired, after seven and after eight barren replays. -/
theorem witness_replays :
    let up := fun n => lk { lkUp with barren := n }
    (linkOf (up 7) 0).timerAt = some 1000000 ∧ 1000000 ≤ linkNow (up 7) 0 ∧ (after (.replayTimerExpiry 0) (up 7)).out = [.slots 0 [3, 4]]
      ∧ (linkOf (after (.replayTimerExpiry 0) (up 8)) 0).cause = .replay ∧ (linkOf (after (.replayReq 0 3) (up 8)) 0).stage = 7
      ∧ (after (.replayReq 0 3) (up 0)).out = [.slots 0 [3, 4]] ∧ (after (.replayReq 0 3) (lk { lkUp with replayUntil := 1000001 })).out = []
      ∧ (lkAfter (.slotAbort 0 false) { lkUp with pktLeft := some 2 }).pktLeft = none ∧ (lkAfter (.slotAbort 0 true) { lkUp with ePktLeft := some 2 }).ePktLeft = none := by
  decide +kernel

theorem witness_train :
    let t : Train := { confirm := true, time := 77, echo := 999000, hold := 400, peer := 9, peerBrola := true }
    (lkAfter (.train 0 t) { stage := 7 }).rtt = 600 ∧ (lkAfter (.train 0 t) { stage := 7 }).confRx = true ∧ (after (.train 0 t) (lk { stage := 7 })).out.length = 1
      ∧ (after (.train 0 t) (lk { stage := 8 })).out = [] ∧ lkAfter (.train 0 t) { stage := 6 } = { stage := 6 }
      ∧ (lkAfter (.train 0 { t with down := true }) { stage := 9 }).cause = .partner := by decide +kernel

/-- Four lanes as received, each with four markers; lane 3 is inverted. -/
def laneSeen (heard : Option Nat) : List LaneSeen :=
  (List.range 4).map fun q => { marks := List.replicate 4 ((amSymbols { wl := q, q := q, str := 3, heard := heard }).map (turn (q == 3))) }

theorem witness_laneSeen : lanePolarity (laneSeen none) = some [false, false, false, true] ∧ lanePolarity [] = none
    ∧ heardOf (lk { inv := 8 }) 0 (laneSeen (some 3)) = some 3 ∧ heardOf (lk {}) 0 (laneSeen (some 3)) = none := by decide +kernel

/-- Every stage that may be complete, and the conditions that hold it. -/
theorem witness_stageComplete :
    let go := fun (ls : List LaneSeen) (l : Link) => lkAfter (.stageComplete 0 ls []) l
    let at5 := fun h : Nat => go (laneSeen (some h)) { stage := 5, inv := 8 }
    let cw := fun n : Nat => ({ stage := 6, goodCw := [(0, 64), (1, 64), (2, 64), (3, n)] } : Link)
    (∀ st ∈ [1, 2, 3, 4, 5, 6], mayAdvance (lk { stage := st }) 0 = true) ∧ mayAdvance (lk { stage := 7, confTx := true }) 0 = false
      ∧ mayAdvance (lk { stage := 7, confTx := true, confRx := true }) 0 = true ∧ mayAdvance (lk { stage := 8, creditTx := true, creditRx := true }) 0 = true
      ∧ mayAdvance (lk { stage := 9 }) 0 = false ∧ heardRes (lk {}) 0 (some 3) = .ok ∧ heardRes (lk {}) 0 (some 4) = .wait ∧ heardRes (lk {}) 0 (some 64) = .miswired
      ∧ (go [] { stage := 1 }).stage = 2 ∧ (go (laneSeen none) { stage := 3 }).stage = 4 ∧ (go [] { stage := 3 }).stage = 3 ∧ (go (laneSeen none) { stage := 4 }).inv = 8
      ∧ (at5 3).stage = 6 ∧ (at5 4).heard = some 4 ∧ (at5 64).cause = .miswire ∧ (go (laneSeen none) { stage := 5, inv := 8 }).stage = 5
      ∧ (go [] (cw 63)).stage = 6 ∧ (go [] (cw 64)).stage = 7 ∧ (after (.stageComplete 0 [] []) (lk (cw 64))).out.length = 1
      ∧ (go [] { stage := 7, confTx := true, confRx := true, txNext := 9 }).txNext = 0
      ∧ strReady (after (.stageComplete 0 [] []) (lk { stage := 8, creditTx := true, creditRx := true })) 0 = true := by decide +kernel

/-- F16 of OX0 as a harmonic fibre: its string 0 stays at stage 6. -/
theorem witness_harmonicEnd :
    let s := { lk {} with links := [(576, { stage := 6, goodCw := [(0, 64), (1, 64), (2, 64), (3, 64)] })], prog := { State.reset.prog with eff := [((8, 1 + 511 * 256), 2 ^ 6 + 2 ^ 17)] } }
    harmEnd s 576 = true ∧ harmEnd s 0 = false ∧ mayAdvance s 576 = true ∧ (linkOf (after (.stageComplete 576 [] []) s) 576).hlock = true := by decide +kernel

/-- A slot of an unreadable block, which is not used; the block's 32 codewords count as uncorrectable. -/
theorem witness_slotBlocks : let sl := sealSlot { blocks := [⟨0, 0, 512, []⟩] }
    (linkOf (after (.fecUncorrLimit 0 0 [⟨0, 0, 0, []⟩]) (lk { lkUp with uncorr := [(0, 1, 33)] })) 0).cause = .fec
      ∧ uncorrNow (after (.fecUncorrLimit 0 0 [⟨0, 0, 0, []⟩]) (lk { lkUp with uncorr := [(0, 1, 32)] })) 0 0 = 64
      ∧ count (after (.stageComplete 0 [] [⟨0, 0, 0, []⟩]) (lk { lkUp with stage := 6 })) .lnkFecUncorr [0, 0] = 32
      ∧ slotOkFor (lk lkUp) 0 sl = false ∧ count (after (.slotReceive 0 sl) (lk lkUp)) .lnkFecUncorr [0, 0] = 32
      ∧ count (after (.slotReceive 0 sl) (lk lkUp)) .lnkSlotCrc [0] = 1 := by decide +kernel

/-- A marker, symbols, and the codeword of zeros. -/
theorem witness_lineCode :
    let a : LaneMark := { wl := 31, q := 3, str := 511, soff := 255, bcnt := 127, heard := some 511 }
    (amSymbols a).length = 48 ∧ amRead (amSymbols a) = some a ∧ levelsOf (bitsOf [0, 1, 2, 3]) = [0, 1, 2, 3]
      ∧ (guardIn 4 0 (List.replicate 41 2)).length = 42 := by
  decide +kernel

theorem foldl_fixed {β : Type} (f : β → Nat → β) (b : β) (h : f b 0 = b) (n : Nat) : (List.replicate n 0).foldl f b = b := by
  induction n with
  | zero => rfl
  | succ n ih => rw [List.replicate_succ, List.foldl_cons, h, ih]

theorem witness_codeword (n : Nat) : (∀ x ∈ rsEncode (List.replicate n 0), x < 1024) ∧ rsIsWord (rsEncode (List.replicate n 0)) = true := by
  have p : rsParity (List.replicate n 0) = List.replicate 14 0 := foldl_fixed _ _ (by decide +kernel) n
  have e : ∀ a ∈ (List.range 14).map alpha, gfMul 0 a ^^^ 0 = 0 := by decide +kernel
  rw [rsEncode, p, List.replicate_append_replicate]
  refine ⟨fun x h => by rw [List.eq_of_mem_replicate h]; decide, ?_⟩
  simp only [rsIsWord, rsSyndromes, List.all_map, List.all_eq_true, Function.comp_apply, beq_iff_eq]
  exact fun i hi => foldl_fixed _ _ (e _ (List.mem_map_of_mem hi)) _

/-- A stage at its limit and just within it, and light, slots, markers and codewords at theirs. -/
theorem witness_waysDown :
    stageLimit 7 = some 1000000 ∧ (lkAfter (.stageLimit 0 false) { stage := 7 }).cause = .train ∧ lkAfter (.stageLimit 0 false) { stage := 7, stageAt := 1 } = { stage := 7, stageAt := 1 }
      ∧ (linkOf (after (.stageLimit 0 false) { lk { stage := 2 } with clk := { now := 20000000 } }) 0).cause = .peg ∧ (lkAfter (.stageLimit 0 true) { stage := 5 }).cause = .miswire
      ∧ (lkAfter (.lightLoss 0) { stage := 2 }).cause = .noLight ∧ (lkAfter (.lightLoss 0) { stage := 0, cause := .miswire }).stage = 1
      ∧ (lkAfter (.silentTimeout 0) { stage := 7, quietSince := 950000 }).cause = .silent ∧ (lkAfter (.silentTimeout 0) { stage := 7, quietSince := 950001 }).stage = 7
      ∧ (lkAfter (.silentTimeout 0) { stage := 9, eiRx := true }).stage = 9 ∧ (lkAfter (.alignmentMarkerLoss 0) { stage := 4 }).cause = .symbol
      ∧ (lkAfter (.alignmentMarkerLoss 0) { stage := 3 }).stage = 3 ∧ (lkAfter (.fecUncorrLimit 0 3 []) { stage := 6, uncorr := [(3, 1, 65)] }).cause = .fec ∧ uncorrNow (lk { uncorr := [(3, 0, 65), (3, 1, 64)] }) 0 3 = 64
      ∧ (lkAfter (.fecUncorrLimit 0 3 []) { stage := 6, uncorr := [(3, 0, 65), (3, 1, 64)] }).stage = 6
      ∧ (lkAfter (.bringupRestart 0) { lit := true, restartAt := some 1000000, restartStage := 3 }).stage = 3
      ∧ (lkAfter (.bringupRestart 0) { lit := true, restartAt := some 1000001, restartStage := 3 }).stage = 0 := by decide +kernel

theorem witness_idle : let idle : Link := { stage := 9 }
    strEidle (lk idle).prog.eff 0 = 2 ∧ idleReady (lk idle) 0 = true ∧ idleReady (lk lkUp) 0 = false ∧ (after (.eiEntry 0) (lk idle)).out = [.link 0 .eiEnter]
      ∧ (lkAfter (.eiEnter 0) idle).eiRx = true ∧ (lkAfter (.eiExit 0) { idle with eiTx := true }).eiTx = false ∧ lkAfter (.eiExit 0) idle = idle := by decide +kernel

/-! The course. -/

/-- A member whose twin serves, with the soundpost strings of port 128 of SX0 Ready. -/
def twinOne : State :=
  { kojOne with
    accMib := 64, course := { serving := true, twinUp := true, lastHb := 0 }, links := [(512, { stage := 9 }), (513, { stage := 9 })]
    wins := [(17, some { d := { wid := 17, base := 0x10000, lenp := 1, fmt := 4, mode := 2, each := true, e := 1000, capo := 5 }, st := .active, epoch := 9 })] }

theorem witness_mirror :
    let s := { twinOne with mem := { twinOne.mem with backOut := [1], phys := [(4096, 7)] } }
    let sent := fun u : State => (sentMirrors u).length
    let fin : State := after (.mfinal 6 (.mfinal 17 9 [(4096, [5])] [] [])) s
    takesMirror s = true ∧ backUp s (keyTarget 4096) = true ∧ backUp s (keyTarget (2 ^ 48)) = false ∧ Memory.wf s.mem.phys = true
      ∧ Memory.read (after (.mwrite 6 4096 [9, 8] false none) s).mem.phys 4097 = 8 ∧ sent (after (.mwrite 6 4096 [9] false none) s) = 1
      ∧ (after (.mwrite 6 (2 ^ 48 + 8191) [9] false none) s).mem.missed = [(1, 1)]
      ∧ (after (.mstate 6 (.flag true 5 1023 true)) s).ctl.flags.get (true, 5, 1023) false = true ∧ ctrOf (after (.mstate 6 (.counter true 5 255 (-1))) s) (true, 5, 255) = -1
      ∧ ((winOf (after (.macc 6 (.macc 17 9 false 4 8 [] [(0, 1), (1, 2)] false none)) s) 17).map fun w => (w.lines.get 0 {}).bytes) = some 2
      ∧ ((winOf fin 17).map (·.twinWritten)) = some true ∧ Memory.read fin.mem.phys 4096 = 5
      ∧ (after (.mwrite 6 4096 [9] false none) { s with course := { serving := true, alone := true } }).mem.phys = [(4096, 7)] := by decide +kernel

/-- A rebuild target, its first and its last journal record. -/
theorem witness_target :
    let s := { twinOne with course := { rebuildTgt := true }, mem := { twinOne.mem with missed := [(0, 1)] } }
    let last : State := after (.mjournal 6 { phase := 4, ckpt := 2 }) s
    s.course.rebuildTgt = true ∧ (after (.mcopy 6 (.page 0 0 4096 [1, 2] [513])) s).mem.poison = [513] ∧ (after (.mcopy 6 (.page 0 0 4096 [1, 2] [])) s).mem.missed = []
      ∧ (after (.mjournal 6 { phase := 3, ckpt := 2 }) s).course.tgtCkpt = 2 ∧ last.course.rebuildTgt = false ∧ last.course.serving = true ∧ last.disc.phase = 9 := by decide +kernel

/-- MCONFIRM names at most 48 messages. -/
theorem witness_mconfirm :
    let s := { twinOne with course := { twinOne.course with unconf := [{ mseq := 3, body := .mconfirm [], capo := 0 }, { mseq := 4, body := .mconfirm [], capo := 0 }] } }
    s.resp.running = [] ∧ s.course.copying = false ∧ (after (.mconfirm [3]) s).course.unconf.map (·.mseq) = [4]
      ∧ (after (.mconfirm (List.replicate 48 3 ++ [4])) s).course.unconf.map (·.mseq) = [4] := by decide +kernel

/-- A heartbeat that leaves, two lone members, and the miss count at 4,000 ns. -/
theorem witness_heartbeats :
    let lone := { twinOne with course := { serving := true, alone := true, takeover := 500, lastHb := 0 } }
    let go := fun (h : Heartbeat) (s : State) => (after (.heartbeat 0 h) s).course
    let at_ := fun t : Nat => { twinOne with clk := { now := t } }
    (after .heartbeatSend twinOne).out.length = 2 ∧ (after .heartbeatSend twinOne).course.hbOut = 1 ∧ (go { hbCount := 7 } twinOne).hbIn = 7
      ∧ (go { leaving := true } twinOne).alone = true ∧ (go { failing := true } twinOne).lost = true
      ∧ (go { alone := true, takeover := 501 } lone).alone = true ∧ (go { alone := true, takeover := 499 } lone).split = true
      ∧ (go { rebuildTgt := true } lone).copying = true ∧ (go { rebuildTgt := true } lone).rbid = 1
      ∧ (after .heartbeatMiss (at_ 4000)).course.alone = true ∧ (after .heartbeatMiss (at_ 3999)).course = (at_ 3999).course := by decide +kernel

/-- A rebuild with one item left, with none, and in a gap of 100 ms. -/
theorem witness_rebuild :
    let at_ := fun (c : Course) (t : Nat) => { twinOne with course := c, clk := { now := t }, ctl := { flags := [((true, 5, 3), true)] } }
    let copying : Course := { serving := true, alone := true, copying := true }
    let one := { copying with front := [.state (.flag true 5 3 true)] }
    let gap := { one with gapFrom := some 7 }
    soundpostUp (at_ one 9) = true ∧ (after .rebuildCopy (at_ one 9)).course.front = [] ∧ (sentMirrors (after .rebuildCopy (at_ one 9))).length = 1
      ∧ sentMirrors (after .rebuildCopy (at_ gap 9)) = [] ∧ (after .rebuildEnd (at_ copying 9)).course.twinUp = true ∧ (after .rebuildEnd (at_ one 9)).course.twinUp = false
      ∧ (after .soundpostGapTimeout (at_ gap 100000007)).course.rbid = 1 ∧ (after .soundpostGapTimeout (at_ gap 100000006)).course.rbid = 0 := by decide +kernel

/-! Start-up and discovery. -/

/-- A package with its site record, as member A of course 0 of a domain of two courses; f sets what discovery has so far. -/
def startOne (f : Disc → Disc) : State :=
  { State.reset with
    disc := f { site := some { domain := 7, k := 2 }, siteFlash := { domain := 7, k := 2 } }
    pwr := { State.reset.pwr with pwrGood := true, porHeld := false, pdOn := BitVec.allOnes 36 }, clk := { up := 1000000000, now := 5000000000, anchored := true } }
def startAfter (i : Instr) (f : Disc → Disc) : Disc := (after i (startOne f)).disc

/-- A boot that is due, with two tries of image B behind it and with three, and without an image that verifies. -/
theorem witness_mcBoot :
    let tried := fun (n : Nat) (d : Disc) => { d with bcr0 := { valid := true, seq := 3, prefB := true, tries := n } }
    let go := fun (n : Nat) (a b : Bool) => startAfter (.mcBoot a b true) (tried n)
    (startOne (tried 2)).pwr.pwrGood = true ∧ (startOne (tried 2)).disc.phase = 1 ∧ (go 2 true true).imageB = true ∧ (go 2 true true).bcr1.tries = 3 ∧ (go 2 true true).phase = 2
      ∧ (go 3 true true).imageB = false ∧ (go 3 false true).imageB = true ∧ (go 0 true false).imageB = false ∧ (go 0 false false).phase = 0xF ∧ (go 0 false false).site = none
      ∧ (startAfter (.mcBoot true true false) (tried 0)).site = none ∧ (startAfter (.mcBoot true true true) fun d => { d with phase := 2 }).bcr1.valid = false := by decide +kernel

theorem witness_mcTakeover :
    let s := { startOne id with mc := { swapping := true } }
    s.course.copying = false ∧ (after .mcTakeover s).mc.active1 = true ∧ (after .mcTakeover s).mc.resetCause = 5 ∧ (after .mcTakeover (startOne id)).mc.active1 = false := by
  decide +kernel

/-- Memory is found with the domains off but the MCs; a package without a site record stops after self-test. -/
theorem witness_selftest :
    let s := { startOne fun d => { d with phase := 2 } with pwr := { State.reset.pwr with pwrGood := true, porHeld := false, pdOn := BitVec.ofNat 36 (2 ^ 30) } }
    let u : State := after (.selftestStart [{ hx := 0, ch := 0, count := 2, gb := 32, supported := true }, { hx := 0, ch := 1, count := 1, gb := 32, supported := true }]) s
    let slow := fun t : Nat => ({ s with clk := { up := t }, disc := { s.disc with site := some { rampSlot := 1 } } } : State)
    (∀ n < 30, pdIsOn s n = false) ∧ u.mem.chDeg = [(0, 1)] ∧ u.mem.pages.get 8 0 = 15625000 ∧ pdIsOn u 29 = true ∧ u.pwr.portTrain.length = 8
      ∧ pdIsOn (after (.selftestStart []) (slow 9999999)) 29 = false ∧ pdIsOn (after (.selftestStart []) (slow 10000000)) 29 = true
      ∧ (startAfter (.selftestPhaseEnd []) fun d => { d with phase := 2 }).phase = 3 ∧ (startAfter (.selftestPhaseEnd []) fun d => { d with phase := 2, site := none }).phase = 0xF
      ∧ (startAfter (.selftestPhaseEnd []) fun d => { d with phase := 3, finalSweep := 9 }).phase = 3 := by decide +kernel

/-- The optical phase with a ring that still seeks; a member that pairs, one that goes on alone and one that is excluded. -/
theorem witness_phases :
    let o := startOne fun d => { d with phase := 3 }
    let seeks := { o with opt := { pegs := [((7, 17, true, 17), { st := .seek })] } }
    let p := startOne fun d => { d with phase := 4 }
    let pairs := { p with links := [(512, { stage := 9 })], course := { paired := true } }
    let b := startOne fun d => { d with phase := 4, twinHello := true, site := some { memberB := true } }
    (after .opticalPhaseEnd o).disc.phase = 4 ∧ (linkOf (after .opticalPhaseEnd o) 543).stage = 1 ∧ (after .opticalPhaseEnd seeks).disc.phase = 3
      ∧ soundpostUp pairs = true ∧ (after .soundpostPhaseEnd pairs).disc.phase = 5 ∧ (after .soundpostPhaseEnd pairs).course.alone = false
      ∧ (after .soundpostPhaseEnd p).course.alone = true ∧ (after .soundpostPhaseEnd b).disc.excl = true := by decide +kernel

/-- Leaf attach that waits for a string in bring-up, 799 ms and 800 ms after its start. -/
theorem witness_leafAttach :
    let s := startOne fun d => { d with phase := 5 }
    let waits := { s with links := [(511, { stage := 8 })] }
    let joins := { s with course := { twinAlone := true } }
    (after (.leafAttachPhaseEnd 0) s).disc.attached = true ∧ (after (.leafAttachPhaseEnd 799) waits).disc.attached = false ∧ (after (.leafAttachPhaseEnd 800) waits).disc.attached = true
      ∧ joinsReady joins = true ∧ (after (.leafAttachPhaseEnd 0) joins).course.rebuildTgt = true
      ∧ (startAfter (.leafAttachPhaseEnd 0) fun d => { d with phase := 5, closed := true }).phase = 6 ∧ (after .helloSend s).out.length = 1
      ∧ (startAfter .helloSend fun d => { d with phase := 5, site := none }).helloSent = none := by decide +kernel

/-- A HELLO of rank 3, one with another K, and two claims on this place. -/
theorem witness_hello :
    let h : Hello := { domain := 7, course := 1, memberB := true, k := 2 }
    let me : Hello := { h with course := 0, memberB := false }
    let s := { startOne id with fuse := { State.reset.fuse with devid := 5 } }
    rankOf h.course h.memberB = 3 ∧ myRank s = 0 ∧ (after (.hello h true) s).disc.helloAt.get 3 0 = 1000000000 ∧ (after (.hello h false) s).disc.hellos = []
      ∧ (after (.hello { h with domain := 8 } true) s).disc.hellos = [] ∧ (after (.hello { h with k := 3 } true) s).disc.hellos = []
      ∧ (after (.hello { me with devid := 4 } true) s).disc.excl = true ∧ (after (.hello { me with devid := 5 } true) s).disc.excl = false := by decide +kernel

/-- An election 400 ms after the first HEALTHY HELLO and 1 ns before; led by this Kojor, and by another. -/
theorem witness_election :
    let d := fun (at_ : Nat) (d : Disc) => { d with phase := 5, attached := true, firstHealthy := some at_ }
    let other := fun x : Disc => { d 600000000 x with attached := false, hellos := [(3, { healthy := true })] }
    let go := startAfter .electionClose
    healthyRanks (startOne (d 600000000)) = [0] ∧ (go (d 600000000)).amLead = true ∧ (go (d 600000000)).baseSweep = 1 ∧ (go (d 600000001)).closed = false
      ∧ (go other).lead = 3 ∧ (go other).amLead = false := by decide +kernel

/-- A lead after its baseline, after a sweep without a change, and one that a lower rank replaces. -/
theorem witness_sweeps :
    let lead := fun d : Disc => { d with phase := 6, amLead := true, closed := true, attached := true, following := 0, sweepNo := 1, baseSweep := 1, sweepAt := 900000000, surveys := [(0, [])] }
    let second := fun d : Disc => { lead d with sweepNo := 2, prevSurveys := [(0, [])] }
    let later := fun d : Disc => { second d with site := some { domain := 7, k := 2, memberB := true } }
    seesChange (startOne second) = false ∧ (startAfter .sweepSend lead).sweepNo = 2 ∧ (startAfter .sweepSend fun d => { lead d with sweepAt := 900000001 }).sweepNo = 1
      ∧ (startAfter .sweepSend second).phase = 7 ∧ (startAfter (.survey 3 1 []) fun d => { lead d with phase := 7 }).surveys.length = 2
      ∧ (startAfter (.survey 3 2 []) lead).surveys.length = 1 ∧ (startAfter (.sweep 9 0) later).amLead = false ∧ (startAfter (.sweep 9 0) later).lead = 0
      ∧ (startAfter (.sweep 9 1) later).amLead = true ∧ (startAfter .sweepSend fun d => d).sweepNo = 0 := by decide +kernel

/-- In service: a HELLO of a joined domain, a lead course of which neither member is heard any more, and a time domain that is not. -/
theorem witness_inService :
    let on := fun (b : Bool) (f : Disc → Disc) => startOne fun d => f { d with phase := 9, closed := true, attached := true, site := some { domain := 7, k := 2, bridges := b } }
    let far : Hello := { domain := 8, dx := 1, bridges := true, healthy := true }
    let lone := fun (at_ : Nat) (d : Disc) => { d with lead := 2, hellos := [(2, { healthy := true }), (3, { healthy := true })], helloAt := [(2, 0), (3, at_)] }
    let long := fun (s : State) => { s with clk := { s.clk with up := 2000000000 }, course := { serving := true } }
    let dom := fun (at_ : Nat) (d : Disc) => { d with refDom := (1, 0), domAt := [((1, 0), at_), ((0, 1), 2000000000)] }
    far.w = (site (on true id)).w ∧ far.h = (site (on true id)).h ∧ (after (.hello far true) (on true id)).disc.domAt = [((0, 1), 1000000000)]
      ∧ (after (.hello far true) (on false id)).disc.domAt = []
      ∧ (after .leadLost (long (on false (lone 970000000)))).disc.lead = 0 ∧ (after .leadLost (long (on false (lone 970000001)))).disc.lead = 2
      ∧ (after .leadLost (long (on true (dom 970000000)))).disc.refDom = (0, 0) ∧ (after .leadLost (long (on true (dom 970000001)))).disc.refDom = (1, 0) := by
  decide +kernel

/-- TABLES that exclude this Kojor, and TABLES it takes: accepted 300 ms ahead, refused when their epoch has passed. -/
theorem witness_startTables :
    let takes := fun d : Disc => { d with phase := 6, attached := true }
    (startAfter (.tables 2 5300000000 [] [0]) takes).excl = true ∧ (startAfter (.tables 2 5300000000 [] [3]) takes).cstate = 1 ∧ (startAfter (.tables 2 4000000000 [] []) takes).cstate = 4
      ∧ (startAfter (.tables 2 5300000000 [] []) fun d => d).cstate = 0 := by decide +kernel

/-- The two deadlines of the lead, just reached and 1 ns early, and a lead silent for 30 ms. -/
theorem witness_deadlines :
    let at_ := fun (e n : Nat) => { startOne fun d => { d with phase := 7, amLead := true, closed := true, attached := true, epochE := e, resends := n, hellos := [(3, {})], accepted := [0] } with
        prog := { State.reset.prog with commits := [{ num := 1, epoch := e, entries := [], capo := none, desc := 0 }] } }
    let ends := fun e => (after .tablesAcceptDeadline (at_ e 0)).disc
    let conv := fun e n => (after .convergenceCheck (at_ e n)).disc
    let silent := fun (t : Nat) (d : Disc) => { d with phase := 7, closed := true, attached := true, lead := 3, hellos := [(3, { healthy := true })], helloAt := [(3, t)] }
    tablesPending (at_ 0 0) = true ∧ (ends 5050000000).excluded = [3] ∧ (ends 5050000000).phase = 8 ∧ (ends 5050000001).excluded = []
      ∧ (conv 5001000000 2).resends = 3 ∧ (conv 5001000000 3).excluded = [3] ∧ (conv 5001000001 3).excluded = []
      ∧ (startAfter (.result 3 1 true) fun d => { d with amLead := true }).convergedR = [3] ∧ (startAfter (.result 3 4 false) fun d => { d with amLead := true }).excluded = [3]
      ∧ (startAfter .leadLost (silent 970000000)).amLead = true ∧ (startAfter .leadLost (silent 970000001)).lead = 3 := by decide +kernel

/-! Energy, fuses and security. -/

/-- A package in service at the first nanosecond of epoch 3, with the owner's session 1; f sets its fuse record. -/
def encOne (f : Fuse → Fuse) : State :=
  { State.reset with
    pwr := { State.reset.pwr with pwrGood := true, porHeld := false, pdOn := BitVec.allOnes 36 }, clk := { now := 3000000, anchored := true }
    fuse := f { sel := 5 }, sec := { sess := [(1, { st := 5, role := .owner }), (2, { st := 5, role := .tenant 7 })], rtc := 60000000000 }
    elg := { epoch := 2, bases := List.replicate 16 900 }, disc := { phase := 9, site := some {} } }

/-- One boundary: 1,000 W, of which the stream used 250 W, after sixteen bases of 900 W; the level falls after ten cool epochs. -/
theorem witness_epoch :
    let s := encOne id
    let go := fun (level cool : Nat) (t : Int) => (after (.ledgerEpoch [1000000] 250000 [] [(0, t)]) { s with elg := { s.elg with level := level, cool := cool } }).elg
    boundaries s = 1 ∧ (go 0 0 94).pLast = 1000 ∧ (go 0 0 94).sLast = 250 ∧ (go 0 0 94).bases.length = 16 ∧ (go 0 0 94).bhat = 950 ∧ (go 0 0 94).epoch = 3
      ∧ (go 0 0 94).level = 0 ∧ (go 0 0 95).level = 1 ∧ (go 1 0 105).level = 2 ∧ (go 2 9 100).level = 1 ∧ (go 2 8 100).cool = 9 ∧ (go 2 9 101).cool = 0
      ∧ (after (.ledgerEpoch [1000000] 0 [] []) { s with clk := { now := 2999999 } }).elg.pLast = 0
      ∧ (after (.ledgerEpoch [1000000] 0 [] []) { s with elg := { s.elg with settings := 5 } }).prog.eff = [((0x12, 0), 5)] := by decide +kernel

theorem witness_trip : let s := encOne id
    (thermAt 0).2.2 = 120 ∧ pdIsOn s 0 = true ∧ pdIsOn (after (.thermalSample [(0, 120)]) s) 0 = false ∧ (after (.thermalSample [(0, 119)]) s).elg.epTmax = [(0, 119)] := by decide +kernel

/-- Steps 30 and 31, the last, and generations up to the budget of 8. -/
theorem witness_fuses :
    let o := MPort.eth 1
    let st := fun (n v : Nat) => (after (.ageStep o v) (encOne fun f => { f with step := [(5, n)] })).fuse
    let map := fun f : Fuse => { f with gen := [(5, 2)], pendMap := [(5, [9])], recs := [{ ty := 3, site := 5, gen := 2 }] }
    let full := fun f : Fuse => { map f with recs := List.replicate 7 { ty := 3, site := 5, gen := 2 } }
    isOwner (encOne id) o = true ∧ isOwner (encOne id) (.eth 2) = false ∧ isOwner (encOne id) .spi = false ∧ (st 30 31).busy = some (4, 5, 31) ∧ (st 30 31).supplyMv.get 5 0 = 124
      ∧ (st 30 30).refused = false ∧ (st 30 62).refused = false ∧ (st 30 29).refused = true ∧ (st 29 31).refused = true ∧ (st 31 31).refused = false
      ∧ (after (.ageStep o 1) (encOne fun f => { f with busy := some (4, 5, 1) })).fuse.refused = true
      ∧ gensUsed (encOne full).fuse 5 = 8 ∧ (after (.repairGen o 3) (encOne map)).fuse.busy = some (3, 5, 3) ∧ (after (.repairGen o 3) (encOne full)).fuse.budgetExh = true
      ∧ (after (.repairGen o 1) (encOne map)).fuse.refused = true ∧ (after (.repairGen (.eth 2) 3) (encOne map)).fuse.busy = none := by decide +kernel

theorem witness_programDone :
    let s := fun r : FuseRec => encOne fun f => { f with busy := some (r.ty, r.site, r.gen), recs := [r] }
    let none' : List (Nat × Nat × W64 × W64) := (List.range 4).map fun i => (i, 0, 0, 0)
    let done := fun (b : Bool) (r : FuseRec) => after (.fuseProgramDone (if b then [] else none')) (s r)
    let half := { s { ty := 4 } with pwr := { pdOn := BitVec.ofNat 36 (2 ^ 31) } }
    let read := fun (u : State) => u.fuse.recs.map fun r => (List.range 4).map (cellsRead r)
    (done true { ty := 4, site := 31, gen := 31 }).fuse.step.get 31 0 = 31 ∧ (done true { ty := 3, site := 5, gen := 3, words := [9] }).fuse.entries.get 5 [] = [9]
      ∧ (done false { ty := 3, site := 5, gen := 3 }).fuse.lost = true ∧ (done false { ty := 3, site := 5, gen := 3 }).fuse.gen = []
      ∧ (done true { ty := 6 }).fuse.debugOff = true ∧ (done true { ty := 5, gen := 2, words := ownerWords (2 ^ 380) 3 }).sec.ownKey = 2 ^ 380
      ∧ copyReach half 1 = false ∧ copyReach half 2 = true ∧ read (after (.fuseProgramDone []) half) = [[.blank, .blank, .good, .good]]
      ∧ read (done false { ty := 4 }) = [[.blank, .blank, .blank, .blank]] ∧ read (after (.fuseProgramDone [(2, 0, 1, 1)]) half) = [[.blank, .blank, .bad, .good]]
      ∧ (after (.fuseProgramDone []) (encOne id)).fuse.lost = false := by decide +kernel

/-- A site just below and just at its two targets, and a re-plan due after 64 h. -/
theorem witness_replan :
    let go := fun (slack vmin : Nat) => (after (.replan (.eth 1) 1 [(31, slack, vmin)]) (encOne id)).fuse
    let late := fun n : Nat => { encOne id with clk := { now := n, anchored := true } }
    siteServes (encOne id) 31 = true ∧ isManager (encOne id) (.eth 1) = true ∧ isManager (encOne id) (.eth 2) = false ∧ (go 19 50).busy = some (4, 31, 1) ∧ (go 20 49).busy = some (4, 31, 1)
      ∧ (go 20 50).busy = none ∧ (go 20 50).lastReplan = 3000000 ∧ (after (.replan (.eth 1) 2 [(31, 0, 0)]) (encOne id)).fuse.busy = none
      ∧ (after (.replanPeriod [(31, 0, 0)]) (late (64 * 3600 * 10 ^ 9))).fuse.replan = true ∧ (after (.replanPeriod [(31, 0, 0)]) (late (64 * 3600 * 10 ^ 9 - 1))).fuse.replan = false
      ∧ (after (.ageingMonitorRead 31 3 4) (encOne id)).fuse.monitor = [(31, (3, 4))] ∧ (after (.ageingMonitorRead 32 3 4) (encOne id)).fuse.monitor = [] := by decide +kernel

/-- Connection 3 in each of its states, with a TRNG that is ready and one that is not. -/
theorem witness_spdm :
    let s := fun (st : Nat) (ok : Bool) => { encOne id with sec := { (encOne id).sec with sess := [(3, { st := st, role := .tenant 7 })], trngOk := ok, ownGen := 1 } }
    let st := fun (i : Instr) (n : Nat) => (sessOf (after i (s n true)) 3).st
    let out := fun (i : Instr) (n : Nat) => (after i (s n true)).out
    mcAnswers (s 0 true) = true ∧ st (.getVersion 3) 4 = 1 ∧ st (.getVersion 3) 5 = 5 ∧ st (.getCapabilities 3) 1 = 2 ∧ st (.negotiateAlgorithms 3 true) 2 = 3
      ∧ st (.negotiateAlgorithms 3 false) 2 = 2 ∧ out (.getDigests 3) 3 = [.spdm 3 0x01] ∧ out (.getDigests 3) 2 = [.spdm 3 0x7F] ∧ out (.getCertificate 3 65000 535) 5 = [.spdm 3 0x02]
      ∧ out (.getCertificate 3 65000 536) 5 = [.spdm 3 0x7F] ∧ st (.keyExchange 3) 3 = 4 ∧ st (.finish 3 { ok := true, role := .owner }) 4 = 5 ∧ st (.finish 3 {}) 4 = 0
      ∧ (sessOf (after (.finish 3 { ok := true }) { s 4 true with sec := { (s 4 true).sec with ownGen := 0 } }) 3).st = 0
      ∧ (after (.keyExchange 3) (s 3 false)).sec.waiters = [5] ∧ (sessOf (after (.keyUpdate 3) (s 5 true)) 3).updates = 1 ∧ (sessOf (after (.spdmHeartbeat 3) (s 5 true)) 3).beat = 60000000000
      ∧ (after (.endSession 3) (s 5 true)).sec.sess = [] ∧ (after (.spdmSessionTimeout 3) (s 4 true)).sec.sess = []
      ∧ (after (.spdmSessionTimeout 3) { s 4 true with sec := { (s 4 true).sec with rtc := 59999999999 } }).sec.sess.length = 1 := by decide +kernel

/-- The sixteen owner records: the last, and one too many. -/
theorem witness_owner :
    let s := fun (gen used : Nat) => { encOne fun f => { f with keyUsed := used } with sec := { (encOne id).sec with ownGen := gen, minSvn := 4 } }
    let turn := fun (v svn : Nat) => after (.secOwnerGen (.eth 1) v (some (9, svn))) (s 3 3)
    (after (.ownerClaim 9 1) (s 0 15)).fuse.busy = some (5, 0, 16) ∧ (after (.ownerClaim 9 1) (s 0 16)).fuse.budgetExh = true ∧ (after (.ownerClaim 9 1) (s 1 1)).fuse.busy = none
      ∧ (turn 3 4).sec.rotation = some (9, 4) ∧ (turn 4 4).fuse.busy = some (5, 0, 4) ∧ (turn 4 3).fuse.busy = none
      ∧ (after (.secOwnerGen (.eth 2) 4 (some (9, 4))) (s 3 3)).fuse.busy = none := by decide +kernel

/-- The alarms of AON: temperatures of −40.00 °C and 95.00 °C and 2.50 V are within limits. -/
theorem witness_aon :
    let s := { encOne id with sec := { (encOne id).sec with trngOk := true, kreg := some [1] } }
    let failed := { s with sec := { s.sec with trngOk := false, trngFailedAt := some 59900000000 } }
    (after (.trngBlock true [7]) s).sec.pool = [7] ∧ (after (.trngBlock false [7]) s).sec.trngOk = false ∧ (after (.trngBlock true [7]) failed).sec.pool = []
      ∧ (after (.trngStartupRetry true) failed).sec.trngOk = true ∧ (after (.trngStartupRetry false) failed).sec.trngFailedAt = some 60000000000
      ∧ (after (.trngStartupRetry true) { failed with sec := { failed.sec with trngFailedAt := some 59900000001 } }).sec.trngOk = false
      ∧ (after .tamper s).sec.tamper = true ∧ (after .tamper s).sec.sess.map (·.1) = [1] ∧ (after .tamper { s with pwr := { pwrGood := false } }).sec.kreg = none
      ∧ (after (.aonTemperature (-4000)) s).sec.temp = false ∧ (after (.aonTemperature (-4001)) s).sec.temp = true ∧ (after (.aonTemperature 9500) s).sec.temp = false
      ∧ (after (.aonTemperature 9501) s).sec.temp = true ∧ (after (.cellLow 2500) s).sec.cellLow = false ∧ (after (.cellLow 2499) s).sec.cellLow = true
      ∧ (after .aonLost { s with pwr := { s.pwr with onCell := true } }).sec.aonLost = true ∧ (after .aonLost s).sec.aonLost = false := by decide +kernel

/-! Telemetry, debug and the management ports. -/

/-- The same package with an operator's session 3, and telemetry t at a time. -/
def telOne (t : Tel) (now : Nat) : State :=
  { encOne id with
    tel := t, clk := { now := now, anchored := true }, links := [(3, { stage := 9 })]
    sec := { sess := [(1, { st := 5, role := .owner }), (2, { st := 5, role := .tenant 7 }), (3, { st := 5, role := .operator })], unlock := true } }

/-- SNAP_AT at 2 µs and 10 s ahead, and 1 ns before and beyond. -/
theorem witness_snapAt :
    let go := fun (at_ : Nat) (b : Bool) => after (.snapAtHi .spi (BitVec.ofNat 32 (at_ / 2 ^ 32))) (telOne { atLo := BitVec.ofNat 32 at_, snapBrola := b } 5000)
    let busy := telOne { armed := true } 5000
    mayWrite busy .spi = true ∧ mayWrite busy (.eth 2) = false ∧ (go 7000 false).tel.armed = true ∧ (go 6999 false).tel.snapLate = true ∧ (go 10000005000 false).tel.armed = true
      ∧ (go 10000005001 false).tel.armed = false ∧ (go 7000 true).out = [.frame .kojor 3 (.snap 7000)] ∧ (after (.snapAtHi .spi 0) busy).tel.snapRefused = true
      ∧ (after (.snapAtLo .spi 9) busy).tel.atLo = 0 ∧ (after (.snapAtLo (.eth 3) 9) (telOne {} 5000)).tel.atLo = 9 ∧ (after (.snapAtLo (.eth 2) 9) (telOne {} 5000)).tel.atLo = 0
      ∧ (after (.snapNowLo .spi) (telOne {} (2 ^ 32 + 7))).tel.frozenHi = [(0, 1)] ∧ (after (.snapNowLo .spi) (telOne {} (2 ^ 32 + 7))).out = [.spiRead 7 false]
      ∧ (after (.scrollRd (.eth 2) 8) (telOne {} 5000)).tel.scrollRd = 8 ∧ (after (.scrollRd .smbus 8) (telOne {} 5000)).tel.scrollRd = 0 := by decide +kernel

/-- A block copies at SNAP_AT and the swap comes 1,000 ns later; die 31 is off. -/
theorem witness_snapshot :
    let s := fun n : Nat => { telOne { armed := true, atLo := 7000 } n with ctr := [((.elgEpoch, []), 5)], pwr := { State.reset.pwr with pwrGood := true, pdOn := BitVec.ofNat 36 (2 ^ 31 - 1) } }
    let k : CtrKey := (.elgEpoch, [])
    ctrMine k = true ∧ ctrBlock (s 7000) k = 30 ∧ (after (.snapshotCopy 30) (s 7000)).tel.inactive = [(k, 5)] ∧ (after (.snapshotCopy 30) (s 6999)).tel.inactive = []
      ∧ (after (.snapshotCopy 31) (s 7000)).tel.copiedBlks = [] ∧ (after .snapshotSwap (s 8000)).tel.stale = [31] ∧ (after .snapshotSwap (s 8000)).tel.snapEpoch = 1
      ∧ (after .snapshotSwap (s 7999)).tel.armed = true := by decide +kernel

/-- A window that ends after two suppressed entries, and archiving of the oldest. -/
theorem witness_scroll :
    let c : (Nat × ScrollEv × Nat × Option Nat) × (Nat × Nat × Bool) := ((4, .twinLost, 30, none), (18, 2, true))
    let e := fun n : Nat => ({ time := 0, rtc := 0, site := 30, capo := none, cls := 4, ev := .twinLost, seq := n } : ScrollEntry)
    let s := fun n : Nat => telOne { winCount := [c], tail := [e 1, e 2, e 3], unarchived := 2 } n
    ((after .scrollWindowEnd (s 10000000)).tel.tail.getLast?.map fun x => (x.cls, x.count)) = some (0x0B, 2) ∧ (after .scrollWindowEnd (s 9999999)).tel.tail.length = 3
      ∧ (after (.scrollArchive 1) (s 0)).tel.archive = [e 2] ∧ (after (.scrollArchive 9) (s 0)).tel.unarchived = 0 := by decide +kernel

/-- Debug unlocked in PHASE 9 and in PHASE 0xF, and locked. -/
theorem witness_debug :
    let pins := { telOne { bscan := 9, dieState := [(7, 5)] } 0 with disc := { phase := 0xF } }
    let s := { pins with disc := { phase := 9 } }
    let locked := { pins with sec := { pins.sec with unlock := false } }
    let off := { s with fuse := { s.fuse with debugOff := true } }
    jtagPins pins = true ∧ jtagPins s = false ∧ jtagPins locked = false ∧ (after (.jtagBypass 3) s).out = [.jtag 0 1] ∧ (after (.jtagExtest 6) pins).out = [.jtag 3 6]
      ∧ (after (.jtagExtest 6) s).tel.bscan = 9 ∧ (after .jtagClamp pins).out = [.jtag 4 9] ∧ (after .jtagHighz locked).out = [.jtag 0 0] ∧ (after (.jtagSamplePreload 6) s).tel.bscan = 6
      ∧ s.tel.dieState.find 7 = some 5 ∧ (after (.dbgacc false 7 0) s).out = [.jtag 6 5] ∧ (after (.dbgacc true 8 4) s).tel.dieState.get 8 0 = 4 ∧ (after (.dbgacc true 8 4) locked).tel.dieState.length = 1
      ∧ (after (.dbginj 3 127 1) s).sw.injected.get (3, 127) [] = [{ capo := 0, left := 1, flits := 1 }] ∧ (after (.dbginj 3 127 1) locked).sw.injected = []
      ∧ (after (.unlock (.eth 1) true) locked).sec.unlocker = some 1 ∧ (after (.unlock (.eth 3) true) locked).sec.unlock = false ∧ (after (.unlock (.eth 1) false) s).sec.unlock = false
      ∧ (after (.unlock (.eth 1) false) off).sec.unlock = true ∧ (after (.disable (.eth 1) true) s).fuse.busy = some (6, 0, 1) ∧ (after (.disable (.eth 1) false) off).fuse.budgetExh = true
      ∧ (after (.disable (.eth 1) false) { off with fuse := { off.fuse with busy := some (4, 0, 1) } }).fuse.refused = true := by
  decide +kernel

/-- Writes of registers by address, and the actions of MC_RESET with and without their key. -/
theorem witness_registers :
    let s := { telOne {} 5000 with mc := { ifStatus := 0xFFF, standbyOk := true }, course := { serving := true, twinUp := true } }
    let o := MPort.eth 1
    let wr := fun (p : MPort) (a d : W32) => after (.registerWrite p a d) s
    mayPut s .spi 0x30 = true ∧ mayPut s .spi 0x03000018 = true ∧ mayPut s .smbus 0x30 = false ∧ (wr .spi 0x30 0xF).mc.ifStatus = 0xFF0 ∧ (wr .spi 4 1).mc.ifStatus = 0xFFF
      ∧ (wr .spi 0x03000018 37).fuse.sel = 5 ∧ count (wr .spi 0xFFFFFFFC 1) .mcIfErr [0, 7] = 1 ∧ count (wr .smbus 0x30 1) .mcIfErr [1, 8] = 1
      ∧ (after (.warm o 0x5A) s).disc.phase = 2 ∧ (after (.warm o 0x5B) s).disc.phase = 9 ∧ (after (.warm (.eth 2) 0x5A) s).disc.phase = 9
      ∧ (after (.warm o 0x5A) { s with fuse := { s.fuse with busy := some (4, 5, 1) } }).mc.warmWait = true ∧ (after (.mcswap o 0x5A) s).mc.swapping = true
      ∧ (after (.mcswap o 0x5A) { s with mc := {} }).mc.ifStatus = 0x800 ∧ (after (.leave (.eth 3) 0x5A) s).course.leaving = true
      ∧ (after (.leave o 0x5A) { s with course := { alone := true } }).mc.ifStatus = 0xFFF := by decide +kernel

/-- SPI frames at the lengths where the bits of their faults meet. -/
theorem witness_spi :
    let s := telOne {} 5000
    let w := fun (e : Nat) (crc rdy : Bool) => (after (.spiWrite e 0x03000018 6 crc rdy) s).mc.ifStatus
    let r := fun (e : Nat) (crc : Bool) => after (.spiRead e 0x03000018 crc true) s
    (after (.spiWrite 80 0x03000018 6 true true) s).fuse.sel = 6 ∧ w 80 true true = 0 ∧ w 80 false true = 8 ∧ w 40 true true = 2 ∧ w 79 true true = 1 ∧ w 7 true true = 1 ∧ w 56 true false = 32
      ∧ (r 96 true).out = [.spiRead 5 false] ∧ (r 96 false).out = [.spiRead 0 true] ∧ (r 88 true).mc.ifStatus = 2 ∧ regValue s .spi none 0x03000018 = some 5 ∧ regOff s 0x03000018 = false
      ∧ (after (.spiUnknownOpcode 255) s).mc.ifStatus = 16 := by decide +kernel

/-- SMBus with a good and a bad PEC, the alarm, and sessions that read and write through MCTP. -/
theorem witness_sessionsPorts :
    let s := telOne {} 5000
    let swap := { s with mc := { swapping := true } }
    smbBlock (0x03000018 / 2 ^ 24) = true ∧ smbBlock 4 = false ∧ (after (.smbRegisterRead true 4 0x03000018) s).out = [.smbRead 5 0] ∧ (after (.smbRegisterRead true 4 0x04000000) s).out = [.smbRead 0 1]
      ∧ (after (.smbRegisterRead false 4 0x03000018) s).mc.ifStatus = 64 ∧ (after (.smbMctp false 0) s).mc.ifStatus = 64 ∧ (after .alertResponse { s with mc := { alarm := 1 } }).out = [.smbAlert 0x4C]
      ∧ (after .alertResponse s).out = [] ∧ isManager s (.eth 3) = true ∧ portRole s (.eth 9) = none ∧ (after (.mctpRead 3 0x03000018 1) s).out = [.mctpRead 3 0 [5]]
      ∧ (after (.mctpRead 9 0x03000018 1) s).out = [] ∧ (after (.mctpRead 3 0x03000018 64) swap).out = [.mctpRead 3 3 (List.replicate 64 0)]
      ∧ (after (.mctpWrite 3 0x03000018 [6]) s).out = [.mctpWrite 3 0] ∧ regValue s (.eth 3) none 0x0300001C ≠ none ∧ mayPut s (.eth 3) 0x0300001C = false
      ∧ (after (.mctpWrite 3 0x0300001C [6]) s).out = [.mctpWrite 3 2] := by decide +kernel

/-! Whole rules. -/

/-- No register stands at the last word of the address space, nor at an address that is no multiple of four. -/
theorem witness_noRegister (p : MPort) (t : Option Nat) : regValue (telOne {} 5000) p t 0xFFFFFFFC = none ∧ regValue (telOne {} 5000) p t 3 = none := ⟨rfl, rfl⟩

theorem test_unoccupied : let s := telOne {} 5000
    mayGet s (.eth 3) 0xFFFFFFFC = true ∧ (after (.spiRead 96 0xFFFFFFFC true true) s).out = [.spiRead 0 false] ∧ (after (.smbRegisterRead true 4 3) s).out = [.smbRead 0 1]
      ∧ (after (.mctpRead 3 0xFFFFFFFC 1) s).out = [.mctpRead 3 1 [0]] ∧ (after (.mctpWrite 3 0xFFFFFFFC [1]) s).mc.ifStatus = 0x200 := by decide +kernel

/-- A tenant's session, and an address outside what it may read. -/
theorem witness_mayNotGet : let s := telOne {} 5000
    portRole s (.eth 2) ≠ none ∧ mayGet s (.eth 2) 0xFFFFFFFC = false ∧ (after (.mctpRead 2 0xFFFFFFFC 1) s).out = [.mctpRead 2 2 [0]]
      ∧ (after (.mctpRead 2 0xFFFFFFFC 1) s).mc.ifStatus ≠ 0 := by decide +kernel

/-- Ring 17 of fibre 17 of OX7, the last there is, and fibre 18. -/
theorem witness_ringSelection :
    let s := { telOne {} 5000 with opt := { pegs := [((7, 17, true, 17), { st := .locked, wl := 4 })] } }
    let sel := fun v : W32 => (after (.spiRead 96 0x27000204 true true) (after (.registerWrite .spi 0x27000200 v) s)).out
    pdIsOn s 11 = true ∧ sel 0x110111 = [.spiRead (BitVec.ofNat 32 (pegStat { st := .locked, wl := 4 })) false] ∧ sel 0x110112 = [.spiRead 0 false] ∧ pegStat { st := .locked, wl := 4 } ≠ 0 := by
  decide +kernel

/-- Each way in which session 1 ends. -/
theorem witness_sessionsEnd :
    let s := { telOne {} 5000 with mc := { standbyOk := true }, sec := { (telOne {} 5000).sec with unlocker := some 1, rtc := 60000000000 } }
    mcAnswers s = true ∧ (sessOf s 1).st = 5 ∧ (after (.endSession 1) s).sec.unlock = false ∧ (after (.spdmSessionTimeout 1) s).sec.sess.map (·.1) = [2, 3]
      ∧ (after (.mcswap (.eth 3) 0x5A) s).sec.sess = [] ∧ (after (.endSession 3) s).sec.unlock = true := by decide +kernel

/-! The block as a whole. -/

theorem test_queue : step { State.reset with pending := [.cellLow 2499] } = exec (.cellLow 2499) State.reset ∧ step State.reset = .next (tick State.reset)
    ∧ (tick State.reset).clk.now = 1 := ⟨rfl, rfl, rfl⟩

theorem test_reset : State.reset.mc.resetCause = 1 ∧ pdIsOn State.reset 35 = false ∧ flagOf State.reset (true, 511, 65535) = false := by decide +kernel

/-- A safe state whose memories hold bytes, and one that lists a byte that reads the same unlisted. -/
theorem witness_safeState : safeState { twinOne with mem := { twinOne.mem with phys := [(3, 5), (4096, 7)] } } ∧ ¬ safeState { twinOne with scratch := [(3, 0)] } :=
  ⟨⟨rfl, rfl, rfl⟩, fun h => absurd h.2.1 (by decide)⟩

/-- No word spells a command. -/
theorem test_noWord : decodeTableWord 32 0xFFFFFFFF = none ∧ State.reset.withFetchWord 32 0xFFFFFFFF = State.reset := ⟨rfl, rfl⟩

end
end

section
/-! SUPPORT. One rule for each way in which a management port answers: a register write, a register read, and the frames and messages
that carry them (R15, R18, R488, R518 to R527). -/

namespace Sys2Proof.Machine

open Sys2Proof

theorem mcAnswers_iff (s : State) : mcAnswers s = true ↔ s.pwr.pwrGood = true ∧ s.mc.swapping = false := by
  simp [mcAnswers]

theorem access_granted {s : State} (h : mcAnswers s = true) (p : MPort) (f : State → State) :
    access s p true f = bump (f s) .mcIfAccess [mportIx p] := by simp [access, h]

theorem access_refused {s : State} (h : mcAnswers s = true) (p : MPort) (f : State → State) :
    access s p false f = addrError s p := by simp [access, h]

/-! Address errors. -/

/-- What one address error at port p leaves, whatever is sent besides: its bit of MC_IF_STATUS, and one more in its count. -/
def CountsAddrError (s u : State) (p : MPort) : Prop :=
  u = { s with mc := u.mc, ctr := u.ctr, out := u.out }
    ∧ u.mc = { s.mc with ifStatus := s.mc.ifStatus ||| BitVec.ofNat 12 (2 ^ (7 + mportIx p)) }
    ∧ ∀ k ix, count u k ix = if k = .mcIfErr ∧ ix = [mportIx p, 7 + mportIx p] then min (count s k ix + 1) ctrMax else count s k ix

theorem count_addrError (s : State) (p : MPort) (k : CtrName) (ix : List Nat) :
    count (addrError s p) k ix
      = if k = .mcIfErr ∧ ix = [mportIx p, 7 + mportIx p] then min (count s k ix + 1) ctrMax else count s k ix := by
  unfold addrError ifEvent
  split
  · next h =>
    obtain ⟨rfl, rfl⟩ := h
    exact count_bump _ _ _ _
  · next h => exact count_bump_ne _ _ _ _ _ _ fun e => h (by cases e; exact ⟨rfl, rfl⟩)

theorem addrError_counts (s : State) (p : MPort) : CountsAddrError s (addrError s p) p :=
  ⟨rfl, rfl, count_addrError s p⟩

theorem emit_addrError_counts (s : State) (p : MPort) (o : Out) : CountsAddrError s (emit (addrError s p) o) p :=
  ⟨rfl, rfl, count_addrError s p⟩

/-! Writes of a register (R15, R488). -/

theorem writeAt_unoccupied {s : State} {p : MPort} {a : Nat} (v : Nat) (h : mcAnswers s = true) (hr : regValue s p none a = none) :
    writeAt s p a v = (addrError s p, 1) := by simp [writeAt, h, hr]

theorem writeAt_forbidden {s : State} {p : MPort} {a : Nat} (v : Nat) (h : mcAnswers s = true) (hr : regValue s p none a ≠ none)
    (hm : mayPut s p a = false) : writeAt s p a v = (addrError s p, 2) := by simp [writeAt, h, hr, hm]

theorem writeAt_done {s : State} {p : MPort} {a : Nat} (v : Nat) (h : mcAnswers s = true) (hr : regValue s p none a ≠ none)
    (hm : mayPut s p a = true) (hk : a ≠ 0x20) (hoff : regOff s a = false) :
    writeAt s p a v = (putReg (bump s .mcIfAccess [mportIx p]) p a v, 0) := by simp [writeAt, h, hr, hm, hk, hoff]

theorem exec_registerWrite (p : MPort) (addr data : W32) (s : State) :
    exec (.registerWrite p addr data) s = .next (writeAt s p addr.toNat data.toNat).1 := rfl

/-- A write that meets no register, or one that the port may not write. -/
theorem registerWrite_refused {s : State} {p : MPort} {addr : W32} (data : W32) (h : mcAnswers s = true)
    (hno : ¬ (regValue s p none addr.toNat ≠ none ∧ mayPut s p addr.toNat = true)) :
    exec (.registerWrite p addr data) s = .next (addrError s p) := by
  rw [exec_registerWrite]
  by_cases hr : regValue s p none addr.toNat = none
  · rw [writeAt_unoccupied _ h hr]
  · rw [writeAt_forbidden _ h hr (by simpa [hr] using hno)]

/-! Reads of a register (R18, R520). -/

theorem readAt_unoccupied {s : State} {p : MPort} {a : Nat} (hr : regValue s p (tenantOf s p) a = none) :
    readAt s p a = (addrError s p, 0, 1) := by simp [readAt, hr]

theorem readAt_occupied {s : State} {p : MPort} {a v : Nat} (hr : regValue s p (tenantOf s p) a = some v) (hoff : regOff s a = false)
    (hn : a ≠ 0x04000020) : readAt s p a = (bump s .mcIfAccess [mportIx p], v, 0) := by simp [readAt, hr, hoff, hn]

theorem tenantOf_manager {s : State} {p : MPort} (h : isManager s p = true) : tenantOf s p = none := by
  simp only [isManager, Bool.or_eq_true, beq_iff_eq] at h
  rcases h with h | h <;> simp [tenantOf, h]

theorem portRole_manager {s : State} {p : MPort} (h : isManager s p = true) : portRole s p ≠ none := by
  intro hn
  simp [isManager, hn] at h

theorem mayGet_manager {s : State} {p : MPort} (h : isManager s p = true) (a : Nat) : mayGet s p a = true := by
  simp [mayGet, tenantOf_manager h]

/-! SPI frames of the right length and with a good CRC (R522, R523). -/

theorem exec_spiRead_whole {s t : State} {addr : W32} {v st : Nat} (h : mcAnswers s = true)
    (hr : readAt s .spi addr.toNat = (t, v, st)) :
    exec (.spiRead 96 addr true true) s = .next (emit t (.spiRead (BitVec.ofNat 32 v) false)) := by
  obtain ⟨hp, hs⟩ := (mcAnswers_iff s).1 h
  show execSpiRead 96 addr true true s = _
  simp [execSpiRead, spiLate, hp, hs, hr]

theorem exec_spiWrite_whole {s : State} (h : mcAnswers s = true) (addr data : W32) :
    exec (.spiWrite 80 addr data true true) s = exec (.registerWrite .spi addr data) s := by
  obtain ⟨hp, hs⟩ := (mcAnswers_iff s).1 h
  show execSpiWrite 80 addr data true true s = execRegisterWrite .spi addr data s
  simp [execSpiWrite, execRegisterWrite, spiLate, hp, hs]

/-! SMBus reads of one register with a good PEC (R525). -/

theorem exec_smbRead_served {s t : State} {addr : W32} {v st : Nat} (h : mcAnswers s = true)
    (hb : smbBlock (addr.toNat / 2 ^ 24) = true) (hr : readAt s .smbus addr.toNat = (t, v, st)) :
    exec (.smbRegisterRead true 4 addr) s = .next (emit t (.smbRead (BitVec.ofNat 32 v) st)) := by
  show execSmbRegisterRead true 4 addr s = _
  simp only [execSmbRegisterRead, h, hb, hr, Bool.not_true, Bool.false_eq_true, ne_eq, not_true_eq_false, if_false]

theorem exec_smbRead_unserved {s : State} (h : mcAnswers s = true) {addr : W32} (hb : smbBlock (addr.toNat / 2 ^ 24) = false) :
    exec (.smbRegisterRead true 4 addr) s = .next (emit (addrError s .smbus) (.smbRead 0 1)) := by
  show execSmbRegisterRead true 4 addr s = _
  simp only [execSmbRegisterRead, h, hb, Bool.not_true, Bool.not_false, Bool.false_eq_true, ne_eq, not_true_eq_false, if_false, if_true]

/-! MCTP messages of one register (R527, Table 20-5). -/

theorem msgAddrs_one (addr : W32) : msgAddrs addr 1 = [addr.toNat] := by
  simp [msgAddrs, List.range_succ, Nat.mod_eq_of_lt addr.isLt]

theorem exec_mctpRead_allowed {s t : State} {sess v st : Nat} {addr : W32} (h : mcAnswers s = true)
    (hr : portRole s (.eth sess) ≠ none) (hg : mayGet s (.eth sess) addr.toNat = true)
    (hv : readAt s (.eth sess) addr.toNat = (t, v, st)) :
    exec (.mctpRead sess addr 1) s = .next (emit t (.mctpRead sess (if st = 1 then 1 else 0) [BitVec.ofNat 32 v])) := by
  obtain ⟨hp, hs⟩ := (mcAnswers_iff s).1 h
  show execMctpRead sess addr 1 s = _
  simp [execMctpRead, hp, hs, hr, msgAddrs_one, hg, readAll, hv]

/-- Where the role forbids the word nothing is read; a word that no register occupies is counted all the same. -/
theorem exec_mctpRead_forbidden {s : State} {sess : Nat} {addr : W32} (h : mcAnswers s = true) (hr : portRole s (.eth sess) ≠ none)
    (hg : mayGet s (.eth sess) addr.toNat = false) (hn : regValue s (.eth sess) none addr.toNat = none) :
    exec (.mctpRead sess addr 1) s = .next (emit (addrError s (.eth sess)) (.mctpRead sess 2 [0])) := by
  obtain ⟨hp, hs⟩ := (mcAnswers_iff s).1 h
  show execMctpRead sess addr 1 s = _
  simp [execMctpRead, hp, hs, hr, msgAddrs_one, hg, hn]

/-- A word that the port may write, or that no register occupies, is written as any port writes it. -/
theorem exec_mctpWrite_tried {s t : State} {sess st : Nat} {addr w : W32} (h : mcAnswers s = true)
    (hr : portRole s (.eth sess) ≠ none)
    (ht : mayPut s (.eth sess) addr.toNat = true ∨ regValue s (.eth sess) none addr.toNat = none)
    (hw : writeAt s (.eth sess) addr.toNat w.toNat = (t, st)) :
    exec (.mctpWrite sess addr [w]) s = .next (emit t (.mctpWrite sess st)) := by
  obtain ⟨hp, hs⟩ := (mcAnswers_iff s).1 h
  show execMctpWrite sess addr [w] s = _
  rcases ht with ht | ht <;> simp [execMctpWrite, hp, hs, hr, msgAddrs_one, ht, writeAll, hw]

theorem exec_mctpWrite_forbidden {s : State} {sess : Nat} {addr : W32} (w : W32) (h : mcAnswers s = true)
    (hr : portRole s (.eth sess) ≠ none) (hn : regValue s (.eth sess) none addr.toNat ≠ none)
    (hm : mayPut s (.eth sess) addr.toNat = false) :
    exec (.mctpWrite sess addr [w]) s = .next (emit (addrError s (.eth sess)) (.mctpWrite sess 2)) := by
  obtain ⟨hp, hs⟩ := (mcAnswers_iff s).1 h
  obtain ⟨v, hv⟩ := Option.ne_none_iff_exists'.1 hn
  show execMctpWrite sess addr [w] s = _
  simp [execMctpWrite, hp, hs, hr, msgAddrs_one, hm, hv]

end Sys2Proof.Machine

open Sys2Proof Sys2Proof.Machine

/-- Settles O55: at each port the access ends in one address error, and where it is a read, in an answer of 0. -/
theorem unoccupiedAddresses : Obligations.UnoccupiedAddresses := by
  intro s addr data sess hp hs hn counted
  have h : mcAnswers s = true := (mcAnswers_iff s).2 ⟨hp, hs⟩
  have hw : ∀ p, exec (.registerWrite p addr data) s = .next (addrError s p) := fun p =>
    registerWrite_refused data h fun hr => hr.1 (hn p none)
  have hread : ∀ p, readAt s p addr.toNat = (addrError s p, 0, 1) := fun p => readAt_unoccupied (hn p _)
  refine ⟨?spiRead, ?spiWrite, ?smbRead, ?mctpRead, ?mctpForbidden, ?mctpWrite, fun p => ⟨_, hw p, addrError_counts s p, rfl⟩⟩
  case spiRead => exact ⟨_, exec_spiRead_whole h (hread .spi), emit_addrError_counts s .spi _, rfl⟩
  case spiWrite => exact ⟨_, (exec_spiWrite_whole h addr data).trans (hw .spi), addrError_counts s .spi, rfl⟩
  case smbRead =>
    refine ⟨emit (addrError s .smbus) (.smbRead 0 1), ?_, emit_addrError_counts s .smbus _, rfl⟩
    cases hb : smbBlock (addr.toNat / 2 ^ 24) with
    | true => exact exec_smbRead_served h hb (hread .smbus)
    | false => exact exec_smbRead_unserved h hb
  case mctpRead =>
    intro hr hg
    exact ⟨_, exec_mctpRead_allowed h hr hg (hread _), emit_addrError_counts s (.eth sess) _, rfl⟩
  case mctpForbidden =>
    intro hr hg
    exact ⟨_, exec_mctpRead_forbidden h hr hg (hn _ _), emit_addrError_counts s (.eth sess) _, rfl⟩
  case mctpWrite =>
    intro hr
    exact ⟨_, exec_mctpWrite_tried h hr (.inr (hn _ _)) (writeAt_unoccupied _ h (hn _ _)), emit_addrError_counts s (.eth sess) _, rfl⟩

end

section
/-! SUPPORT. Leaving the course, the warm reset and the actions of MC_RESET (R395, R407, R408, R531), and the register writes and frames
that O54 names. -/

namespace Sys2Proof.Machine

open Sys2Proof

/-! Leaving the course (R31, R395). -/

theorem dropLead_eq (s : State) (toTwin : Bool) : ∃ d, dropLead s toTwin = { s with disc := d } := by
  unfold dropLead
  split
  · exact ⟨_, rfl⟩
  · exact ⟨s.disc, rfl⟩

/-- A member that leaves sends HEARTBEATs, gives up the lead, and serves no longer; nothing else changes. -/
theorem leaveCourse_eq (s : State) (failing : Bool) : ∃ os d n, leaveCourse s failing = { s with
    out := os, disc := d
    course := { s.course with
      leaving := s.course.leaving || !failing, failing := s.course.failing || failing, serving := false, twinUp := false, hbOut := n } } := by
  obtain ⟨d, hd⟩ := dropLead_eq s s.course.twinUp
  unfold leaveCourse
  rw [hd]
  exact ⟨_, d, _, rfl⟩

/-! The warm reset (R407, R408). -/

/-- The state from which a warm reset on request begins: a member that serves leaves its course first. -/
def leftCourse (s : State) : State := if s.course.serving then leaveCourse s false else s

theorem warmNow_eq (s : State) : warmNow s = resetNote (warmStart (leftCourse s) 3) 3 := rfl

theorem leftCourse_eq (s : State) : ∃ os d c, leftCourse s = { s with out := os, disc := d, course := c } := by
  unfold leftCourse
  split
  · obtain ⟨os, d, n, h⟩ := leaveCourse_eq s false
    exact ⟨os, d, _, h⟩
  · exact ⟨s.out, s.disc, s.course, rfl⟩

@[simp] theorem leftCourse_fuse (s : State) : (leftCourse s).fuse = s.fuse := by
  obtain ⟨os, d, c, h⟩ := leftCourse_eq s; rw [h]
@[simp] theorem leftCourse_pwr (s : State) : (leftCourse s).pwr = s.pwr := by
  obtain ⟨os, d, c, h⟩ := leftCourse_eq s; rw [h]
@[simp] theorem leftCourse_brola (s : State) : (leftCourse s).brola = s.brola := by
  obtain ⟨os, d, c, h⟩ := leftCourse_eq s; rw [h]

/-- An entry of the scroll without an alarm leaves the MC's registers alone. -/
theorem scroll_mc (s : State) (cls : Nat) (ev : ScrollEv) (site : Nat) (args : List Nat) (capo : Option Nat) :
    (scroll s cls ev site args capo).mc = s.mc := by
  simp only [scroll, scrollEntry, Bool.false_eq_true, if_false]
  split <;> rfl

theorem bit_toNat {w : Nat} (x : BitVec w) (i : Nat) : bit x.toNat i = x.getLsbD i := by
  simp [bit, BitVec.getLsbD, Nat.testBit, Nat.and_comm 1, Nat.and_one_is_mod, bne, Bool.beq_eq_decide_eq]

/-- The domains that a warm reset leaves on: the two MCs, where they were on. -/
theorem pdIsOn_warm {s u : State} (h : u.pwr.pdOn = s.pwr.pdOn &&& BitVec.ofNat 36 (3 * 2 ^ 30)) :
    (∀ n < 30, pdIsOn u n = false) ∧ pdIsOn u 30 = pdIsOn s 30 := by
  have hlow : ∀ n < 30, (BitVec.ofNat 36 (3 * 2 ^ 30)).getLsbD n = false := by decide
  have hmc : (BitVec.ofNat 36 (3 * 2 ^ 30)).getLsbD 30 = true := by decide
  refine ⟨fun n hn => ?_, ?_⟩
  · rw [pdIsOn, h, bit_toNat, BitVec.getLsbD_and, hlow n hn, Bool.and_false]
  · rw [pdIsOn, pdIsOn, h, bit_toNat, bit_toNat, BitVec.getLsbD_and, hmc, Bool.and_true]

/-- What a warm reset on request leaves (R407): the fuses and the leaf stay, the MCs stay on, and start-up resumes at the self-test. -/
theorem warmNow_effect (s : State) : let u := warmNow s
    u.disc.phase = 2 ∧ u.mc.resetCause = 3 ∧ u.clk = {} ∧ u.mem = {} ∧ u.fuse.recs = s.fuse.recs ∧ u.brola = s.brola
      ∧ (∀ n < 30, pdIsOn u n = false) ∧ pdIsOn u 30 = pdIsOn s 30 := by
  have hpd : (warmNow s).pwr.pdOn = s.pwr.pdOn &&& BitVec.ofNat 36 (3 * 2 ^ 30) := by
    simp [warmNow_eq, resetNote, warmStart]
  refine ⟨?_, ?_, ?_, ?_, ?_, ?_, pdIsOn_warm hpd⟩ <;> simp [warmNow_eq, resetNote, warmStart, scroll_mc]

/-! MC_RESET (R531). -/

theorem exec_warm_granted {s : State} {p : MPort} {key : Nat} (h : mcAnswers s = true) (hm : isManager s p = true) (hk : key = 0x5A) :
    exec (.warm p key) s = .next (bump (resetWarm s) .mcIfAccess [mportIx p]) := by
  show execWarm p key s = _
  simp [execWarm, hm, hk, access_granted h]

theorem exec_mcswap_granted {s : State} {p : MPort} {key : Nat} (h : mcAnswers s = true) (hm : isManager s p = true) (hk : key = 0x5A) :
    exec (.mcswap p key) s = .next (bump (resetSwap s p) .mcIfAccess [mportIx p]) := by
  show execMcswap p key s = _
  simp [execMcswap, hm, hk, access_granted h]

theorem exec_leave_granted {s : State} {p : MPort} {key : Nat} (h : mcAnswers s = true) (hm : isManager s p = true) (hk : key = 0x5A) :
    exec (.leave p key) s = .next (bump (resetLeave s p) .mcIfAccess [mportIx p]) := by
  show execLeave p key s = _
  simp [execLeave, hm, hk, access_granted h]

/-- Without the key, or from a session that does not manage, none of the three acts (R488). -/
theorem exec_reset_refused {s : State} {p : MPort} {key : Nat} (h : mcAnswers s = true) (hno : ¬ (isManager s p = true ∧ key = 0x5A)) :
    exec (.warm p key) s = .next (addrError s p) ∧ exec (.mcswap p key) s = .next (addrError s p)
      ∧ exec (.leave p key) s = .next (addrError s p) := by
  have hf : (isManager s p && key == 0x5A) = false := by simpa using hno
  refine ⟨?_, ?_, ?_⟩
  · show execWarm p key s = _
    rw [execWarm, hf, access_refused h]
  · show execMcswap p key s = _
    rw [execMcswap, hf, access_refused h]
  · show execLeave p key s = _
    rw [execLeave, hf, access_refused h]

theorem resetWarm_busy {s : State} {b : Nat × Nat × Nat} (hb : s.fuse.busy = some b) :
    resetWarm s = { s with mc := { s.mc with warmWait := true } } := by simp [resetWarm, hb]

theorem resetWarm_idle {s : State} (hb : s.fuse.busy = none) : resetWarm s = warmNow s := by simp [resetWarm, hb]

theorem resetSwap_ready {s : State} (p : MPort) (hs : s.mc.standbyOk = true) :
    resetSwap s p = endSessions { s with mc := { s.mc with swapping := true } } fun _ _ => false := by simp [resetSwap, hs]

theorem resetSwap_refused {s : State} (p : MPort) (hs : s.mc.standbyOk = false) : resetSwap s p = refuseReset s p := by simp [resetSwap, hs]

theorem resetLeave_twin {s : State} (p : MPort) (hl : s.course.lost = false) (ha : s.course.alone = false) (ht : s.course.twinUp = true) :
    resetLeave s p = leaveCourse s false := by simp [resetLeave, hl, ha, ht]

theorem resetLeave_refused {s : State} (p : MPort) (h : s.course.alone = true ∨ s.course.twinUp = false) :
    resetLeave s p = refuseReset s p := by rcases h with h | h <;> simp [resetLeave, h]

/-- Sessions that all end leave none. -/
theorem endSessions_all_sess (s : State) : (endSessions s fun _ _ => false).sec.sess = [] := by
  simp [endSessions]

/-! The registers of O54 that are written. -/

theorem regOff_mcBlocks {s : State} {a : Nat} (h : a < 2 ^ 28) : regOff s a = false := by
  have hd : blockDie (a / 2 ^ 24) = none := by
    have : a / 2 ^ 24 < 16 := by omega
    simp only [blockDie]
    rw [if_neg (by omega), if_neg (by omega), if_neg (by omega), if_neg (by omega)]
  rw [regOff, hd]
  rfl

theorem writeAt_ifStatus {s : State} {p : MPort} (v : Nat) (h : mcAnswers s = true) (hm : mayPut s p 0x30 = true) :
    writeAt s p 0x30 v = ({ bump s .mcIfAccess [mportIx p] with
      mc := { s.mc with ifStatus := s.mc.ifStatus &&& ~~~(BitVec.ofNat 12 v) } }, 0) := by
  rw [writeAt_done v h (by simp [regValue, mcReg]) hm (by decide) (regOff_mcBlocks (by decide))]
  rfl

theorem writeAt_readOnly {s : State} {p : MPort} (v : Nat) (h : mcAnswers s = true) (hm : mayPut s p 4 = true) :
    writeAt s p 4 v = (bump s .mcIfAccess [mportIx p], 0) := by
  rw [writeAt_done v h (by simp [regValue, mcReg]) hm (by decide) (regOff_mcBlocks (by decide))]
  rfl

theorem writeAt_fuseSel {s : State} {p : MPort} (v : Nat) (h : mcAnswers s = true) (hm : mayPut s p 0x03000018 = true) :
    writeAt s p 0x03000018 v = ({ bump s .mcIfAccess [mportIx p] with fuse := { s.fuse with sel := v % 32 } }, 0) := by
  rw [writeAt_done v h (by simp [regValue, fuseReg]) hm (by decide) (regOff_mcBlocks (by decide))]
  rfl

/-- A session that manages may write a register that has neither RWL fields nor lies in the SEC block. -/
theorem mayPut_manager {s : State} {sess a : Nat} (hm : isManager s (.eth sess) = true) (ha : ownerOnly a = false) :
    mayPut s (.eth sess) a = true := by
  simp only [isManager, Bool.or_eq_true, beq_iff_eq] at hm
  rcases hm with hm | hm <;> simp [mayPut, hm, ha]

/-! Frames that end early or come late (R522 to R524). -/

theorem exec_spiWrite_noEdge (s : State) (addr data : W32) (crc ready : Bool) : exec (.spiWrite 0 addr data crc ready) s = .next s := rfl
theorem exec_spiRead_noEdge (s : State) (addr : W32) (crc ready : Bool) : exec (.spiRead 0 addr crc ready) s = .next s := rfl

section
variable {s : State} (h : mcAnswers s = true)
include h

theorem exec_spiWrite_badCrc (addr data : W32) : exec (.spiWrite 80 addr data false true) s = .next (ifEvent s 0 3) := by
  obtain ⟨hp, hs⟩ := (mcAnswers_iff s).1 h
  show execSpiWrite 80 addr data false true s = _
  simp [execSpiWrite, spiLate, hp, hs]

theorem exec_spiWrite_atField {e : Nat} (addr data : W32) (crc : Bool) (he : e = 8 ∨ e = 40 ∨ e = 72) :
    exec (.spiWrite e addr data crc true) s = .next (ifEvent s 0 1) := by
  obtain ⟨hp, hs⟩ := (mcAnswers_iff s).1 h
  show execSpiWrite e addr data crc true s = _
  rcases he with rfl | rfl | rfl <;> simp [execSpiWrite, spiLate, hp, hs]

theorem exec_spiWrite_short {e : Nat} (addr data : W32) (crc : Bool) (h0 : 0 < e) (h80 : e < 80) (hf : ¬ (e = 8 ∨ e = 40 ∨ e = 72)) :
    exec (.spiWrite e addr data crc true) s = .next (ifEvent s 0 0) := by
  obtain ⟨hp, hs⟩ := (mcAnswers_iff s).1 h
  show execSpiWrite e addr data crc true s = _
  simp [execSpiWrite, spiLate, hp, hs, Nat.pos_iff_ne_zero.1 h0, hf, h80]

theorem exec_spiWrite_late {e : Nat} (addr data : W32) (crc : Bool) (he : 56 ≤ e) :
    exec (.spiWrite e addr data crc false) s = .next (ifEvent s 0 5) := by
  obtain ⟨hp, hs⟩ := (mcAnswers_iff s).1 h
  show execSpiWrite e addr data crc false s = _
  simp [execSpiWrite, spiLate, hp, hs, he, show e ≠ 0 by omega]

theorem exec_spiRead_badCrc (addr : W32) : exec (.spiRead 96 addr false true) s = .next (emit (ifEvent s 0 3) (.spiRead 0 true)) := by
  obtain ⟨hp, hs⟩ := (mcAnswers_iff s).1 h
  show execSpiRead 96 addr false true s = _
  simp [execSpiRead, spiLate, hp, hs]

theorem exec_spiRead_atField {e : Nat} (addr : W32) (crc : Bool) (he : e = 8 ∨ e = 40 ∨ e = 48 ∨ e = 56 ∨ e = 88) :
    exec (.spiRead e addr crc true) s = .next (ifEvent s 0 1) := by
  obtain ⟨hp, hs⟩ := (mcAnswers_iff s).1 h
  show execSpiRead e addr crc true s = _
  rcases he with rfl | rfl | rfl | rfl | rfl <;> simp [execSpiRead, spiLate, hp, hs]

theorem exec_spiUnknownOpcode_byte {op : Nat} (h8 : op < 256) (hw : op ≠ 2) (hr : op ≠ 0x0B) :
    exec (.spiUnknownOpcode op) s = .next (ifEvent s 0 4) := by
  obtain ⟨hp, hs⟩ := (mcAnswers_iff s).1 h
  show execSpiUnknownOpcode op s = _
  simp [execSpiUnknownOpcode, hp, hs, hw, hr, Nat.not_le.2 h8]

/-! SMBus (R525, R529). -/

theorem exec_smbMctp (pecOk : Bool) (code : Nat) :
    exec (.smbMctp pecOk code) s = .next (if pecOk then s else ifEvent s 1 6) := by
  show execSmbMctp pecOk code s = _
  simp [execSmbMctp, h]

theorem exec_smbRead_badPec (n : Nat) (addr : W32) : exec (.smbRegisterRead false n addr) s = .next (ifEvent s 1 6) := by
  show execSmbRegisterRead false n addr s = _
  simp [execSmbRegisterRead, h]

theorem exec_alertResponse :
    exec .alertResponse s = .next (if s.mc.alarm ≠ 0 then emit s (.smbAlert (0x4C + s.mc.smbAddr)) else s) := by
  show execAlertResponse s = _
  simp [execAlertResponse, h]

/-! MCTP (R527). -/

theorem exec_mctpRead_noSession {sess : Nat} (addr : W32) (n : Nat) (hr : portRole s (.eth sess) = none) :
    exec (.mctpRead sess addr n) s = .next s := by
  obtain ⟨hp, hs⟩ := (mcAnswers_iff s).1 h
  show execMctpRead sess addr n s = _
  simp [execMctpRead, hs, hr]

theorem exec_mctpWrite_noSession {sess : Nat} (addr : W32) (ws : List W32) (hr : portRole s (.eth sess) = none) :
    exec (.mctpWrite sess addr ws) s = .next s := by
  obtain ⟨hp, hs⟩ := (mcAnswers_iff s).1 h
  show execMctpWrite sess addr ws s = _
  simp [execMctpWrite, hs, hr]

end

theorem exec_mctpRead_swapping {s : State} {sess n : Nat} (addr : W32) (hp : s.pwr.pwrGood = true) (hs : s.mc.swapping = true)
    (h1 : 1 ≤ n) (h64 : n ≤ 64) : exec (.mctpRead sess addr n) s = .next (emit s (.mctpRead sess 3 (List.replicate n 0))) := by
  show execMctpRead sess addr n s = _
  simp [execMctpRead, hp, hs, Nat.not_lt.2 h64, show n ≠ 0 by omega]

/-- A block that SMBus reads holds no SNAP register. -/
theorem smbBlock_ne_snapNow {a : Nat} (hb : smbBlock (a / 2 ^ 24) = true) : a ≠ 0x04000020 := by
  rintro rfl
  exact absurd hb (by decide)

end Sys2Proof.Machine
end

section
/-! SUPPORT. The management registers and their ports: the parts of O54, and O54. -/

namespace Sys2Proof.Machine

open Sys2Proof

/-- The actions of MC_RESET for a session that manages and gives the key (R395, R408, R531). -/
theorem resetActions {s : State} {p : MPort} {key : Nat} (h : mcAnswers s = true) (hm : isManager s p = true) (hk : key = 0x5A) :
    (∀ b, s.fuse.busy = some b → ∃ u, exec (.warm p key) s = .next u ∧ u = { s with ctr := u.ctr, mc := { s.mc with warmWait := true } })
      ∧ (s.fuse.busy = none → ∃ u, exec (.warm p key) s = .next u ∧ u.disc.phase = 2 ∧ u.mc.resetCause = 3 ∧ u.clk = {} ∧ u.mem = {}
        ∧ u.fuse.recs = s.fuse.recs ∧ u.brola = s.brola ∧ (∀ n < 30, pdIsOn u n = false) ∧ (pdIsOn u 30 = pdIsOn s 30))
      ∧ (s.mc.standbyOk = true → ∃ u, exec (.mcswap p key) s = .next u ∧ u.mc = { s.mc with swapping := true } ∧ u.sec.sess = [])
      ∧ (s.mc.standbyOk = false → ∃ u, exec (.mcswap p key) s = .next u ∧ u.mc.ifStatus = s.mc.ifStatus ||| 0x800
        ∧ u = { s with ctr := u.ctr, mc := u.mc })
      ∧ (s.course.lost = false → s.course.alone = false → s.course.twinUp = true → ∃ u, exec (.leave p key) s = .next u
        ∧ u.course.leaving = true ∧ u.course.serving = false ∧ u.course.twinUp = false)
      ∧ (s.course.alone = true ∨ s.course.twinUp = false → ∃ u, exec (.leave p key) s = .next u
        ∧ u.mc.ifStatus = s.mc.ifStatus ||| 0x800 ∧ u = { s with ctr := u.ctr, mc := u.mc }) := by
  have hwarm := exec_warm_granted h hm hk
  have hswap := exec_mcswap_granted h hm hk
  have hleave := exec_leave_granted h hm hk
  refine ⟨fun b hb => ?_, fun hb => ?_, fun hs => ?_, fun hs => ?_, fun hl ha ht => ?_, fun hr => ?_⟩
  · rw [resetWarm_busy hb] at hwarm
    exact ⟨_, hwarm, rfl⟩
  · rw [resetWarm_idle hb] at hwarm
    exact ⟨_, hwarm, warmNow_effect s⟩
  · rw [resetSwap_ready p hs] at hswap
    exact ⟨_, hswap, rfl, endSessions_all_sess _⟩
  · rw [resetSwap_refused p hs] at hswap
    exact ⟨_, hswap, rfl, rfl⟩
  · obtain ⟨os, d, n, he⟩ := leaveCourse_eq s false
    rw [resetLeave_twin p hl ha ht, he] at hleave
    exact ⟨_, hleave, Bool.or_true _, rfl, rfl⟩
  · rw [resetLeave_refused p hr] at hleave
    exact ⟨_, hleave, rfl, rfl⟩

/-- Writes that the ports perform: a flag register's bits clear where a 1 is written, a register of RO fields stays, and FUSE_SEL takes
its five bits (R15). -/
theorem registerWrite_performed {s : State} (p : MPort) {addr : W32} (data : W32) (h : mcAnswers s = true) :
    (mayPut s p 0x30 = true → addr.toNat = 0x30 → ∃ u, exec (.registerWrite p addr data) s = .next u
        ∧ u.mc = { s.mc with ifStatus := s.mc.ifStatus &&& ~~~(BitVec.ofNat 12 data.toNat) } ∧ u = { s with mc := u.mc, ctr := u.ctr })
      ∧ (mayPut s p 4 = true → addr.toNat = 4 → ∃ u, exec (.registerWrite p addr data) s = .next u ∧ u = { s with ctr := u.ctr })
      ∧ (mayPut s p 0x03000018 = true → addr.toNat = 0x03000018 → ∃ u, exec (.registerWrite p addr data) s = .next u
        ∧ u = { s with ctr := u.ctr, fuse := { s.fuse with sel := data.toNat % 32 } }) := by
  rw [exec_registerWrite]
  refine ⟨fun hm ha => ?_, fun hm ha => ?_, fun hm ha => ?_⟩ <;> rw [ha]
  · rw [writeAt_ifStatus _ h hm]
    exact ⟨_, rfl, rfl, rfl⟩
  · rw [writeAt_readOnly _ h hm]
    exact ⟨_, rfl, rfl⟩
  · rw [writeAt_fuseSel _ h hm]
    exact ⟨_, rfl, rfl⟩

end Sys2Proof.Machine

open Sys2Proof Sys2Proof.Machine

/-- Settles O54: the registers and MC_RESET, then the frames of SPI, of SMBus and of the management Ethernet. -/
theorem managementPorts : Obligations.ManagementPorts := by
  refine ⟨fun s p addr data key h => ?registers, fun s e v addr data crc hp hs => ?spi, fun s code v addr h => ?smbus,
    fun s sess n v et ver len addr ws x y => ?mctp⟩
  case registers =>
    obtain ⟨hstatus, hro, hsel⟩ := registerWrite_performed p (addr := addr) data h
    exact ⟨registerWrite_refused data h, hstatus, hro, hsel, exec_reset_refused h, fun ⟨hm, hk⟩ => resetActions h hm hk⟩
  case spi =>
    have h : mcAnswers s = true := (mcAnswers_iff s).2 ⟨hp, hs⟩
    refine ⟨exec_spiWrite_noEdge .., exec_spiRead_noEdge .., exec_spiWrite_whole h .., exec_spiWrite_badCrc h ..,
      exec_spiWrite_atField h _ _ _, ?_, exec_spiWrite_late h _ _ _, ⟨_, exec_spiRead_badCrc h _, rfl⟩, exec_spiRead_atField h _ _, ?_,
      exec_spiUnknownOpcode_byte h⟩
    · intro h0 h80 h8 h40 h72
      exact exec_spiWrite_short h _ _ _ h0 h80 (by simp [h8, h40, h72])
    · intro hv hoff hn
      exact ⟨_, exec_spiRead_whole h (readAt_occupied hv hoff hn), rfl⟩
  case smbus =>
    refine ⟨exec_smbMctp h true code, exec_smbMctp h false code, exec_smbRead_badPec h 4 addr, ?_, ?_, ?_, ?_⟩
    · intro hb hv hoff
      exact ⟨_, exec_smbRead_served h hb (readAt_occupied hv hoff (smbBlock_ne_snapNow hb)), rfl⟩
    · intro hb
      exact ⟨_, exec_smbRead_unserved h hb, rfl⟩
    · intro ha
      rw [exec_alertResponse h, if_pos ha]
      rfl
    · intro ha
      rw [exec_alertResponse h, if_neg (not_not.2 ha)]
  case mctp =>
    refine ⟨rfl, rfl, exec_mctpRead_swapping addr, fun h hr => ⟨exec_mctpRead_noSession h addr n hr, exec_mctpWrite_noSession h addr ws hr⟩,
      ?_, ?_, ?_⟩
    · intro h hm hv hoff hn
      have hread := readAt_occupied ((congrArg (regValue s _ · _) (tenantOf_manager hm)).trans hv) hoff hn
      exact ⟨_, exec_mctpRead_allowed h (portRole_manager hm) (mayGet_manager hm _) hread, rfl⟩
    · intro h hm hv hput w
      exact ⟨_, exec_mctpWrite_forbidden w h (portRole_manager hm) hv hput, rfl⟩
    · intro h hm ha w
      have hput : mayPut s (.eth sess) addr.toNat = true := mayPut_manager hm (by rw [ha]; rfl)
      have hw := writeAt_fuseSel w.toNat h (ha ▸ hput)
      rw [← ha] at hw
      exact ⟨_, exec_mctpWrite_tried h (portRole_manager hm) (.inl hput) hw, rfl⟩

end

section
/-! SUPPORT. The cells of a fuse record: what programming leaves in a copy, and how the copy then reads (R454 to R458, R462). -/

namespace Sys2Proof.Machine

open Sys2Proof

/-! Pairs that take a word's own cells. -/

theorem pairOf_own (b : Bool) : pairOf b (!b) = if b then .one else .zero := by cases b <;> rfl

theorem wordCells_cellsOf {ws : List W64} {k : Nat} (hk : k < ws.length) : wordCells (cellsOf ws) k = (ws[k], ~~~ws[k]) := by
  simp [wordCells, cellsOf, hk]

theorem pairAt_cellsOf {ws : List W64} {k j : Nat} (hk : k < ws.length) (hj : j < 64) :
    pairAt (cellsOf ws) k j = if ws[k].getLsbD j then .one else .zero := by
  rw [pairAt, wordCells_cellsOf hk, BitVec.getLsbD_not, decide_eq_true hj, Bool.true_and, pairOf_own]

theorem allPairs_iff (p : CellPair → Bool) (cells : List (W64 × W64)) (n : Nat) :
    allPairs p cells n = true ↔ ∀ k < n, ∀ j < 64, p (pairAt cells k j) = true := by simp [allPairs]

theorem pairAt_nil (k j : Nat) : pairAt [] k j = .unprogrammed := by simp [pairAt, wordCells, pairOf]

/-! The words of a record (R456). -/

theorem recordWords_length (r : FuseRec) : (recordWords r).length = recWords r := by simp [recordWords, recWords, Nat.add_comm]

theorem hdrLow_lt (r : FuseRec) : hdrLow r < 2 ^ 32 := by
  simp only [hdrLow]
  omega

theorem fuseCrc_lt (low : Nat) (ws : List W64) : fuseCrc low ws < 2 ^ 32 := BitVec.isLt _

/-- A 64-bit word made of two halves gives them back. -/
theorem wbits_halves {low high : Nat} (hl : low < 2 ^ 32) (hh : high < 2 ^ 32) :
    wbits (BitVec.ofNat 64 (low + high * 2 ^ 32)) 0 32 = low ∧ wbits (BitVec.ofNat 64 (low + high * 2 ^ 32)) 32 32 = high := by
  simp only [wbits, bits, BitVec.toNat_ofNat, Nat.shiftRight_eq_div_pow]
  omega

/-- The words of a record read back as a record: their CRC passes. -/
theorem recordOf_recordWords_isSome (r : FuseRec) : (recordOf (recordWords r)).isSome = true := by
  obtain ⟨hlow, hcrc⟩ := wbits_halves (hdrLow_lt r) (fuseCrc_lt (hdrLow r) r.words)
  simp only [recordOf, recordWords, hlow, hcrc, if_true, Option.isSome_some]

theorem words_of_cellsOf (ws : List W64) : ((List.range ws.length).map fun k => (wordCells (cellsOf ws) k).1) = ws := by
  refine List.ext_getElem (by simp) fun k h _ => ?_
  have hk : k < ws.length := by simpa using h
  simp [wordCells_cellsOf hk]

/-! What programming leaves in each copy (R458). -/

theorem copyCells_programmed_unreached {s : State} (r : FuseRec) (odd : List (Nat × Nat × W64 × W64)) {i : Nat} (hi : i < 4)
    (hr : copyReach s i = false) : copyCells (programmed s r odd) i = [] := by
  simp [copyCells, programmed, hi, hr]

theorem copyCells_programmed_whole {s : State} (r : FuseRec) {i : Nat} (hi : i < 4) (hr : copyReach s i = true) :
    copyCells (programmed s r []) i = cellsOf (recordWords r) := by
  refine List.ext_getElem ?_ fun k _ _ => ?_ <;> simp [copyCells, programmed, hi, hr]

/-- A copy in the array of an MC that is off stays blank. -/
theorem cellsRead_programmed_unreached {s : State} (r : FuseRec) (odd : List (Nat × Nat × W64 × W64)) {i : Nat} (hi : i < 4)
    (hr : copyReach s i = false) : cellsRead (programmed s r odd) i = .blank := by
  have hc : copyCells (programmed s r odd) i = [] := copyCells_programmed_unreached r odd hi hr
  have hblank : allPairs (· == .unprogrammed) [] (recWords (programmed s r odd)) = true :=
    (allPairs_iff _ _ _).2 fun k _ j _ => by rw [pairAt_nil]; rfl
  rw [cellsRead, hc]
  exact if_pos hblank

/-- A copy that holds the record's own cells reads as a valid one. -/
theorem cellsRead_own {r : FuseRec} {i : Nat} (hc : copyCells r i = cellsOf (recordWords r)) : cellsRead r i = .good := by
  have hpos : 0 < recWords r := by simp [recWords]
  have hblank : allPairs (· == .unprogrammed) (cellsOf (recordWords r)) (recWords r) = false := by
    rw [Bool.eq_false_iff]
    intro h
    have h0 := (allPairs_iff _ _ _).1 h 0 hpos 0 (by decide)
    rw [pairAt_cellsOf (by rwa [recordWords_length]) (by decide)] at h0
    split at h0 <;> exact absurd h0 (by decide)
  have hdone : allPairs (fun p => p == .one || p == .zero) (cellsOf (recordWords r)) (recWords r) = true := by
    refine (allPairs_iff _ _ _).2 fun k hk j hj => ?_
    rw [pairAt_cellsOf (by rwa [recordWords_length]) hj]
    split <;> rfl
  have hwords : ((List.range (recWords r)).map fun k => (wordCells (cellsOf (recordWords r)) k).1) = recordWords r := by
    rw [← recordWords_length, words_of_cellsOf]
  simp only [cellsRead, hc, hblank, hdone, hwords, recordOf_recordWords_isSome, Bool.false_eq_true, if_false, Bool.and_self, if_true]

/-- A copy that can be programmed and holds the record's own cells is verified wherever the record begins. -/
theorem copyVerified_own {s : State} {r : FuseRec} {i : Nat} (w : Nat) (hr : copyReach s i = true)
    (hc : copyCells r i = cellsOf (recordWords r)) : copyVerified s w r i = true := by
  simp [copyVerified, hr, hc]

theorem anyVerified_of_copy {s : State} {w i : Nat} {r : FuseRec} (hi : i < 4) (hv : copyVerified s w r i = true) :
    anyVerified s w r = true := List.any_eq_true.2 ⟨i, List.mem_range.2 hi, hv⟩

/-- Cells that take the record's own words verify, and read back as a valid copy. -/
theorem programmed_whole_verified_good {s : State} (r : FuseRec) (w : Nat) {i : Nat} (hi : i < 4) (hr : copyReach s i = true) :
    anyVerified s w (programmed s r []) = true ∧ cellsRead (programmed s r []) i = .good := by
  have hc : copyCells (programmed s r []) i = cellsOf (recordWords (programmed s r [])) := copyCells_programmed_whole r hi hr
  exact ⟨anyVerified_of_copy hi (copyVerified_own w hr hc), cellsRead_own hc⟩

end Sys2Proof.Machine
end

section
/-! SUPPORT. Ageing steps and generations, the end of a programming, and the re-plan: the parts of O50, and O50 (R16, R455, R458, R461,
R465 to R469, R473). -/

namespace Sys2Proof.Machine

open Sys2Proof

/-! The judgement of R473, case by case. -/

theorem judge_equal {s : State} {value cur : Nat} (spent ready : Bool) (go : State → State) (h : value = cur) :
    judge s value cur spent ready go = s := by simp [judge, h]

theorem judge_busy {s : State} {value cur : Nat} (spent ready : Bool) (go : State → State) (h : value ≠ cur) (hb : s.fuse.busy ≠ none) :
    judge s value cur spent ready go = fuseRefused s := by simp [judge, h, Option.isSome_iff_ne_none.2 hb]

theorem judge_lower {s : State} {value cur : Nat} (spent ready : Bool) (go : State → State) (h : value < cur) :
    judge s value cur spent ready go = fuseRefused s := by
  simp [judge, h, Nat.ne_of_lt h]

section
variable {s : State} {value cur : Nat} {spent ready : Bool} (go : State → State) (hb : s.fuse.busy = none)
include hb

theorem judge_spent (h : cur < value) (hs : spent = true) : judge s value cur spent ready go = fuseExhausted s := by
  simp [judge, hb, hs, Nat.ne_of_gt h, Nat.not_lt.2 (Nat.le_of_lt h)]

theorem judge_jump (h : cur + 1 < value) (hs : spent = false) : judge s value cur spent ready go = fuseRefused s := by
  simp [judge, hb, hs, Nat.ne_of_gt h, show value ≠ cur by omega, show ¬ value < cur by omega]

theorem judge_next (h : value = cur + 1) (hs : spent = false) (hr : ready = true) : judge s value cur spent ready go = go s := by
  simp [judge, hb, hs, hr, h]

end

/-! Steps (R468). -/

/-- The record that the next ageing step of a site programs. -/
def stepRec (s : State) (st : Nat) : FuseRec := { ty := 4, site := st, gen := s.fuse.step.get st 0 + 1 }

theorem stepUp_eq (s : State) (st : Nat) : stepUp s st = { s with fuse := { s.fuse with
    busy := some (4, st, s.fuse.step.get st 0 + 1), recs := s.fuse.recs ++ [stepRec s st]
    supplyMv := s.fuse.supplyMv.set st (4 * (s.fuse.step.get st 0 + 1)) } } := rfl

/-- The record that the next generation of a site's repair map programs. -/
def genRec (s : State) (st : Nat) : FuseRec :=
  { ty := 3, site := st, gen := s.fuse.gen.get st 1 + 1, words := (s.fuse.pendMap.get st []).map (BitVec.ofNat 64) }

theorem exec_ageStep_owner {s : State} {p : MPort} (value : Nat) (h : mcAnswers s = true) (ho : isOwner s p = true) :
    exec (.ageStep p value) s = .next (bump (writeStep s s.fuse.sel (value % 32)) .mcIfAccess [mportIx p]) := by
  show execAgeStep p value s = _
  rw [execAgeStep, ho, access_granted h]

theorem exec_repairGen_owner {s : State} {p : MPort} (value : Nat) (h : mcAnswers s = true) (ho : isOwner s p = true) :
    exec (.repairGen p value) s = .next (bump (writeGen s s.fuse.sel (value % 16)) .mcIfAccess [mportIx p]) := by
  show execRepairGen p value s = _
  rw [execRepairGen, ho, access_granted h]

theorem exec_fuseWrites_refused {s : State} {p : MPort} (value : Nat) (h : mcAnswers s = true) (ho : isOwner s p = false) :
    exec (.ageStep p value) s = .next (addrError s p) ∧ exec (.repairGen p value) s = .next (addrError s p) := by
  refine ⟨?_, ?_⟩
  · show execAgeStep p value s = _
    rw [execAgeStep, ho, access_refused h]
  · show execRepairGen p value s = _
    rw [execRepairGen, ho, access_refused h]

theorem writeStep_refused {s : State} {st value : Nat} (hne : value ≠ s.fuse.step.get st 0)
    (h : s.fuse.busy ≠ none ∨ value < s.fuse.step.get st 0 ∨ (s.fuse.step.get st 0 < 31 ∧ s.fuse.step.get st 0 + 1 < value)) :
    writeStep s st value = fuseRefused s := by
  unfold writeStep
  by_cases hb : s.fuse.busy = none
  · rcases h with hbusy | hlow | ⟨h31, hjump⟩
    · exact absurd hb hbusy
    · exact judge_lower _ _ _ hlow
    · exact judge_jump _ hb hjump (decide_eq_false (Nat.not_le.2 h31))
  · exact judge_busy _ _ _ hne hb

theorem writeStep_next {s : State} {st value : Nat} (h : value = s.fuse.step.get st 0 + 1) (h32 : value < 32)
    (hb : s.fuse.busy = none) : writeStep s st value = stepUp s st := by
  unfold writeStep
  exact judge_next _ hb h (decide_eq_false (by omega)) rfl

theorem writeGen_spent {s : State} {st value : Nat} (h : s.fuse.gen.get st 1 < value) (hb : s.fuse.busy = none)
    (hu : 8 ≤ gensUsed s.fuse st) : writeGen s st value = fuseExhausted s := by
  unfold writeGen
  exact judge_spent _ hb h (decide_eq_true hu)

theorem writeGen_next {s : State} {st value : Nat} (h : value = s.fuse.gen.get st 1 + 1) (hb : s.fuse.busy = none)
    (hu : gensUsed s.fuse st < 8) (hm : s.fuse.pendMap.get st [] ≠ []) : writeGen s st value = fuseProgram s (genRec s st) := by
  unfold writeGen
  exact judge_next _ hb h (decide_eq_false (Nat.not_le.2 hu)) (by simpa using hm)

/-! The end of a programming (R458, R461). -/

/-- The state in which the copies have been programmed and read back, the record not yet taken. -/
def programEnded (s : State) (r' : FuseRec) : State :=
  { s with fuse := { s.fuse with busy := none, recs := s.fuse.recs.dropLast ++ [r'] } }

/-- An alarm's entry sets a bit of MC_ALARM and changes nothing else of the MC. -/
theorem alarm_warmWait (s : State) (cls : Nat) (ev : ScrollEv) (site : Nat) (args : List Nat) :
    (alarm s cls ev site args).mc.warmWait = s.mc.warmWait := by
  simp only [alarm, scrollEntry, if_true]
  split <;> rfl

theorem lostNote_fuse (s : State) (r : FuseRec) : (lostNote s r).fuse = { s.fuse with lost := true } := alarm_fuse _ _ _ _ _

/-- What taking a record leaves, whatever its type. -/
theorem takeRecord_frame (s : State) (r : FuseRec) (ok : Bool) : let u := takeRecord s r ok
    u.mc = s.mc ∧ u.fuse.busy = s.fuse.busy ∧ u.fuse.recs = s.fuse.recs ∧ u.fuse.lost = s.fuse.lost ∧ u.fuse.replan = s.fuse.replan := by
  unfold takeRecord
  split_ifs <;> exact ⟨rfl, rfl, rfl, rfl, rfl⟩

theorem mem_insertOnce_self {α : Type} [DecidableEq α] (a : α) (l : List α) : a ∈ insertOnce a l := by
  unfold insertOnce
  split
  · assumption
  · simp

/-- What a verified record is for. -/
theorem takeRecord_effect (s : State) (r : FuseRec) : let u := takeRecord s r true
    (r.ty = 4 → u.fuse.step.get r.site 0 = r.gen)
      ∧ (r.ty = 3 → u.fuse.gen.get r.site 1 = r.gen ∧ u.fuse.entries.get r.site [] = r.words.map (·.toNat) ∧ r.site ∈ u.fuse.loadWait)
      ∧ (r.ty = 5 → u.sec.ownGen = r.gen ∧ u.sec.ownKey = ownerKeyOf r ∧ u.sec.ownerLost = false)
      ∧ (r.ty = 6 → u.fuse.debugOff = true ∧ u.sec.unlock = false) := by
  refine ⟨fun h => ?_, fun h => ?_, fun h => ?_, fun h => ?_⟩ <;> simp [takeRecord, h, mem_insertOnce_self]

/-- A map that was not verified is not taken. -/
theorem takeRecord_map_lost (s : State) (r : FuseRec) (h : r.ty = 3) : takeRecord s r false = s := by simp [takeRecord, h]

/-- While no warm reset waits and no re-plan runs, the end of a programming takes the record, or notes its loss, and does nothing more. -/
theorem exec_fuseProgramDone {s : State} {r r' : FuseRec} {b : Nat × Nat × Nat} {odd : List (Nat × Nat × W64 × W64)} {ok : Bool}
    (hb : s.fuse.busy = some b) (hr : s.fuse.recs.getLast? = some r) (hw : s.mc.warmWait = false) (hp : s.fuse.replan = false)
    (hr' : programmed s r odd = r') (hok : anyVerified s (nextWord s.fuse.recs.dropLast) r' = ok) :
    exec (.fuseProgramDone odd) s = .next (takeRecord (if ok then programEnded s r' else lostNote (programEnded s r') r) r ok) := by
  have hdone : exec (.fuseProgramDone odd) s = .next (
      let v := takeRecord (if ok then programEnded s r' else lostNote (programEnded s r') r) r ok
      if v.mc.warmWait then warmNow v else replanNext v) := by
    show execFuseProgramDone odd s = _
    simp only [execFuseProgramDone, hb, hr, hr', hok]
    rfl
  obtain ⟨hmc, _, _, _, hreplan⟩ := takeRecord_frame (if ok then programEnded s r' else lostNote (programEnded s r') r) r ok
  have hwait : (if ok then programEnded s r' else lostNote (programEnded s r') r).mc.warmWait = false := by
    split
    · exact hw
    · exact (alarm_warmWait _ _ _ _ _).trans hw
  have hstill : (if ok then programEnded s r' else lostNote (programEnded s r') r).fuse.replan = false := by
    split
    · exact hp
    · rw [lostNote_fuse]
      exact hp
  rw [hdone]
  simp only [hmc, hwait, replanNext, hreplan, hstill, Bool.false_and, Bool.false_eq_true, if_false]

/-! The re-plan (R467, R469). -/

theorem exec_replan_refused {s : State} {p : MPort} (value : Nat) (rs : List (Nat × Nat × Nat)) (h : mcAnswers s = true)
    (hm : isManager s p = false) : exec (.replan p value rs) s = .next (addrError s p) := by
  show execReplan p value rs s = _
  rw [execReplan, hm, access_refused h]

theorem bit_zero (n : Nat) : bit n 0 = decide (n % 2 = 1) := by simp [bit, Bool.beq_eq_decide_eq]

theorem exec_replan_manager {s : State} {p : MPort} (value : Nat) (rs : List (Nat × Nat × Nat)) (h : mcAnswers s = true)
    (hm : isManager s p = true) :
    exec (.replan p value rs) s = .next (bump (if value % 2 = 1 then replanStart s rs else s) .mcIfAccess [mportIx p]) := by
  show execReplan p value rs s = _
  rw [execReplan, hm, access_granted h]
  simp [bit_zero]

/-- A re-plan that starts with one site's readings, and no monitor's, goes on to that site. -/
theorem replanStart_one {s : State} {st slack vmin : Nat} (hr : s.fuse.replan = false) (hb : s.fuse.busy = none)
    (hp : s.disc.phase = 9) (hm : s.fuse.monitor = []) (hst : st < 32) :
    replanStart s [(st, slack, vmin)]
      = replanGo [(st, slack, vmin)] { s with fuse := { s.fuse with replan := true, replanning := [(st, slack, vmin)] } } := by
  simp [replanStart, hr, hm, sortBy, insertBy, hst, replanNext, hb, hp]

/-- A re-plan that has stepped a site and waits for its record. -/
def StepsSite (s u : State) (st : Nat) : Prop :=
  u.fuse.busy = some (4, st, s.fuse.step.get st 0 + 1) ∧ u.fuse.supplyMv.get st 0 = 4 * (s.fuse.step.get st 0 + 1) ∧ u.fuse.replan = true

/-- A site in service below a target and below the last step is stepped, and the pass waits (R467). -/
theorem replanGo_steps {s : State} {st slack vmin : Nat} (t : List (Nat × Nat × Nat)) (hp : s.fuse.replan = true)
    (hs : siteServes s st = true) (hlow : slack < 20 ∨ vmin < 50) (hstep : s.fuse.step.get st 0 < 31) :
    StepsSite s (replanGo ((st, slack, vmin) :: t) s) st := by
  have htarget : ¬ (20 ≤ slack ∧ 50 ≤ vmin) := by omega
  simp only [replanGo, hs, Bool.not_true, Bool.false_eq_true, if_false, htarget, hstep, if_true, stepUp_eq]
  exact ⟨rfl, TMap.get_set_self _ _ _ _, hp⟩

theorem replanStart_steps {s : State} {st slack vmin : Nat} (hr : s.fuse.replan = false) (hb : s.fuse.busy = none)
    (hp : s.disc.phase = 9) (hm : s.fuse.monitor = []) (hst : st < 32)
    (hlow : siteServes s st = true ∧ (slack < 20 ∨ vmin < 50) ∧ s.fuse.step.get st 0 < 31) :
    StepsSite s (replanStart s [(st, slack, vmin)]) st := by
  obtain ⟨hs, hl, hstep⟩ := hlow
  rw [replanStart_one hr hb hp hm hst]
  exact replanGo_steps [] rfl hs hl hstep

theorem planRings_unlocked {s : State} (h : ∀ q ∈ s.opt.pegs, q.2.st ≠ .locked) : planRings s = s := by
  unfold planRings
  refine List.foldlRecOn (motive := (· = s)) _ _ rfl fun t ht q hq => ?_
  rw [ht, if_neg fun hl => h q hq hl.1]

theorem planLanes_noProbe {s : State} (h : s.opt.probes = []) : planLanes s = s := by simp [planLanes, h]

/-- With no ring locked and no probe read, the end of a pass asks for no move: it ends the re-plan and notes it. -/
theorem replanGo_end {s : State} (hprobe : s.opt.probes = []) (hpeg : ∀ q ∈ s.opt.pegs, q.2.st ≠ .locked) :
    (replanGo [] s).fuse = { s.fuse with replan := false, replanning := [], lastReplan := s.clk.now } := by
  simp [replanGo, planRings_unlocked hpeg, planLanes_noProbe hprobe]

/-- A site that is out of service, or meets its targets, is passed by. -/
theorem replanGo_passes {s : State} {st slack vmin : Nat} (t : List (Nat × Nat × Nat)) (hl : 20 ≤ slack) (hv : 50 ≤ vmin) :
    ∃ f, replanGo ((st, slack, vmin) :: t) s = replanGo t { s with fuse := f } ∧ f.busy = s.fuse.busy := by
  cases hs : siteServes s st with
  | false => exact ⟨s.fuse, by simp [replanGo, hs], rfl⟩
  | true => exact ⟨{ s.fuse with slack := s.fuse.slack.set st (min slack 255), vmargin := s.fuse.vmargin.set st (min vmin 255) },
      by simp [replanGo, hs, hl, hv], rfl⟩

theorem replanStart_ends {s : State} {st slack vmin : Nat} (hr : s.fuse.replan = false) (hb : s.fuse.busy = none)
    (hp : s.disc.phase = 9) (hm : s.fuse.monitor = []) (hst : st < 32) (hprobe : s.opt.probes = [])
    (hpeg : ∀ q ∈ s.opt.pegs, q.2.st ≠ .locked) (hl : 20 ≤ slack) (hv : 50 ≤ vmin) :
    let u := replanStart s [(st, slack, vmin)]
    u.fuse.replan = false ∧ u.fuse.busy = none ∧ u.fuse.lastReplan = s.clk.now := by
  intro u
  obtain ⟨f, hgo, hbusy⟩ := replanGo_passes (s := { s with fuse := { s.fuse with replan := true, replanning := [(st, slack, vmin)] } })
    (st := st) [] hl hv
  have hu : u.fuse = { f with replan := false, replanning := [], lastReplan := s.clk.now } :=
    (congrArg State.fuse ((replanStart_one hr hb hp hm hst).trans hgo)).trans (replanGo_end hprobe hpeg)
  rw [hu]
  exact ⟨rfl, hbusy.trans hb, rfl⟩

theorem replanStart_running {s : State} (rs : List (Nat × Nat × Nat)) (h : s.fuse.replan = true) : replanStart s rs = s := by
  simp [replanStart, h]

theorem exec_replanPeriod_due {s : State} (rs : List (Nat × Nat × Nat)) (ha : s.clk.anchored = true)
    (ht : s.fuse.lastReplan + 64 * 3600 * 10 ^ 9 ≤ s.clk.now) : exec (.replanPeriod rs) s = .next (replanStart s rs) := by
  show execReplanPeriod rs s = _
  rw [execReplanPeriod, if_pos ⟨ha, ht⟩]

theorem exec_replanPeriod_early {s : State} (rs : List (Nat × Nat × Nat))
    (h : s.clk.anchored = false ∨ s.clk.now < s.fuse.lastReplan + 64 * 3600 * 10 ^ 9) : exec (.replanPeriod rs) s = .next s := by
  show execReplanPeriod rs s = _
  rw [execReplanPeriod, if_neg]
  rintro ⟨ha, ht⟩
  rcases h with h | h
  · exact absurd ha (by simp [h])
  · exact absurd ht (Nat.not_le.2 h)

end Sys2Proof.Machine

open Sys2Proof Sys2Proof.Machine

/-- Settles O50: the writes of steps and generations, the cells, the end of a programming, and the re-plan. -/
theorem ageingAndFuses : Obligations.AgeingAndFuses := by
  refine ⟨fun s p value h => ?writes, fun s r i hi hr => programmed_whole_verified_good r _ hi hr, fun s r b odd => ?done,
    fun s p value st slack vmin rs => ?replan⟩
  case writes =>
    refine ⟨exec_fuseWrites_refused value h, fun ho => ?_⟩
    have hage := exec_ageStep_owner value h ho
    have hgen := exec_repairGen_owner value h ho
    refine ⟨fun he => ?stepEqual, fun he hb => ?stepNext, fun hne hx => ?stepRefused, fun he => ?genEqual, fun he hb hu hm => ?genNext,
      fun hlt hb hu => ?genSpent, fun hlt => ?genLower⟩
    case stepEqual =>
      rw [writeStep, judge_equal _ _ _ he] at hage
      exact ⟨_, hage, rfl⟩
    case stepNext =>
      rw [writeStep_next he (Nat.mod_lt _ (by decide)) hb, stepUp_eq] at hage
      exact ⟨_, stepRec s s.fuse.sel, hage, rfl, rfl, rfl, rfl⟩
    case stepRefused =>
      rw [writeStep_refused hne hx] at hage
      exact ⟨_, hage, rfl⟩
    case genEqual =>
      rw [writeGen, judge_equal _ _ _ he] at hgen
      exact ⟨_, hgen, rfl⟩
    case genNext =>
      rw [writeGen_next he hb hu hm] at hgen
      exact ⟨_, genRec s s.fuse.sel, hgen, rfl, rfl, rfl, rfl, rfl⟩
    case genSpent =>
      rw [writeGen_spent hlt hb hu] at hgen
      exact ⟨_, hgen, rfl⟩
    case genLower =>
      rw [writeGen, judge_lower _ _ _ hlt] at hgen
      exact ⟨_, hgen, rfl⟩
  case done =>
    intro r' taken
    refine ⟨fun hb => ?idle, fun i hi hr => cellsRead_programmed_unreached r odd hi hr, fun hb hr hw hp => ?_⟩
    case idle =>
      show execFuseProgramDone odd s = _
      simp [execFuseProgramDone, hb]
    refine ⟨fun ht => ?taken, fun ht => ?lost⟩
    case taken =>
      obtain ⟨_, hbusy, hrecs, _, _⟩ := takeRecord_frame (programEnded s r') r true
      exact ⟨_, exec_fuseProgramDone hb hr hw hp rfl ht, hbusy, hrecs, takeRecord_effect _ r⟩
    case lost =>
      have hx : exec (.fuseProgramDone odd) s = .next (takeRecord (lostNote (programEnded s r') r) r false) :=
        exec_fuseProgramDone hb hr hw hp rfl ht
      obtain ⟨_, hbusy, hrecs, hlost, _⟩ := takeRecord_frame (lostNote (programEnded s r') r) r false
      rw [lostNote_fuse] at hbusy hrecs hlost
      refine ⟨_, hx, hbusy, hrecs, hlost, fun hty => ?_⟩
      rw [takeRecord_map_lost _ _ hty, lostNote_fuse]
      rfl
  case replan =>
    intro low stepped ready
    refine ⟨exec_replan_refused value rs, ?managerSteps, ?managerEnds, ?managerIgnored, ?periodSteps, exec_replanPeriod_early rs,
      ?monitorOn, ?monitorOff⟩
    case managerSteps =>
      intro h hm hv ⟨hr, hb, hp, hmon, hst⟩ hlow
      have hx := exec_replan_manager value [(st, slack, vmin)] h hm
      rw [if_pos hv] at hx
      exact ⟨_, hx, replanStart_steps hr hb hp hmon hst hlow⟩
    case managerEnds =>
      intro h hm hv ⟨hr, hb, hp, hmon, hst⟩ hprobe hpeg hl hvm
      have hx := exec_replan_manager value [(st, slack, vmin)] h hm
      rw [if_pos hv] at hx
      exact ⟨_, hx, replanStart_ends hr hb hp hmon hst hprobe hpeg hl hvm⟩
    case managerIgnored =>
      intro h hm hno
      have hx := exec_replan_manager value rs h hm
      have hs : (if value % 2 = 1 then replanStart s rs else s) = s := by
        rcases hno with he | hr
        · rw [if_neg (by omega)]
        · rw [replanStart_running rs hr, ite_self]
      rw [hs] at hx
      exact ⟨_, hx, rfl⟩
    case periodSteps =>
      intro ha ht ⟨hr, hb, hp, hmon, hst⟩ hlow
      exact ⟨_, exec_replanPeriod_due _ ha ht, replanStart_steps hr hb hp hmon hst hlow⟩
    case monitorOn =>
      intro hst hon
      show execAgeingMonitorRead st slack vmin s = _
      rw [execAgeingMonitorRead, if_pos ⟨hst, hon⟩]
    case monitorOff =>
      intro hoff
      show execAgeingMonitorRead st slack vmin s = _
      rw [execAgeingMonitorRead, if_neg]
      rintro ⟨hst, hon⟩
      rcases hoff with hge | hpd
      · omega
      · exact absurd hon (by simp [hpd])

end

section
/-! SUPPORT. Which operations leave every memory alone: one frame lemma per operation that writes neither the package's memory, nor a
tile's scratch, nor the leaf's memory, in the order of the model's files. A loop keeps what each of its steps keeps. -/

namespace Sys2Proof.Machine

open Sys2Proof

/-- Between the two states no memory cell of the package, of a tile's scratch or of the leaf changed. -/
@[reducible, simp] def SameMem (s t : State) : Prop := t.mem.phys = s.mem.phys ∧ t.scratch = s.scratch ∧ t.brola.mem = s.brola.mem

@[simp] theorem phys_ite (c : Prop) [Decidable c] (s t : State) : (if c then s else t).mem.phys = if c then s.mem.phys else t.mem.phys :=
  apply_ite (fun s : State => s.mem.phys) c s t
@[simp] theorem scratch_ite (c : Prop) [Decidable c] (s t : State) : (if c then s else t).scratch = if c then s.scratch else t.scratch :=
  apply_ite State.scratch c s t
@[simp] theorem brolaMem_ite (c : Prop) [Decidable c] (s t : State) : (if c then s else t).brola.mem = if c then s.brola.mem else t.brola.mem :=
  apply_ite (fun s : State => s.brola.mem) c s t

theorem SameMem.trans {s t u} (h : SameMem s t) (h' : SameMem t u) : SameMem s u :=
  ⟨h'.1.trans h.1, h'.2.1.trans h.2.1, h'.2.2.trans h.2.2⟩

/-! Loops. -/

theorem foldl_sameMem_of {α β : Type} (g : β → State) (f : β → α → β) (l : List α) (x : β) (h : ∀ x a, SameMem (g x) (g (f x a))) :
    SameMem (g x) (g (l.foldl f x)) := by
  induction l generalizing x with
  | nil => exact ⟨rfl, rfl, rfl⟩
  | cons a t ih => exact (h x a).trans (ih (f x a))

@[simp] theorem foldl_sameMem {α : Type} (f : State → α → State) (l : List α) (s : State) (h : ∀ s a, SameMem s (f s a)) :
    SameMem s (l.foldl f s) :=
  foldl_sameMem_of id f l s h

@[simp] theorem foldl_fst_sameMem {α β : Type} (f : State × β → α → State × β) (l : List α) (x : State × β)
    (h : ∀ x a, SameMem x.1 (f x a).1) : SameMem x.1 (l.foldl f x).1 :=
  foldl_sameMem_of Prod.fst f l x h

@[simp] theorem foldr_sameMem {α : Type} (f : α → State → State) (l : List α) (s : State) (h : ∀ a s, SameMem s (f a s)) :
    SameMem s (l.foldr f s) := by
  induction l with
  | nil => exact ⟨rfl, rfl, rfl⟩
  | cons a t ih => exact ih.trans (h a _)

@[simp] theorem elim_sameMem {α : Type} (o : Option α) (s : State) (f : α → State) (h : ∀ a, SameMem s (f a)) : SameMem s (o.elim s f) := by
  cases o with
  | none => exact ⟨rfl, rfl, rfl⟩
  | some a => exact h a

@[simp] theorem getD_map_sameMem {α : Type} (o : Option α) (s : State) (f : α → State) (h : ∀ a, SameMem s (f a)) :
    SameMem s ((o.map f).getD s) := by
  cases o with
  | none => exact ⟨rfl, rfl, rfl⟩
  | some a => exact h a

/-- The state in which a search for the addressed memory leaves the machine. -/
def Found.state : Found → State
  | .stop s => s
  | .fail d => d.s
  | .scr s _ => s
  | .page s _ _ _ => s

/-- The state in which the entry of a request leaves the machine. -/
def Entry.state : Entry → State
  | .stop s => s
  | .fail d => d.s
  | .go s => s

@[simp] theorem Found.state_stop (s) : (Found.stop s).state = s := rfl
@[simp] theorem Found.state_fail (d) : (Found.fail d).state = d.s := rfl
@[simp] theorem Found.state_scr (s k) : (Found.scr s k).state = s := rfl
@[simp] theorem Found.state_page (s g k m) : (Found.page s g k m).state = s := rfl
@[simp] theorem Entry.state_stop (s) : (Entry.stop s).state = s := rfl
@[simp] theorem Entry.state_fail (d) : (Entry.fail d).state = d.s := rfl
@[simp] theorem Entry.state_go (s) : (Entry.go s).state = s := rfl

theorem sameMem_of_fst {β : Type} {s t : State} {x : State × β} {b : β} (e : x = (t, b)) (h : SameMem s x.1) : SameMem s t := by
  subst e
  exact h

/-- The outcome, where it is a next state, has the memory cells of the state before. -/
def Leaves (s : State) : Res → Prop
  | .next t => SameMem s t
  | _ => True
@[simp] theorem leaves_next (s t : State) : Leaves s (.next t) ↔ SameMem s t := Iff.rfl

/-! Storage -/

@[simp] theorem countBytes_sameMem (s k n wr) : SameMem s (countBytes s k n wr) := by simp [countBytes]

@[simp] theorem memUncorr_sameMem (s k) : SameMem s (memUncorr s k) := by simp [memUncorr]

@[simp] theorem countPoison_sameMem (s k) : SameMem s (countPoison s k) := by simp [countPoison]

@[simp] theorem physFind_sameMem (s k n) : SameMem s (physFind s k n) := by simp [physFind]

@[simp] theorem degraded_sameMem (s rid) : SameMem s (degraded s rid) := by simp [degraded]

/-! Slots -/

@[simp] theorem noteSubst_sameMem (s a1) : SameMem s (noteSubst s a1) := by simp [noteSubst]

@[simp] theorem pump_sameMem (s a1) : SameMem s (pump s a1) := by simp [pump]

@[simp] theorem sendSlots_sameMem (s a1 bs) : SameMem s (sendSlots s a1 bs) := by
  unfold sendSlots
  split <;> simp

@[simp] theorem sendFrame_sameMem (s a1 f) : SameMem s (sendFrame s a1 f) := by simp [sendFrame]

@[simp] theorem takeAck_sameMem (s a1 ack) : SameMem s (takeAck s a1 ack) := by simp [takeAck]

@[simp] theorem replay_sameMem (s a1) : SameMem s (replay s a1) := by simp [replay]

/-! Mirror -/

@[simp] theorem mirrorSend_sameMem (s q sx key capo b) : SameMem s (mirrorSend s q sx key capo b) := by
  simp [mirrorSend]

@[simp] theorem mirrorOut_sameMem (s sx key capo b) : SameMem s (mirrorOut s sx key capo b).1 := by simp [mirrorOut]

@[simp] theorem releaseHeld_sameMem (s) : SameMem s (releaseHeld s) := by simp [releaseHeld]

@[simp] theorem gapNote_sameMem (s b) : SameMem s (gapNote s b) := by
  simp only [gapNote]
  (repeat' split) <;> simp

@[simp] theorem aloneChange_sameMem (s sx key capo b) : SameMem s (aloneChange s sx key capo b) := by simp [aloneChange]

@[simp] theorem mirrorChange_sameMem (s sx key capo b) : SameMem s (mirrorChange s sx key capo b).1 := by
  unfold mirrorChange
  split_ifs <;> simp

@[simp] theorem mirrorNote_sameMem (s sx key capo b) : SameMem s (mirrorNote s sx key capo b) := by simp [mirrorNote]

/-! Ops -/

@[simp] theorem setResp_sameMem (s w a2) : SameMem s (setResp s w a2) := by
  unfold setResp
  split <;> simp

@[simp] theorem setRunning_sameMem (s w a2) : SameMem s (setRunning s w a2) := by simp [setRunning]

@[simp] theorem dropRunning_sameMem (s w r) : SameMem s (dropRunning s w r) := by simp [dropRunning]

@[simp] theorem keepRunning_sameMem (s r v why) : SameMem s (keepRunning s r v why) := by simp [keepRunning]

@[simp] theorem dupEvicted_sameMem (s w e) : SameMem s (dupEvicted s w e) := by
  unfold dupEvicted
  split <;> simp

@[simp] theorem addDup_sameMem (s w e) : SameMem s (addDup s w e) := by
  simp only [addDup]
  split_ifs <;> simp

@[simp] theorem sendDone_sameMem (s a1 c) : SameMem s (sendDone s a1 c) := by simp [sendDone]

@[simp] theorem setCount_sameMem (s w src epoch c) : SameMem s (setCount s w src epoch c) := by simp [setCount]

@[simp] theorem takeCount_sameMem (s w r) : SameMem s (takeCount s w r).1 := by
  simp only [takeCount]
  (repeat' split) <;> simp

@[simp] theorem twinCount_sameMem (s src epoch seq) : SameMem s (twinCount s src epoch seq) :=
  getD_map_sameMem _ _ _ fun _ => setCount_sameMem _ _ _ _ _

@[simp] theorem zeroCount_sameMem (s w src epoch) : SameMem s (zeroCount s w src epoch) := by
  unfold zeroCount
  split <;> simp

@[simp] theorem dropFinal_sameMem (s w r) : SameMem s (dropFinal s w r) := by simp [dropFinal]

@[simp] theorem refuse_sameMem (s w r st) : SameMem s (refuse s w r st).s := by simp [refuse]

@[simp] theorem mirrorAll_sameMem (s sx capo l) : SameMem s (mirrorAll s sx capo l).1 := by
  induction l generalizing s with
  | nil => simp [mirrorAll]
  | cons x t ih => simp [mirrorAll, ih]

@[simp] theorem performedWith_sameMem (more r v d) : SameMem d.s (performedWith more r v d) := by
  simp only [performedWith]
  (repeat' split) <;> simp

@[simp] theorem performed_sameMem (r v d) : SameMem d.s (performed r v d) := by simp [performed]

@[simp] theorem sendIfDone_sameMem (s w r) : SameMem s (sendIfDone s w r) := by
  simp only [sendIfDone]
  (repeat' split) <;> simp

@[simp] theorem countDone_sameMem (s w r) : SameMem s (countDone s w r) := by
  simp only [countDone]
  (repeat' split) <;> simp

/-! Buffer -/

@[simp] theorem setQueue_sameMem (s sx port cls vc l) : SameMem s (setQueue s sx port cls vc l) := by simp [setQueue]

@[simp] theorem harmOne_sameMem (s sx point port tc capo p f) : SameMem s (harmOne s sx point port tc capo p f) := by
  unfold harmOne
  split <;> simp

@[simp] theorem harmCopy_sameMem (s sx point port p) : SameMem s (harmCopy s sx point port p) := by simp [harmCopy]

@[simp] theorem mcastSettle_sameMem (s id) : SameMem s (mcastSettle s id) := by
  simp only [mcastSettle]
  (repeat' split) <;> simp

@[simp] theorem mcastMark_sameMem (s id pos ok) : SameMem s (mcastMark s id pos ok) := by simp [mcastMark]

@[simp] theorem mcastFail_sameMem (s id pos) : SameMem s (mcastFail s id pos) := by
  unfold mcastFail
  split <;> simp

@[simp] theorem copyLost_sameMem (s p) : SameMem s (copyLost s p) := by
  unfold copyLost
  split <;> simp

@[simp] theorem unready_sameMem (s sx port cls vc) : SameMem s (unready s sx port cls vc) := by simp [unready]

@[simp] theorem pushOut_sameMem (n s sx need t pl phys) : SameMem s (pushOut n s sx need t pl phys).1 := by
  induction n generalizing s phys with
  | zero => simp [pushOut]
  | succ n ih => simp only [pushOut]; (repeat' split) <;> simp [ih]

@[simp] theorem admitTry_sameMem (s sx port cls capo n) : SameMem s (admitTry s sx port cls capo n).1 := by
  simp only [admitTry]
  (repeat' split) <;> simp

@[simp] theorem land_sameMem (s a1) : SameMem s (land s a1) := by simp [land]

@[simp] theorem freedAdd_sameMem (s a1 cls vc n) : SameMem s (freedAdd s a1 cls vc n) := by simp [freedAdd]

@[simp] theorem unland_sameMem (s i) : SameMem s (unland s i) := by
  unfold unland
  split <;> simp

@[simp] theorem admitOut_sameMem (s x o) : SameMem s (admitOut s x o).1 := by
  unfold admitOut
  split <;> next e => simp [sameMem_of_fst e (admitTry_sameMem _ _ _ _ _ _)]

@[simp] theorem admitOuts_sameMem (s x l) : SameMem s (admitOuts s x l).1 := by
  induction l generalizing s with
  | nil => simp [admitOuts]
  | cons o t ih =>
    unfold admitOuts
    split <;> next e => simp [ih, sameMem_of_fst e (admitOut_sameMem _ _ _)]

@[simp] theorem packetAdmit_sameMem (s sx n) : SameMem s (packetAdmit s sx n) := by
  simp only [packetAdmit]
  (repeat' split) <;> simp

@[simp] theorem execPacketAdmit_sameMem (sx idx s) : Leaves s (execPacketAdmit sx idx s) := by simp [execPacketAdmit]

/-! Switch -/

@[simp] theorem answer_sameMem (s r st) : SameMem s (answer s r st) := by simp [answer]

@[simp] theorem violation_sameMem (s r v) : SameMem s (violation s r v) := by simp [violation]

@[simp] theorem noPath_sameMem (s sx port p) : SameMem s (noPath s sx port p) := by
  unfold noPath
  split <;> simp

@[simp] theorem landNone_sameMem (s a1) : SameMem s (landNone s a1) := by simp [landNone]

@[simp] theorem takeRoute_sameMem (s a1 res) : SameMem s (takeRoute s a1 res) := by
  simp only [takeRoute]
  (repeat' split) <;> simp

@[simp] theorem noteArrival_sameMem (s sx port p) : SameMem s (noteArrival s sx port p) := by
  unfold noteArrival
  split <;> simp

@[simp] theorem arrive_sameMem (s sx port p vcIn ret) : SameMem s (arrive s sx port p vcIn ret) := by
  simp only [arrive]
  (repeat' split) <;> simp

@[simp] theorem execPacketArrival_sameMem (sx port p s) : Leaves s (execPacketArrival sx port p s) := by
  unfold execPacketArrival
  split <;> simp

@[simp] theorem arriveVia_sameMem (s r v) : SameMem s (arriveVia s r v) := by simp [arriveVia]

@[simp] theorem linkTake_sameMem (s a1 cls n vc) : SameMem s (linkTake s a1 cls n vc) := by simp [linkTake]

@[simp] theorem dieTake_sameMem (s sx port cells p) : SameMem s (dieTake s sx port cells p) := by
  unfold dieTake
  split <;> simp

@[simp] theorem takeCredit_sameMem (s sx port n p vc) : SameMem s (takeCredit s sx port n p vc) := by simp [takeCredit]

@[simp] theorem setShares_sameMem (s a1 f) : SameMem s (setShares s a1 f) := by simp [setShares]

@[simp] theorem settleD_sameMem (s a1) : SameMem s (settleD s a1) := by simp [settleD]

@[simp] theorem shareApply_sameMem (old s x) : SameMem s (shareApply old s x) := by simp [shareApply]

@[simp] theorem creditSend_sameMem (s a1) : SameMem s (creditSend s a1) := by simp [creditSend]

@[simp] theorem execCreditSend_sameMem (a0 s) : Leaves s (execCreditSend a0 s) := by simp [execCreditSend]

@[simp] theorem setLimits_sameMem (s a1 c vc) : SameMem s (setLimits s a1 c vc) := by simp [setLimits]

@[simp] theorem execCredit_sameMem (a0 v0 v1 s) : Leaves s (execCredit a0 v0 v1 s) := by
  simp only [execCredit]
  (repeat' split) <;> simp

@[simp] theorem execPcredit_sameMem (a0 capo vc cl s) : Leaves s (execPcredit a0 capo vc cl s) := by
  unfold execPcredit
  split <;> simp

@[simp] theorem execBulkClose_sameMem (str tc vc s) : Leaves s (execBulkClose str tc vc s) := by
  simp only [execBulkClose]
  (repeat' split) <;> simp

@[simp] theorem eccCorrected_sameMem (sx banks s h) : SameMem s (eccCorrected sx banks s h) := by simp [eccCorrected]

@[simp] theorem eccUncorrectable_sameMem (sx banks x h) : SameMem x.1 (eccUncorrectable sx banks x h).1 := by
  simp [eccUncorrectable]

@[simp] theorem readOut_sameMem (s sx ecc i banks p) : SameMem s (readOut s sx ecc i banks p).1 := by
  simp [readOut]

@[simp] theorem readHeads_sameMem (sx ecc s i l) : SameMem s (readHeads sx ecc s i l).1 := by
  induction l generalizing s i with
  | nil => simp [readHeads]
  | cons q t ih => simp only [readHeads]; split <;> simp [ih]

@[simp] theorem beginSend_sameMem (s sx port flits cls str ps) : SameMem s (beginSend s sx port flits cls str ps) := by
  simp [beginSend]

@[simp] theorem nextFlit_sameMem (s sx port w) : SameMem s (nextFlit s sx port w) := by simp [nextFlit]

@[simp] theorem sendBulk_sameMem (s sx port cls vc ecc) : SameMem s (sendBulk s sx port cls vc ecc) := by
  simp [sendBulk]

@[simp] theorem execBulkReceive_sameMem (str h ps bcrc s) : Leaves s (execBulkReceive str h ps bcrc s) := by
  unfold execBulkReceive
  split_ifs <;> simp

@[simp] theorem transmit_sameMem (s sx port cls ecc) : SameMem s (transmit s sx port cls ecc) := by
  simp only [transmit]
  (repeat' split) <;> simp

@[simp] theorem transmitHarm_sameMem (s sx port cls ecc) : SameMem s (transmitHarm s sx port cls ecc) := by
  simp only [transmitHarm]
  (repeat' split) <;> simp

@[simp] theorem sendEmergency_sameMem (s sx port a3) : SameMem s (sendEmergency s sx port a3) := by
  simp only [sendEmergency]
  (repeat' split) <;> simp

@[simp] theorem grantClass_sameMem (s sx port cls vc ecc) : SameMem s (grantClass s sx port cls vc ecc) := by
  simp [grantClass]

@[simp] theorem grantBest_sameMem (s sx port ecc) : SameMem s (grantBest s sx port ecc) := by
  simp only [grantBest]
  (repeat' split) <;> simp

@[simp] theorem arbiterDecision_sameMem (s sx port boundary ecc) : SameMem s (arbiterDecision s sx port boundary ecc) := by
  simp only [arbiterDecision]
  (repeat' split) <;> simp

@[simp] theorem execArbiterDecision_sameMem (sx port boundary corrected uncorrectable s) :
    Leaves s (execArbiterDecision sx port boundary corrected uncorrectable s) := by
  simp [execArbiterDecision]

@[simp] theorem execDdrArbiterDecision_sameMem (hx ch busy rdAge wrAge refresh s) :
    Leaves s (execDdrArbiterDecision hx ch busy rdAge wrAge refresh s) := by
  simp only [execDdrArbiterDecision]
  (repeat' split) <;> simp

@[simp] theorem emptyPort_sameMem (s sx port) : SameMem s (emptyPort s sx port) := by simp [emptyPort]

@[simp] theorem reroutePort_sameMem (s sx port counted) : SameMem s (reroutePort s sx port counted) := by
  simp [reroutePort]

@[simp] theorem cutInput_sameMem (s sx port g) : SameMem s (cutInput s sx port g) := by simp [cutInput]

@[simp] theorem voidCredits_sameMem (s a1) : SameMem s (voidCredits s a1) := by simp [voidCredits]

/-! Operands -/

@[simp] theorem cacheTouch_sameMem (s sx capo rid) : SameMem s (cacheTouch s sx capo rid) := by simp [cacheTouch]

@[simp] theorem cacheAdd_sameMem (s sx capo rid) : SameMem s (cacheAdd s sx capo rid) := by simp [cacheAdd]

@[simp] theorem cacheMiss_sameMem (s sx rid r v) : SameMem s (cacheMiss s sx rid r v) := by simp [cacheMiss]

@[simp] theorem xlateFault_sameMem (s r v a3) : SameMem s (xlateFault s r v a3).s := by simp [xlateFault]

@[simp] theorem findScratch_sameMem (s r v m n off) : SameMem s (findScratch s r v m n off).state := by
  unfold findScratch
  split_ifs <;> simp

@[simp] theorem noteMissed_sameMem (s g off) : SameMem s (noteMissed s g off) := by simp [noteMissed]

@[simp] theorem findPage_sameMem (s r v off) : SameMem s (findPage s r v off).state := by
  simp only [findPage]
  (repeat' split) <;> simp

@[simp] theorem findMem_sameMem (s r v) : SameMem s (findMem s r v).state := by
  simp only [findMem]
  (repeat' split) <;> simp

theorem leafRefusal_sameMem {s r d} (h : leafRefusal s r = some d) : SameMem s d.s := by
  obtain ⟨b, -, rfl⟩ := Option.map_eq_some_iff.1 h
  split <;> simp

@[simp] theorem bumpAt_sameMem (s v k b) : SameMem s (bumpAt s v k b) := by
  unfold bumpAt
  split <;> simp

@[simp] theorem hostPass_sameMem (s r v) : SameMem s (hostPass s r v).1 := by
  simp only [hostPass]
  (repeat' split) <;> simp

@[simp] theorem lookup_sameMem (s w r v) : SameMem s (lookup s w r v).state := by
  simp only [lookup]
  (repeat' split) <;> simp

@[simp] theorem entryAt_sameMem (s r v) : SameMem s (entryAt s r v).state := by
  simp only [entryAt]
  (repeat' split) <;> simp

@[simp] theorem entry_sameMem (s r v) : SameMem s (entry s r v).state := by
  unfold entry
  split_ifs
  · simp
  · simp
  · split <;> next e => simp [sameMem_of_fst e (hostPass_sameMem _ _ _)]

@[simp] theorem energyDefer_sameMem (s r) : SameMem s (energyDefer s r).s := by simp [energyDefer]

@[simp] theorem retryIn_sameMem (s w r us) : SameMem s (retryIn s w r us).s := by simp [retryIn]

@[simp] theorem mirrorRetry_sameMem (s r) : SameMem s (mirrorRetry s r).s := by simp [mirrorRetry]

/-! Flags -/

@[simp] theorem sampleWaits_sameMem (s) : SameMem s (sampleWaits s) := by simp [sampleWaits]

@[simp] theorem raiseCtr_sameMem (s k inc) : SameMem s (raiseCtr s k inc).1 := by simp [raiseCtr]

@[simp] theorem raiseOwn_sameMem (s k inc) : SameMem s (raiseOwn s k inc) := by simp [raiseOwn]

@[simp] theorem flagFound_sameMem (s m capo a3) : SameMem s (flagFound s m capo a3) := by
  unfold flagFound
  split <;> simp

@[simp] theorem swPerform_sameMem (s r l) : SameMem s (swPerform s r l).s := by
  simp only [swPerform]
  (repeat' split) <;> simp

@[simp] theorem raiseLeaf_sameMem (s k inc) : SameMem s (raiseLeaf s k inc) := by simp [raiseLeaf]

@[simp] theorem lfPerform_sameMem (s r l) : SameMem s (lfPerform s r l).s := by
  simp only [lfPerform]
  (repeat' split) <;> simp

/-! Stores -/

@[simp] theorem shardRaise_sameMem (s capo off n) : SameMem s (shardRaise s capo off n) := by simp [shardRaise]

@[simp] theorem finishIf_sameMem (s w r) : SameMem s (finishIf s w r) := by
  simp only [finishIf]
  (repeat' split) <;> simp

@[simp] theorem progStore_sameMem (s r) : SameMem s (progStore s r).s := by
  simp only [progStore]
  (repeat' split) <;> simp

@[simp] theorem finalChange_sameMem (s w r b) : SameMem s (finalChange s w r b).1 := by
  unfold finalChange
  split <;> simp

@[simp] theorem noteFinal_sameMem (s w r b) : SameMem s (noteFinal s w r b) := by simp [noteFinal]

@[simp] theorem finalGone_sameMem (s w r) : SameMem s (finalGone s w r).1 := by simp [finalGone]

@[simp] theorem leaveDie_sameMem (s r v) : SameMem s (leaveDie s r v) := by simp [leaveDie]

@[simp] theorem loadDone_sameMem (s w r bs) : SameMem s (loadDone s w r bs).s := by simp [loadDone]

@[simp] theorem loadScratch_sameMem (s r k) : SameMem s (loadScratch s r k).s := by
  unfold loadScratch
  split <;> simp

@[simp] theorem loadPage_sameMem (s r k) : SameMem s (loadPage s r k).s := by
  unfold loadPage
  split <;> simp

@[simp] theorem loadLeaf_sameMem (s r) : SameMem s (loadLeaf s r).s := by
  simp only [loadLeaf]
  (repeat' split) <;> simp

/-! Reduce -/

@[simp] theorem winNote_sameMem (s w b) : SameMem s (winNote s w b) := by simp [winNote]

@[simp] theorem winAdvance_sameMem (s wid) : SameMem s (winAdvance s wid) := by
  unfold winAdvance
  split <;> simp

@[simp] theorem winCheck_sameMem (s wid) : SameMem s (winCheck s wid) := by
  unfold winCheck
  split <;> simp

@[simp] theorem winExpire_sameMem (s w tell) : SameMem s (winExpire s w tell) := by simp [winExpire]

@[simp] theorem winGive_sameMem (s w) : SameMem s (winGive s w) := by simp [winGive]

@[simp] theorem winEnd_sameMem (s w tell) : SameMem s (winEnd s w tell) := by simp [winEnd]

@[simp] theorem winTaken_sameMem (s wid pages) : SameMem s (winTaken s wid pages) := by
  unfold winTaken
  split <;> simp

@[simp] theorem placeLines_sameMem (s) : SameMem s (placeLines s) := by simp [placeLines]

@[simp] theorem rtLinesLost_sameMem (s n) : SameMem s (rtLinesLost s n) := by simp [rtLinesLost]

@[simp] theorem accRead_sameMem (s w rt line) : SameMem s (accRead s w rt line).1 := by simp [accRead]

@[simp] theorem lineAdd_sameMem (rt poison x l) : SameMem x.1 (lineAdd rt poison x l).1 := by simp [lineAdd]

@[simp] theorem winAdd_sameMem (s rt w r off) : SameMem s (winAdd s rt w r off).1 := by simp [winAdd]

@[simp] theorem staleCmp_sameMem (s r) : SameMem s (staleCmp s r).s := by simp [staleCmp]

@[simp] theorem toTwin_sameMem (s r v) : SameMem s (toTwin s r v) := by simp [toTwin]

@[simp] theorem winFinish_sameMem (s wid) : SameMem s (winFinish s wid) := by
  unfold winFinish
  split <;> simp

@[simp] theorem winWritten_sameMem (s wid) : SameMem s (winWritten s wid) := by
  unfold winWritten
  split <;> simp

@[simp] theorem execWindowDeadline_sameMem (wid s) : Leaves s (execWindowDeadline wid s) := by
  unfold execWindowDeadline
  split <;> simp

@[simp] theorem execWindowRecover_sameMem (wid s) : Leaves s (execWindowRecover wid s) := by
  unfold execWindowRecover
  split <;> simp

/-! Requester -/

@[simp] theorem setRq_sameMem (s w q) : SameMem s (setRq s w q) := by
  unfold setRq
  split <;> simp

@[simp] theorem setOut_sameMem (s w o) : SameMem s (setOut s w o) := by simp [setOut]

@[simp] theorem dropOut_sameMem (s w id) : SameMem s (dropOut s w id) := by simp [dropOut]

@[simp] theorem issue_sameMem (s w r ow wait xlate) : SameMem s (issue s w r ow wait xlate) := by simp [issue]

@[simp] theorem kSend_sameMem (s r mc) : SameMem s (kSend s r mc) := by simp [kSend]

@[simp] theorem transmitReq_sameMem (s w o) : SameMem s (transmitReq s w o) := by
  simp only [transmitReq]
  (repeat' split) <;> simp

@[simp] theorem releaseNow_sameMem (s w o) : SameMem s (releaseNow s w o) := by simp [releaseNow]

@[simp] theorem releaseTry_sameMem (s w id) : SameMem s (releaseTry s w id) := by
  unfold releaseTry
  split <;> simp

@[simp] theorem releaseAll_sameMem (s w) : SameMem s (releaseAll s w) := by simp [releaseAll]

@[simp] theorem kIssue_sameMem (s r ow) : SameMem s (kIssue s r ow) := by simp [kIssue]

@[simp] theorem repeatReq_sameMem (s w o) : SameMem s (repeatReq s w o) := by simp [repeatReq]

@[simp] theorem execRetryResend_sameMem (w id s) : Leaves s (execRetryResend w id s) := by
  simp only [execRetryResend, leaves_next]
  (repeat' split) <;> simp

@[simp] theorem execSourceReset_sameMem (w s) : Leaves s (execSourceReset w s) := by
  unfold execSourceReset
  split <;> simp

/-! Links -/

@[simp] theorem sendAssign_sameMem (s n) : SameMem s (sendAssign s n) := by
  unfold sendAssign
  split <;> simp

@[simp] theorem enterStage_sameMem (s a1 st) : SameMem s (enterStage s a1 st) := by simp [enterStage]

@[simp] theorem raiseStrings_sameMem (s causes) : SameMem s (raiseStrings s causes) := by simp [raiseStrings]

@[simp] theorem joinTwin_sameMem (s) : SameMem s (joinTwin s) := by simp [joinTwin]

@[simp] theorem stringReady_sameMem (s a1) : SameMem s (stringReady s a1) := by simp [stringReady]

@[simp] theorem portDown_sameMem (s a1 inProgress) : SameMem s (portDown s a1 inProgress) := by
  simp only [portDown]
  (repeat' split) <;> simp

@[simp] theorem brolaStringDown_sameMem (s b) : SameMem s (brolaStringDown s b) := by simp [brolaStringDown]

@[simp] theorem stringDown_sameMem (s a1 c) : SameMem s (stringDown s a1 c) := by simp [stringDown]

@[simp] theorem cutLink_sameMem (s a1 g) : SameMem s (cutLink s a1 g) := by
  unfold cutLink
  split <;> simp

@[simp] theorem brolaFrees_sameMem (s a1 tc flits) : SameMem s (brolaFrees s a1 tc flits) := by simp [brolaFrees]

@[simp] theorem framing_sameMem (s a1 e) : SameMem s (framing s a1 e) := by simp [framing]

@[simp] theorem takeHead_sameMem (s a1 n tc e) : SameMem s (takeHead s a1 n tc e) := by simp [takeHead]

@[simp] theorem takeData_sameMem (s a1 e) : SameMem s (takeData s a1 e) := by
  simp only [takeData]
  (repeat' split) <;> simp

@[simp] theorem takeAbort_sameMem (s a1 e) : SameMem s (takeAbort s a1 e) := by simp [takeAbort]

@[simp] theorem takeBody_sameMem (s a1 a2) : SameMem s (takeBody s a1 a2) := by
  unfold takeBody
  split <;> simp

@[simp] theorem takeSequenced_sameMem (s a1 sl) : SameMem s (takeSequenced s a1 sl) := by simp [takeSequenced]

@[simp] theorem takeBlock_sameMem (a0 s b) : SameMem s (takeBlock a0 s b) := by simp [takeBlock]

@[simp] theorem slotReceive_sameMem (s a1 sl) : SameMem s (slotReceive s a1 sl) := by simp [slotReceive]

@[simp] theorem execSlotReceive_sameMem (a0 sl s) : Leaves s (execSlotReceive a0 sl s) := by simp [execSlotReceive]

@[simp] theorem execSlotAbort_sameMem (a0 e s) : Leaves s (execSlotAbort a0 e s) := by simp [execSlotAbort]

@[simp] theorem replayOrDown_sameMem (s a1) : SameMem s (replayOrDown s a1) := by simp [replayOrDown]

@[simp] theorem execReplayTimerExpiry_sameMem (a0 s) : Leaves s (execReplayTimerExpiry a0 s) := by
  simp only [execReplayTimerExpiry, leaves_next]
  (repeat' split) <;> simp

@[simp] theorem execReplayReq_sameMem (a0 lseq s) : Leaves s (execReplayReq a0 lseq s) := by simp [execReplayReq]

@[simp] theorem train_sameMem (s a1 t) : SameMem s (train s a1 t) := by simp [train]

@[simp] theorem execTrain_sameMem (a0 t s) : Leaves s (execTrain a0 t s) := by simp [execTrain]

@[simp] theorem execEiEntry_sameMem (a0 s) : Leaves s (execEiEntry a0 s) := by simp [execEiEntry]

@[simp] theorem execEiEnter_sameMem (a0 s) : Leaves s (execEiEnter a0 s) := by simp [execEiEnter]

@[simp] theorem execEiExit_sameMem (a0 s) : Leaves s (execEiExit a0 s) := by simp [execEiExit]

@[simp] theorem stageComplete_sameMem (s x ls) : SameMem s (stageComplete s x ls) := by
  simp only [stageComplete]
  (repeat' split) <;> simp

@[simp] theorem execStageLimit_sameMem (a0 miswire s) : Leaves s (execStageLimit a0 miswire s) := by
  simp only [execStageLimit, leaves_next]
  (repeat' split) <;> simp

@[simp] theorem execBringupRestart_sameMem (a0 s) : Leaves s (execBringupRestart a0 s) := by
  simp only [execBringupRestart, leaves_next]
  (repeat' split) <;> simp

@[simp] theorem lightLoss_sameMem (s a1) : SameMem s (lightLoss s a1) := by simp [lightLoss]

@[simp] theorem execLightLoss_sameMem (a0 s) : Leaves s (execLightLoss a0 s) := by simp [execLightLoss]

@[simp] theorem execSilentTimeout_sameMem (a0 s) : Leaves s (execSilentTimeout a0 s) := by simp [execSilentTimeout]

@[simp] theorem execAlignmentMarkerLoss_sameMem (a0 s) : Leaves s (execAlignmentMarkerLoss a0 s) := by
  simp [execAlignmentMarkerLoss]

@[simp] theorem execFecUncorrLimit_sameMem (a0 lane bs s) : Leaves s (execFecUncorrLimit a0 lane bs s) := by
  simp [execFecUncorrLimit]

/-! Optics -/

@[simp] theorem laneFailed_sameMem (s a1 cause) : SameMem s (laneFailed s a1 cause) := by simp [laneFailed]

@[simp] theorem startMove_sameMem (s a1 q rx cause) : SameMem s (startMove s a1 q rx cause) := by
  simp only [startMove]
  (repeat' split) <;> simp

@[simp] theorem startReturn_sameMem (s a1 q rx sp) : SameMem s (startReturn s a1 q rx sp) := by simp [startReturn]

@[simp] theorem mapPut_sameMem (s a1 f) : SameMem s (mapPut s a1 f) := by simp [mapPut]

@[simp] theorem swapLinks_sameMem (s a1 y) : SameMem s (swapLinks s a1 y) := by simp [swapLinks]

@[simp] theorem swapFibres_sameMem (s ox f g) : SameMem s (swapFibres s ox f g) := by simp [swapFibres]

@[simp] theorem rewire_sameMem (s a1) : SameMem s (rewire s a1) := by
  unfold rewire
  split <;> simp

@[simp] theorem execStageComplete_sameMem (a0 ls bs s) : Leaves s (execStageComplete a0 ls bs s) := by
  simp [execStageComplete]

@[simp] theorem setRole_sameMem (s a1 ring role wl) : SameMem s (setRole s a1 ring role wl) := by simp [setRole]

@[simp] theorem wakeRing_sameMem (s k m) : SameMem s (wakeRing s k m) := by simp [wakeRing]

@[simp] theorem moveBegin_sameMem (s a1 m rx) : SameMem s (moveBegin s a1 m rx) := by simp [moveBegin]

@[simp] theorem leaveRing_sameMem (s a1 m rx) : SameMem s (leaveRing s a1 m rx) := by simp [leaveRing]

@[simp] theorem markSpare_sameMem (s a1 q v) : SameMem s (markSpare s a1 q v) := by simp [markSpare]

@[simp] theorem moveTaken_sameMem (s a1 m) : SameMem s (moveTaken s a1 m) := by simp [moveTaken]

@[simp] theorem moveSent_sameMem (s a1 m) : SameMem s (moveSent s a1 m) := by simp [moveSent]

@[simp] theorem moveUndo_sameMem (s a1 m rx) : SameMem s (moveUndo s a1 m rx) := by simp [moveUndo]

@[simp] theorem laneMoveIn_sameMem (s a1 m) : SameMem s (laneMoveIn s a1 m) := by simp [laneMoveIn]

@[simp] theorem execLaneMove_sameMem (m s) : Leaves s (execLaneMove m s) := by simp [execLaneMove]

@[simp] theorem execLaneGrant_sameMem (m s) : Leaves s (execLaneGrant m s) := by
  unfold execLaneGrant
  split <;> simp

@[simp] theorem retrain_sameMem (s k a2) : SameMem s (retrain s k a2) := by simp [retrain]

@[simp] theorem moveRefused_sameMem (s a1 v) : SameMem s (moveRefused s a1 v) := by
  simp only [moveRefused]
  (repeat' split) <;> simp

@[simp] theorem execLaneRefuse_sameMem (m s) : Leaves s (execLaneRefuse m s) := by
  unfold execLaneRefuse
  split <;> simp

@[simp] theorem execLaneDone_sameMem (m s) : Leaves s (execLaneDone m s) := by
  unfold execLaneDone
  split <;> simp

@[simp] theorem execLaneMoveNoAnswer_sameMem (a0 s) : Leaves s (execLaneMoveNoAnswer a0 s) := by
  unfold execLaneMoveNoAnswer
  split <;> simp

@[simp] theorem execLaneMoveAbandon_sameMem (a0 s) : Leaves s (execLaneMoveAbandon a0 s) := by
  simp only [execLaneMoveAbandon, leaves_next]
  (repeat' split) <;> simp

@[simp] theorem pegFail_sameMem (s k p) : SameMem s (pegFail s k p) := by
  simp only [pegFail]
  (repeat' split) <;> simp

@[simp] theorem reFlank_sameMem (s k p) : SameMem s (reFlank s k p) := by
  simp only [reFlank]
  (repeat' split) <;> simp

@[simp] theorem pegLocked_sameMem (s k fresh) : SameMem s (pegLocked s k fresh) := by
  simp only [pegLocked]
  (repeat' split) <;> simp

@[simp] theorem pegSeek_sameMem (s k p found) : SameMem s (pegSeek s k p found) := by simp [pegSeek]

@[simp] theorem pegTrim_sameMem (s k p e) : SameMem s (pegTrim s k p e) := by simp [pegTrim]

@[simp] theorem pegHoldLock_sameMem (s k p e light) : SameMem s (pegHoldLock s k p e light) := by simp [pegHoldLock]

@[simp] theorem heatUp_sameMem (s ox code) : SameMem s (heatUp s ox code) := by simp [heatUp]

@[simp] theorem pegLoop_sameMem (s k measured light found) : SameMem s (pegLoop s k measured light found) := by
  simp only [pegLoop]
  (repeat' split) <;> simp

@[simp] theorem execPegLoop_sameMem (ox fibre bus ring measured light found s) : Leaves s (execPegLoop ox fibre bus ring measured light found s) := by
  simp [execPegLoop]

@[simp] theorem execProbeDwell_sameMem (ox fibre ring wl oma eyes ser s) : Leaves s (execProbeDwell ox fibre ring wl oma eyes ser s) := by
  simp [execProbeDwell]

@[simp] theorem equalise_sameMem (s a1 levels) : SameMem s (equalise s a1 levels) := by simp [equalise]

@[simp] theorem execLaneBerCheck_sameMem (a0 q ber levels s) : Leaves s (execLaneBerCheck a0 q ber levels s) := by
  simp only [execLaneBerCheck, leaves_next]
  (repeat' split) <;> simp

@[simp] theorem execLaneBerWindow_sameMem (a0 q errs nbits s) : Leaves s (execLaneBerWindow a0 q errs nbits s) := by
  simp [execLaneBerWindow]

@[simp] theorem lineFailed_sameMem (s lm lane) : SameMem s (lineFailed s lm lane) := by simp [lineFailed]

@[simp] theorem lineWarn_sameMem (s lm lane) : SameMem s (lineWarn s lm lane) := by simp [lineWarn]

@[simp] theorem execLaserMonitor_sameMem (lm lane centiDbm lowMs alarm s) : Leaves s (execLaserMonitor lm lane centiDbm lowMs alarm s) := by
  simp [execLaserMonitor]

@[simp] theorem execLaserModuleRemove_sameMem (lm s) : Leaves s (execLaserModuleRemove lm s) := by
  simp [execLaserModuleRemove]

@[simp] theorem execLaserModuleInsert_sameMem (lm lanes onGrid s) : Leaves s (execLaserModuleInsert lm lanes onGrid s) := by
  simp [execLaserModuleInsert]

/-! Services -/

@[simp] theorem execMcastCopyTimeout_sameMem (id s) : Leaves s (execMcastCopyTimeout id s) := by
  unfold execMcastCopyTimeout
  split <;> simp

@[simp] theorem barChange_sameMem (s k) : SameMem s (barChange s k).1 := by simp [barChange]

@[simp] theorem barNote_sameMem (s k) : SameMem s (barNote s k) := by simp [barNote]

@[simp] theorem execBarrierRecover_sameMem (capo group s) : Leaves s (execBarrierRecover capo group s) := by
  simp [execBarrierRecover]

theorem copyBadK_sameMem {s r v d} (h : copyBadK s r v = some d) : SameMem s d.s := by
  simp only [copyBadK] at h
  split at h
  · obtain rfl := Option.some.inj h; simp
  · obtain rfl := Option.some.inj h; simp
  · obtain ⟨b, -, rfl⟩ := Option.map_eq_some_iff.1 h
    split <;> simp

theorem copyBadB_sameMem {s r d} (h : copyBadB s r = some d) : SameMem s d.s := by
  have hchk : ∀ {p : Perm} {a : W64}, ((firstForbidden s p (aOff a) (copyDesc r).len).map fun b =>
      if b = aOff a then refuse s .brola r .accDenied else ⟨s, cmpErr r (brolaSrc s) .accSplit (addrPlus a (aOff a) b), []⟩) = some d →
      SameMem s d.s := by
    intro p a h
    obtain ⟨b, -, rfl⟩ := Option.map_eq_some_iff.1 h
    split <;> simp
  simp only [copyBadB] at h
  split at h
  · next e =>
    split at e
    · exact hchk (e.trans h)
    · cases e
  · exact hchk h

@[simp] theorem setCopies_sameMem (s w l) : SameMem s (setCopies s w l) := by
  unfold setCopies
  split <;> simp

@[simp] theorem setCopy_sameMem (s w c) : SameMem s (setCopy s w c) := by simp [setCopy]

@[simp] theorem issueAs_sameMem (s w r ow) : SameMem s (issueAs s w r ow) := by
  unfold issueAs
  split <;> simp

@[simp] theorem copyRead_sameMem (s w id) : SameMem s (copyRead s w id) := by
  unfold copyRead
  split <;> simp

@[simp] theorem copyError_sameMem (s k f) : SameMem s (copyError s k f) := by simp [copyError]

@[simp] theorem copyErrorK_sameMem (s k f) : SameMem s (copyErrorK s k f) := by simp [copyErrorK]

@[simp] theorem copyEnd_sameMem (s w id) : SameMem s (copyEnd s w id) := by
  simp only [copyEnd]
  (repeat' split) <;> simp

@[simp] theorem execCopyStart_sameMem (w s) : Leaves s (execCopyStart w s) := by
  simp only [execCopyStart, leaves_next]
  (repeat' split) <;> simp

@[simp] theorem discardCmd_sameMem (s lo len ktag) : SameMem s (discardCmd s lo len ktag).1 := by simp [discardCmd]

@[simp] theorem dropXlates_sameMem (s lo len) : SameMem s (dropXlates s lo len).1 := by simp [dropXlates]

@[simp] theorem invAdd_sameMem (s i) : SameMem s (invAdd s i).1 := by
  unfold invAdd
  split <;> simp

@[simp] theorem pfaMirror_sameMem (s r h dst key bs bad) : SameMem s (pfaMirror s r h dst key bs bad).1 := by
  unfold pfaMirror
  split <;> simp

/-! Redo -/

@[simp] theorem fetchNext_sameMem (s sx) : SameMem s (fetchNext s sx) := by simp [fetchNext]

/-! Course -/

@[simp] theorem confirmTwin_sameMem (s mseq) : SameMem s (confirmTwin s mseq) := by simp [confirmTwin]

@[simp] theorem takeDup_sameMem (s e) : SameMem s (takeDup s e) := by simp [takeDup]

@[simp] theorem takeDups_sameMem (s es) : SameMem s (takeDups s es) := by simp [takeDups]

@[simp] theorem wholeWindow_sameMem (s w r) : SameMem s (wholeWindow s w r) := by simp [wholeWindow]

@[simp] theorem regionGone_sameMem (s g) : SameMem s (regionGone s g) := by simp [regionGone]

@[simp] theorem cacheDrop_sameMem (s capo rid) : SameMem s (cacheDrop s capo rid) := by simp [cacheDrop]

@[simp] theorem assignAgain_sameMem (old s) : SameMem s (assignAgain old s) := by simp [assignAgain]

@[simp] theorem takeTable_sameMem (s t k e) : SameMem s (takeTable s t k e) := by
  simp only [takeTable]
  (repeat' split) <;> simp

@[simp] theorem takeAcc_sameMem (s wid epoch exact fmt off bytes accs poison) : SameMem s (takeAcc s wid epoch exact fmt off bytes accs poison) := by
  unfold takeAcc
  split <;> simp

@[simp] theorem takeMirror_sameMem (s mseq f) (h : ∀ t, SameMem t (f t)) : SameMem s (takeMirror s mseq f) := by
  unfold takeMirror
  split <;> simp [h]

@[simp] theorem execMacc_sameMem (mseq m s) : Leaves s (execMacc mseq m s) := by
  unfold execMacc
  split <;> simp

@[simp] theorem journalRecord_sameMem (s phase) : SameMem s (journalRecord s phase) := by simp [journalRecord]

@[simp] theorem rebuildStart_sameMem (s again) : SameMem s (rebuildStart s again) := by simp [rebuildStart]

@[simp] theorem rebuildResume_sameMem (s) : SameMem s (rebuildResume s) := by simp [rebuildResume]

@[simp] theorem execRebuildCopy_sameMem (s) : Leaves s (execRebuildCopy s) := by
  simp only [execRebuildCopy, leaves_next]
  (repeat' split) <;> simp

@[simp] theorem checkpoint_sameMem (s) : SameMem s (checkpoint s) := by simp [checkpoint]

@[simp] theorem toLeaves_sameMem (s f) : SameMem s (toLeaves s f) := by simp [toLeaves]

@[simp] theorem execRebuildEnd_sameMem (s) : Leaves s (execRebuildEnd s) := by simp [execRebuildEnd]

@[simp] theorem poisonBare_sameMem (s) : SameMem s (poisonBare s) := by simp [poisonBare]

@[simp] theorem execMjournal_sameMem (mseq j s) : Leaves s (execMjournal mseq j s) := by simp [execMjournal]

@[simp] theorem sendHeartbeats_sameMem (s) : SameMem s (sendHeartbeats s) := by simp [sendHeartbeats]

@[simp] theorem execHeartbeatSend_sameMem (s) : Leaves s (execHeartbeatSend s) := by simp [execHeartbeatSend]

@[simp] theorem dropForwarded_sameMem (s) : SameMem s (dropForwarded s) := by simp [dropForwarded]

@[simp] theorem dropLead_sameMem (s toTwin) : SameMem s (dropLead s toTwin) := by simp [dropLead]

@[simp] theorem courseSplit_sameMem (s theirs) : SameMem s (courseSplit s theirs) := by simp [courseSplit]

@[simp] theorem rebuildHeard_sameMem (s h) : SameMem s (rebuildHeard s h) := by
  simp only [rebuildHeard]
  (repeat' split) <;> simp

@[simp] theorem hbPeriods_sameMem (s sp n) : SameMem s (hbPeriods s sp n) := by simp [hbPeriods]

@[simp] theorem execSoundpostGapTimeout_sameMem (s) : Leaves s (execSoundpostGapTimeout s) := by
  unfold execSoundpostGapTimeout
  split <;> simp

/-! Ledger -/

@[simp] theorem ledgerGrant_sameMem (s capo peak) : SameMem s (ledgerGrant s capo peak).1 := by simp [ledgerGrant]

@[simp] theorem setBallast_sameMem (s) : SameMem s (setBallast s) := by simp [setBallast]

/-! Declare -/

@[simp] theorem declareWin_sameMem (s d) : SameMem s (declareWin s d) := by
  unfold declareWin
  split <;> simp

@[simp] theorem removeWin_sameMem (s wid) : SameMem s (removeWin s wid) := by
  unfold removeWin
  split <;> simp

@[simp] theorem shardNote_sameMem (s capo r) : SameMem s (shardNote s capo r) := by simp [shardNote]

@[simp] theorem declareShard_sameMem (s d) : SameMem s (declareShard s d) := by simp [declareShard]

@[simp] theorem removeShard_sameMem (s k capo) : SameMem s (removeShard s k capo) := by simp [removeShard]

/-! Stream -/

@[simp] theorem readEnd_sameMem (s n c r) : SameMem s (readEnd s n c r) := by
  unfold readEnd
  split <;> simp

@[simp] theorem readPart_sameMem (s n c r) : SameMem s (readPart s n c r) := by
  unfold readPart
  split <;> simp

@[simp] theorem stopHandlers_sameMem (s) : SameMem s (stopHandlers s) := by simp [stopHandlers]

@[simp] theorem armWait_sameMem (s we c) : SameMem s (armWait s we c) := by simp [armWait]

@[simp] theorem bundleChecks_sameMem (s) : SameMem s (bundleChecks s) := by
  simp only [bundleChecks]
  generalize (s.str.store.get s.str.pc 0).toNat = b
  split <;> simp

@[simp] theorem fetchBundle_sameMem (s) : SameMem s (fetchBundle s) :=
  foldl_sameMem _ _ _ fun t n => by simp only; split <;> simp

@[simp] theorem bundleIssued_sameMem (s) : SameMem s (bundleIssued s) := by simp [bundleIssued]

@[simp] theorem branchOn_sameMem (want we tgt s) : SameMem s (branchOn want we tgt s).1 := by
  unfold branchOn
  split_ifs <;> simp

@[simp] theorem execHalt_sameMem (s) : Leaves s (execHalt s) := by simp [execHalt]

@[simp] theorem execArm_sameMem (we s) : Leaves s (execArm we s) := by simp [execArm]

@[simp] theorem execWait_sameMem (we s) : Leaves s (execWait we s) := by simp [execWait]

@[simp] theorem execWaitTimeout_sameMem (we s) : Leaves s (execWaitTimeout we s) := by
  unfold execWaitTimeout
  split <;> simp

@[simp] theorem execCheckpointTimeout_sameMem (s) : Leaves s (execCheckpointTimeout s) := by
  unfold execCheckpointTimeout
  split <;> simp

@[simp] theorem execLockstepCompare_sameMem (addrs cycle s) : Leaves s (execLockstepCompare addrs cycle s) := by
  unfold execLockstepCompare
  split <;> simp

/-! Matrix -/

@[simp] theorem portTake_sameMem (s n l) : SameMem s (portTake s n l) := by simp [portTake]

@[simp] theorem scrCheck_sameMem (s n part ranges ports go) (h : ∀ t, SameMem t (go t)) : SameMem s (scrCheck s n part ranges ports go) := by
  unfold scrCheck
  split <;> simp [h]

@[simp] theorem adAdvance_sameMem (s n r by_) : SameMem s (adAdvance s n r by_) := by simp [adAdvance]

@[simp] theorem postInc_sameMem (s n o by_) : SameMem s (postInc s n o by_) := by simp [postInc]

@[simp] theorem matrixOp_sameMem (s n o usesFmt busy go) (h : ∀ ms t, SameMem t (go ms t)) : SameMem s (matrixOp s n o usesFmt busy go) := by
  simp [matrixOp, h]

@[simp] theorem execNop_sameMem (_tile s) : Leaves s (execNop _tile s) := by simp [execNop]

@[simp] theorem stepOne_sameMem (n o s m) : SameMem s (stepOne n o s m) := by simp [stepOne]

@[simp] theorem execStep_sameMem (tile o s) : Leaves s (execStep tile o s) := by
  simp only [execStep, leaves_next]
  split
  · simp
  · exact matrixOp_sameMem _ _ _ _ _ _ fun _ _ => scrCheck_sameMem _ _ _ _ _ _ fun _ => by simp

@[simp] theorem loadOne_sameMem (n o s m) : SameMem s (loadOne n o s m) := by simp [loadOne]

@[simp] theorem execLdw_sameMem (tile o s) : Leaves s (execLdw tile o s) :=
  matrixOp_sameMem _ _ _ _ _ _ fun _ _ => scrCheck_sameMem _ _ _ _ _ _ fun _ => by simp

@[simp] theorem zaccOne_sameMem (n s m) : SameMem s (zaccOne n s m) := by simp [zaccOne]

@[simp] theorem execZacc_sameMem (tile o s) : Leaves s (execZacc tile o s) := by simp [execZacc]

@[simp] theorem staccOne_sameMem (n o s m) : SameMem s (staccOne n o s m) := by simp [staccOne]

@[simp] theorem execStacc_sameMem (tile o s) : Leaves s (execStacc tile o s) :=
  matrixOp_sameMem _ _ _ _ _ _ fun _ _ => scrCheck_sameMem _ _ _ _ _ _ fun _ => by simp

@[simp] theorem ldaccOne_sameMem (n o s m) : SameMem s (ldaccOne n o s m) := by simp [ldaccOne]

@[simp] theorem execLdacc_sameMem (tile o s) : Leaves s (execLdacc tile o s) :=
  matrixOp_sameMem _ _ _ _ _ _ fun _ _ => scrCheck_sameMem _ _ _ _ _ _ fun _ => by simp

/-! Vector -/

@[simp] theorem vectorOp_sameMem (s n o mem go) (h : ∀ t, SameMem t (go t)) : SameMem s (vectorOp s n o mem go) := by
  simp [vectorOp, h]

@[simp] theorem vecBusyFor_sameMem (s n k) : SameMem s (vecBusyFor s n k) := by simp [vecBusyFor]

@[simp] theorem vecPost_sameMem (s n o by_ sc) : SameMem s (vecPost s n o by_ sc) := by simp [vecPost]

@[simp] theorem execVnop_sameMem (_tile s) : Leaves s (execVnop _tile s) := by simp [execVnop]

@[simp] theorem execVld_sameMem (tile o s) : Leaves s (execVld tile o s) :=
  vectorOp_sameMem _ _ _ _ _ fun _ => scrCheck_sameMem _ _ _ _ _ _ fun _ => by simp

@[simp] theorem vstWrites_sameMem (s n a2 bs) : SameMem s (vstWrites s n a2 bs) := by simp [vstWrites]

@[simp] theorem execVst_sameMem (tile o s) : Leaves s (execVst tile o s) :=
  vectorOp_sameMem _ _ _ _ _ fun _ => scrCheck_sameMem _ _ _ _ _ _ fun _ => by simp

@[simp] theorem vecArith_sameMem (s n o f) : SameMem s (vecArith s n o f) := by simp [vecArith]

@[simp] theorem execVfma_sameMem (tile o s) : Leaves s (execVfma tile o s) := by simp [execVfma]

@[simp] theorem execVadd_sameMem (tile o s) : Leaves s (execVadd tile o s) := by simp [execVadd]

@[simp] theorem execVmul_sameMem (tile o s) : Leaves s (execVmul tile o s) := by simp [execVmul]

@[simp] theorem execVmax_sameMem (tile o s) : Leaves s (execVmax tile o s) := by simp [execVmax]

@[simp] theorem execVmin_sameMem (tile o s) : Leaves s (execVmin tile o s) := by simp [execVmin]

@[simp] theorem execVsplat_sameMem (tile o s) : Leaves s (execVsplat tile o s) :=
  vectorOp_sameMem _ _ _ _ _ fun _ => scrCheck_sameMem _ _ _ _ _ _ fun _ => by simp

@[simp] theorem execVacc_sameMem (tile o s) : Leaves s (execVacc tile o s) := by simp [execVacc]

/-! Mover -/

@[simp] theorem execMnop_sameMem (_tile s) : Leaves s (execMnop _tile s) := by simp [execMnop]

@[simp] theorem registerOp_sameMem (s n w) : SameMem s (registerOp s n w) := by simp [registerOp]

@[simp] theorem execSeta_sameMem (tile reg imm s) : Leaves s (execSeta tile reg imm s) := by simp [execSeta]

@[simp] theorem execAdda_sameMem (tile reg imm s) : Leaves s (execAdda tile reg imm s) := by simp [execAdda]

@[simp] theorem execSets_sameMem (tile reg imm s) : Leaves s (execSets tile reg imm s) := by simp [execSets]

@[simp] theorem execSetl_sameMem (tile imm s) : Leaves s (execSetl tile imm s) := by simp [execSetl]

@[simp] theorem execLdfa_sameMem (tile areg freg s) : Leaves s (execLdfa tile areg freg s) := by simp [execLdfa]

@[simp] theorem engStart_sameMem (s n e) : SameMem s (engStart s n e) := by
  unfold engStart
  split <;> simp

@[simp] theorem engPush_sameMem (s n e part m) : SameMem s (engPush s n e part m) := by simp [engPush]

@[simp] theorem transferOp_sameMem (s n o put) : SameMem s (transferOp s n o put) := by
  simp only [transferOp]
  (repeat' split) <;> simp

@[simp] theorem execGet_sameMem (tile o s) : Leaves s (execGet tile o s) := by simp [execGet]

@[simp] theorem execPut_sameMem (tile o s) : Leaves s (execPut tile o s) := by simp [execPut]

@[simp] theorem raiseEc_sameMem (s n ec by_) : SameMem s (raiseEc s n ec by_) := by simp [raiseEc]

@[simp] theorem dropSignals_sameMem (s n e) : SameMem s (dropSignals s n e) := by
  simp only [dropSignals]
  (repeat' split) <;> simp

@[simp] theorem execMoverOpComplete_sameMem (tile eng s) : Leaves s (execMoverOpComplete tile eng s) := by
  unfold execMoverOpComplete
  split <;> simp

@[simp] theorem execSnop_sameMem (_tile s) : Leaves s (execSnop _tile s) := by simp [execSnop]

@[simp] theorem execSignal_sameMem (tile freg eng s) : Leaves s (execSignal tile freg eng s) := by simp [execSignal]

@[simp] theorem execEclr_sameMem (tile ec s) : Leaves s (execEclr tile ec s) := by simp [execEclr]

@[simp] theorem execLaunch_sameMem (tile h ec s) : Leaves s (execLaunch tile h ec s) := by simp [execLaunch]

@[simp] theorem withPending_sameMem (s) : SameMem s (withPending s) := by simp [withPending]

@[simp] theorem declOp_sameMem (s n sop areg len ok go) (h : ∀ e t, SameMem t (go e t)) : SameMem s (declOp s n sop areg len ok go) := by
  simp [declOp, h]

@[simp] theorem declWait_sameMem (s d) : SameMem s (declWait s d) := by simp [declWait]

@[simp] theorem execWdecl_sameMem (tile areg ec s) : Leaves s (execWdecl tile areg ec s) :=
  declOp_sameMem _ _ _ _ _ _ _ fun _ _ => by simp only; split <;> simp

@[simp] theorem execWrem_sameMem (tile areg ec s) : Leaves s (execWrem tile areg ec s) := by simp [execWrem]

@[simp] theorem execShdecl_sameMem (tile areg ec s) : Leaves s (execShdecl tile areg ec s) := by simp [execShdecl]

@[simp] theorem execShrem_sameMem (tile areg ec s) : Leaves s (execShrem tile areg ec s) := by simp [execShrem]

@[simp] theorem execDeclarationComplete_sameMem (id s) : Leaves s (execDeclarationComplete id s) := by
  unfold execDeclarationComplete
  split <;> simp

/-! SmallCore -/

@[simp] theorem handlerFault_sameMem (s t h) : SameMem s (handlerFault s t h) := by simp [handlerFault]

@[simp] theorem coreStep_sameMem (s t c f) (h : ∀ u x, SameMem u (f u x)) : SameMem s (coreStep s t c f) := by
  unfold coreStep
  simp only
  (repeat' split) <;> simp [h]

@[simp] theorem coreSet_sameMem (s t c rd f) : SameMem s (coreSet s t c rd f) := by simp [coreSet]

@[simp] theorem execAdd_sameMem (t c rd ra rb s) : Leaves s (execAdd t c rd ra rb s) := by simp [execAdd]

@[simp] theorem execSub_sameMem (t c rd ra rb s) : Leaves s (execSub t c rd ra rb s) := by simp [execSub]

@[simp] theorem execAnd_sameMem (t c rd ra rb s) : Leaves s (execAnd t c rd ra rb s) := by simp [execAnd]

@[simp] theorem execOr_sameMem (t c rd ra rb s) : Leaves s (execOr t c rd ra rb s) := by simp [execOr]

@[simp] theorem execXor_sameMem (t c rd ra rb s) : Leaves s (execXor t c rd ra rb s) := by simp [execXor]

@[simp] theorem execShl_sameMem (t c rd ra rb s) : Leaves s (execShl t c rd ra rb s) := by simp [execShl]

@[simp] theorem execShr_sameMem (t c rd ra rb s) : Leaves s (execShr t c rd ra rb s) := by simp [execShr]

@[simp] theorem execSra_sameMem (t c rd ra rb s) : Leaves s (execSra t c rd ra rb s) := by simp [execSra]

@[simp] theorem execMul_sameMem (t c rd ra rb s) : Leaves s (execMul t c rd ra rb s) := by simp [execMul]

@[simp] theorem execAddi_sameMem (t c rd ra imm s) : Leaves s (execAddi t c rd ra imm s) := by simp [execAddi]

@[simp] theorem execLui_sameMem (t c rd imm s) : Leaves s (execLui t c rd imm s) := by simp [execLui]

@[simp] theorem execScLd_sameMem (t c rd ra imm s) : Leaves s (execScLd t c rd ra imm s) := by simp [execScLd]

@[simp] theorem branchIf_sameMem (s t c rd ra imm f) : SameMem s (branchIf s t c rd ra imm f) := by simp [branchIf]

@[simp] theorem execBeq_sameMem (t c rd ra imm s) : Leaves s (execBeq t c rd ra imm s) := by simp [execBeq]

@[simp] theorem execBne_sameMem (t c rd ra imm s) : Leaves s (execBne t c rd ra imm s) := by simp [execBne]

@[simp] theorem execBlt_sameMem (t c rd ra imm s) : Leaves s (execBlt t c rd ra imm s) := by simp [execBlt]

@[simp] theorem execBge_sameMem (t c rd ra imm s) : Leaves s (execBge t c rd ra imm s) := by simp [execBge]

@[simp] theorem execJmp_sameMem (t c ra imm s) : Leaves s (execJmp t c ra imm s) := by simp [execJmp]

@[simp] theorem execCvt_sameMem (t c rd ra fromFmt toFmt s) : Leaves s (execCvt t c rd ra fromFmt toFmt s) :=
  coreStep_sameMem _ _ _ _ fun _ _ => by split <;> simp

@[simp] theorem coreXfer_sameMem (s t c out dst src len) : SameMem s (coreXfer s t c out dst src len) := by
  simp [coreXfer]

@[simp] theorem execScin_sameMem (t c rd ra rb s) : Leaves s (execScin t c rd ra rb s) := by simp [execScin]

@[simp] theorem execScout_sameMem (t c rd ra rb s) : Leaves s (execScout t c rd ra rb s) := by simp [execScout]

@[simp] theorem execScwait_sameMem (t c s) : Leaves s (execScwait t c s) := by simp [execScwait]

@[simp] theorem execScHalt_sameMem (t c s) : Leaves s (execScHalt t c s) := by simp [execScHalt]

@[simp] theorem execScFault_sameMem (t c s) : Leaves s (execScFault t c s) := by simp [execScFault]

@[simp] theorem startCore_sameMem (t h e item s c) : SameMem s (startCore t h e item s c) := by simp [startCore]

@[simp] theorem execHandlerStart_sameMem (tile s) : Leaves s (execHandlerStart tile s) := by
  simp only [execHandlerStart, leaves_next]
  (repeat' split) <;> simp

@[simp] theorem execHandlerEnd_sameMem (tile h s) : Leaves s (execHandlerEnd tile h s) := by
  simp only [execHandlerEnd, leaves_next]
  (repeat' split) <;> simp

@[simp] theorem execHandlerMaxcyc_sameMem (tile core s) : Leaves s (execHandlerMaxcyc tile core s) := by
  unfold execHandlerMaxcyc
  split <;> simp

/-! MemoryTiers -/

@[simp] theorem backingOut_sameMem (s t) : SameMem s (backingOut s t) := by simp [backingOut]

@[simp] theorem backingBack_sameMem (s t) : SameMem s (backingBack s t) := by simp [backingBack]

@[simp] theorem execBackingReturn_sameMem (target s) : Leaves s (execBackingReturn target s) := by
  simp [execBackingReturn]

@[simp] theorem cxlClip_sameMem (s port) : SameMem s (cxlClip s port) := by simp [cxlClip]

@[simp] theorem execCxlEnumerate_sameMem (port gb supported s) : Leaves s (execCxlEnumerate port gb supported s) := by
  simp [execCxlEnumerate]

@[simp] theorem cxlDown_sameMem (s port) : SameMem s (cxlDown s port) := by simp [cxlDown]

@[simp] theorem execCxlLinkDown_sameMem (port s) : Leaves s (execCxlLinkDown port s) := by simp [execCxlLinkDown]

/-! Power -/

@[simp] theorem oxOut_sameMem (s n) : SameMem s (oxOut s n) := by simp [oxOut]

@[simp] theorem rtGone_sameMem (s n) : SameMem s (rtGone s n) := by simp [rtGone]

@[simp] theorem hxOut_sameMem (s h) : SameMem s (hxOut s h) := by simp [hxOut]

@[simp] theorem sxOut_sameMem (s n) : SameMem s (sxOut s n) := by simp [sxOut]

@[simp] theorem pegsOff_sameMem (s n) : SameMem s (pegsOff s n) := by simp [pegsOff]

@[simp] theorem pdGone_sameMem (s n) : SameMem s (pdGone s n) := by simp [pdGone]

@[simp] theorem pdOff_sameMem (s n) : SameMem s (pdOff s n) := by simp [pdOff]

@[simp] theorem pdCascade_sameMem (s) : SameMem s (pdCascade s) := by simp [pdCascade]

@[simp] theorem endSessions_sameMem (s keep) : SameMem s (endSessions s keep) := by simp [endSessions]

@[simp] theorem mcFell_sameMem (s m) : SameMem s (mcFell s m) := by simp [mcFell]

@[simp] theorem leaveCourse_sameMem (s failing) : SameMem s (leaveCourse s failing) := by simp [leaveCourse]

@[simp] theorem pdFault_sameMem (s n) : SameMem s (pdFault s n) := by simp [pdFault]

@[simp] theorem setD2d_sameMem (s i d) : SameMem s (setD2d s i d) := by simp [setD2d]

@[simp] theorem d2dLost_sameMem (s i) : SameMem s (d2dLost s i) := by simp [d2dLost]

@[simp] theorem d2dSample_sameMem (s a1) : SameMem s (d2dSample s a1) := by simp [d2dSample]

@[simp] theorem d2dUcie_sameMem (s a1) : SameMem s (d2dUcie s a1) := by
  unfold d2dUcie
  split <;> simp

@[simp] theorem execAdjMonitorSample_sameMem (samples s) : Leaves s (execAdjMonitorSample samples s) := by
  simp [execAdjMonitorSample]

@[simp] theorem execAonToVbak_sameMem (vaonMv s) : Leaves s (execAonToVbak vaonMv s) := by simp [execAonToVbak]

@[simp] theorem execAonToVaon_sameMem (vaonMv stableUs s) : Leaves s (execAonToVaon vaonMv stableUs s) := by
  simp [execAonToVaon]

@[simp] theorem fuseCut_sameMem (s) : SameMem s (fuseCut s) := by
  unfold fuseCut
  split <;> simp

@[simp] theorem resetNote_sameMem (s cause) : SameMem s (resetNote s cause) := by simp [resetNote]

@[simp] theorem execPortReset_sameMem (port s) : Leaves s (execPortReset port s) := by simp [execPortReset]

/-! Clocks -/

@[simp] theorem execRefLost_sameMem (s) : Leaves s (execRefLost s) := by simp [execRefLost]

@[simp] theorem execRefRelock_sameMem (s) : Leaves s (execRefRelock s) := by simp [execRefRelock]

@[simp] theorem execLanePllLockLoss_sameMem (kind idx s) : Leaves s (execLanePllLockLoss kind idx s) := by
  simp [execLanePllLockLoss]

@[simp] theorem sendBeacon_sameMem (s a1 tsrc) : SameMem s (sendBeacon s a1 tsrc) := by simp [sendBeacon]

@[simp] theorem execBeaconSend_sameMem (s) : Leaves s (execBeaconSend s) := by simp [execBeaconSend]

@[simp] theorem measure_sameMem (s a1 time echo hold) : SameMem s (measure s a1 time echo hold) := by simp [measure]

@[simp] theorem anchorAt_sameMem (s time) : SameMem s (anchorAt s time) := by simp [anchorAt]

@[simp] theorem kojorFollow_sameMem (s a1 time) : SameMem s (kojorFollow s a1 time) := by
  simp only [kojorFollow]
  (repeat' split) <;> simp

@[simp] theorem brolaFollow_sameMem (s a1 time) : SameMem s (brolaFollow s a1 time) := by
  simp only [brolaFollow]
  (repeat' split) <;> simp

@[simp] theorem execBeacon_sameMem (a0 tsrc time echo hold s) : Leaves s (execBeacon a0 tsrc time echo hold s) := by
  simp [execBeacon]

@[simp] theorem execTimeHoldover_sameMem (s) : Leaves s (execTimeHoldover s) := by
  unfold execTimeHoldover
  split <;> simp

@[simp] theorem execTimeStep_sameMem (n step time s) : Leaves s (execTimeStep n step time s) := by simp [execTimeStep]

/-! Validate -/

@[simp] theorem winStage_sameMem (s l) : SameMem s (winStage s l).1 := by
  induction l generalizing s with
  | nil => simp [winStage]
  | cons e t ih => simp only [winStage]; (repeat' split) <;> simp [ih]

/-! Admission -/

@[simp] theorem reportStore_sameMem (s d off n ow) : SameMem s (reportStore s d off n ow) := by simp [reportStore]

@[simp] theorem sendReport_sameMem (s d r) : SameMem s (sendReport s d r) := by simp [sendReport]

@[simp] theorem sendExc_sameMem (s d e) : SameMem s (sendExc s d e) := by simp [sendExc]

@[simp] theorem reportDone_sameMem (s ctr c) : SameMem s (reportDone s ctr c) := by
  unfold reportDone
  split <;> simp

@[simp] theorem setAdm_sameMem (s control a2) : SameMem s (setAdm s control a2) := by simp [setAdm]

@[simp] theorem admNote_sameMem (s d event reason image) : SameMem s (admNote s d event reason image) := by
  simp [admNote]

@[simp] theorem refuseAdm_sameMem (s control a2 reason detail) : SameMem s (refuseAdm s control a2 reason detail) := by
  simp [refuseAdm]

@[simp] theorem readImage_sameMem (s control d) : SameMem s (readImage s control d) := by simp [readImage]

@[simp] theorem imageDone_sameMem (s control off c) : SameMem s (imageDone s control off c) := by
  unfold imageDone
  split <;> simp

@[simp] theorem execAdmissionStart_sameMem (control s) : Leaves s (execAdmissionStart control s) := by
  unfold execAdmissionStart
  split <;> simp

@[simp] theorem bindStart_sameMem (a0 s) : SameMem s (bindStart a0 s) := by simp [bindStart]

@[simp] theorem admSegment_sameMem (s a1) : SameMem s (admSegment s a1) := by
  simp only [admSegment]
  (repeat' split) <;> simp

@[simp] theorem drawSeed_sameMem (s) : SameMem s (drawSeed s).1 := by
  unfold drawSeed
  split <;> simp

@[simp] theorem admSeed_sameMem (s a1) : SameMem s (admSeed s a1) := by
  unfold admSeed
  split <;> simp

@[simp] theorem bound_sameMem (s a1 b) : SameMem s (bound s a1 b) := by simp [bound]

@[simp] theorem bindOrHit_sameMem (s a1) : SameMem s (bindOrHit s a1) := by
  simp only [bindOrHit]
  (repeat' split) <;> simp

@[simp] theorem startControl_sameMem (s a1) : SameMem s (startControl s a1) := by simp [startControl]

@[simp] theorem execImageFetchComplete_sameMem (control s) : Leaves s (execImageFetchComplete control s) := by
  simp only [execImageFetchComplete, leaves_next]
  (repeat' split) <;> simp

@[simp] theorem execBindComplete_sameMem (code bundles s) : Leaves s (execBindComplete code bundles s) := by
  simp only [execBindComplete, leaves_next]
  (repeat' split) <;> simp

@[simp] theorem execSeedWaitTimeout_sameMem (s) : Leaves s (execSeedWaitTimeout s) := by
  unfold execSeedWaitTimeout
  split <;> simp

@[simp] theorem execAdmissionEnergyTimeout_sameMem (s) : Leaves s (execAdmissionEnergyTimeout s) := by
  unfold execAdmissionEnergyTimeout
  split <;> simp

@[simp] theorem idleCounts_sameMem (s n) : SameMem s (idleCounts s n) := by simp [idleCounts]

@[simp] theorem endNote_sameMem (s) : SameMem s (endNote s) := by
  unfold endNote
  split <;> simp

@[simp] theorem endReports_sameMem (s) : SameMem s (endReports s) := by
  simp only [endReports]
  (repeat' split) <;> simp

@[simp] theorem abortStream_sameMem (s) : SameMem s (abortStream s) := by simp [abortStream]

@[simp] theorem execStreamMaxcyc_sameMem (s) : Leaves s (execStreamMaxcyc s) := by simp [execStreamMaxcyc]

/-! Collect -/

@[simp] theorem setCollQ_sameMem (s g q) : SameMem s (setCollQ s g q) := by simp [setCollQ]

@[simp] theorem setCollRun_sameMem (s g r) : SameMem s (setCollRun s g r) := by simp [setCollRun]

@[simp] theorem readWord_sameMem (g s w) : SameMem s (readWord g s w) := by simp [readWord]

@[simp] theorem readGroups_sameMem (s) : SameMem s (readGroups s) := by simp [readGroups]

@[simp] theorem takeDigest_sameMem (s d) : SameMem s (takeDigest s d) := by simp [takeDigest]

@[simp] theorem sendChunk_sameMem (s g r j) : SameMem s (sendChunk s g r j) := by simp [sendChunk]

@[simp] theorem loadRange_sameMem (s g r course at_ len chunk) : SameMem s (loadRange s g r course at_ len chunk).1 := by
  simp [loadRange]

@[simp] theorem loadChunk_sameMem (s g r j) : SameMem s (loadChunk s g r j) := by simp [loadChunk]

@[simp] theorem storeRange_sameMem (s g r a3 n) : SameMem s (storeRange s g r a3 n).1 := by simp [storeRange]

@[simp] theorem sendBarr_sameMem (s g e) : SameMem s (sendBarr s g e) := by simp [sendBarr]

@[simp] theorem collBegin_sameMem (s g cop d e sub fused subs) : SameMem s (collBegin s g cop d e sub fused subs) := by
  simp [collBegin]

@[simp] theorem collEnd_sameMem (s d f) : SameMem s (collEnd s d f) := by simp [collEnd]

@[simp] theorem collOver_sameMem (s g r) : SameMem s (collOver s g r) := by
  unfold collOver
  split <;> simp

@[simp] theorem collStage_sameMem (s g r) : SameMem s (collStage s g r) := by simp [collStage]

theorem collNext_sameMem {s g q t} (h : collNext s g q = some t) : SameMem s t := by
  simp only [collNext] at h
  (repeat' split at h) <;> cases h <;> simp

theorem collAdvance_sameMem {s g t} (h : collAdvance s g = some t) : SameMem s t := by
  simp only [collAdvance] at h
  split at h
  · exact collNext_sameMem h
  · (repeat' split at h) <;> cases h <;> simp

@[simp] theorem collGo_sameMem (k s g) : SameMem s (collGo k s g) := by
  induction k generalizing s with
  | zero => simp [collGo]
  | succ k ih =>
    simp only [collGo]
    split
    · next e => simp [ih, collAdvance_sameMem e]
    · simp

@[simp] theorem collRun_sameMem (s g) : SameMem s (collRun s g) := by simp [collRun]

@[simp] theorem collPost_sameMem (s cop d) : SameMem s (collPost s cop d) := by simp [collPost]

@[simp] theorem execAllreduce_sameMem (d s) : Leaves s (execAllreduce d s) := by simp [execAllreduce]

@[simp] theorem execRscatter_sameMem (d s) : Leaves s (execRscatter d s) := by simp [execRscatter]

@[simp] theorem execReduce_sameMem (d s) : Leaves s (execReduce d s) := by simp [execReduce]

@[simp] theorem execAllgather_sameMem (d s) : Leaves s (execAllgather d s) := by simp [execAllgather]

@[simp] theorem execBcast_sameMem (d s) : Leaves s (execBcast d s) := by simp [execBcast]

@[simp] theorem execBarrier_sameMem (d s) : Leaves s (execBarrier d s) := by simp [execBarrier]

@[simp] theorem execGshard_sameMem (d s) : Leaves s (execGshard d s) := by simp [execGshard]

@[simp] theorem execFused_sameMem (d s) : Leaves s (execFused d s) := by simp [execFused]

@[simp] theorem execGroupReset_sameMem (group epoch s) : Leaves s (execGroupReset group epoch s) := by
  simp [execGroupReset]

@[simp] theorem readEnds_sameMem (s g e) : SameMem s (readEnds s g e) := by simp [readEnds]

@[simp] theorem groupReadDone_sameMem (s g w c) : SameMem s (groupReadDone s g w c) := by simp [groupReadDone]

/-! BrolaPort -/

@[simp] theorem setKernel_sameMem (s ktag a2) : SameMem s (setKernel s ktag a2) := by simp [setKernel]

@[simp] theorem portFinish_sameMem (s tag ktag c) : SameMem s (portFinish s tag ktag c) := by simp [portFinish]

@[simp] theorem portRefuse_sameMem (s tag ktag) : SameMem s (portRefuse s tag ktag) := by simp [portRefuse]

@[simp] theorem lfStore_sameMem (s l a2) : SameMem s (lfStore s l a2) := by
  unfold lfStore
  split <;> simp

@[simp] theorem portInv_sameMem (s p r) : SameMem s (portInv s p r) := by simp [portInv]

@[simp] theorem portLocal_sameMem (s p l) : SameMem s (portLocal s p l) := by
  simp only [portLocal]
  split
  · split <;> simp
  split
  · split
    · simp
    · simp
    · split <;> simp
  split
  · simp
  split
  · simp
  split
  · split
    · next e => simp [copyBadB_sameMem e]
    · split <;> simp
  · simp

@[simp] theorem xlateTouch_sameMem (s a1) : SameMem s (xlateTouch s a1) := by simp [xlateTouch]

@[simp] theorem portIssue_sameMem (s tag ktag r src) : SameMem s (portIssue s tag ktag r src) := by simp [portIssue]

@[simp] theorem portXlated_sameMem (s tag ktag r va a5) : SameMem s (portXlated s tag ktag r va a5) := by
  simp [portXlated]

@[simp] theorem portWait_sameMem (s p) : SameMem s (portWait s p) := by simp [portWait]

@[simp] theorem portCounter_sameMem (s p k) : SameMem s (portCounter s p k) := by simp [portCounter]

@[simp] theorem execPortRequest_sameMem (p s) : Leaves s (execPortRequest p s) := by
  simp only [execPortRequest, leaves_next]
  (repeat' split) <;> simp

@[simp] theorem xlateAdd_sameMem (s a1) : SameMem s (xlateAdd s a1).1 := by simp [xlateAdd]

@[simp] theorem execAtsTranslationComplete_sameMem (id a1 s) : Leaves s (execAtsTranslationComplete id a1 s) := by
  simp only [execAtsTranslationComplete, leaves_next]
  (repeat' split) <;> simp

@[simp] theorem execAtsTranslationTimeout_sameMem (id s) : Leaves s (execAtsTranslationTimeout id s) := by
  simp only [execAtsTranslationTimeout, leaves_next]
  (repeat' split) <;> simp

@[simp] theorem execAtsInvalidation_sameMem (tag lo len s) : Leaves s (execAtsInvalidation tag lo len s) := by
  simp [execAtsInvalidation]

@[simp] theorem invBegin_sameMem (s i) : SameMem s (invBegin s i) := by simp [invBegin]

@[simp] theorem execAccessWindowDefine_sameMem (idx w s) : Leaves s (execAccessWindowDefine idx w s) := by
  simp [execAccessWindowDefine]

@[simp] theorem execKernelBegin_sameMem (ktag s) : Leaves s (execKernelBegin ktag s) := by simp [execKernelBegin]

@[simp] theorem execKernelEnd_sameMem (ktag s) : Leaves s (execKernelEnd ktag s) := by simp [execKernelEnd]

@[simp] theorem execKernelEndSignal_sameMem (ktag s) : Leaves s (execKernelEndSignal ktag s) := by
  simp [execKernelEndSignal]

/-! Programs -/

@[simp] theorem withCtl_sameMem (s f) (h : ∀ t c, SameMem t (f t c)) : SameMem s (withCtl s f) := by
  unfold withCtl
  split <;> simp [h]

@[simp] theorem endCtl_sameMem (s c reason) : SameMem s (endCtl s c reason) := by simp [endCtl]

@[simp] theorem domainOnly_sameMem (s f) (h : ∀ t c, SameMem t (f t c)) : SameMem s (domainOnly s f) := by
  simp [domainOnly, h]

@[simp] theorem tableNote_sameMem (s t e staged) : SameMem s (tableNote s t e staged) := by simp [tableNote]

@[simp] theorem execStage_sameMem (tbl entries s) : Leaves s (execStage tbl entries s) := by simp [execStage]

@[simp] theorem execUnstage_sameMem (tbl s) : Leaves s (execUnstage tbl s) := by simp [execUnstage]

@[simp] theorem drawSeeds_sameMem (s l) : SameMem s (drawSeeds s l).1 := by
  induction l generalizing s with
  | nil => simp [drawSeeds]
  | cons x t ih => simp only [drawSeeds]; split <;> simp [ih]

@[simp] theorem commitReport_sameMem (s desc digest cstate reason detail epoch) :
    SameMem s (commitReport s desc digest cstate reason detail epoch) := by
  simp [commitReport]

@[simp] theorem commitNow_sameMem (s c epoch) : SameMem s (commitNow s c epoch) := by
  simp only [commitNow]
  (repeat' split) <;> simp

@[simp] theorem execCommit_sameMem (epoch s) : Leaves s (execCommit epoch s) := by simp [execCommit]

@[simp] theorem execCommitSeedWaitTimeout_sameMem (s) : Leaves s (execCommitSeedWaitTimeout s) := by
  simp only [execCommitSeedWaitTimeout, leaves_next]
  (repeat' split) <;> simp

@[simp] theorem serveWaiter_sameMem (s k) : SameMem s (serveWaiter s k) := by
  simp only [serveWaiter]
  (repeat' split) <;> simp

@[simp] theorem execCancel_sameMem (num s) : Leaves s (execCancel num s) :=
  withCtl_sameMem _ _ fun _ _ => by simp only; split <;> simp

@[simp] theorem portApply_sameMem (old s e) : SameMem s (portApply old s e) := by
  unfold portApply
  split <;> simp

@[simp] theorem f16Taken_sameMem (s ox) : SameMem s (f16Taken s ox) := by simp [f16Taken]

@[simp] theorem stringApply_sameMem (s e) : SameMem s (stringApply s e) := by simp [stringApply]

@[simp] theorem ringApply_sameMem (old s e) : SameMem s (ringApply old s e) := by simp [ringApply]

@[simp] theorem filterApply_sameMem (old s e) : SameMem s (filterApply old s e) := by simp [filterApply]

@[simp] theorem harmonicOn_sameMem (s a1) : SameMem s (harmonicOn s a1) := by simp [harmonicOn]

@[simp] theorem harmonicOff_sameMem (s a1) : SameMem s (harmonicOff s a1) := by simp [harmonicOff]

@[simp] theorem harmonicApply_sameMem (old s e) : SameMem s (harmonicApply old s e) := by
  unfold harmonicApply
  split
  · simp
  · refine SameMem.trans ?_ (foldl_sameMem _ _ _ fun t ox => foldl_sameMem _ _ _ fun u j => ?_)
    · split <;> simp
    · simp only
      split <;> simp

@[simp] theorem shardApply_sameMem (s e) : SameMem s (shardApply s e) := by simp [shardApply]

@[simp] theorem winTold_sameMem (old s e) : SameMem s (winTold old s e) := by
  simp only [winTold]
  split <;> simp

@[simp] theorem applyTables_sameMem (s st) : SameMem s (applyTables s st) := by simp [applyTables]

@[simp] theorem applyEntries_sameMem (s st) : SameMem s (applyEntries s st) := by simp [applyEntries]

@[simp] theorem noteCapos_sameMem (s p) : SameMem s (noteCapos s p) := by simp [noteCapos]

@[simp] theorem applyCommit_sameMem (s p) : SameMem s (applyCommit s p) := by simp [applyCommit]

@[simp] theorem execArbprio_sameMem (sx port entry value s) : Leaves s (execArbprio sx port entry value s) := by
  simp [execArbprio]

@[simp] theorem repairLoad_sameMem (s st) : SameMem s (repairLoad s st) := by simp [repairLoad]

@[simp] theorem mcReturns_sameMem (s pd) : SameMem s (mcReturns s pd) := by simp [mcReturns]

@[simp] theorem execRtout_sameMem (rt s) : Leaves s (execRtout rt s) := by simp [execRtout]

@[simp] theorem execRtoutProceed_sameMem (rt s) : Leaves s (execRtoutProceed rt s) := by
  simp only [execRtoutProceed, leaves_next]
  (repeat' split) <;> simp

@[simp] theorem execRtin_sameMem (rt s) : Leaves s (execRtin rt s) := by simp [execRtin]

@[simp] theorem execAborts_sameMem (s) : Leaves s (execAborts s) := by simp [execAborts]

@[simp] theorem execWaitt_sameMem (time s) : Leaves s (execWaitt time s) := by simp [execWaitt]

@[simp] theorem execWaittExpiry_sameMem (s) : Leaves s (execWaittExpiry s) := by
  simp only [execWaittExpiry, leaves_next]
  (repeat' split) <;> simp

@[simp] theorem execEndProg_sameMem (s) : Leaves s (execEndProg s) := by simp [execEndProg]

@[simp] theorem execInServiceTestEnd_sameMem (st faulty s) : Leaves s (execInServiceTestEnd st faulty s) := by
  simp only [execInServiceTestEnd, leaves_next]
  (repeat' split) <;> simp

/-! Complete -/

@[simp] theorem execCountSlotRelease_sameMem (w src epoch s) : Leaves s (execCountSlotRelease w src epoch s) := by
  unfold execCountSlotRelease
  split <;> simp

@[simp] theorem execDupEntryRelease_sameMem (w src tc seq s) : Leaves s (execDupEntryRelease w src tc seq s) := by
  simp [execDupEntryRelease]

/-! Energy -/

@[simp] theorem levelTo_sameMem (s n) : SameMem s (levelTo s n) := by simp [levelTo]

@[simp] theorem throttle_sameMem (s l) : SameMem s (throttle s l) := by
  simp only [throttle]
  (repeat' split) <;> simp

@[simp] theorem countEnergy_sameMem (s pdUj streamUj ballastUj) : SameMem s (countEnergy s pdUj streamUj ballastUj) := by
  simp [countEnergy]

@[simp] theorem rampCheck_sameMem (s p) : SameMem s (rampCheck s p) := by simp [rampCheck]

@[simp] theorem closeEpoch_sameMem (s p sd) : SameMem s (closeEpoch s p sd) := by simp [closeEpoch]

@[simp] theorem takeSettings_sameMem (s) : SameMem s (takeSettings s) := by simp [takeSettings]

@[simp] theorem deferCheck_sameMem (s was) : SameMem s (deferCheck s was) := by simp [deferCheck]

@[simp] theorem overrunCheck_sameMem (s streamUj) : SameMem s (overrunCheck s streamUj) := by
  unfold overrunCheck
  split <;> simp

@[simp] theorem recomputeDuty_sameMem (s) : SameMem s (recomputeDuty s) := by
  unfold recomputeDuty
  split <;> simp

@[simp] theorem pendingAdmission_sameMem (s) : SameMem s (pendingAdmission s) := by
  unfold pendingAdmission
  split <;> simp

/-! Frames -/

@[simp] theorem substitute_sameMem (s ox f) : SameMem s (substitute s ox f) := by simp [substitute]

@[simp] theorem attachSpare_sameMem (s n b) : SameMem s (attachSpare s n b) := by
  simp only [attachSpare]
  (repeat' split) <;> simp

@[simp] theorem miswired_sameMem (s n ev args) : SameMem s (miswired s n ev args) := by simp [miswired]

@[simp] theorem execAttach_sameMem (n ident b leaf s) : Leaves s (execAttach n ident b leaf s) := by simp [execAttach]

@[simp] theorem execAssign_sameMem (b a1 s) : Leaves s (execAssign b a1 s) := by simp [execAssign]

@[simp] theorem execRestore_sameMem (b course memberB s) : Leaves s (execRestore b course memberB s) := by
  simp [execRestore]

@[simp] theorem execBridgeHello_sameMem (n h s) : Leaves s (execBridgeHello n h s) := by simp [execBridgeHello]

@[simp] theorem execSnap_sameMem (b time s) : Leaves s (execSnap b time s) := by simp [execSnap]

@[simp] theorem execBrolaSnapshot_sameMem (time s) : Leaves s (execBrolaSnapshot time s) := by simp [execBrolaSnapshot]

/-! Fuses -/

@[simp] theorem addrError_sameMem (s p) : SameMem s (addrError s p) := by simp [addrError]

@[simp] theorem access_sameMem (s p may f) (h : ∀ t, SameMem t (f t)) : SameMem s (access s p may f) := by
  simp [access, h]

@[simp] theorem shadowSite_sameMem (s0 s st) : SameMem s (shadowSite s0 s st) := by
  simp only [shadowSite]
  split <;> simp

@[simp] theorem lostNote_sameMem (s r) : SameMem s (lostNote s r) := by simp [lostNote]

@[simp] theorem shadowOwner_sameMem (s) : SameMem s (shadowOwner s) := by
  simp only [shadowOwner]
  (repeat' split) <;> simp

@[simp] theorem fuseLoad_sameMem (s) : SameMem s (fuseLoad s) := by
  simp only [fuseLoad]
  simp

@[simp] theorem fuseProgram_sameMem (s r) : SameMem s (fuseProgram s r) := by simp [fuseProgram]

@[simp] theorem fuseRefused_sameMem (s) : SameMem s (fuseRefused s) := by simp [fuseRefused]

@[simp] theorem fuseExhausted_sameMem (s) : SameMem s (fuseExhausted s) := by simp [fuseExhausted]

@[simp] theorem judge_sameMem (s value cur spent ready go) (h : ∀ t, SameMem t (go t)) : SameMem s (judge s value cur spent ready go) := by
  simp [judge, h]

@[simp] theorem stepUp_sameMem (s st) : SameMem s (stepUp s st) := by simp [stepUp]

@[simp] theorem writeStep_sameMem (s st value) : SameMem s (writeStep s st value) := by simp [writeStep]

@[simp] theorem writeGen_sameMem (s st value) : SameMem s (writeGen s st value) := by simp [writeGen]

@[simp] theorem execAgeStep_sameMem (p value s) : Leaves s (execAgeStep p value s) := by simp [execAgeStep]

@[simp] theorem execRepairGen_sameMem (p value s) : Leaves s (execRepairGen p value s) := by simp [execRepairGen]

@[simp] theorem markWorn_sameMem (s st slack vmin) : SameMem s (markWorn s st slack vmin) := by simp [markWorn]

@[simp] theorem planLanes_sameMem (s) : SameMem s (planLanes s) :=
  foldl_sameMem _ _ _ fun t p => by (repeat' split) <;> simp

@[simp] theorem planRings_sameMem (s) : SameMem s (planRings s) := by simp [planRings]

@[simp] theorem replanGo_sameMem (l s) : SameMem s (replanGo l s) := by
  induction l generalizing s with
  | nil => simp [replanGo]
  | cons x t ih => simp only [replanGo]; split_ifs <;> simp [ih]

@[simp] theorem replanNext_sameMem (s) : SameMem s (replanNext s) := by simp [replanNext]

@[simp] theorem replanStart_sameMem (s readings) : SameMem s (replanStart s readings) := by simp [replanStart]

@[simp] theorem execReplan_sameMem (p value readings s) : Leaves s (execReplan p value readings s) := by
  simp [execReplan]

@[simp] theorem execReplanPeriod_sameMem (readings s) : Leaves s (execReplanPeriod readings s) := by
  simp [execReplanPeriod]

@[simp] theorem execAgeingMonitorRead_sameMem (st slackPs vminMv s) : Leaves s (execAgeingMonitorRead st slackPs vminMv s) := by
  simp [execAgeingMonitorRead]

@[simp] theorem takeRecord_sameMem (s r ok) : SameMem s (takeRecord s r ok) := by simp [takeRecord]

/-! Security -/

@[simp] theorem drawWords_sameMem (n s) : SameMem s (drawWords n s).1 := by
  induction n generalizing s with
  | zero => simp [drawWords]
  | succ n ih => simp [drawWords, ih]

@[simp] theorem keyFill_sameMem (s) : SameMem s (keyFill s) := by simp [keyFill]

@[simp] theorem serveOne_sameMem (s k) : SameMem s (serveOne s k) := by simp [serveOne]

@[simp] theorem trngUp_sameMem (s) : SameMem s (trngUp s) := by simp [trngUp]

@[simp] theorem trngDown_sameMem (s) : SameMem s (trngDown s) := by simp [trngDown]

@[simp] theorem execTrngBlock_sameMem (pass bits s) : Leaves s (execTrngBlock pass bits s) := by simp [execTrngBlock]

@[simp] theorem execTrngStartupRetry_sameMem (pass s) : Leaves s (execTrngStartupRetry pass s) := by
  simp only [execTrngStartupRetry, leaves_next]
  (repeat' split) <;> simp

@[simp] theorem aonEvent_sameMem (s ev alarms) : SameMem s (aonEvent s ev alarms) := by simp [aonEvent]

@[simp] theorem execTamper_sameMem (s) : Leaves s (execTamper s) := by simp [execTamper]

@[simp] theorem execAonTemperature_sameMem (centiC s) : Leaves s (execAonTemperature centiC s) := by
  simp [execAonTemperature]

@[simp] theorem execCellLow_sameMem (vbakMv s) : Leaves s (execCellLow vbakMv s) := by simp [execCellLow]

@[simp] theorem execAonLost_sameMem (s) : Leaves s (execAonLost s) := by simp [execAonLost]

@[simp] theorem reportLatches_sameMem (s) : SameMem s (reportLatches s) := by simp [reportLatches]

@[simp] theorem spdmFrom_sameMem (s c from_ f) (h : ∀ t x, SameMem t (f t x)) : SameMem s (spdmFrom s c from_ f) := by
  simp [spdmFrom, h]

@[simp] theorem execGetVersion_sameMem (conn s) : Leaves s (execGetVersion conn s) := by simp [execGetVersion]

@[simp] theorem execGetCapabilities_sameMem (conn s) : Leaves s (execGetCapabilities conn s) := by
  simp [execGetCapabilities]

@[simp] theorem execNegotiateAlgorithms_sameMem (conn supported s) : Leaves s (execNegotiateAlgorithms conn supported s) := by
  simp [execNegotiateAlgorithms]

@[simp] theorem execGetDigests_sameMem (conn s) : Leaves s (execGetDigests conn s) := by simp [execGetDigests]

@[simp] theorem execGetCertificate_sameMem (conn off len s) : Leaves s (execGetCertificate conn off len s) := by
  simp [execGetCertificate]

@[simp] theorem execChallenge_sameMem (conn nonce s) : Leaves s (execChallenge conn nonce s) := by simp [execChallenge]

@[simp] theorem execKeyExchange_sameMem (conn s) : Leaves s (execKeyExchange conn s) := by simp [execKeyExchange]

@[simp] theorem execFinish_sameMem (conn cert s) : Leaves s (execFinish conn cert s) := by simp [execFinish]

@[simp] theorem execSpdmHeartbeat_sameMem (conn s) : Leaves s (execSpdmHeartbeat conn s) := by simp [execSpdmHeartbeat]

@[simp] theorem execSpdmSessionTimeout_sameMem (conn s) : Leaves s (execSpdmSessionTimeout conn s) := by
  simp [execSpdmSessionTimeout]

@[simp] theorem execKeyUpdate_sameMem (conn s) : Leaves s (execKeyUpdate conn s) := by simp [execKeyUpdate]

@[simp] theorem execEndSession_sameMem (conn s) : Leaves s (execEndSession conn s) := by simp [execEndSession]

@[simp] theorem execOwnerClaim_sameMem (keyDigest minSvn s) : Leaves s (execOwnerClaim keyDigest minSvn s) := by
  simp [execOwnerClaim]

@[simp] theorem stageRotation_sameMem (s r) : SameMem s (stageRotation s r) := by
  unfold stageRotation
  split <;> simp

@[simp] theorem writeOwnerGen_sameMem (s value) : SameMem s (writeOwnerGen s value) :=
  judge_sameMem _ _ _ _ _ _ fun _ => by split <;> simp

@[simp] theorem execSecOwnerGen_sameMem (p value rotation s) : Leaves s (execSecOwnerGen p value rotation s) := by
  simp [execSecOwnerGen]

@[simp] theorem execGetMeasurements_sameMem (conn nonce s) : Leaves s (execGetMeasurements conn nonce s) := by
  simp [execGetMeasurements]

/-! Telemetry -/

@[simp] theorem writeAtLo_sameMem (s v) : SameMem s (writeAtLo s v) := by simp [writeAtLo]

@[simp] theorem writeAtHi_sameMem (s v) : SameMem s (writeAtHi s v) := by simp [writeAtHi]

@[simp] theorem execSnapAtLo_sameMem (p value s) : Leaves s (execSnapAtLo p value s) := by simp [execSnapAtLo]

@[simp] theorem execSnapAtHi_sameMem (p value s) : Leaves s (execSnapAtHi p value s) := by simp [execSnapAtHi]

@[simp] theorem readNow_sameMem (s p) : SameMem s (readNow s p).1 := by simp [readNow]

@[simp] theorem snapAnswer_sameMem (s p v) : SameMem s (snapAnswer s p v) := by
  unfold snapAnswer
  split <;> simp

@[simp] theorem execSnapNowLo_sameMem (p s) : Leaves s (execSnapNowLo p s) := by simp [execSnapNowLo]

@[simp] theorem snapCopyBlock_sameMem (s b) : SameMem s (snapCopyBlock s b) := by simp [snapCopyBlock]

@[simp] theorem execSnapshotCopy_sameMem (blk s) : Leaves s (execSnapshotCopy blk s) := by simp [execSnapshotCopy]

@[simp] theorem execSnapshotSwap_sameMem (s) : Leaves s (execSnapshotSwap s) := by simp [execSnapshotSwap]

@[simp] theorem execScrollRd_sameMem (p value s) : Leaves s (execScrollRd p value s) := by simp [execScrollRd]

@[simp] theorem execScrollWindowEnd_sameMem (s) : Leaves s (execScrollWindowEnd s) := by
  simp only [execScrollWindowEnd, leaves_next]
  split <;> simp

@[simp] theorem execScrollArchive_sameMem (n s) : Leaves s (execScrollArchive n s) := by simp [execScrollArchive]

@[simp] theorem jtagDo_sameMem (s may code data f) (h : ∀ t, SameMem t (f t)) : SameMem s (jtagDo s may code data f) := by
  simp [jtagDo, h]

@[simp] theorem execJtagBypass_sameMem (tdi s) : Leaves s (execJtagBypass tdi s) := by simp [execJtagBypass]

@[simp] theorem execJtagIdcode_sameMem (s) : Leaves s (execJtagIdcode s) := by simp [execJtagIdcode]

@[simp] theorem execJtagSamplePreload_sameMem (v s) : Leaves s (execJtagSamplePreload v s) := by
  simp [execJtagSamplePreload]

@[simp] theorem execJtagExtest_sameMem (v s) : Leaves s (execJtagExtest v s) := by simp [execJtagExtest]

@[simp] theorem execJtagClamp_sameMem (s) : Leaves s (execJtagClamp s) := by simp [execJtagClamp]

@[simp] theorem execJtagHighz_sameMem (s) : Leaves s (execJtagHighz s) := by simp [execJtagHighz]

@[simp] theorem execDbgacc_sameMem (wr addr data s) : Leaves s (execDbgacc wr addr data s) := by
  simp only [execDbgacc, leaves_next]
  (repeat' split) <;> simp

@[simp] theorem execDbginj_sameMem (sx port flits s) : Leaves s (execDbginj sx port flits s) := by simp [execDbginj]

@[simp] theorem writeUnlock_sameMem (s p v) : SameMem s (writeUnlock s p v) := by simp [writeUnlock]

@[simp] theorem execUnlock_sameMem (p v s) : Leaves s (execUnlock p v s) := by simp [execUnlock]

@[simp] theorem writeDisable_sameMem (s v) : SameMem s (writeDisable s v) := by simp [writeDisable]

@[simp] theorem execDisable_sameMem (p v s) : Leaves s (execDisable p v s) := by simp [execDisable]

/-! Startup -/

@[simp] theorem mcsOn_sameMem (s) : SameMem s (mcsOn s) := by simp [mcsOn]

@[simp] theorem imageBoots_sameMem (s b siteOk) : SameMem s (imageBoots s b siteOk) := by simp [imageBoots]

@[simp] theorem deriveAlias_sameMem (s) : SameMem s (deriveAlias s) := by simp [deriveAlias]

@[simp] theorem execMcBoot_sameMem (verifyA verifyB siteOk s) : Leaves s (execMcBoot verifyA verifyB siteOk s) := by
  simp only [execMcBoot, leaves_next]
  (repeat' split) <;> simp

@[simp] theorem fuseSubst_sameMem (s ox) : SameMem s (fuseSubst s ox) := by simp [fuseSubst]

@[simp] theorem opticsBegin_sameMem (s) : SameMem s (opticsBegin s) := by simp [opticsBegin]

@[simp] theorem execSelftestPhaseEnd_sameMem (failed s) : Leaves s (execSelftestPhaseEnd failed s) := by
  simp [execSelftestPhaseEnd]

@[simp] theorem startStrings_sameMem (s l) : SameMem s (startStrings s l) := by simp [startStrings]

@[simp] theorem execOpticalPhaseEnd_sameMem (s) : Leaves s (execOpticalPhaseEnd s) := by simp [execOpticalPhaseEnd]

@[simp] theorem excludeSelf_sameMem (s) : SameMem s (excludeSelf s) := by simp [excludeSelf]

@[simp] theorem execSoundpostPhaseEnd_sameMem (s) : Leaves s (execSoundpostPhaseEnd s) := by
  simp [execSoundpostPhaseEnd]

@[simp] theorem joinCourse_sameMem (s) : SameMem s (joinCourse s) := by simp [joinCourse]

@[simp] theorem execLeafAttachPhaseEnd_sameMem (elapsedMs s) : Leaves s (execLeafAttachPhaseEnd elapsedMs s) := by
  simp [execLeafAttachPhaseEnd]

@[simp] theorem execHelloSend_sameMem (s) : Leaves s (execHelloSend s) := by simp [execHelloSend]

@[simp] theorem countHello_sameMem (s h) : SameMem s (countHello s h) := by
  simp only [countHello, countHello.put]
  (repeat' split) <;> simp

@[simp] theorem otherDomain_sameMem (s h) : SameMem s (otherDomain s h) := by simp [otherDomain]

@[simp] theorem execHello_sameMem (h session s) : Leaves s (execHello h session s) := by simp [execHello]

@[simp] theorem anchorTime_sameMem (s) : SameMem s (anchorTime s) := by simp [anchorTime]

@[simp] theorem clearMoved_sameMem (s) : SameMem s (clearMoved s) := by simp [clearMoved]

@[simp] theorem startSweep_sameMem (s n base) : SameMem s (startSweep s n base) := by simp [startSweep]

@[simp] theorem becomeLead_sameMem (s n) : SameMem s (becomeLead s n) := by simp [becomeLead]

@[simp] theorem execElectionClose_sameMem (s) : Leaves s (execElectionClose s) := by
  simp only [execElectionClose, leaves_next]
  (repeat' split) <;> simp

@[simp] theorem ownRecord_sameMem (s cstate reason num epoch) : SameMem s (ownRecord s cstate reason num epoch) := by
  simp [ownRecord]

@[simp] theorem takeTables_sameMem (s sweep epoch present) : SameMem s (takeTables s sweep epoch present) := by
  simp only [takeTables]
  (repeat' split) <;> simp

@[simp] theorem sendTables_sameMem (s present) : SameMem s (sendTables s present) := by simp [sendTables]

@[simp] theorem endSearch_sameMem (s eighth) : SameMem s (endSearch s eighth) := by simp [endSearch]

@[simp] theorem execSweepSend_sameMem (s) : Leaves s (execSweepSend s) := by simp [execSweepSend]

@[simp] theorem answerSweep_sameMem (s n) : SameMem s (answerSweep s n) := by simp [answerSweep]

@[simp] theorem execSweep_sameMem (n rank s) : Leaves s (execSweep n rank s) := by simp [execSweep]

@[simp] theorem execSurvey_sameMem (rank n l s) : Leaves s (execSurvey rank n l s) := by simp [execSurvey]

@[simp] theorem execTables_sameMem (sweepNo epoch present excluded s) : Leaves s (execTables sweepNo epoch present excluded s) := by
  simp [execTables]

@[simp] theorem execResult_sameMem (rank cstate converged s) : Leaves s (execResult rank cstate converged s) := by
  simp [execResult]

@[simp] theorem execTablesAcceptDeadline_sameMem (s) : Leaves s (execTablesAcceptDeadline s) := by
  simp [execTablesAcceptDeadline]

@[simp] theorem execConvergenceCheck_sameMem (s) : Leaves s (execConvergenceCheck s) := by simp [execConvergenceCheck]

@[simp] theorem nextDomain_sameMem (s) : SameMem s (nextDomain s) := by simp [nextDomain]

@[simp] theorem nextLead_sameMem (s) : SameMem s (nextLead s) := by
  simp only [nextLead]
  (repeat' split) <;> simp

@[simp] theorem execLeadLost_sameMem (s) : Leaves s (execLeadLost s) := by
  simp only [execLeadLost, leaves_next]
  (repeat' split) <;> simp

@[simp] theorem becomeReady_sameMem (s) : SameMem s (becomeReady s) := by simp [becomeReady]

@[simp] theorem startApply_sameMem (s p) : SameMem s (startApply s p) := by simp [startApply]

@[simp] theorem execCommitApply_sameMem (num s) : Leaves s (execCommitApply num s) := by
  unfold execCommitApply
  split <;> simp

/-! Ports -/

@[simp] theorem readAt_sameMem (s p addr) : SameMem s (readAt s p addr).1 := by
  simp only [readAt]
  (repeat' split) <;> simp

@[simp] theorem refuseReset_sameMem (s p) : SameMem s (refuseReset s p) := by simp [refuseReset]

@[simp] theorem resetSwap_sameMem (s p) : SameMem s (resetSwap s p) := by simp [resetSwap]

@[simp] theorem resetLeave_sameMem (s p) : SameMem s (resetLeave s p) := by simp [resetLeave]

@[simp] theorem execMcswap_sameMem (p key s) : Leaves s (execMcswap p key s) := by simp [execMcswap]

@[simp] theorem execLeave_sameMem (p key s) : Leaves s (execLeave p key s) := by simp [execLeave]

@[simp] theorem execMcTakeover_sameMem (s) : Leaves s (execMcTakeover s) := by simp [execMcTakeover]

@[simp] theorem execSpiRead_sameMem (edges addr crcOk ready s) : Leaves s (execSpiRead edges addr crcOk ready s) := by
  simp [execSpiRead]

@[simp] theorem execSpiUnknownOpcode_sameMem (opcode s) : Leaves s (execSpiUnknownOpcode opcode s) := by
  simp [execSpiUnknownOpcode]

@[simp] theorem execSmbMctp_sameMem (pecOk _code s) : Leaves s (execSmbMctp pecOk _code s) := by simp [execSmbMctp]

@[simp] theorem execSmbRegisterRead_sameMem (pecOk count addr s) : Leaves s (execSmbRegisterRead pecOk count addr s) := by
  simp [execSmbRegisterRead]

@[simp] theorem execAlertResponse_sameMem (s) : Leaves s (execAlertResponse s) := by simp [execAlertResponse]

@[simp] theorem execSmbClockTimeout_sameMem (s) : Leaves s (execSmbClockTimeout s) := by simp [execSmbClockTimeout]

@[simp] theorem execEthernetFrame_sameMem (_untagged _toUs _etherType _version _len s) :
    Leaves s (execEthernetFrame _untagged _toUs _etherType _version _len s) := by
  simp [execEthernetFrame]

@[simp] theorem readAll_sameMem (p l s) : SameMem s (readAll p l s).1 := by
  induction l generalizing s with
  | nil => simp [readAll]
  | cons a t ih => simp [readAll, ih]

@[simp] theorem execMctpRead_sameMem (sess addr count s) : Leaves s (execMctpRead sess addr count s) := by
  simp [execMctpRead]

/-! Tick -/

@[simp] theorem tick_sameMem (s) : SameMem s (tick s) := by simp [tick]

end Sys2Proof.Machine
end

section
/-! SUPPORT. The canonical form of every memory (R76, R79, R114): each operation that may write a memory keeps it, in the order of
the model's files, and O60. -/

namespace Sys2Proof.Machine

open Sys2Proof

/-- Every memory is in its canonical form (`safeState`, in the form that simp takes apart). -/
@[reducible, simp] def Canon (s : State) : Prop := Memory.wf s.mem.phys = true ∧ Memory.wf s.scratch = true ∧ Memory.wf s.brola.mem = true

theorem Canon.same {s t : State} (h : Canon s) (e : SameMem s t) : Canon t := by
  obtain ⟨h1, h2, h3⟩ := e
  simp [h1, h2, h3, h]

/-- The outcome, where it is a next state, has its memories in canonical form. -/
def CanonOut : Res → Prop
  | .next t => Canon t
  | _ => True
@[simp] theorem canonOut_next (t : State) : CanonOut (.next t) ↔ Canon t := Iff.rfl

theorem foldl_canon_of {α β : Type} (g : β → State) (f : β → α → β) (l : List α) {x : β} (h : Canon (g x))
    (hf : ∀ x a, Canon (g x) → Canon (g (f x a))) : Canon (g (l.foldl f x)) := by
  induction l generalizing x with
  | nil => exact h
  | cons a t ih => exact ih (hf x a h)

theorem foldl_canon {α : Type} (f : State → α → State) (l : List α) {s : State} (h : Canon s)
    (hf : ∀ s a, Canon s → Canon (f s a)) : Canon (l.foldl f s) := foldl_canon_of id f l h hf

/-- What a request is ready to do keeps the canonical form, now and in whatever state it is done later. -/
def Ready.Canon : Ready → Prop
  | .stop s => Machine.Canon s
  | .fail d => Machine.Canon d.s
  | .ok s run => Machine.Canon s ∧ ∀ t, Machine.Canon t → Machine.Canon (run t).s
@[simp] theorem Ready.canon_stop (s) : (Ready.stop s).Canon ↔ Machine.Canon s := Iff.rfl
@[simp] theorem Ready.canon_fail (d) : (Ready.fail d).Canon ↔ Machine.Canon d.s := Iff.rfl
@[simp] theorem Ready.canon_ok (s run) : (Ready.ok s run).Canon ↔ Machine.Canon s ∧ ∀ t, Machine.Canon t → Machine.Canon (run t).s := Iff.rfl

/-! Storage -/

@[simp] theorem physWrite_canon {s k bs poison} (h : Canon s) : Canon (physWrite s k bs poison) := by
  simp [physWrite, h, Memory.wf_writeN]

@[simp] theorem homeWrite_canon {s key bs poison} (h : Canon s) : Canon (homeWrite s key bs poison) := by
  simp only [homeWrite]
  (repeat' split) <;> simp [h]

@[simp] theorem physPoke_canon {s k bs} (h : Canon s) : Canon (physPoke s k bs) := by
  simp [physPoke, h, Memory.wf_writeN]

/-! Stores -/

@[simp] theorem pageWrite_canon {s capo g off key mirror bs poison} (h : Canon s) : Canon (pageWrite s capo g off key mirror bs poison).1 := by
  simp [pageWrite, h]

@[simp] theorem scratchWrite_canon {s k bs poison} (h : Canon s) : Canon (scratchWrite s k bs poison) := by
  simp [scratchWrite, h, Memory.wf_writeN]

@[simp] theorem leafWrite_canon {s a1 bs poison} (h : Canon s) : Canon (leafWrite s a1 bs poison) := by
  simp [leafWrite, h, Memory.wf_writeN]

theorem findMem_state {s r v x} (e : findMem s r v = x) : SameMem s x.state := e ▸ findMem_sameMem s r v

theorem storeMem_canon {s r v} (h : Canon s) : (storeMem s r v).Canon := by
  unfold storeMem
  split
  · next e => exact h.same (findMem_state e)
  · next e => exact h.same (findMem_state e)
  · next e => exact ⟨h.same (findMem_state e), fun _ ht => scratchWrite_canon ht⟩
  · next t _ _ _ e =>
    have ht : Canon t := h.same (findMem_state e)
    split
    · exact ht
    split
    · exact ht
    · exact ⟨ht, fun _ hu => by simp [hu]⟩

theorem ctlReady_canon {s r v run} (h : Canon s) (hrun : ∀ l t, Canon t → Canon (run l t).s) : (ctlReady s r v run).Canon := by
  unfold ctlReady
  split
  · simp [h]
  split
  · split <;> simp [h]
  split
  · simp [h]
  · split
    · simp [h]
    · split
      · simp [h]
      · exact ⟨h, hrun _⟩

theorem lfReady_canon {s r run} (h : Canon s) (hrun : ∀ l t, Canon t → Canon (run l t).s) : (lfReady s r run).Canon := by
  unfold lfReady
  split
  · simp [h]
  split
  · simp [h]
  · split
    · exact ⟨h, hrun _⟩
    · simp [h]

theorem storeReady_canon {s r v} (h : Canon s) : (storeReady s r v).Canon := by
  unfold storeReady
  split
  · split
    · simp [h]
    split
    · next e => exact h.same (leafRefusal_sameMem e)
    · exact ⟨h, fun t ht => leafWrite_canon ht⟩
  · split
    · simp [h]
    split
    · exact ctlReady_canon h fun _ t ht => by split <;> simp [ht]
    · exact storeMem_canon h

theorem flagReady_canon {s r v} (h : Canon s) : (flagReady s r v).Canon := by
  unfold flagReady
  split
  · exact lfReady_canon h fun _ _ ht => by simp [ht]
  split
  · simp [h]
  · exact ctlReady_canon h fun _ _ ht => by simp [ht]

theorem writeReady_canon {s r v} (h : Canon s) : (writeReady s r v).Canon := by
  unfold writeReady
  split
  · exact storeReady_canon h
  · exact flagReady_canon h

@[simp] theorem heldPage_canon {s r} (h : Canon s) : Canon (heldPage s r).s := by
  simp only [heldPage]
  (repeat' split) <;> simp [h]

theorem getD_map_canon {α : Type} {o : Option α} {f : α → Done} {d : Done} (hd : Canon d.s) (hf : ∀ a, Canon (f a).s) :
    Canon ((o.map f).getD d).s := by
  cases o with
  | none => exact hd
  | some a => exact hf a

@[simp] theorem heldRun_canon {s f} (h : Canon s) : Canon (heldRun s f).s := by
  simp only [heldRun]
  split
  · split
    · simp [h]
    · exact getD_map_canon h fun _ => h.same (lfPerform_sameMem _ _ _)
  · split
    · split <;> simp [h]
    · exact getD_map_canon h fun _ => h.same (swPerform_sameMem _ _ _)

@[simp] theorem applyFinals_canon {n s w src epoch} (h : Canon s) : Canon (applyFinals n s w src epoch) := by
  induction n generalizing s with
  | zero => exact h
  | succ n ih =>
    simp only [applyFinals]
    split
    · exact h
    · exact ih (by simp [h])

@[simp] theorem settleFinals_canon {s w src epoch} (h : Canon s) : Canon (settleFinals s w src epoch) := by
  simp [settleFinals, h]

@[simp] theorem afterDone_canon {s w r} (h : Canon s) : Canon (afterDone s w r) := by simp [afterDone, h]

@[simp] theorem settle_canon {r v d} (h : Canon d.s) : Canon (settle r v d) := by simp [settle, h]

@[simp] theorem settleWith_canon {more r v d} (h : Canon d.s) : Canon (settleWith more r v d) := by simp [settleWith, h]

theorem runReady_canon {r v} {x : Ready} (h : x.Canon) : Canon (runReady r v x) := by
  cases x with
  | stop s => exact h
  | fail d => exact settle_canon h
  | ok s run => exact settle_canon (h.2 s h.1)

@[simp] theorem holdFinal_canon {s r v} (h : Canon s) : Canon (holdFinal s r v) := by
  simp only [holdFinal]
  (repeat' split) <;> simp [h]

theorem runWrite_canon {r v} {x : Ready} (h : x.Canon) : Canon (runWrite r v x) := by
  cases x with
  | stop s => exact h
  | fail d => exact settle_canon h
  | ok s run =>
    simp only [runWrite]
    split
    · exact holdFinal_canon h.1
    · exact settle_canon (h.2 s h.1)

theorem entry_state {s r v x} (e : entry s r v = x) : SameMem s x.state := e ▸ entry_sameMem s r v

theorem runEntry_canon {s r v go} (h : Canon s) (hgo : ∀ t, Canon t → Canon (go t)) : Canon (runEntry s r v go) := by
  have hl : Canon (leaveDie s r v) := h.same (leaveDie_sameMem s r v)
  unfold runEntry
  split
  · next e => exact hl.same (entry_state e)
  · next e => exact settle_canon (hl.same (entry_state e))
  · next e => exact hgo _ (hl.same (entry_state e))

@[simp] theorem doLd_canon {s r v} (h : Canon s) : Canon (doLd s r v) := by
  unfold doLd
  split
  · split
    · simp [h]
    split
    · next e => exact settle_canon (h.same (leafRefusal_sameMem e))
    · simp [h]
  split
  · simp [h]
  split
  · next e => exact h.same (findMem_state e)
  · next e => exact settle_canon (h.same (findMem_state e))
  · next t _ e => have ht : Canon t := h.same (findMem_state e); simp [ht]
  · next t _ _ _ e => have ht : Canon t := h.same (findMem_state e); split <;> simp [ht]

@[simp] theorem doSt_canon {s r v} (h : Canon s) : Canon (doSt s r v) := runWrite_canon (storeReady_canon h)

@[simp] theorem atomicPage_canon {s r g key mirror} (h : Canon s) : Canon (atomicPage s r g key mirror).s := by
  simp only [atomicPage]
  (repeat' split) <;> simp [h]

@[simp] theorem atomicLeaf_canon {s r} (h : Canon s) : Canon (atomicLeaf s r).s := by
  simp only [atomicLeaf]
  (repeat' split) <;> simp [h, Memory.wf_writeLe]

theorem atomicReady_canon {s r v} (h : Canon s) : (atomicReady s r v).Canon := by
  unfold atomicReady
  split
  · exact flagReady_canon h
  split
  · split
    · simp [h]
    split
    · next e => exact h.same (leafRefusal_sameMem e)
    · exact ⟨h, fun _ ht => atomicLeaf_canon ht⟩
  split
  · simp [h]
  split
  · next e => exact h.same (findMem_state e)
  · next e => exact h.same (findMem_state e)
  · next e => exact h.same (findMem_state e)
  · next t _ _ _ e =>
    have ht : Canon t := h.same (findMem_state e)
    split
    · exact ht
    split
    · exact ht
    · exact ⟨ht, fun _ hu => atomicPage_canon hu⟩

@[simp] theorem doAtomic_canon {s r v} (h : Canon s) : Canon (doAtomic s r v) := runReady_canon (atomicReady_canon h)

@[simp] theorem doFlag_canon {s r v} (h : Canon s) : Canon (doFlag s r v) := by
  have hr := flagReady_canon (r := r) (v := v) h
  unfold doFlag
  split
  · next e =>
    rw [e] at hr
    obtain ⟨ht, hrun⟩ := hr
    split
    · exact holdFinal_canon ht
    split
    · simp [ht]
    · exact settle_canon (hrun _ ht)
  · exact runWrite_canon hr

@[simp] theorem execLd_canon {r v s} (h : Canon s) : CanonOut (execLd r v s) := by
  simp only [execLd, canonOut_next]
  split
  · exact runEntry_canon h fun _ ht => doLd_canon ht
  · exact h

@[simp] theorem execSt_canon {r v s} (h : Canon s) : CanonOut (execSt r v s) := by
  simp only [execSt, canonOut_next]
  split
  · exact runEntry_canon h fun _ ht => doSt_canon ht
  · exact h

@[simp] theorem atomicCmd_canon {op r v s} (h : Canon s) : Canon (atomicCmd op r v s) := by
  unfold atomicCmd
  split
  · exact runEntry_canon h fun _ ht => doAtomic_canon ht
  · exact h

@[simp] theorem execAadd_canon {r v s} (h : Canon s) : CanonOut (execAadd r v s) := by simp [execAadd, h]

@[simp] theorem execAand_canon {r v s} (h : Canon s) : CanonOut (execAand r v s) := by simp [execAand, h]

@[simp] theorem execAor_canon {r v s} (h : Canon s) : CanonOut (execAor r v s) := by simp [execAor, h]

@[simp] theorem execAxor_canon {r v s} (h : Canon s) : CanonOut (execAxor r v s) := by simp [execAxor, h]

@[simp] theorem execAswap_canon {r v s} (h : Canon s) : CanonOut (execAswap r v s) := by simp [execAswap, h]

@[simp] theorem execAcas_canon {r v s} (h : Canon s) : CanonOut (execAcas r v s) := by simp [execAcas, h]

@[simp] theorem execAmax_canon {r v s} (h : Canon s) : CanonOut (execAmax r v s) := by simp [execAmax, h]

@[simp] theorem execAmin_canon {r v s} (h : Canon s) : CanonOut (execAmin r v s) := by simp [execAmin, h]

@[simp] theorem execFadd32_canon {r v s} (h : Canon s) : CanonOut (execFadd32 r v s) := by simp [execFadd32, h]

@[simp] theorem execFaddb16_canon {r v s} (h : Canon s) : CanonOut (execFaddb16 r v s) := by simp [execFaddb16, h]

@[simp] theorem flagCmd_canon {op r v s} (h : Canon s) : Canon (flagCmd op r v s) := by
  unfold flagCmd
  split
  · exact runEntry_canon h fun _ ht => doFlag_canon ht
  · exact h

@[simp] theorem execFset_canon {r v s} (h : Canon s) : CanonOut (execFset r v s) := by simp [execFset, h]

@[simp] theorem execFclr_canon {r v s} (h : Canon s) : CanonOut (execFclr r v s) := by simp [execFclr, h]

@[simp] theorem execFtest_canon {r v s} (h : Canon s) : CanonOut (execFtest r v s) := by simp [execFtest, h]

/-! Reduce -/

@[simp] theorem winPoison_canon {s w src tell} (h : Canon s) : Canon (winPoison s w src tell) :=
  foldl_canon _ _ (by simp [h]) fun _ _ ht => settle_canon ht

@[simp] theorem winTake_canon {s w r v off opened} (h : Canon s) : Canon (winTake s w r v off opened) := by
  simp only [winTake]
  (repeat' split) <;> simp [h]

@[simp] theorem winArrive_canon {s w r v} (h : Canon s) : Canon (winArrive s w r v) := by
  simp only [winArrive]
  (repeat' split) <;> simp [h]

@[simp] theorem doRst_canon {s r v} (h : Canon s) : Canon (doRst s r v) := by
  have hs : ∀ {m n o x}, findScratch s r v m n o = x → Canon x.state := fun e => h.same (e ▸ findScratch_sameMem _ _ _ _ _ _)
  unfold doRst
  extract_lets off no
  have hno : ∀ st, Canon (no st) := fun st => settle_canon h
  split
  · exact hno _
  split
  · split
    · next e => exact settle_canon (hs e)
    · next e => exact hs e
    · exact hno _
  split
  · exact hno _
  split
  · simp [h]
  split
  · simp [h]
  next g _ _ =>
  extract_lets t rt each
  have ht : Canon t := h.same (cacheTouch_sameMem _ _ _ _)
  split
  · simp [ht]
  split
  · simp [ht]
  split
  · split <;> simp [ht]
  split
  · simp [ht]
  extract_lets stop u
  have hu : Canon u := by
    simp only [u]
    split <;> simp [ht]
  (repeat' split) <;> simp [ht, hu]

@[simp] theorem execRst_canon {r v s} (h : Canon s) : CanonOut (execRst r v s) := by
  simp only [execRst, canonOut_next]
  split
  · exact runEntry_canon h fun _ ht => doRst_canon ht
  · exact h

@[simp] theorem execRstx_canon {r v s} (h : Canon s) : CanonOut (execRstx r v s) := by
  simp only [execRstx, canonOut_next]
  split
  · exact runEntry_canon h fun _ ht => doRst_canon ht
  · exact h

theorem finishLine_canon {w x line} (h : Canon x.1) : Canon (finishLine w x line).1 := by
  simp only [finishLine]
  split <;> simp [h]

theorem foldl_finishLine_canon {w l s b} (h : Canon s) : Canon (List.foldl (finishLine w) (s, b) l).1 :=
  foldl_canon_of Prod.fst _ l h fun _ _ ht => finishLine_canon ht

@[simp] theorem winFinalise_canon {s w} (h : Canon s) : Canon (winFinalise s w) := by
  unfold winFinalise
  extract_lets lines x t dups m u
  have ht : Canon t := foldl_finishLine_canon h
  have hm : Canon m.1 := by
    simp only [m]
    split <;> simp [ht]
  refine Canon.same (foldl_canon _ _ (hm.same (t := setWin m.1 _) (by simp)) fun t p ht => ?_) (winWritten_sameMem _ _)
  simp only
  split <;> simp [ht]

@[simp] theorem execWindowFinalised_canon {wid s} (h : Canon s) : CanonOut (execWindowFinalised wid s) := by
  simp only [execWindowFinalised, canonOut_next]
  (repeat' split) <;> simp [h]

/-! Services -/

@[simp] theorem doMst_canon {s r v} (h : Canon s) : Canon (doMst s r v) := by
  simp only [doMst]
  (repeat' split) <;> simp [h]

@[simp] theorem execMst_canon {r v s} (h : Canon s) : CanonOut (execMst r v s) := by
  simp only [execMst, canonOut_next]
  split
  · exact runEntry_canon h fun _ ht => doMst_canon ht
  · exact h

@[simp] theorem barAnswer_canon {x b f} (h : Canon x.1) : Canon (barAnswer x b f) :=
  foldl_canon _ _ h fun _ _ ht => settleWith_canon ht

@[simp] theorem barEnd_canon {s k b st conflict f} (h : Canon s) : Canon (barEnd s k b st conflict f) := by
  simp [barEnd, h]

@[simp] theorem barCheck_canon {s k e tc} (h : Canon s) : Canon (barCheck s k e tc) := by
  simp only [barCheck]
  (repeat' split) <;> simp [h]

@[simp] theorem barArrive_canon {s k e r v} (h : Canon s) : Canon (barArrive s k e r v) := by
  simp only [barArrive]
  (repeat' split) <;> simp [h]

theorem ctlReady_refuse_canon {s r v st x} (h : Canon s) (e : (ctlReady s r v fun _ s => refuse s .kojor r st) = x) : x.Canon :=
  e ▸ ctlReady_canon h fun _ _ ht => ht

theorem lfReady_refuse_canon {s r st x} (h : Canon s) (e : (lfReady s r fun _ s => refuse s .brola r st) = x) : x.Canon :=
  e ▸ lfReady_canon h fun _ _ ht => ht

@[simp] theorem doBarr_canon {s r v} (h : Canon s) : Canon (doBarr s r v) := by
  unfold doBarr
  split
  · simp [h]
  split
  · next e => exact ctlReady_refuse_canon h e
  · next e => exact settle_canon (ctlReady_refuse_canon h e)
  · next e =>
    obtain ⟨ht, -⟩ := ctlReady_refuse_canon h e
    simp only
    (repeat' split) <;> simp [ht]

@[simp] theorem execBarr_canon {r v s} (h : Canon s) : CanonOut (execBarr r v s) := by
  simp only [execBarr, canonOut_next]
  split
  · exact runEntry_canon h fun _ ht => doBarr_canon ht
  · exact h

@[simp] theorem barUpDone_canon {s capo g c} (h : Canon s) : Canon (barUpDone s capo g c) :=
  foldl_canon _ _ h fun _ _ ht => by simp only; split <;> simp [ht]

@[simp] theorem execBarrierTimeout_canon {capo group s} (h : Canon s) : CanonOut (execBarrierTimeout capo group s) :=
  foldl_canon _ _ h fun _ _ ht => by simp only; split <;> simp [ht]

@[simp] theorem doCpyd_canon {s r v} (h : Canon s) : Canon (doCpyd s r v) := by
  unfold doCpyd
  split
  · refine runReady_canon ?_
    split
    · next e =>
      obtain ⟨ht, -⟩ := lfReady_refuse_canon h e
      split
      · next d => exact ht.same (copyBadB_sameMem d)
      split
      · exact ht
      · exact ⟨ht, fun _ hu => hu⟩
    · exact lfReady_refuse_canon h rfl
  split
  · simp [h]
  · refine runReady_canon ?_
    split
    · next e =>
      obtain ⟨ht, -⟩ := ctlReady_refuse_canon h e
      split
      · next d => exact ht.same (copyBadK_sameMem d)
      split
      · exact ht
      · exact ⟨ht, fun _ hu => hu⟩
    · exact ctlReady_refuse_canon h rfl

@[simp] theorem execCpyd_canon {r v s} (h : Canon s) : CanonOut (execCpyd r v s) := by
  simp only [execCpyd, canonOut_next]
  split
  · exact runEntry_canon h fun _ ht => doCpyd_canon ht
  · exact h

@[simp] theorem copyWrite_canon {s w id o bs} (h : Canon s) : Canon (copyWrite s w id o bs) := by
  simp only [copyWrite]
  (repeat' split) <;> simp [h]

theorem foldl_copyWrite_canon {w id l s} (h : Canon s) : Canon (List.foldl (fun s (b : Nat × List Byte) => copyWrite s w id b.1 b.2) s l) :=
  foldl_canon _ _ h fun _ _ ht => copyWrite_canon ht

@[simp] theorem copyDone_canon {s w id o wr cm} (h : Canon s) : Canon (copyDone s w id o wr cm) := by
  simp only [copyDone]
  split
  · exact h
  split
  · simp [h]
  split
  · simp [h]
  split
  · split
    · simp [h]
    split
    · exact (foldl_copyWrite_canon (by simp [h])).same (copyEnd_sameMem _ _ _)
    · simp [h]
  · simp [h]

@[simp] theorem doInv_canon {s r v} (h : Canon s) : Canon (doInv s r v) := by
  unfold doInv
  split
  · split
    · next e => exact lfReady_refuse_canon h e
    · next e => exact settle_canon (lfReady_refuse_canon h e)
    · next e =>
      obtain ⟨ht, -⟩ := lfReady_refuse_canon h e
      simp only
      (repeat' split) <;> simp [ht]
  split
  · simp [h]
  split
  · next e => exact ctlReady_refuse_canon h e
  · next e => exact settle_canon (ctlReady_refuse_canon h e)
  · next e =>
    obtain ⟨ht, -⟩ := ctlReady_refuse_canon h e
    simp only
    split <;> simp [ht]

@[simp] theorem invCmd_canon {scopes r v s} (h : Canon s) : Canon (invCmd scopes r v s) := by
  unfold invCmd
  split
  · exact runEntry_canon h fun _ ht => doInv_canon ht
  · exact h

@[simp] theorem execInvLeafLines_canon {r v s} (h : Canon s) : CanonOut (execInvLeafLines r v s) := by
  simp [execInvLeafLines, h]

@[simp] theorem execInvTranslation_canon {r v s} (h : Canon s) : CanonOut (execInvTranslation r v s) := by
  simp [execInvTranslation, h]

@[simp] theorem execInvRegionCache_canon {r v s} (h : Canon s) : CanonOut (execInvRegionCache r v s) := by
  simp [execInvRegionCache, h]

@[simp] theorem drainCheck_canon {s d} (h : Canon s) : Canon (drainCheck s d) := by
  simp only [drainCheck]
  (repeat' split) <;> simp [h]

@[simp] theorem execInvDrainComplete_canon {src tc seq s} (h : Canon s) : CanonOut (execInvDrainComplete src tc seq s) := by
  simp only [execInvDrainComplete, canonOut_next]
  (repeat' split) <;> simp [h]

@[simp] theorem pfaScratch_canon {s r v} (h : Canon s) : Canon (pfaScratch s r v) := by
  have hs : ∀ {m n o x}, findScratch s r v m n o = x → Canon x.state := fun e => h.same (e ▸ findScratch_sameMem _ _ _ _ _ _)
  unfold pfaScratch
  split
  · exact h
  split
  · next e => exact hs e
  · next e => exact settle_canon (hs e)
  · simp [h]

@[simp] theorem doPfa_canon {s r v} (h : Canon s) : Canon (doPfa s r v) := by
  simp only [doPfa]
  (repeat' split) <;> simp [h]

@[simp] theorem pfaCmd_canon {ok r v s} (h : Canon s) : Canon (pfaCmd ok r v s) := by
  unfold pfaCmd
  split
  · exact runEntry_canon h fun _ ht => doPfa_canon ht
  · exact h

@[simp] theorem execPfaFetch_canon {r v s} (h : Canon s) : CanonOut (execPfaFetch r v s) := by simp [execPfaFetch, h]

@[simp] theorem execPfaZero_canon {r v s} (h : Canon s) : CanonOut (execPfaZero r v s) := by simp [execPfaZero, h]

@[simp] theorem execPfaScrub_canon {r v s} (h : Canon s) : CanonOut (execPfaScrub r v s) := by simp [execPfaScrub, h]


def pfaSource (s : State) (r : Req) (ks : Nat) : State := if r.attr % 16 = 0 then countBytes (physFind s ks 4096) ks 4096 false else s
def pfaBytes (s : State) (r : Req) (ks : Nat) : List Byte := if r.attr % 16 = 0 then physRead s ks 4096 else List.replicate 4096 0
def pfaBad (s : State) (r : Req) (ks kd : Nat) : List Nat :=
  (if r.attr % 16 = 0 then poisonIn s.mem.poison ks 4096 else []).map fun w => w - ks / 8 + kd / 8

def pfaCopied (s : State) (r : Req) (h : Region) (dst kd : Nat) (bs : List Byte) (bad : List Nat) : PfaStep :=
  let t := physWrite s kd bs false
  let m := pfaMirror { t with mem := { t.mem with poison := markWords t.mem.poison bad } } r h dst kd bs bad
  { s := bump (bump m.1 .memPfaBytes [r.capo] 4096) .memPfaPoison [r.capo] bad.length, waits := m.2 }

theorem pfaPage_copies {r s i g h} (hg : regionAt s.prog.eff r.capo (pfaOff r.addr i / 4096) = some g)
    (hh : regionAt s.prog.eff r.capo (pfaOff r.op0 i / 4096) = some h) (hgone : pfaGone s r i = false)
    (hw : windowAt s r.capo (pfaOff r.op0 i) 4096 = none) (ha : r.attr % 16 ≠ 2) :
    let ks := copyKey g (pfaOff r.addr i) (isMine s (pfaOff r.addr i))
    let kd := copyKey h (pfaOff r.op0 i) (isMine s (pfaOff r.op0 i))
    let t := pfaSource s r ks
    pfaPage r s i = pfaCopied t r h (pfaOff r.op0 i) kd (pfaBytes t r ks) (pfaBad t r ks kd) := by
  simp only [pfaPage, hg, hh, hgone, hw, ha, Option.isSome_none, Bool.false_eq_true, if_false]
  rfl

theorem pfaCopied_canon {s r h dst kd bs bad} (hs : Canon s) : Canon (pfaCopied s r h dst kd bs bad).s := by
  unfold pfaCopied
  extract_lets t _ m
  have ht : Canon t := physWrite_canon hs
  have hm : Canon m.1 := ht.same (pfaMirror_sameMem _ _ _ _ _ _ _)
  simp [hm]

@[simp] theorem pfaPage_canon {r s i} (hs : Canon s) : Canon (pfaPage r s i).s := by
  cases hg : regionAt s.prog.eff r.capo (pfaOff r.addr i / 4096) with
  | none => simp [pfaPage, hg, hs]
  | some g =>
    cases hh : regionAt s.prog.eff r.capo (pfaOff r.op0 i / 4096) with
    | none => simp [pfaPage, hg, hh, hs]
    | some h =>
      cases hgone : pfaGone s r i with
      | true => simp [pfaPage, hg, hh, hgone, hs]
      | false =>
        cases hw : windowAt s r.capo (pfaOff r.op0 i) 4096 with
        | some w => simp [pfaPage, hg, hh, hgone, hw, hs]
        | none =>
          by_cases ha : r.attr % 16 = 2
          · simp [pfaPage, hg, hh, hgone, hw, ha, hs]
          · rw [pfaPage_copies hg hh hgone hw ha]
            refine pfaCopied_canon ?_
            unfold pfaSource
            split <;> simp [hs]


@[simp] theorem pfaRun_canon {r l ws s} (h : Canon s) : Canon (pfaRun r l ws s).s := by
  induction l generalizing ws s with
  | nil => exact h
  | cons i t ih =>
    simp only [pfaRun]
    split
    · simp [h]
    · exact ih (by simp [h])

@[simp] theorem pfaEnd_canon {s p c} (h : Canon s) : Canon (pfaEnd s p c) := by simp [pfaEnd, h]

@[simp] theorem pfaCheck_canon {s p} (h : Canon s) : Canon (pfaCheck s p) := by
  simp only [pfaCheck]
  (repeat' split) <;> simp [h]

@[simp] theorem execPfaComplete_canon {src tc seq s} (h : Canon s) : CanonOut (execPfaComplete src tc seq s) := by
  unfold execPfaComplete
  split
  · exact h
  split
  · exact h
  next p _ _ =>
  extract_lets x q
  have hx : Canon x.s := pfaRun_canon h
  split
  · extract_lets d
    have hd : Canon d.s := by
      simp only [d]
      split <;> simp [hx]
    exact pfaEnd_canon hd
  · exact pfaCheck_canon hx

/-! Redo -/

@[simp] theorem redo_canon {s r v} (h : Canon s) : Canon (redo s r v) := by
  simp only [redo]
  (repeat' split) <;> simp [h]

@[simp] theorem execRcacheFetchComplete_canon {sx capo rid s} (h : Canon s) : CanonOut (execRcacheFetchComplete sx capo rid s) := by
  simp only [execRcacheFetchComplete, canonOut_next]
  split
  · refine (foldl_canon _ _ (h.same ?_) fun t w ht => ?_).same (fetchNext_sameMem _ _)
    · simp
    · have hl : ∀ {x}, lookup t (partyOf w.2.2.2) w.2.2.1 w.2.2.2 = x → Canon x.state := fun e => ht.same (e ▸ lookup_sameMem _ _ _ _)
      split
      · next e => exact hl e
      · next e => exact settle_canon (hl e)
      · next e => exact redo_canon (hl e)
  · exact h

@[simp] theorem reRead_canon {s} (h : Canon s) : Canon (reRead s) := foldl_canon _ _ h fun _ _ ht => redo_canon ht

theorem foldl_afterDone_canon {w l s} (h : Canon s) : Canon (List.foldl (fun s (r : Req) => afterDone s w r) s l) :=
  foldl_canon _ _ h fun _ _ ht => afterDone_canon ht

@[simp] theorem confirmed_canon {s qs} (h : Canon s) : Canon (confirmed s qs) := by
  simp only [confirmed]
  refine reRead_canon ((foldl_afterDone_canon ?_).same (foldl_sameMem _ _ _ fun _ _ => ?_)) <;> simp [h]

/-! Course -/

@[simp] theorem takeWindow_canon {s r} (h : Canon s) : Canon (takeWindow s r) := by
  simp only [takeWindow]
  (repeat' split) <;> simp [h]

@[simp] theorem takeRec_canon {s a1} (h : Canon s) : Canon (takeRec s a1) := by
  simp only [takeRec]
  (repeat' split) <;> simp [h]

theorem foldl_homeWrite_canon {l s} (h : Canon s) : Canon (List.foldl (fun s (w : Nat × List Byte) => homeWrite s w.1 w.2 false) s l) :=
  foldl_canon _ _ h fun _ _ ht => homeWrite_canon ht

@[simp] theorem takeFinal_canon {s wid epoch ws poisoned dups} (h : Canon s) : Canon (takeFinal s wid epoch ws poisoned dups) := by
  have hw := foldl_homeWrite_canon (l := ws) h
  simp only [takeFinal]
  (repeat' split) <;> simp [hw]

theorem takeMirror_canon {s mseq f} (h : Canon s) (hf : ∀ t, Canon t → Canon (f t)) : Canon (takeMirror s mseq f) := by
  unfold takeMirror
  split
  · exact (hf s h).same (confirmTwin_sameMem _ _)
  · exact h

@[simp] theorem execMwrite_canon {mseq key bytes poison dup s} (h : Canon s) : CanonOut (execMwrite mseq key bytes poison dup s) :=
  takeMirror_canon h fun _ ht => by cases dup <;> simp [ht]

@[simp] theorem execMstate_canon {mseq r s} (h : Canon s) : CanonOut (execMstate mseq r s) := takeMirror_canon h fun _ ht => takeRec_canon ht

@[simp] theorem execMfinal_canon {mseq m s} (h : Canon s) : CanonOut (execMfinal mseq m s) := by
  unfold execMfinal
  split
  · exact takeMirror_canon h fun _ ht => takeFinal_canon ht
  · exact h

@[simp] theorem takeItem_canon {s a1} (h : Canon s) : Canon (takeItem s a1) := by
  simp only [takeItem]
  (repeat' split) <;> simp [h]

@[simp] theorem execMcopy_canon {mseq i s} (h : Canon s) : CanonOut (execMcopy mseq i s) := by
  simp only [execMcopy, canonOut_next]
  (repeat' split) <;> simp [h]

@[simp] theorem execMconfirm_canon {mseqs s} (h : Canon s) : CanonOut (execMconfirm mseqs s) := by
  simp [execMconfirm, h]

@[simp] theorem takeFinals_canon {s} (h : Canon s) : Canon (takeFinals s) := by
  refine foldl_canon _ _ (h.same ?_) fun _ _ ht => settleFinals_canon ht
  simp

theorem foldl_drainCheck_canon {l s} (h : Canon s) : Canon (List.foldl (fun s (d : Drain) => drainCheck s { d with twinDone := true }) s l) :=
  foldl_canon _ _ h fun _ _ ht => drainCheck_canon ht

@[simp] theorem takeHalf_canon {s} (h : Canon s) : Canon (takeHalf s) := by
  unfold takeHalf
  extract_lets t u ps u1 u2
  have hu : SameMem t u := foldl_sameMem _ _ _ fun _ _ => by simp only; (repeat' split) <;> simp
  exact foldl_drainCheck_canon ((takeFinals_canon h).same hu)

@[simp] theorem twinLost_canon {s} (h : Canon s) : Canon (twinLost s) := by
  simp only [twinLost]
  (repeat' split) <;> simp [h]

@[simp] theorem heartbeat_canon {s b} (h : Canon s) : Canon (heartbeat s b) := by
  simp only [heartbeat]
  (repeat' split) <;> simp [h]

@[simp] theorem execHeartbeat_canon {sp b s} (h : Canon s) : CanonOut (execHeartbeat sp b s) := by
  simp only [execHeartbeat, canonOut_next]
  split <;> simp [h]

@[simp] theorem execHeartbeatMiss_canon {s} (h : Canon s) : CanonOut (execHeartbeatMiss s) := by
  simp only [execHeartbeatMiss, canonOut_next]
  (repeat' split) <;> simp [h]

/-! Stream -/

@[simp] theorem takePend_canon {s n w} (h : Canon s) : Canon (takePend s n w) := by
  simp only [takePend]
  (repeat' split) <;> simp [h]

@[simp] theorem settleSteps_canon {c n k s} (h : Canon s) : Canon (settleSteps c n k s) := by
  induction k generalizing s with
  | zero => exact h
  | succ k ih =>
    simp only [settleSteps]
    split
    · split
      · exact ih (by simp [h])
      · exact h
    · exact h

@[simp] theorem settleTile_canon {s c n} (h : Canon s) : Canon (settleTile s c n) := by
  simp only [settleTile]
  (repeat' split) <;> simp [h]

@[simp] theorem atCycle_canon {s c} (h : Canon s) : Canon (atCycle s c) := foldl_canon _ _ h fun _ _ ht => settleTile_canon ht

@[simp] theorem reachIssue_canon {s pc lost} (h : Canon s) : Canon (reachIssue s pc lost) := by
  simp only [reachIssue]
  (repeat' split) <;> simp [h]

theorem control_canon {s f} (h : Canon s) (hf : ∀ t, SameMem t (f t).1) : Canon (control s f) := by
  unfold control
  split
  · exact reachIssue_canon ((h.same (bundleIssued_sameMem s)).same (hf _))
  · exact h

@[simp] theorem execNext_canon {s} (h : Canon s) : CanonOut (execNext s) := control_canon h fun _ => by simp

@[simp] theorem execBr_canon {tgt s} (h : Canon s) : CanonOut (execBr tgt s) := control_canon h fun _ => by simp

@[simp] theorem execBrc_canon {we tgt s} (h : Canon s) : CanonOut (execBrc we tgt s) := control_canon h fun _ => by simp

@[simp] theorem execBrnc_canon {we tgt s} (h : Canon s) : CanonOut (execBrnc we tgt s) := control_canon h fun _ => by simp

@[simp] theorem execLoop_canon {lc imm s} (h : Canon s) : CanonOut (execLoop lc imm s) := control_canon h fun _ => by simp

@[simp] theorem execEndl_canon {lc tgt s} (h : Canon s) : CanonOut (execEndl lc tgt s) :=
  control_canon h fun _ => by simp only; (repeat' split) <;> simp

@[simp] theorem execCall_canon {tgt s} (h : Canon s) : CanonOut (execCall tgt s) := control_canon h fun _ => by simp only; (repeat' split) <;> simp

@[simp] theorem execRet_canon {s} (h : Canon s) : CanonOut (execRet s) := control_canon h fun _ => by simp only; (repeat' split) <;> simp

@[simp] theorem execWrst_canon {we s} (h : Canon s) : CanonOut (execWrst we s) := control_canon h fun _ => by simp

@[simp] theorem issueFrom_canon {s c k} (h : Canon s) : Canon (issueFrom s c k) := by simp [issueFrom, h]

@[simp] theorem execWaitRelease_canon {we cycle s} (h : Canon s) : CanonOut (execWaitRelease we cycle s) := by
  simp only [execWaitRelease, canonOut_next]
  (repeat' split) <;> simp [h]

@[simp] theorem grantSegment_canon {s seg duty g} (h : Canon s) : Canon (grantSegment s seg duty g) := by
  simp [grantSegment, h]

@[simp] theorem execEchk_canon {seg s} (h : Canon s) : CanonOut (execEchk seg s) := by
  simp only [execEchk, canonOut_next]
  (repeat' split) <;> simp [h]

/-! Mover -/

@[simp] theorem moverDone_canon {s n e opid scr c} (h : Canon s) : Canon (moverDone s n e opid scr c) := by
  simp only [moverDone]
  (repeat' split) <;> simp [h]

/-! SmallCore -/

theorem coreStep_canon {s t c f} (h : Canon s) (hf : ∀ u x, Canon u → Canon (f u x)) : Canon (coreStep s t c f) := by
  unfold coreStep
  simp only
  split
  · exact h
  split
  · exact h
  split
  · simp [h]
  · exact hf _ _ h

@[simp] theorem execScSt_canon {t c rd ra imm s} (h : Canon s) : CanonOut (execScSt t c rd ra imm s) :=
  coreStep_canon h fun _ _ hu => by simp only; split <;> simp [hu]

@[simp] theorem execScTransferEnd_canon {t c s} (h : Canon s) : CanonOut (execScTransferEnd t c s) := by
  simp only [execScTransferEnd, canonOut_next]
  (repeat' split) <;> simp [h]

/-! MemoryTiers -/

@[simp] theorem zeroPage_canon {s t p} (h : Canon s) : Canon (zeroPage s t p) := by simp [zeroPage, h, Memory.wf_zero]

@[simp] theorem execPageScrub_canon {target page s} (h : Canon s) : CanonOut (execPageScrub target page s) := by
  simp only [execPageScrub, canonOut_next]
  (repeat' split) <;> simp [h]

/-! Power -/

@[simp] theorem pdOnAct_canon {s n} (h : Canon s) : Canon (pdOnAct s n) := by
  simp only [pdOnAct]
  (repeat' split) <;> simp [h, Memory.wf_zero]

theorem pdRequest_canon {s n on t} (h : Canon s) (e : pdRequest s n on = some t) : Canon t := by
  simp only [pdRequest] at e
  (repeat' split at e) <;> cases e <;> simp [h]

@[simp] theorem coldStart_canon {s cause} (h : Canon s) : Canon (coldStart s cause) := by
  obtain ⟨-, -, hb⟩ := h.same (fuseCut_sameMem s)
  exact ⟨rfl, rfl, hb⟩

@[simp] theorem warmStart_canon {s cause} (h : Canon s) : Canon (warmStart s cause) := by
  obtain ⟨-, -, hb⟩ := h
  exact ⟨rfl, rfl, hb⟩

@[simp] theorem warmNow_canon {s} (h : Canon s) : Canon (warmNow s) := by simp [warmNow, h]

@[simp] theorem rilashWarm_canon {s} (h : Canon s) : Canon (rilashWarm s) := by
  simp only [rilashWarm]
  (repeat' split) <;> simp [h]

@[simp] theorem execPdFault_canon {pd s} (h : Canon s) : CanonOut (execPdFault pd s) := by simp [execPdFault, h]

@[simp] theorem execPowerOnReset_canon {rstLow s} (h : Canon s) : CanonOut (execPowerOnReset rstLow s) := by
  simp [execPowerOnReset, h]

@[simp] theorem execColdReset_canon {lowNs s} (h : Canon s) : CanonOut (execColdReset lowNs s) := by
  simp only [execColdReset, canonOut_next]
  (repeat' split) <;> simp [h]

@[simp] theorem powerFail_canon {s} (h : Canon s) : Canon (powerFail s) := by simp [powerFail, h]

@[simp] theorem execPowerFail_canon {s} (h : Canon s) : CanonOut (execPowerFail s) := by simp [execPowerFail, h]

@[simp] theorem execRailFault_canon {rail s} (h : Canon s) : CanonOut (execRailFault rail s) := by
  simp only [execRailFault, canonOut_next]
  (repeat' split) <;> simp [h]

/-! Admission -/

theorem foldl_scratchWrite_canon {α : Type} {k : α → Nat} {bs : α → List Byte} {l : List α} {s} (h : Canon s) :
    Canon (l.foldl (fun s x => scratchWrite s (k x) (bs x) false) s) :=
  foldl_canon _ _ h fun _ _ ht => scratchWrite_canon ht

@[simp] theorem loadTile_canon {a s t} (h : Canon s) : Canon (loadTile a s t) :=
  foldl_scratchWrite_canon (foldl_canon _ _ (h.same (by simp)) fun _ _ ht => foldl_scratchWrite_canon ht)

@[simp] theorem startStream_canon {s a} (h : Canon s) : Canon (startStream s a) := by
  have hl : Canon (a.tiles.foldl (loadTile a) (setAdm s false none)) := foldl_canon _ _ (by simp [h]) fun _ _ ht => loadTile_canon ht
  exact hl.same (by simp [startStream])

@[simp] theorem tryStart_canon {s} (h : Canon s) : Canon (tryStart s) := by
  simp only [tryStart]
  (repeat' split) <;> simp [h]

@[simp] theorem execStreamStart_canon {s} (h : Canon s) : CanonOut (execStreamStart s) := by simp [execStreamStart, h]

@[simp] theorem streamOver_canon {s} (h : Canon s) : Canon (streamOver s) := by
  have hl : Canon (s.str.tiles.foldl (fun s n => settleTile s (2 ^ 64) n) s) := foldl_canon _ _ h fun _ _ ht => settleTile_canon ht
  exact hl.same (by simp [streamOver])

@[simp] theorem execStreamEnd_canon {s} (h : Canon s) : CanonOut (execStreamEnd s) := by
  simp only [execStreamEnd, canonOut_next]
  (repeat' split) <;> simp [h]

@[simp] theorem execRtSlotBoundary_canon {s} (h : Canon s) : CanonOut (execRtSlotBoundary s) := by
  simp only [execRtSlotBoundary, canonOut_next]
  (repeat' split) <;> simp [h]

/-! Collect -/

@[simp] theorem collFail_canon {s g r req c} (h : Canon s) : Canon (collFail s g r req c) := by
  simp only [collFail]
  (repeat' split) <;> simp [h]

@[simp] theorem collLand_canon {s r chunk c} (h : Canon s) : Canon (collLand s r chunk c) := by simp [collLand, h]

@[simp] theorem collDone_canon {s g load chunk req c} (h : Canon s) : Canon (collDone s g load chunk req c) := by
  simp only [collDone]
  (repeat' split) <;> simp [h]

/-! BrolaPort -/

@[simp] theorem invFinish_canon {s i} (h : Canon s) : Canon (invFinish s i) := by
  simp only [invFinish]
  (repeat' split) <;> simp [h]

theorem invStep_canon {s t} (h : Canon s) (e : invStep s = some t) : Canon t := by
  unfold invStep at e
  split at e
  · cases e
    exact invFinish_canon h
  split at e
  · obtain ⟨i, -, rfl⟩ := Option.map_eq_some_iff.1 e
    simp [h]
  · cases e

@[simp] theorem invGo_canon {k s} (h : Canon s) : Canon (invGo k s) := by
  induction k generalizing s with
  | zero => exact h
  | succ k ih =>
    simp only [invGo]
    split
    · next e => exact ih (invStep_canon h e)
    · exact h

@[simp] theorem invSettle_canon {s} (h : Canon s) : Canon (invSettle s) := by simp [invSettle, h]

@[simp] theorem execAtsInvalidationComplete_canon {tag s} (h : Canon s) : CanonOut (execAtsInvalidationComplete tag s) := by
  simp only [execAtsInvalidationComplete, canonOut_next]
  (repeat' split) <;> simp [h]

@[simp] theorem execDiscardAck_canon {id s} (h : Canon s) : CanonOut (execDiscardAck id s) := by
  simp only [execDiscardAck, canonOut_next]
  (repeat' split) <;> simp [h]

/-! Programs -/

theorem withCtl_canon {s f} (h : Canon s) (hf : ∀ t c, Canon t → Canon (f t c)) : Canon (withCtl s f) := by
  unfold withCtl
  split
  · exact h
  split
  · exact h
  · exact hf _ _ h

theorem domainOnly_canon {s f} (h : Canon s) (hf : ∀ t c, Canon t → Canon (f t c)) : Canon (domainOnly s f) :=
  withCtl_canon h fun t c ht => by
    split
    · exact hf t c ht
    · simp [ht]

@[simp] theorem execPdreq_canon {pd on s} (h : Canon s) : CanonOut (execPdreq pd on s) :=
  domainOnly_canon h fun t c ht => by
    split
    · simp [ht]
    split
    · simp [ht]
    split
    · simp [ht]
    · next e =>
      extract_lets st u
      have hu : Canon u := by
        simp only [u]
        split <;> simp [pdRequest_canon ht e]
      split
      · simp [hu]
      · exact hu

/-! Complete -/

@[simp] theorem mcastDone_canon {s id pos c} (h : Canon s) : Canon (mcastDone s id pos c) := by
  simp only [mcastDone]
  (repeat' split) <;> simp [h]

@[simp] theorem ownerDone_canon {s w o c} (h : Canon s) : Canon (ownerDone s w o c) := by
  simp only [ownerDone]
  (repeat' split) <;> simp [h]

@[simp] theorem finishOut_canon {s w o c} (h : Canon s) : Canon (finishOut s w o c) := by
  simp only [finishOut]
  (repeat' split) <;> simp [h]

theorem twinHalf_canon {s c t} (h : Canon s) (e : twinHalf s c = some t) : Canon t := by
  simp only [twinHalf] at e
  split at e
  · obtain ⟨d, -, rfl⟩ := Option.map_eq_some_iff.1 e
    simp [h]
  split at e
  · obtain ⟨p, -, rfl⟩ := Option.map_eq_some_iff.1 e
    split <;> simp [h]
  · cases e

@[simp] theorem takeCmp_canon {s w o c} (h : Canon s) : Canon (takeCmp s w o c) := by
  simp only [takeCmp]
  (repeat' split) <;> simp [h]

@[simp] theorem execCmp_canon {w b c hcrc s} (h : Canon s) : CanonOut (execCmp w b c hcrc s) := by
  simp only [execCmp, canonOut_next]
  split
  · split <;> simp [h]
  split
  · next e =>
    split at e
    · exact twinHalf_canon h e
    · cases e
  · split <;> simp [h]

@[simp] theorem expire_canon {s w o} (h : Canon s) : Canon (expire s w o) := by
  simp only [expire]
  (repeat' split) <;> simp [h]

@[simp] theorem execCompletionTimeout_canon {w id s} (h : Canon s) : CanonOut (execCompletionTimeout w id s) := by
  simp only [execCompletionTimeout, canonOut_next]
  (repeat' split) <;> simp [h]

@[simp] theorem resendLost_canon {s o} (h : Canon s) : Canon (resendLost s o) := by
  simp only [resendLost]
  (repeat' split) <;> simp [h]

@[simp] theorem execRequestRelease_canon {id s} (h : Canon s) : CanonOut (execRequestRelease id s) := by
  simp only [execRequestRelease, canonOut_next]
  (repeat' split) <;> simp [h]

@[simp] theorem execFinalHoldTimeout_canon {w src tc seq s} (h : Canon s) : CanonOut (execFinalHoldTimeout w src tc seq s) := by
  simp only [execFinalHoldTimeout, canonOut_next]
  (repeat' split) <;> simp [h]

/-! Energy -/

@[simp] theorem execThermalSample_canon {temps s} (h : Canon s) : CanonOut (execThermalSample temps s) := by
  simp only [execThermalSample, canonOut_next]
  (repeat' split) <;> simp [h]

@[simp] theorem pendingCheckpoint_canon {s} (h : Canon s) : Canon (pendingCheckpoint s) := by
  simp only [pendingCheckpoint]
  (repeat' split) <;> simp [h]

@[simp] theorem execLedgerEpoch_canon {pdUj streamUj ballastUj temps s} (h : Canon s) :
    CanonOut (execLedgerEpoch pdUj streamUj ballastUj temps s) := by
  simp only [execLedgerEpoch, canonOut_next]
  (repeat' split) <;> simp [h]

/-! Frames -/

@[simp] theorem execSteer_canon {b course lostB s} (h : Canon s) : CanonOut (execSteer b course lostB s) :=
  foldl_canon _ _ h fun _ _ ht => by split <;> simp [ht]

/-! Fuses -/

@[simp] theorem execFuseProgramDone_canon {odd s} (h : Canon s) : CanonOut (execFuseProgramDone odd s) := by
  simp only [execFuseProgramDone, canonOut_next]
  (repeat' split) <;> simp [h]

/-! Startup -/

@[simp] theorem domainsOn_canon {s} (h : Canon s) : Canon (domainsOn s) :=
  foldl_canon _ _ h fun _ _ ht => by split <;> simp [ht]

@[simp] theorem execSelftestStart_canon {dimms s} (h : Canon s) : CanonOut (execSelftestStart dimms s) := by
  simp only [execSelftestStart, canonOut_next]
  (repeat' split) <;> simp [h]

/-! Ports -/

@[simp] theorem resetWarm_canon {s} (h : Canon s) : Canon (resetWarm s) := by
  simp only [resetWarm]
  (repeat' split) <;> simp [h]

@[simp] theorem writeReset_canon {s p v} (h : Canon s) : Canon (writeReset s p v) := by
  simp only [writeReset]
  (repeat' split) <;> simp [h]

@[simp] theorem putReg_canon {s p addr v} (h : Canon s) : Canon (putReg s p addr v) := by
  simp only [putReg]
  (repeat' split) <;> simp [h]

@[simp] theorem writeAt_canon {s p addr v} (h : Canon s) : Canon (writeAt s p addr v).1 := by
  simp only [writeAt]
  (repeat' split) <;> simp [h]

@[simp] theorem execRegisterWrite_canon {p addr data s} (h : Canon s) : CanonOut (execRegisterWrite p addr data s) := by
  simp [execRegisterWrite, h]

theorem access_canon {s p may f} (h : Canon s) (hf : ∀ t, Canon t → Canon (f t)) : Canon (access s p may f) := by
  unfold access
  split
  · exact h
  split
  · exact hf s h
  · simp [h]

@[simp] theorem execWarm_canon {p key s} (h : Canon s) : CanonOut (execWarm p key s) := access_canon h fun _ ht => resetWarm_canon ht

@[simp] theorem execSpiWrite_canon {edges addr data crcOk ready s} (h : Canon s) : CanonOut (execSpiWrite edges addr data crcOk ready s) := by
  simp only [execSpiWrite, canonOut_next]
  (repeat' split) <;> simp [h]

@[simp] theorem writeAll_canon {p l s} (h : Canon s) : Canon (writeAll p l s).1 := by
  induction l generalizing s with
  | nil => exact h
  | cons x t ih => exact ih (writeAt_canon h)

@[simp] theorem execMctpWrite_canon {sess addr ws s} (h : Canon s) : CanonOut (execMctpWrite sess addr ws s) := by
  simp only [execMctpWrite, canonOut_next]
  (repeat' split) <;> simp [h]

/-! The commands. -/

theorem Leaves.canonOut {s : State} {o : Res} (hl : Leaves s o) (h : Canon s) : CanonOut o := by
  cases o with
  | next t => exact h.same hl
  | fault _ => trivial
  | refused _ => trivial

/-- The commands in whose course a memory may be written. -/
def changesMemory : Instr → Bool
  | .ld .. | .st .. | .aadd .. | .aand .. | .aor .. | .axor .. | .aswap .. | .acas .. | .amax .. | .amin .. | .fadd32 .. | .faddb16 ..
  | .rst .. | .rstx .. | .mst .. | .fset .. | .fclr .. | .ftest .. | .barr .. | .cpyd .. | .invLeafLines .. | .invTranslation .. | .invRegionCache ..
  | .invDrainComplete .. | .pfaFetch .. | .pfaZero .. | .pfaScrub .. | .pfaComplete .. | .cmp .. | .finalHoldTimeout .. | .completionTimeout ..
  | .requestRelease .. | .atsInvalidationComplete .. | .discardAck .. | .steer .. | .windowFinalised .. | .barrierTimeout .. | .waitRelease ..
  | .echk .. | .next | .br .. | .brc .. | .brnc .. | .loop .. | .endl .. | .call .. | .ret | .wrst .. | .streamEnd | .scSt .. | .scTransferEnd ..
  | .streamStart | .pdreq .. | .rtSlotBoundary | .rcacheFetchComplete .. | .pageScrub .. | .heartbeat .. | .heartbeatMiss | .mwrite .. | .mstate ..
  | .mfinal .. | .mconfirm .. | .mcopy .. | .selftestStart .. | .ledgerEpoch .. | .thermalSample .. | .pdFault .. | .powerOnReset .. | .coldReset ..
  | .powerFail | .railFault .. | .fuseProgramDone .. | .registerWrite .. | .warm .. | .spiWrite .. | .mctpWrite .. => true
  | _ => false

theorem exec_leaves {c : Instr} (hc : changesMemory c = false) (s : State) : Leaves s (exec c s) := by
  cases c <;> simp_all [exec, changesMemory]

theorem exec_canon {c : Instr} (hc : changesMemory c = true) {s : State} (h : Canon s) : CanonOut (exec c s) := by
  cases c <;> simp_all [exec, changesMemory]

theorem exec_keepsCanon (c : Instr) {s : State} (h : Canon s) : CanonOut (exec c s) := by
  cases hc : changesMemory c with
  | false => exact (exec_leaves hc s).canonOut h
  | true => exact exec_canon hc h

theorem step_keepsCanon {s : State} (h : Canon s) : CanonOut (step s) := by
  unfold step
  split
  · exact h.same (tick_sameMem s)
  · exact exec_keepsCanon _ h

end Sys2Proof.Machine

open Sys2Proof Sys2Proof.Machine

/-- Settles O60: a step runs one command or one tick; a command that writes no memory leaves the form alone, and each of the
others writes by operations that keep it. -/
theorem memoryCanonicalKept : Obligations.MemoryCanonicalKept := by
  intro s t hs hstep
  have h := step_keepsCanon (s := s) hs
  rwa [hstep] at h

end

section
/-! SUPPORT. An INV_DRAIN_COMPLETE that sends no completion of its own, against the third part of O28. -/

namespace Sys2Proof.Machine

open Sys2Proof

/-- An INV of SCOPE 0b10 that drains, come through Brola 0, of source, traffic class and SEQ 0. -/
def brolaDrain : Drain := { r := { op := 0x3C, attr := 2 }, v := .brola 0 }

/-- A store with FINAL of that same identity, held at the Brola with every earlier request done. -/
def brolaFinal : HeldFinal := { r := { op := 2, final := true }, v := .brola 0, arrived := 0 }

/-- The state in which both stand: the responder of the Brola, not of the Kojor, answers for the drain. -/
def drainBesideFinal : State := { mem := { drains := [brolaDrain] }, brola := { resp := { finals := [brolaFinal] } } }

/-- The drain is the first, no FINAL of the Kojor waits for it, nothing keeps it busy, and no twin takes part. -/
theorem drainBesideFinal_mayEnd : drainBesideFinal.mem.drains = [brolaDrain]
    ∧ oldestFinal drainBesideFinal .kojor brolaDrain.r.src brolaDrain.r.epoch = none ∧ drainBusy drainBesideFinal brolaDrain.r = false
    ∧ drainBesideFinal.course.twinUp = false ∧ opIdem brolaDrain.r.op = true := by decide +kernel

/-- The held FINAL becomes due as the drain ends, its entry takes the drain's place, and the INV's own completion is never sent. -/
theorem drainBesideFinal_unanswered {u : State}
    (h : exec (.invDrainComplete brolaDrain.r.src brolaDrain.r.tc brolaDrain.r.seq) drainBesideFinal = .next u) :
    Out.cmp (cmpOf brolaDrain.r (mySrc drainBesideFinal) .ok) ∉ u.out := by
  have hu : (after (.invDrainComplete brolaDrain.r.src brolaDrain.r.tc brolaDrain.r.seq) drainBesideFinal).out = u.out := by rw [after, h]
  rw [← hu]
  decide +kernel

end Sys2Proof.Machine

open Sys2Proof Sys2Proof.Machine

/-- Refutes O28: its third part does not ask that the drain came by a path of the Kojor. One that came through a Brola is settled
by the Brola's responder, where a held FINAL of the same identity can take its place: then no completion of the INV is sent. -/
theorem not_invalidatesAndPagesAhead : ¬ Obligations.InvalidatesAndPagesAhead := by
  rintro ⟨-, -, hdrain, -⟩
  obtain ⟨hd, hf, hb, hup, hi⟩ := drainBesideFinal_mayEnd
  obtain ⟨-, hdone⟩ := hdrain drainBesideFinal brolaDrain [] hd hf
  obtain ⟨u, hu, hout, -⟩ := hdone hb hup hi
  exact drainBesideFinal_unanswered hu hout

end

section
/-! SUPPORT. A request that the Kojor answers at once: its running entry comes and goes, and its completion is sent (R70, R71). -/

namespace Sys2Proof.Machine

open Sys2Proof

/-! The running entries of a responder. -/

theorem sameReq_self (r : Req) : sameReq r r = true := by simp [sameReq]

@[simp] theorem respOf_setResp (s : State) (w : Party) (p : Resp) : respOf (setResp s w p) w = p := by cases w <;> rfl

@[simp] theorem setResp_setResp (s : State) (w : Party) (p q : Resp) : setResp (setResp s w p) w q = setResp s w q := by cases w <;> rfl

@[simp] theorem setResp_respOf (s : State) (w : Party) : setResp s w (respOf s w) = s := by cases w <;> rfl

/-- No request of this identity executes: so none of the entries is of it. -/
theorem any_running_of_findRunning {s : State} {w : Party} {r : Req} (h : findRunning s w r = none) :
    (respOf s w).running.any (fun y => sameReq y.r r) = false := by
  simpa [findRunning, List.find?_eq_none] using h

theorem setRunning_new {s : State} {w : Party} {x : Running} (h : findRunning s w x.r = none) :
    setRunning s w x = setResp s w { respOf s w with running := (respOf s w).running ++ [x] } := by
  simp [setRunning, any_running_of_findRunning h]

theorem findRunning_setRunning_new {s : State} {w : Party} {x : Running} (h : findRunning s w x.r = none) :
    findRunning (setRunning s w x) w x.r = some x := by
  unfold findRunning at h
  simp [setRunning_new h, findRunning, List.find?_append, h, sameReq_self]

theorem dropFirst_append_last {α : Type} {p : α → Bool} {l : List α} {a : α} (hl : l.any p = false) (ha : p a = true) :
    dropFirst p (l ++ [a]) = l := by
  induction l with
  | nil => simp [dropFirst, ha]
  | cons b t ih =>
    obtain ⟨hb, ht⟩ : p b = false ∧ t.any p = false := by simpa using hl
    simp [dropFirst, hb, ih ht]

theorem replaceFirst_append_last {α : Type} {p : α → Bool} {f : α → α} {l : List α} {a : α} (hl : l.any p = false) (ha : p a = true) :
    replaceFirst p f (l ++ [a]) = l ++ [f a] := by
  induction l with
  | nil => simp [replaceFirst, ha]
  | cons b t ih =>
    obtain ⟨hb, ht⟩ : p b = false ∧ t.any p = false := by simpa using hl
    simp [replaceFirst, hb, ih ht]

theorem dropRunning_setRunning_new {s : State} {w : Party} {x : Running} (h : findRunning s w x.r = none) :
    dropRunning (setRunning s w x) w x.r = s := by
  rw [setRunning_new h]
  simp only [dropRunning, respOf_setResp, setResp_setResp, dropFirst_append_last (any_running_of_findRunning h) (sameReq_self x.r)]
  exact setResp_respOf s w

/-- A new entry written over by another of the same request stands as that other. -/
theorem setRunning_setRunning_new {s : State} {w : Party} {x y : Running} (h : findRunning s w x.r = none) (hr : y.r = x.r) :
    setRunning (setRunning s w x) w y = setRunning s w y := by
  have hy : findRunning s w y.r = none := hr ▸ h
  rw [setRunning_new hy, setRunning_new h]
  simp [setRunning, hr, sameReq_self, replaceFirst_append_last (any_running_of_findRunning h)]

/-! What is left undisturbed. -/

/-- Between the two states the requests that execute or are held, the course, the identity of this Kojor, its strings, what has been
sent, the programs, the Brola and, but for its samples of the waits, the stream are the same. -/
@[reducible, simp] def Undisturbed (s t : State) : Prop :=
  t.resp.running = s.resp.running ∧ t.resp.finals = s.resp.finals ∧ t.course = s.course ∧ t.disc = s.disc ∧ t.links = s.links
    ∧ t.out = s.out ∧ t.prog = s.prog ∧ t.brola = s.brola ∧ t.str = { s.str with waits := t.str.waits }

theorem Undisturbed.refl (s : State) : Undisturbed s s := by simp

theorem Undisturbed.trans {s t u : State} (h : Undisturbed s t) (h' : Undisturbed t u) : Undisturbed s u := by
  obtain ⟨h1, h2, h3, h4, h5, h6, h7, h8, hstr⟩ := h
  obtain ⟨g1, g2, g3, g4, g5, g6, g7, g8, gstr⟩ := h'
  refine ⟨g1.trans h1, g2.trans h2, g3.trans h3, g4.trans h4, g5.trans h5, g6.trans h6, g7.trans h7, g8.trans h8, ?_⟩
  rw [gstr, hstr]

theorem Undisturbed.emit {s t : State} (h : Undisturbed s t) (o : Out) : Undisturbed (emit s o) (emit t o) := by
  obtain ⟨hrun, hfin, hcourse, hdisc, hlinks, hout, hrest⟩ := h
  exact ⟨hrun, hfin, hcourse, hdisc, hlinks, by simp [Machine.emit, hout], hrest⟩

theorem Undisturbed.running {s t : State} (h : Undisturbed s t) : t.resp.running = s.resp.running := h.1

theorem Undisturbed.finals {s t : State} (h : Undisturbed s t) : t.resp.finals = s.resp.finals := h.2.1

theorem Undisturbed.course {s t : State} (h : Undisturbed s t) : t.course = s.course := h.2.2.1

theorem Undisturbed.mySrc {s t : State} (h : Undisturbed s t) : mySrc t = mySrc s := by simp [Machine.mySrc, site, h.2.2.2.1]

theorem Undisturbed.isMine {s t : State} (h : Undisturbed s t) (off : Nat) : isMine t off = isMine s off := by
  simp [Machine.isMine, site, h.2.2.2.1]

theorem Undisturbed.links {s t : State} (h : Undisturbed s t) : t.links = s.links := h.2.2.2.2.1

theorem Undisturbed.out {s t : State} (h : Undisturbed s t) : t.out = s.out := h.2.2.2.2.2.1

theorem foldl_undisturbed {α : Type} {f : State → α → State} (h : ∀ s a, Undisturbed s (f s a)) (l : List α) (s : State) :
    Undisturbed s (l.foldl f s) := by
  induction l generalizing s with
  | nil => exact Undisturbed.refl s
  | cons a t ih => exact (h s a).trans (ih _)

@[simp] theorem scroll_out (s : State) (cls : Nat) (ev : ScrollEv) (site : Nat) (args : List Nat) (capo : Option Nat) :
    (scroll s cls ev site args capo).out = s.out := by
  simp only [scroll, scrollEntry, Bool.false_eq_true, if_false]
  split <;> rfl

theorem memUncorr_undisturbed (s k) : Undisturbed s (memUncorr s k) := by
  simp only [memUncorr]
  (repeat' split) <;> simp

theorem countBytes_undisturbed (s k n wr) : Undisturbed s (countBytes s k n wr) := by
  simp only [countBytes]
  (repeat' split) <;> simp

theorem countPoison_undisturbed (s k) : Undisturbed s (countPoison s k) := by
  simp only [countPoison]
  split <;> simp

theorem foldl_memUncorr_undisturbed (l : List Nat) (s : State) : Undisturbed s (l.foldl (fun s w => memUncorr s (w * 8)) s) :=
  foldl_undisturbed (fun _ _ => memUncorr_undisturbed _ _) l s

/-- A write of a memory's part of the state disturbs nothing else. -/
theorem Undisturbed.withMem {s t : State} (h : Undisturbed s t) (m : Mem) : Undisturbed s { t with mem := m } := h

theorem physFind_undisturbed (s : State) (k n : Nat) : Undisturbed s (physFind s k n) :=
  (foldl_memUncorr_undisturbed _ s).withMem _

theorem physWrite_undisturbed (s : State) (k : Nat) (bs : List Byte) (poison : Bool) : Undisturbed s (physWrite s k bs poison) :=
  ((foldl_memUncorr_undisturbed _ s).trans (countBytes_undisturbed _ _ _ _)).withMem _

theorem physPoke_undisturbed (s : State) (k : Nat) (bs : List Byte) : Undisturbed s (physPoke s k bs) :=
  (countBytes_undisturbed _ _ _ _).withMem _

theorem setCount_undisturbed (s : State) (src epoch : Nat) (c : CountSlot) : Undisturbed s (setCount s .kojor src epoch c) := by
  simp [setCount, setResp, respOf]

theorem takeCount_undisturbed (s : State) (r : Req) : Undisturbed s (takeCount s .kojor r).1 := by
  simp only [takeCount]
  split
  · exact Undisturbed.refl s
  · split
    · exact Undisturbed.refl s
    · exact setCount_undisturbed s _ _ _

theorem dupEvicted_undisturbed (s : State) (e : DupEntry) : Undisturbed s (dupEvicted s .kojor e) := by
  simp only [dupEvicted]
  split <;> simp

theorem addDup_undisturbed (s : State) (e : DupEntry) : Undisturbed s (addDup s .kojor e) := by
  have hset : ∀ l, Undisturbed s (setResp s .kojor { respOf s .kojor with dups := l }) := fun _ => by simp [setResp, respOf]
  simp only [addDup]
  split
  · cases (respOf s .kojor).dups.find? fun x => x.src == e.src with
    | none => exact hset _
    | some old => exact (hset _).trans (dupEvicted_undisturbed _ _)
  · simp [setResp, respOf]

/-! No twin to tell. -/

/-- There is no twin that serves and none that is away with changes to keep for it: nothing of a change is told or kept. -/
def noTwin (s : State) : Prop := mirrorOn s = false ∧ s.course.alone = false

theorem noTwin.of_course {s t : State} (h : noTwin s) (hc : t.course = s.course) : noTwin t := by
  obtain ⟨hm, ha⟩ := h
  exact ⟨by rw [mirrorOn, hc]; exact hm, by rw [hc]; exact ha⟩

theorem mirrorChange_noTwin {s : State} (h : noTwin s) (sx key capo : Nat) (b : MirrorBody) : mirrorChange s sx key capo b = (s, []) := by
  obtain ⟨hm, ha⟩ := h
  simp [mirrorChange, hm, ha]

theorem mirrorAll_noTwin {s : State} (h : noTwin s) (sx capo : Nat) (l : List (Nat × MirrorBody)) : mirrorAll s sx capo l = (s, []) := by
  induction l with
  | nil => rfl
  | cons x t ih => simp [mirrorAll, mirrorChange_noTwin h, ih]

theorem sampleWaits_undisturbed (s : State) : Undisturbed s (sampleWaits s) := by
  unfold sampleWaits
  split <;> simp [setStr]

theorem raiseOwn_undisturbed {s : State} (h : noTwin s) (k : Bool × Nat × Nat) (inc : Nat) : Undisturbed s (raiseOwn s k inc) := by
  have hs : Undisturbed s (setCtr s k (ctrOf s k + BitVec.ofNat 64 inc)) := sampleWaits_undisturbed _
  have ht : noTwin (setCtr s k (ctrOf s k + BitVec.ofNat 64 inc)) := h.of_course hs.course
  simpa only [raiseOwn, raiseCtr, mirrorNote, mirrorChange_noTwin ht] using hs

theorem shardRaise_undisturbed {s : State} (h : noTwin s) (capo off n : Nat) : Undisturbed s (shardRaise s capo off n) := by
  unfold shardRaise
  generalize s.shards.filterMap (·.2) = l
  induction l generalizing s with
  | nil => exact Undisturbed.refl s
  | cons d t ih =>
    have hd : Undisturbed s (if d.capo = capo ∧ overlap off n d.base (d.len64 * 64) ≠ 0 then
        raiseOwn s (d.memberB, capo, d.ctr) (overlap off n d.base (d.len64 * 64)) else s) := by
      split
      · exact raiseOwn_undisturbed h _ _
      · exact Undisturbed.refl s
    exact hd.trans (ih (h.of_course hd.course))

/-! How a request that has been performed is settled. -/

theorem findRunning_undisturbed {s t : State} (h : Undisturbed s t) (r : Req) : findRunning t .kojor r = findRunning s .kojor r := by
  simp [findRunning, respOf, h.running]

theorem oldestFinal_undisturbed {s t : State} (h : Undisturbed s t) (src epoch : Nat) :
    oldestFinal t .kojor src epoch = oldestFinal s .kojor src epoch := by
  simp [oldestFinal, respOf, h.finals]

theorem oldestFinal_setRunning (s : State) (w : Party) (x : Running) (src epoch : Nat) :
    oldestFinal (setRunning s w x) w src epoch = oldestFinal s w src epoch := by
  simp [oldestFinal, setRunning]

theorem settleFinals_none {s : State} {w : Party} {src epoch : Nat} (h : oldestFinal s w src epoch = none) :
    settleFinals s w src epoch = s := by
  unfold settleFinals
  cases (respOf s w).finals.length with
  | zero => rfl
  | succ n => simp [applyFinals, dueFinal, h]

/-- The running entry of a request that has been performed with completion c, waits for the messages qs and, where `n` says so, has
been counted. -/
def performedEntry (r : Req) (v : Via) (c : Cmp) (qs : List Nat) (n : Bool := false) : Running :=
  { r := r, v := v, why := .mirror, awaits := qs, done := some c, counted := n }

theorem findRunning_performedEntry {s : State} {w : Party} {r : Req} (h : findRunning s w r = none) (v : Via) (c : Cmp) (qs : List Nat) (n : Bool) :
    findRunning (setRunning s w (performedEntry r v c qs n)) w r = some (performedEntry r v c qs n) :=
  findRunning_setRunning_new (x := performedEntry r v c qs n) h

/-- The state of a performed request with its duplicate entry, where it leaves one. -/
def withItsDup (r : Req) (v : Via) (d : Done) : State := if leavesDup r d.c then addDup d.s .kojor (dupOf d.s v r d.c) else d.s

theorem withItsDup_undisturbed (r : Req) (v : Via) (d : Done) : Undisturbed d.s (withItsDup r v d) := by
  unfold withItsDup
  split
  · exact addDup_undisturbed _ _
  · exact Undisturbed.refl _

theorem withItsDup_sameMem (r : Req) (v : Via) (d : Done) : SameMem d.s (withItsDup r v d) := by
  unfold withItsDup
  split <;> simp

theorem performed_new {r : Req} {v : Via} {d : Done} {t : State} {qs : List Nat} (hv : partyOf v = .kojor)
    (hm : mirrorAll (withItsDup r v d) (viaSx v) r.capo (if leavesDup r d.c then withDup (dupOf d.s v r d.c) d.mir else d.mir) = (t, qs))
    (ht : findRunning t .kojor r = none) : performed r v d = setRunning t .kojor (performedEntry r v d.c qs) := by
  unfold withItsDup at hm
  simp [performed, performedWith, hv, hm, ht, performedEntry]

theorem countDone_uncountable {s : State} {w : Party} {r : Req} {c : Cmp} (hrun : findRunning s w r = none) (hc : countable r c = false) (v : Via)
    (qs : List Nat) : countDone (setRunning s w (performedEntry r v c qs)) w r = setRunning s w (performedEntry r v c qs) := by
  simp only [countDone, findRunning_performedEntry hrun]
  simp [performedEntry, hc]

theorem countDone_awaiting {s : State} {w : Party} {r : Req} (hrun : findRunning s w r = none) (v : Via) (c : Cmp) (q : Nat) :
    countDone (setRunning s w (performedEntry r v c [q])) w r = setRunning s w (performedEntry r v c [q]) := by
  simp only [countDone, findRunning_performedEntry hrun]
  simp [performedEntry]

theorem takeCount_setRunning (s : State) (x : Running) (r : Req) :
    (takeCount (setRunning s .kojor x) .kojor r).1 = setRunning (takeCount s .kojor r).1 .kojor x := by
  have hold : countOf (setRunning s .kojor x) .kojor r.src r.epoch = countOf s .kojor r.src r.epoch := rfl
  have hfree : countFree (setRunning s .kojor x) .kojor r = countFree s .kojor r := rfl
  have hnow : nowOf (setRunning s .kojor x) .kojor = nowOf s .kojor := rfl
  simp only [takeCount, hold, hfree, hnow]
  split
  · rfl
  · split <;> rfl

theorem countDone_noTwin {s : State} {r : Req} {c : Cmp} (h : noTwin s) (hrun : findRunning s .kojor r = none) (hc : countable r c = true)
    (v : Via) : countDone (setRunning s .kojor (performedEntry r v c [])) .kojor r
      = setRunning (takeCount s .kojor r).1 .kojor (performedEntry r v c [] true) := by
  have ht := takeCount_undisturbed s r
  have hn : noTwin (setRunning (takeCount s .kojor r).1 .kojor (performedEntry r v c [])) := h.of_course ht.course
  have hrun' : findRunning (takeCount s .kojor r).1 .kojor r = none := (findRunning_undisturbed ht _).trans hrun
  have hset := setRunning_setRunning_new (x := performedEntry r v c []) (y := performedEntry r v c [] true) hrun' rfl
  simp only [countDone, findRunning_performedEntry hrun]
  simp only [performedEntry] at hn hset ⊢
  simp [hc, takeCount_setRunning, mirrorChange_noTwin hn, hset]

/-- What a completed store tells the shards that its bytes belong to. -/
def tellShards (s : State) (r : Req) (c : Cmp) : State :=
  if r.op == 2 && aKind r.addr == 2 && c.status == .ok then shardRaise s r.capo (aOff r.addr) r.len else s

theorem tellShards_undisturbed {s : State} (h : noTwin s) (r : Req) (c : Cmp) : Undisturbed s (tellShards s r c) := by
  unfold tellShards
  split
  · exact shardRaise_undisturbed h _ _ _
  · exact Undisturbed.refl s

theorem tellShards_sameMem (s : State) (r : Req) (c : Cmp) : SameMem s (tellShards s r c) := by
  unfold tellShards
  split <;> simp

theorem finishIf_sends {s : State} {r : Req} {c : Cmp} {n : Bool} (hrun : findRunning s .kojor r = none)
    (hc : (n || !countable r c) = true) (v : Via) :
    finishIf (setRunning s .kojor (performedEntry r v c [] n)) .kojor r = tellShards (emit s (.cmp c)) r c := by
  have hdrop : dropRunning (setRunning s .kojor (performedEntry r v c [] n)) .kojor r = s :=
    dropRunning_setRunning_new (x := performedEntry r v c [] n) hrun
  have hsend : sendIfDone (setRunning s .kojor (performedEntry r v c [] n)) .kojor r = emit s (.cmp c) := by
    simp only [sendIfDone, findRunning_performedEntry hrun, hdrop]
    simp [performedEntry, hc, sendDone, emits, emit]
  simp only [finishIf, findRunning_performedEntry hrun, hsend]
  simp [performedEntry, hc, tellShards]

theorem finishIf_awaiting {s : State} {r : Req} (hrun : findRunning s .kojor r = none) (v : Via) (c : Cmp) (q : Nat) :
    finishIf (setRunning s .kojor (performedEntry r v c [q])) .kojor r = setRunning s .kojor (performedEntry r v c [q]) := by
  simp only [finishIf, findRunning_performedEntry hrun]
  simp [performedEntry]

/-- The Kojor answers for the path, no request of this identity executes, and no FINAL request of its pair is held. -/
def answersAlone (s : State) (r : Req) (v : Via) : Prop :=
  partyOf v = .kojor ∧ findRunning s .kojor r = none ∧ oldestFinal s .kojor r.src r.epoch = none

theorem answersAlone.of_undisturbed {s t : State} {r : Req} {v : Via} (h : answersAlone s r v) (ht : Undisturbed s t) : answersAlone t r v := by
  obtain ⟨hv, hrun, hfin⟩ := h
  exact ⟨hv, (findRunning_undisturbed ht r).trans hrun, (oldestFinal_undisturbed ht _ _).trans hfin⟩

/-- A request that leaves no duplicate entry, counts nowhere and has nothing to tell the twin is answered, and nothing else changes. -/
theorem settle_plain {r : Req} {v : Via} {d : Done} (h : answersAlone d.s r v) (hdup : leavesDup r d.c = false)
    (hc : countable r d.c = false) (hst : (r.op == 2 && aKind r.addr == 2 && d.c.status == .ok) = false) (hmir : d.mir = []) :
    settle r v d = emit d.s (.cmp d.c) := by
  obtain ⟨hv, hrun, hfin⟩ := h
  have hp : performed r v d = setRunning d.s .kojor (performedEntry r v d.c []) :=
    performed_new hv (by simp [withItsDup, hdup, hmir, mirrorAll]) hrun
  have hf := (oldestFinal_setRunning d.s .kojor (performedEntry r v d.c []) r.src r.epoch).trans hfin
  rw [settle, afterDone, hv, hp, countDone_uncountable hrun hc, settleFinals_none hf, finishIf_sends hrun (by simp [hc]), tellShards, hst]
  rfl

/-- With no twin a request that has been performed is answered at once. -/
theorem settle_noTwin {r : Req} {v : Via} {d : Done} (h : answersAlone d.s r v) (hn : noTwin d.s) :
    SameMem d.s (settle r v d) ∧ Undisturbed (emit d.s (.cmp d.c)) (settle r v d) := by
  obtain ⟨hv, hrun, hfin⟩ := h
  have ht := withItsDup_undisturbed r v d
  have hnt : noTwin (withItsDup r v d) := hn.of_course ht.course
  have hrt : findRunning (withItsDup r v d) .kojor r = none := (findRunning_undisturbed ht r).trans hrun
  have hp : performed r v d = setRunning (withItsDup r v d) .kojor (performedEntry r v d.c []) :=
    performed_new hv (mirrorAll_noTwin hnt _ _ _) hrt
  /- After the count the state differs from d.s by the responder's entries alone, whether the request counts or not. -/
  obtain ⟨t, n, htu, htm, hcd, hn'⟩ : ∃ t n, Undisturbed d.s t ∧ SameMem d.s t
      ∧ countDone (performed r v d) .kojor r = setRunning t .kojor (performedEntry r v d.c [] n) ∧ (n || !countable r d.c) = true := by
    rw [hp]
    cases hc : countable r d.c with
    | false => exact ⟨_, false, ht, withItsDup_sameMem r v d, countDone_uncountable hrt hc v _, rfl⟩
    | true => exact ⟨_, true, ht.trans (takeCount_undisturbed _ r), (withItsDup_sameMem r v d).trans (by simp),
        countDone_noTwin hnt hrt hc v, rfl⟩
  have hrt' : findRunning t .kojor r = none := (findRunning_undisturbed htu r).trans hrun
  have hft := (oldestFinal_setRunning t .kojor (performedEntry r v d.c [] n) r.src r.epoch).trans
    ((oldestFinal_undisturbed htu _ _).trans hfin)
  have hs : settle r v d = tellShards (emit t (.cmp d.c)) r d.c := by
    rw [settle, afterDone, hv, hcd, settleFinals_none hft, finishIf_sends hrt' hn']
  have hne : noTwin (emit t (.cmp d.c)) := hn.of_course htu.course
  rw [hs]
  exact ⟨htm.trans (SameMem.trans (by simp) (tellShards_sameMem _ _ _)), (htu.emit _).trans (tellShards_undisturbed hne _ _)⟩

@[simp] theorem mirrorOut_resp (s : State) (sx key capo : Nat) (b : MirrorBody) : (mirrorOut s sx key capo b).1.resp = s.resp := by
  simp only [mirrorOut]
  split <;> simp [mirrorSend]

@[simp] theorem mirrorOut_out (s : State) (sx key capo : Nat) (b : MirrorBody) : (mirrorOut s sx key capo b).1.out = s.out := by
  simp only [mirrorOut]
  split <;> simp [mirrorSend]

theorem findRunning_mirrorOut (s : State) (sx key capo : Nat) (b : MirrorBody) (r : Req) :
    findRunning (mirrorOut s sx key capo b).1 .kojor r = findRunning s .kojor r := by
  simp [findRunning, respOf]

/-- While the twin serves, a store that has a message for it waits for that message's confirmation. -/
theorem settle_awaits {r : Req} {v : Via} {d : Done} {k : Nat} {b : MirrorBody} (h : answersAlone d.s r v) (hon : mirrorOn d.s = true)
    (hdup : leavesDup r d.c = false) (hmir : d.mir = [(k, b)]) :
    settle r v d = setRunning (mirrorOut d.s (viaSx v) k r.capo b).1 .kojor
      (performedEntry r v d.c [(mirrorOut d.s (viaSx v) k r.capo b).2]) := by
  obtain ⟨hv, hrun, hfin⟩ := h
  have hrt : findRunning (mirrorOut d.s (viaSx v) k r.capo b).1 .kojor r = none := (findRunning_mirrorOut _ _ _ _ _ r).trans hrun
  have hft : oldestFinal (mirrorOut d.s (viaSx v) k r.capo b).1 .kojor r.src r.epoch = none := by
    simpa [oldestFinal, respOf] using hfin
  have hp : performed r v d = setRunning (mirrorOut d.s (viaSx v) k r.capo b).1 .kojor
      (performedEntry r v d.c [(mirrorOut d.s (viaSx v) k r.capo b).2]) :=
    performed_new hv (by simp [withItsDup, hdup, hmir, mirrorAll, mirrorChange, hon]) hrt
  have hf := (oldestFinal_setRunning _ .kojor (performedEntry r v d.c [(mirrorOut d.s (viaSx v) k r.capo b).2]) r.src r.epoch).trans hft
  rw [settle, afterDone, hv, hp, countDone_awaiting hrt, settleFinals_none hf, finishIf_awaiting hrt]

end Sys2Proof.Machine
end

section
/-! SUPPORT. Loads, stores and atomics on a page that this member serves: the request's way to the page, what each does there, and O24
(R58, R59, R76, R77, R79, R101, R102, R164, R316, R391). -/

namespace Sys2Proof.Machine

open Sys2Proof

/-! The request's way to the page. -/

theorem entersKojor.partyOf {s : State} {r : Req} {v : Via} (h : entersKojor s r v) : partyOf v = .kojor := by
  obtain ⟨hv, -⟩ := h
  cases v with
  | brola b => exact absurd rfl (hv b)
  | _ => rfl

theorem leaveDie_eq (s : State) (r : Req) (v : Via) : ∃ l, leaveDie s r v = { s with sw := { s.sw with dieHeld := l } } := by
  simp only [leaveDie]
  split
  · exact ⟨_, rfl⟩
  · exact ⟨s.sw.dieHeld, rfl⟩

theorem hostPass_eq (s : State) (r : Req) (v : Via) : ∃ w, (hostPass s r v).1 = { s with sw := w } := by
  cases v with
  | host p =>
    simp only [hostPass]
    (repeat' split) <;> exact ⟨_, rfl⟩
  | _ => exact ⟨_, rfl⟩

/-- A request's coming in changes the switch's part of the state alone. -/
theorem entryState_eq (s : State) (r : Req) (v : Via) : ∃ w, entryState s r v = { s with sw := w } := by
  obtain ⟨l, hl⟩ := leaveDie_eq s r v
  obtain ⟨w, hw⟩ := hostPass_eq (leaveDie s r v) r v
  exact ⟨w, by rw [entryState, hw, hl]⟩

theorem hostPass_passes {s : State} {r : Req} {v : Via} (h : ∀ p, v = .host p → hostWaits s p r = false) : (hostPass s r v).2 = true := by
  cases v with
  | host p => simp [hostPass, h p rfl]
  | _ => rfl

/-- A request whose running entry and duplicate entry are not found goes on to be performed. -/
theorem entryAt_go {s : State} {r : Req} {v : Via} (h : entersKojor s r v) (w : Sw) : entryAt { s with sw := w } r v = .go { s with sw := w } := by
  have hp := h.partyOf
  obtain ⟨hv, -, -, -, hans, hserve, hwin, hfmt, hrun, hdup, -, -⟩ := h
  have hans' : answersHere { s with sw := w } r = true := hans
  have hwin' : foreignWindow { s with sw := w } r = false := hwin
  have hfmt' : formatOk { s with sw := w } .kojor r = true := hfmt
  have hrun' : findRunning { s with sw := w } .kojor r = none := hrun
  have hdup' : findDup { s with sw := w } .kojor r = none := hdup
  simp [entryAt, lookup, hp, hans', hserve, hwin', hfmt', hrun', hdup']

theorem runEntry_enters {s : State} {r : Req} {v : Via} (h : entersKojor s r v) (go : State → State) :
    runEntry s r v go = go (entryState s r v) := by
  obtain ⟨l, hl⟩ := leaveDie_eq s r v
  have hp := h.partyOf
  obtain ⟨w, hw⟩ := entryState_eq s r v
  have hgo := entryAt_go h w
  obtain ⟨-, hwait, hhdr, hfirst, -⟩ := h
  have hpass : (hostPass (leaveDie s r v) r v).2 = true := hostPass_passes (by rw [hl]; exact hwait)
  have hfirst' : (isFirst (leaveDie s r v) v && !(srcOk (leaveDie s r v) r v && targetOk (leaveDie s r v) r)) = false := by
    rw [hl]
    show (isFirst s v && !(srcOk s r v && targetOk s r)) = false
    cases hf : isFirst s v with
    | false => rfl
    | true => simp [hfirst hf]
  have hsplit : hostPass (leaveDie s r v) r v = ({ s with sw := w }, true) := Prod.ext hw hpass
  have hentry : entry (leaveDie s r v) r v = .go { s with sw := w } := by
    rw [entry, hhdr, hp, hsplit, if_neg (by decide), if_neg (by rw [Bool.and_assoc, hfirst']; decide)]
    exact hgo
  rw [runEntry, hentry, hw]

/-! A page that this member serves. -/

/-- The state in which a request has come in and found its region's entry in the cache of its SX. -/
def atPage (s : State) (r : Req) (v : Via) (g : Region) : State := cacheTouch (entryState s r v) (viaSx v) r.capo g.rid

theorem atPage_eq (s : State) (r : Req) (v : Via) (g : Region) :
    ∃ c, atPage s r v g = { entryState s r v with mem := { s.mem with rcache := c } } := by
  obtain ⟨w, hw⟩ := entryState_eq s r v
  exact ⟨_, by rw [atPage, hw]; rfl⟩

theorem entryState_undisturbed (s : State) (r : Req) (v : Via) : Undisturbed s (entryState s r v) := by
  obtain ⟨w, hw⟩ := entryState_eq s r v
  rw [hw]
  exact Undisturbed.refl s

theorem atPage_undisturbed (s : State) (r : Req) (v : Via) (g : Region) : Undisturbed s (atPage s r v g) :=
  (entryState_undisturbed s r v).withMem _

theorem findMem_here {s : State} {r : Req} {v : Via} {g : Region} {k : Nat} {m : Bool} (h : pageHere s r v g k m) :
    findMem (entryState s r v) r v = .page (atPage s r v g) g k m := by
  obtain ⟨w, hw⟩ := entryState_eq s r v
  obtain ⟨-, -, hz, hscr, htier, hg, hc, hserve, hmine⟩ := h
  have hserve' : serveAt (cacheTouch { s with sw := w } (viaSx v) r.capo g.rid) g (aOff r.addr) (fromTwin v) = .here k m := hserve
  have hc' : cached { s with sw := w } (viaSx v) r.capo g.rid = true := hc
  have hmine' : (fromTwin v && !isMine (cacheTouch { s with sw := w } (viaSx v) r.capo g.rid) (aOff r.addr)) = false := by
    show (fromTwin v && !isMine s (aOff r.addr)) = false
    cases hf : fromTwin v with
    | false => rfl
    | true => simp [hmine hf]
  rw [atPage, hw]
  simp only [findMem, hz, hscr, findPage, hg, hc', hserve', hmine']
  simp [htier]

theorem answersAlone_atPage {s : State} {r : Req} {v : Via} (h : entersKojor s r v) (g : Region) : answersAlone (atPage s r v g) r v := by
  have hp := h.partyOf
  obtain ⟨-, -, -, -, -, -, -, -, hrun, -, hfin, -⟩ := h
  exact answersAlone.of_undisturbed ⟨hp, hrun, hfin⟩ (atPage_undisturbed s r v g)

/-! Words with an error. -/

theorem mem_wordsOf {w a n : Nat} (h : w ∈ wordsOf a n) : a < 8 * w + 8 ∧ 8 * w < a + n := by
  unfold wordsOf at h
  split at h
  · simp at h
  · simp only [List.mem_map, List.mem_range] at h
    omega

theorem findBad_clean {poison latent : List Nat} {k n : Nat} (h : clean poison latent k n) : findBad poison latent k n = none := by
  have hw : ∀ w ∈ wordsOf k n, w ∉ poison ∧ w ∉ latent := fun w hw => h w (mem_wordsOf hw).1 (mem_wordsOf hw).2
  have hl : latentIn latent k n = [] := List.filter_eq_nil_iff.2 fun w hm => by simp [(hw w hm).2]
  have hp : poisonIn poison k n = [] := List.filter_eq_nil_iff.2 fun w hm => by simp [(hw w hm).1]
  simp [findBad, hl, hp]

/-! A load. -/

theorem countBytes_eq (s : State) (k n : Nat) (wr : Bool) : ∃ c, countBytes s k n wr = { s with ctr := c } := by
  simp only [countBytes]
  split
  · exact ⟨s.ctr, rfl⟩
  · split <;> exact ⟨_, rfl⟩

theorem doLd_here {s : State} {r : Req} {v : Via} {g : Region} {k : Nat} {m : Bool} (hv : partyOf v = .kojor) (h : pageHere s r v g k m)
    (hu : loadUnheld s g r = false) : doLd (entryState s r v) r v = settle r v (loadPage (atPage s r v g) r k) := by
  have hu' : loadUnheld (atPage s r v g) g r = false := by
    obtain ⟨w, hw⟩ := entryState_eq s r v
    rw [atPage, hw]
    exact hu
  have hf := findMem_here h
  obtain ⟨hres, -⟩ := h
  cases v with
  | brola b => cases hv
  | _ => simp [doLd, hres, hf, hu']

theorem loadPage_clean {s : State} {r : Req} {k : Nat} (h : clean s.mem.poison s.mem.latent k r.len) :
    loadPage s r k = ⟨countBytes s k r.len false, { cmpOf r (mySrc s) .ok with len := r.len, data := Memory.readN s.mem.phys k r.len }, []⟩ := by
  obtain ⟨c, hc⟩ := countBytes_eq s k r.len false
  simp only [loadPage, findBad_clean h, hc]
  rfl

/-- A clean load is answered with the bytes, and of the state only a counter and the region cache's order change. -/
theorem exec_ld_here {s : State} {r : Req} {v : Via} {g : Region} {k : Nat} {m : Bool} (he : entersKojor s r v) (h : pageHere s r v g k m)
    (hop : r.op = 1) (hc : clean s.mem.poison s.mem.latent k r.len) (hu : loadUnheld s g r = false) :
    ∃ u, exec (.ld r v) s = .next u ∧ u.mem.phys = s.mem.phys
      ∧ u = { entryState s r v with out := u.out, ctr := u.ctr, mem := { s.mem with rcache := u.mem.rcache } }
      ∧ u.out = s.out ++ [.cmp { cmpOf r (mySrc s) .ok with len := r.len, data := Memory.readN s.mem.phys k r.len }] := by
  obtain ⟨w, hw⟩ := entryState_eq s r v
  obtain ⟨p, hp⟩ := atPage_eq s r v g
  obtain ⟨c, hcount⟩ := countBytes_eq (atPage s r v g) k r.len false
  have hclean : clean (atPage s r v g).mem.poison (atPage s r v g).mem.latent k r.len := by rw [hp]; exact hc
  have hset : settle r v (loadPage (atPage s r v g) r k) = emit (loadPage (atPage s r v g) r k).s (.cmp (loadPage (atPage s r v g) r k).c) := by
    rw [loadPage_clean hclean]
    exact settle_plain ((answersAlone_atPage he g).of_undisturbed (countBytes_undisturbed _ _ _ _))
      (by simp [leavesDup, opIdem, hop]) (by simp [countable, opIsWrite, opIsAtomic, opIsRed, hop]) (by simp [hop]) rfl
  refine ⟨_, congrArg Host.Outcome.next (?_ : _ = emit (loadPage (atPage s r v g) r k).s (.cmp (loadPage (atPage s r v g) r k).c)), ?_⟩
  · rw [if_pos (.inl hop), runEntry_enters he, doLd_here he.partyOf h hu, hset]
  · rw [loadPage_clean hclean, hcount, hp, hw]
    exact ⟨rfl, rfl, rfl⟩

/-! A store. -/

/-- What a store to a page does once it is ready: the bytes, their completion, and the message to the twin. -/
def pageStored (t : State) (r : Req) (g : Region) (k : Nat) (m : Bool) : Done :=
  let x := pageWrite t r.capo g (aOff r.addr) k m r.data r.poison
  ⟨x.1, cmpOf r (mySrc t) .ok, x.2⟩

theorem windowAt_atPage (s : State) (r : Req) (v : Via) (g : Region) (capo off n : Nat) :
    windowAt (atPage s r v g) capo off n = windowAt s capo off n := by
  obtain ⟨w, hw⟩ := entryState_eq s r v
  rw [atPage, hw]
  rfl

theorem mirrorFull_atPage (s : State) (r : Req) (v : Via) (g : Region) (capo : Nat) : mirrorFull (atPage s r v g) capo = mirrorFull s capo := by
  obtain ⟨w, hw⟩ := entryState_eq s r v
  rw [atPage, hw]
  rfl

theorem storeReady_here {s : State} {r : Req} {v : Via} {g : Region} {k : Nat} {m : Bool} (hv : partyOf v = .kojor)
    (h : pageHere s r v g k m) : storeReady (entryState s r v) r v =
      if g.ro || (windowAt s r.capo (aOff r.addr) r.len).isSome then .fail (refuse (atPage s r v g) .kojor r .accDenied)
      else if m && mirrorFull s r.capo then .fail (mirrorRetry (atPage s r v g) r)
      else .ok (atPage s r v g) fun t => pageStored t r g k m := by
  have hf := findMem_here h
  have hw := windowAt_atPage s r v g
  have hm := mirrorFull_atPage s r v g
  obtain ⟨hres, hkind, -⟩ := h
  cases v with
  | brola b => cases hv
  | _ => simp [storeReady, storeMem, hres, hkind, hf, hw, hm, pageStored]

theorem exec_st {s : State} {r : Req} {v : Via} (he : entersKojor s r v) (hop : r.op = 2) :
    exec (.st r v) s = .next (runWrite r v (storeReady (entryState s r v) r v)) := by
  show Host.Outcome.next _ = _
  rw [if_pos hop, runEntry_enters he]
  rfl

theorem exec_st_ready {s : State} {r : Req} {v : Via} {g : Region} {k : Nat} {m : Bool} (he : entersKojor s r v) (h : pageHere s r v g k m)
    (hop : r.op = 2) (hro : g.ro = false) (hw : windowAt s r.capo (aOff r.addr) r.len = none) (hm : (m && mirrorFull s r.capo) = false) :
    exec (.st r v) s = .next (settle r v (pageStored (atPage s r v g) r g k m)) := by
  obtain ⟨-, -, -, -, -, -, -, -, -, -, -, hfinal⟩ := id he
  rw [exec_st he hop, storeReady_here he.partyOf h, hro, hw, hm]
  simp [runWrite, hfinal]

/-- A page that takes no store: the request is refused and nothing else changes. -/
theorem exec_st_refused {s : State} {r : Req} {v : Via} {g : Region} {k : Nat} {m : Bool} (he : entersKojor s r v) (h : pageHere s r v g k m)
    (hop : r.op = 2) (hno : ¬ (g.ro = false ∧ windowAt s r.capo (aOff r.addr) r.len = none)) :
    ∃ u, exec (.st r v) s = .next u ∧ u.mem.phys = s.mem.phys ∧ u.out = s.out ++ [.cmp (cmpOf r (mySrc s) .accDenied)] := by
  have hin : (g.ro || (windowAt s r.capo (aOff r.addr) r.len).isSome) = true := by
    cases hro : g.ro with
    | true => rfl
    | false => simpa [hro, Option.isSome_iff_ne_none] using hno
  have hset : settle r v (refuse (atPage s r v g) .kojor r .accDenied)
      = emit (atPage s r v g) (.cmp (refuse (atPage s r v g) .kojor r .accDenied).c) :=
    settle_plain (answersAlone_atPage he g) (by simp [leavesDup, opIdem, hop]) (by simp [countable, refuse, cmpOf]) (by simp [refuse, cmpOf]) rfl
  refine ⟨_, by rw [exec_st he hop, storeReady_here he.partyOf h, if_pos hin, runWrite, hset], ?_⟩
  obtain ⟨w, hw⟩ := entryState_eq s r v
  obtain ⟨c, hc⟩ := atPage_eq s r v g
  rw [hc, hw]
  exact ⟨rfl, rfl⟩

theorem physWrite_phys (s : State) (k : Nat) (bs : List Byte) (poison : Bool) :
    (physWrite s k bs poison).mem.phys = Memory.writeN s.mem.phys k bs := by
  simp [physWrite]

/-- The bytes of a store stand in memory, and no other byte changed. -/
theorem read_pageStored {s t : State} {r : Req} {g : Region} {k : Nat} {m : Bool} (hwf : Memory.wf s.mem.phys = true) (ht : SameMem s t)
    (hlen : r.data.length = r.len) {u : State} (hu : SameMem (pageStored t r g k m).s u) (i : Nat) :
    Memory.read u.mem.phys i = if k ≤ i ∧ i < k + r.len then r.data.getD (i - k) 0 else Memory.read s.mem.phys i := by
  have hphys : u.mem.phys = Memory.writeN s.mem.phys k r.data := by
    rw [hu.1, ← ht.1]
    exact physWrite_phys t k r.data r.poison
  rw [hphys, Memory.read_writeN hwf, hlen]

theorem pageStored_undisturbed (t : State) (r : Req) (g : Region) (k : Nat) (m : Bool) : Undisturbed t (pageStored t r g k m).s :=
  physWrite_undisturbed _ _ _ _

theorem atPage_sameMem (s : State) (r : Req) (v : Via) (g : Region) : SameMem s (atPage s r v g) := by
  simp [atPage, entryState]

/-- With no twin a store is answered at once. -/
theorem exec_st_noTwin {s : State} {r : Req} {v : Via} {g : Region} {k : Nat} {m : Bool} (he : entersKojor s r v) (h : pageHere s r v g k m)
    (hop : r.op = 2) (hro : g.ro = false) (hw : windowAt s r.capo (aOff r.addr) r.len = none) (hn : noTwin s) :
    ∃ u, exec (.st r v) s = .next u ∧ SameMem (pageStored (atPage s r v g) r g k m).s u
      ∧ Undisturbed (emit s (.cmp (cmpOf r (mySrc s) .ok))) u := by
  have ht := atPage_undisturbed s r v g
  have hd := ht.trans (pageStored_undisturbed (atPage s r v g) r g k m)
  have hfull : (m && mirrorFull s r.capo) = false := by simp [mirrorFull, hn.1]
  obtain ⟨hmem, hu⟩ := settle_noTwin ((answersAlone_atPage he g).of_undisturbed (pageStored_undisturbed _ r g k m)) (hn.of_course hd.course)
  have hc : (pageStored (atPage s r v g) r g k m).c = cmpOf r (mySrc s) .ok := by rw [← ht.mySrc]; rfl
  rw [hc] at hu
  exact ⟨_, exec_st_ready he h hop hro hw hfull, hmem, (hd.emit _).trans hu⟩

/-! A store while the twin holds a copy. -/

theorem mirrorPath_undisturbed {s t : State} (h : Undisturbed s t) (sx key : Nat) : mirrorPath t sx key = mirrorPath s sx key := by
  have hr : ∀ n p, soundpostReady t n p = soundpostReady s n p := fun n p => by
    simp only [soundpostReady]
    congr 1
    funext x
    simp [strReady, linkOf, h.links]
  simp only [mirrorPath, hr]

theorem mirrorOut_unconfirmed (s : State) (sx key capo : Nat) (b : MirrorBody) :
    ∃ x ∈ (mirrorOut s sx key capo b).1.course.unconf, x.mseq = (mirrorOut s sx key capo b).2 ∧ x.body = b := by
  simp only [mirrorOut]
  split <;> exact ⟨_, List.mem_append_right _ (List.mem_singleton_self _), rfl, rfl⟩

/-- Where no earlier message of the page takes another path, the message stands on its port. -/
theorem mirrorOut_injected {s : State} {sx key capo : Nat} {b : MirrorBody} (h : pathBusy s.course.unconf b (mirrorPath s sx key) = false) :
    mirrorWaits (mirrorOut s sx key capo b).1 (mirrorOut s sx key capo b).2 b := by
  have hset : ∀ (m : TMap (Nat × Nat) (List Inject)) p x, ∃ e ∈ m.set p (m.get p [] ++ [x]), x ∈ e.2 := fun m p x =>
    ⟨_, List.mem_cons_self .., by simp⟩
  simp only [mirrorOut, h, mirrorSend]
  obtain ⟨e, he, hx⟩ := hset s.sw.injected (mirrorPath s sx key)
    { capo := capo, left := mirrorFlits b, flits := mirrorFlits b, msg := some (nextMseq s, b) }
  exact ⟨e, he, _, hx, rfl⟩

/-- While the twin serves and holds a copy, the bytes of a store stand, its message waits to be confirmed, and it is not answered. -/
theorem exec_st_mirrored {s : State} {r : Req} {v : Via} {g : Region} {k : Nat} (he : entersKojor s r v) (h : pageHere s r v g k true)
    (hop : r.op = 2) (hro : g.ro = false) (hw : windowAt s r.capo (aOff r.addr) r.len = none) (hon : mirrorOn s = true)
    (hfull : mirrorFull s r.capo = false) :
    let b := MirrorBody.mwrite (copyKey g (aOff r.addr) (!isMine s (aOff r.addr))) r.data r.poison none
    ∃ (u : State) (q : Nat), exec (.st r v) s = .next u ∧ SameMem (pageStored (atPage s r v g) r g k true).s u ∧ u.out = s.out
      ∧ (∃ x ∈ u.course.unconf, x.mseq = q ∧ x.body = b)
      ∧ (pathBusy s.course.unconf b (mirrorPath s (viaSx v) (aOff r.addr / 4096)) = false → mirrorWaits u q b)
      ∧ ∃ x ∈ u.resp.running, x.r = r ∧ x.awaits = [q] ∧ x.done = some (cmpOf r (mySrc s) .ok) := by
  intro b
  have ht := atPage_undisturbed s r v g
  have hd := ht.trans (pageStored_undisturbed (atPage s r v g) r g k true)
  have hb : (pageStored (atPage s r v g) r g k true).mir = [(aOff r.addr / 4096, b)] := by
    have hmine : isMine (physWrite (atPage s r v g) k r.data r.poison) (aOff r.addr) = isMine s (aOff r.addr) := hd.isMine _
    simp [pageStored, pageWrite, hmine, b]
  have hc : (pageStored (atPage s r v g) r g k true).c = cmpOf r (mySrc s) .ok := by rw [← ht.mySrc]; rfl
  have halone := (answersAlone_atPage he g).of_undisturbed (pageStored_undisturbed _ r g k true)
  have hset := settle_awaits halone (by rw [mirrorOn, hd.course]; exact hon) (by simp [leavesDup, opIdem, hop]) hb
  rw [hc] at hset
  generalize hdd : (pageStored (atPage s r v g) r g k true).s = t at *
  refine ⟨_, (mirrorOut t (viaSx v) (aOff r.addr / 4096) r.capo b).2,
    (exec_st_ready he h hop hro hw (by simp [hfull])).trans (congrArg _ hset), ?_, ?_, ?_, ?_, ?_⟩
  · exact (mirrorOut_sameMem _ _ _ _ _).trans (setRunning_sameMem _ _ _)
  · exact (mirrorOut_out _ _ _ _ _).trans hd.out
  · exact mirrorOut_unconfirmed t (viaSx v) (aOff r.addr / 4096) r.capo b
  · intro hp
    exact mirrorOut_injected (by rw [hd.course, mirrorPath_undisturbed hd]; exact hp)
  · obtain ⟨-, hrun, -⟩ := halone
    exact ⟨_, List.mem_of_find?_eq_some (findRunning_performedEntry ((findRunning_mirrorOut _ _ _ _ _ r).trans hrun) v _ _ _), rfl, rfl, rfl⟩

/-! An atomic. -/

/-- Each atomic of the request commands runs as the atomic command of its op code. -/
theorem exec_atomic {c : Nat × (Req → Via → Instr)} (hc : c ∈ requestCommands) (hat : opIsAtomic c.1 = true) (r : Req) (v : Via) (s : State) :
    exec (c.2 r v) s = .next (atomicCmd c.1 r v s) := by
  simp only [requestCommands, List.mem_cons, List.not_mem_nil, or_false] at hc
  rcases hc with rfl | rfl | hc
  · cases hat
  · cases hat
  rcases hc with rfl | rfl | rfl | rfl | rfl | rfl | rfl | rfl | rfl | rfl | hc
  on_goal 11 => rcases hc with rfl | rfl | rfl | rfl | rfl | rfl | rfl | rfl <;> cases hat
  all_goals rfl

theorem atomicReady_here {s : State} {r : Req} {v : Via} {g : Region} {k : Nat} {m : Bool} (hv : partyOf v = .kojor)
    (h : pageHere s r v g k m) : atomicReady (entryState s r v) r v =
      if g.ro || (windowAt s r.capo (aOff r.addr) r.len).isSome then .fail (refuse (atPage s r v g) .kojor r .accDenied)
      else if m && mirrorFull s r.capo then .fail (mirrorRetry (atPage s r v g) r)
      else .ok (atPage s r v g) fun t => atomicPage t r g k m := by
  have hf := findMem_here h
  have hw := windowAt_atPage s r v g
  have hm := mirrorFull_atPage s r v g
  obtain ⟨hres, hkind, -⟩ := h
  cases v with
  | brola b => cases hv
  | _ => simp [atomicReady, hres, hkind, hf, hw, hm]

/-- An atomic on a page outside windows, with no twin to hold a copy, is performed and answered at once. -/
theorem exec_atomic_noTwin {s : State} {r : Req} {v : Via} {g : Region} {k : Nat} {c : Nat × (Req → Via → Instr)} (he : entersKojor s r v)
    (h : pageHere s r v g k false) (hc : c ∈ requestCommands) (hop : r.op = c.1) (hat : opIsAtomic r.op = true) (hro : g.ro = false)
    (hw : windowAt s r.capo (aOff r.addr) r.len = none) (hn : noTwin s)
    (hd : Undisturbed (atPage s r v g) (atomicPage (atPage s r v g) r g k false).s) :
    ∃ u, exec (c.2 r v) s = .next u ∧ SameMem (atomicPage (atPage s r v g) r g k false).s u
      ∧ Out.cmp (atomicPage (atPage s r v g) r g k false).c ∈ u.out := by
  have hrun : exec (c.2 r v) s = .next (settle r v (atomicPage (atPage s r v g) r g k false)) := by
    rw [exec_atomic hc (hop ▸ hat), atomicCmd, if_pos hop, runEntry_enters he, doAtomic, atomicReady_here he.partyOf h, hro, hw]
    simp [runReady]
  have hs := (atPage_undisturbed s r v g).trans hd
  obtain ⟨hmem, hu⟩ := settle_noTwin ((answersAlone_atPage he g).of_undisturbed hd) (hn.of_course hs.course)
  exact ⟨_, hrun, hmem, by rw [hu.out]; simp [emit]⟩

theorem atomicPage_bad {t : State} {r : Req} {g : Region} {k : Nat} {m : Bool} {st : Status} {w : Nat}
    (h : findBad t.mem.poison t.mem.latent k r.len = some (st, w)) :
    Undisturbed t (atomicPage t r g k m).s ∧ SameMem t (atomicPage t r g k m).s
      ∧ (atomicPage t r g k m).c = { cmpOf r (mySrc t) st with errAddr := r.addr } := by
  simp only [atomicPage, h]
  refine ⟨?_, by simp, rfl⟩
  split
  · exact countPoison_undisturbed _ _
  · exact physFind_undisturbed _ _ _

theorem atomicPage_clean {t : State} {r : Req} {g : Region} {k : Nat} {m : Bool} (h : clean t.mem.poison t.mem.latent k r.len) :
    Undisturbed t (atomicPage t r g k m).s
      ∧ (atomicPage t r g k m).s.mem.phys = Memory.writeN t.mem.phys k (leBytes r.len (atomicOf r (Memory.readLe t.mem.phys k r.len)))
      ∧ (atomicPage t r g k m).c = { cmpOf r (mySrc t) .ok with result := BitVec.ofNat 64 (Memory.readLe t.mem.phys k r.len) } := by
  have hlost := foldl_memUncorr_undisturbed (partialFinds t.mem.latent (wordsOf k r.len)).eraseDups t
  have hpoke := fun mem bs => (hlost.withMem mem).trans (physPoke_undisturbed _ k bs)
  simp only [atomicPage, findBad_clean h]
  refine ⟨hpoke _ _, by simp [physPoke], ?_⟩
  rw [(hpoke _ _).mySrc]

end Sys2Proof.Machine

open Sys2Proof Sys2Proof.Machine

/-- Settles O24: loads, stores with and without a twin and refused, then the atomics. -/
theorem pageMemoryOps : Obligations.PageMemoryOps := by
  refine ⟨fun s r v g k m he h hwf => ⟨fun hop hc hu => exec_ld_here he h hop hc hu, ?_, ?_, fun hop hno => exec_st_refused he h hop hno⟩, ?_⟩
  · rintro hop ⟨hro, hw⟩ hon halone hlen
    obtain ⟨u, hu, hmem, hrest⟩ := exec_st_noTwin he h hop hro hw ⟨hon, halone⟩
    obtain ⟨-, -, -, -, -, hout, hprog, hbrola, hstr⟩ := hrest
    exact ⟨u, hu, read_pageStored hwf (atPage_sameMem s r v g) hlen hmem, by rw [hout]; simp [emit], hstr, hprog, hbrola⟩
  · rintro hop ⟨hro, hw⟩ hon rfl hfull hlen
    obtain ⟨u, q, hu, hmem, hrest⟩ := exec_st_mirrored he h hop hro hw hon hfull
    exact ⟨u, q, hu, read_pageStored hwf (atPage_sameMem s r v g) hlen hmem, hrest⟩
  · intro s r v g k c he h hc hop hat hro hw hon halone hwf
    obtain ⟨p, hp⟩ := atPage_eq s r v g
    have hsrc := (atPage_undisturbed s r v g).mySrc
    have hphys : (atPage s r v g).mem.phys = s.mem.phys := (atPage_sameMem s r v g).1
    constructor
    · intro hcl
      have hclean : clean (atPage s r v g).mem.poison (atPage s r v g).mem.latent k r.len := by rw [hp]; exact hcl
      obtain ⟨hd, hw', hcmp⟩ := atomicPage_clean (g := g) (m := false) hclean
      obtain ⟨u, hu, hmem, hout⟩ := exec_atomic_noTwin he h hc hop hat hro hw ⟨hon, halone⟩ hd
      refine ⟨u, hu, ?_, fun i => ?_⟩
      · rwa [hcmp, hsrc, hphys] at hout
      · rw [hmem.1, hw', hphys, Memory.read_writeN hwf, leBytes_length]
        rfl
    · intro st w hbad
      have hbad' : findBad (atPage s r v g).mem.poison (atPage s r v g).mem.latent k r.len = some (st, w) := by rw [hp]; exact hbad
      obtain ⟨hd, hsame, hcmp⟩ := atomicPage_bad (g := g) (m := false) hbad'
      obtain ⟨u, hu, hmem, hout⟩ := exec_atomic_noTwin he h hc hop hat hro hw ⟨hon, halone⟩ hd
      refine ⟨u, hu, (hmem.1.trans hsame.1).trans hphys, ?_⟩
      rwa [hcmp, hsrc] at hout

end

section
/-! SUPPORT. The access windows and kernel hooks of a leaf, case by case, and O33 (R115, R116, R127, R128). -/

namespace Sys2Proof.Machine

open Sys2Proof

theorem mem_insertOnce {α : Type} [DecidableEq α] {a x : α} {l : List α} : x ∈ insertOnce a l ↔ x = a ∨ x ∈ l := by
  unfold insertOnce
  split
  · next h => exact ⟨.inr, fun hx => hx.elim (fun e => e ▸ h) id⟩
  · simp [or_comm]

/-! Access windows (R115, R116). -/

theorem exec_accessWindowDefine_legal {s : State} {idx : Nat} {w : AccWin} (h : accWinOk s idx w = true) :
    exec (.accessWindowDefine idx w) s = .next { s with brola := { s.brola with wins := s.brola.wins.set idx w } } := by
  show execAccessWindowDefine idx w s = _
  rw [execAccessWindowDefine, if_pos h]

theorem exec_accessWindowDefine_illegal {s : State} {idx : Nat} {w : AccWin} (h : accWinOk s idx w = false) :
    exec (.accessWindowDefine idx w) s = .next s := by
  show execAccessWindowDefine idx w s = _
  rw [execAccessWindowDefine, if_neg (by simp [h])]

theorem accWinOk_misplaced (s : State) {idx : Nat} {w : AccWin} (h : 64 ≤ idx ∨ w.base % 256 ≠ 0 ∨ w.len % 256 ≠ 0) :
    accWinOk s idx w = false := by
  have hno : ¬ (idx < 64 ∧ w.base % 256 = 0 ∧ w.len % 256 = 0) := by omega
  simp only [accWinOk, decide_eq_false hno, Bool.false_and]

/-! Kernel hooks (R127, R128). -/

/-- The acknowledgement of a kernel's discard command signals that kernel's beginning (R127). -/
theorem exec_discardAck_kernel {s : State} {id k : Nat} {t : List (Nat × Nat)} (h : s.brola.discards = (id, k + 1) :: t) :
    exec (.discardAck id) s = .next (emit (setKernel { s with brola := { s.brola with
      discards := s.brola.discards.filter fun x => x.1 != id } } k (true, (kernelOf s k).2)) (.kernelBegin k)) := by
  have hfind : s.brola.discards.find? (fun d => d.1 == id) = some (id, k + 1) := by simp [h]
  show execDiscardAck id s = _
  simp [execDiscardAck, hfind, kernelOf]

theorem exec_kernelEndSignal_due {s : State} {k : Nat} (hk : k ∈ s.brola.kEnding) (hb : kernelBusy s k = false) :
    exec (.kernelEndSignal k) s = .next (emit { s with brola := { s.brola with
      kEnding := s.brola.kEnding.filter (· != k), kernels := s.brola.kernels.erase k } } (.kernelEnd k (kernelOf s k).2)) := by
  show execKernelEndSignal k s = _
  rw [execKernelEndSignal, if_pos ⟨hk, by simp [hb]⟩]

theorem exec_kernelEndSignal_early {s : State} {k : Nat} (h : k ∉ s.brola.kEnding ∨ kernelBusy s k = true) :
    exec (.kernelEndSignal k) s = .next s := by
  show execKernelEndSignal k s = _
  rw [execKernelEndSignal, if_neg]
  rintro ⟨hk, hb⟩
  rcases h with h | h
  · exact h hk
  · simp [h] at hb

end Sys2Proof.Machine

open Sys2Proof Sys2Proof.Machine

/-- Settles O33: one window or kernel command after the other, each by its own case lemma. -/
theorem leafWindowsAndKernels : Obligations.LeafWindowsAndKernels := by
  intro s idx k w
  refine ⟨?legal, fun h => exec_accessWindowDefine_illegal (accWinOk_misplaced s h), ?begins, ?acked, ?ends, ?signalled,
    exec_kernelEndSignal_early⟩
  case legal =>
    intro h
    refine ⟨_, exec_accessWindowDefine_legal h, fun j => ?_, rfl⟩
    simp only [TMap.get_set, eq_comm]
  case begins => exact ⟨_, rfl, rfl, TMap.get_set_self _ _ _ _, rfl, rfl⟩
  case acked =>
    intro id t h
    refine ⟨_, exec_discardAck_kernel h, rfl, ?_, fun d hd => ?_⟩
    · simp [setKernel]
    · simpa using (List.mem_filter.1 hd).2
  case ends => exact ⟨_, rfl, fun j => mem_insertOnce, rfl⟩
  case signalled =>
    intro hk hb
    exact ⟨_, exec_kernelEndSignal_due hk hb, rfl, by simp [emit]⟩

end

section
/-! SUPPORT. What the fall of a string leaves of every string: only the one that falls changes, and those on which an ABORT ends a packet
that came in on it (R151, R167, R377). -/

namespace Sys2Proof.Machine

open Sys2Proof

/-! Operations of the switch that touch no string. -/

theorem foldl_links {α : Type} {f : State → α → State} (h : ∀ s a, (f s a).links = s.links) (l : List α) (s : State) :
    (l.foldl f s).links = s.links :=
  List.foldlRecOn l f (motive := fun t => t.links = s.links) rfl fun t ht a _ => (h t a).trans ht

@[simp] theorem setResp_links (s : State) (w : Party) (p : Resp) : (setResp s w p).links = s.links := by cases w <;> rfl

@[simp] theorem setRunning_links (s : State) (w : Party) (x : Running) : (setRunning s w x).links = s.links := by simp [setRunning]

@[simp] theorem dropRunning_links (s : State) (w : Party) (r : Req) : (dropRunning s w r).links = s.links := by simp [dropRunning]

@[simp] theorem sendDone_links (s : State) (x : Running) (c : Cmp) : (sendDone s x c).links = s.links := rfl

@[simp] theorem harmOne_links (s : State) (sx point port tc capo : Nat) (p : Pkt) (f : Nat) :
    (harmOne s sx point port tc capo p f).links = s.links := by
  simp only [harmOne]
  (repeat' split) <;> rfl

@[simp] theorem harmCopy_links (s : State) (sx point port : Nat) (p : Pkt) : (harmCopy s sx point port p).links = s.links :=
  foldl_links (fun _ _ => harmOne_links _ _ _ _ _ _ _ _) _ _

@[simp] theorem mcastSettle_links (s : State) (id : Nat) : (mcastSettle s id).links = s.links := by
  simp only [mcastSettle]
  (repeat' split) <;> simp

@[simp] theorem mcastMark_links (s : State) (id pos : Nat) (ok : Bool) : (mcastMark s id pos ok).links = s.links := by simp [mcastMark]

@[simp] theorem mcastFail_links (s : State) (id pos : Nat) : (mcastFail s id pos).links = s.links := by
  unfold mcastFail
  (repeat' split) <;> simp

@[simp] theorem copyLost_links (s : State) (p : Pkt) : (copyLost s p).links = s.links := by
  unfold copyLost
  split <;> simp

@[simp] theorem land_links (s : State) (x : Landed) : (land s x).links = s.links := rfl

@[simp] theorem freedAdd_links (s : State) (x cls : Nat) (vc : Bool) (n : Nat) : (freedAdd s x cls vc n).links = s.links := rfl

@[simp] theorem unland_links (s : State) (i : Nat) : (unland s i).links = s.links := by
  simp only [unland]
  (repeat' split) <;> simp

@[simp] theorem landNone_links (s : State) (x : Landed) : (landNone s x).links = s.links := by simp [landNone]

@[simp] theorem noPath_links (s : State) (sx port : Nat) (p : Pkt) : (noPath s sx port p).links = s.links := by
  simp only [noPath]
  (repeat' split) <;> simp [answer]

@[simp] theorem takeRoute_links (s : State) (x : Landed) (res : RouteRes) : (takeRoute s x res).links = s.links := by
  simp only [takeRoute]
  (repeat' split) <;> simp [answer]

@[simp] theorem setQueue_links (s : State) (sx port cls : Nat) (vc : Bool) (l : List QPkt) : (setQueue s sx port cls vc l).links = s.links := rfl

@[simp] theorem unready_links (s : State) (sx port cls : Nat) (vc : Bool) : (unready s sx port cls vc).links = s.links := rfl

@[simp] theorem emptyPort_links (s : State) (sx port : Nat) : (emptyPort s sx port).links = s.links :=
  foldl_links (fun _ _ => by simp) _ _

@[simp] theorem reroutePort_links (s : State) (sx port : Nat) (counted : Bool) : (reroutePort s sx port counted).links = s.links := by
  refine (foldl_links (fun t q => ?_) _ _).trans (emptyPort_links _ _ _)
  cases counted <;> simp

@[simp] theorem voidCredits_links (s : State) (x : Nat) : (voidCredits s x).links = s.links := rfl

theorem linkOf_of_links {s t : State} (h : t.links = s.links) (y : Nat) : linkOf t y = linkOf s y := by simp [linkOf, h]

/-! What is sent on a string changes that string alone, and only while it is Ready (R377). -/

theorem linkOf_pump {s : State} {x y : Nat} (h : x ≠ y) : linkOf (pump s x) y = linkOf s y := by
  simp only [pump]
  split
  · rfl
  · rw [linkOf_setLink, if_neg h]

theorem linkOf_sendSlots {s : State} {x : Option Nat} {y : Nat} (bs : List SlotBody) (h : x = some y → (linkOf s y).stage ≠ 9) :
    linkOf (sendSlots s x bs) y = linkOf s y := by
  unfold sendSlots
  split
  · rfl
  · next x =>
    dsimp only
    split
    · next hst =>
      have hne : x ≠ y := by
        rintro rfl
        exact h rfl hst
      rw [linkOf_pump hne, linkOf_setLink, if_neg hne]
    · rfl

/-- No ABORT is sent on string y: no transmission in progress uses it, or it is not Ready. -/
def noAbortOn (s : State) (y : Nat) : Prop := quietLink s y ∨ (linkOf s y).stage ≠ 9

/-- The outputs of an SX on which a packet from an input cuts through, with the string that each uses. -/
def cutOutputs (s : State) (sx port : Nat) (g : Nat × Pkt) : List (Nat × Option Nat) :=
  s.sw.sending.filterMap fun e => if e.1.1 == sx then e.2.bind fun w =>
    if w.ps.any (fun q => q.inPort == port && q.stamp == g.1 && q.p == g.2) then some (e.1.2, w.str) else none else none

/-- An output that sends nothing any more. -/
def endSending (s : State) (sx port : Nat) : State := { s with sw := { s.sw with sending := s.sw.sending.set (sx, port) none } }

@[simp] theorem endSending_links (s : State) (sx port : Nat) : (endSending s sx port).links = s.links := rfl

/-- An ABORT on one of them (R151). -/
def abortOutput (sx : Nat) (g : Nat × Pkt) (s : State) (o : Nat × Option Nat) : State :=
  emit (sendSlots (endSending (harmCopy (bump s .sxCtAbort [sx, o.1]) sx 3 o.1 g.2) sx o.1) o.2 [.abort false]) (.abort (linkNo sx o.1))

theorem cutInput_links (s : State) (sx port : Nat) (g : Nat × Pkt) :
    (cutInput s sx port g).links = ((cutOutputs s sx port g).foldl (abortOutput sx g) s).links := rfl

theorem sending_of_cutOutputs {s : State} {sx port : Nat} {g : Nat × Pkt} {o : Nat × Option Nat} (h : o ∈ cutOutputs s sx port g) :
    ∃ e ∈ s.sw.sending, ∃ w, e.2 = some w ∧ w.str = o.2 := by
  obtain ⟨e, he, hm⟩ := List.mem_filterMap.1 h
  split at hm
  · obtain ⟨w, hw, hw'⟩ := Option.bind_eq_some_iff.1 hm
    split at hw'
    · cases hw'
      exact ⟨e, he, w, hw, rfl⟩
    · cases hw'
  · cases hm

theorem linkOf_abortOutput {s : State} {y sx : Nat} {g : Nat × Pkt} {o : Nat × Option Nat} (h : o.2 = some y → (linkOf s y).stage ≠ 9) :
    linkOf (abortOutput sx g s o) y = linkOf s y := by
  have hlinks := linkOf_of_links (s := s) (t := endSending (harmCopy (bump s .sxCtAbort [sx, o.1]) sx 3 o.1 g.2) sx o.1) (by simp) y
  rw [← hlinks] at h ⊢
  rw [abortOutput, linkOf_of_links (emit_links _ _), linkOf_sendSlots _ h]

theorem linkOf_cutInput {s : State} {y : Nat} (sx port : Nat) (g : Nat × Pkt) (h : noAbortOn s y) :
    linkOf (cutInput s sx port g) y = linkOf s y := by
  refine (linkOf_of_links (cutInput_links s sx port g) y).trans ?_
  refine List.foldlRecOn (motive := fun t => linkOf t y = linkOf s y) _ _ rfl fun t ht o ho => ?_
  obtain ⟨e, he, w, hw, hstr⟩ := sending_of_cutOutputs ho
  refine (linkOf_abortOutput fun hy => ?_).trans ht
  rw [ht]
  exact h.resolve_left fun hq => hq e he w hw (hstr.trans hy)

theorem portDown_links (s : State) (x : Nat) (g : Option (Nat × Pkt)) :
    ∃ sx port, (portDown s x g).links = (g.elim s (cutInput s sx port)).links := by
  by_cases hx : x < 512
  · refine ⟨x / 128, x % 128, ?_⟩
    cases g <;> simp [portDown, hx]
  · refine ⟨(x - 512) / 8, 128 + (x - 512) / 4 % 2, ?_⟩
    cases g <;> simp only [portDown, if_neg hx, Option.elim] <;> (repeat' split) <;> simp

theorem linkOf_portDown {s : State} {y : Nat} (x : Nat) (g : Option (Nat × Pkt)) (h : noAbortOn s y) :
    linkOf (portDown s x g) y = linkOf s y := by
  obtain ⟨sx, port, hl⟩ := portDown_links s x g
  refine (linkOf_of_links hl y).trans ?_
  cases g with
  | none => rfl
  | some g => exact linkOf_cutInput sx port g h

/-! A string goes down (Table 13-9, R384). -/

/-- The state in which a string has gone down and its port has not yet acted. -/
def fallen (s : State) (x : Nat) (c : DownCause) : State :=
  let t := if c = .noLight ∨ c = .refclk then s else emit s (.link x (.train (myTrain s x true)))
  let t := bump t .lnkDown [x, causeCode c]
  let t := if brolaEnd x then t else scroll t 3 .linkDown (siteOX (oxOf x)) [x, causeCode c]
  let t := setLink t x (downLink (linkOf s x) c (linkNow t x))
  { t with opt := { t.opt with moves := t.opt.moves.set x none } }

theorem stringDown_eq (s : State) (x : Nat) (c : DownCause) :
    stringDown s x c = if (linkOf s x).stage = 9 then
      (if brolaEnd x then brolaStringDown (fallen s x c) (x - 544) else portDown (fallen s x c) x (inHand (linkOf s x))) else fallen s x c := rfl

theorem fallen_sw (s : State) (x : Nat) (c : DownCause) : (fallen s x c).sw = s.sw := by
  simp only [fallen, setLink_sw]
  (repeat' split) <;> simp

theorem linkOf_fallen (s : State) (x y : Nat) (c : DownCause) :
    linkOf (fallen s x c) y = if x = y then downLink (linkOf s x) c (linkNow s x) else linkOf s y := by
  have hnow : ∀ t : State, t.clk = s.clk → t.brola = s.brola → linkNow t x = linkNow s x := fun t hc hb => by simp [linkNow, hc, hb]
  have hsame : ∀ t : State, t.links = s.links → t.clk = s.clk → t.brola = s.brola →
      linkOf (setLink t x (downLink (linkOf s x) c (linkNow t x))) y = if x = y then downLink (linkOf s x) c (linkNow s x) else linkOf s y :=
    fun t hl hc hb => by rw [linkOf_setLink, hnow t hc hb, linkOf_of_links hl]
  simp only [fallen]
  refine hsame _ ?_ ?_ ?_ <;> (repeat' split) <;> simp

theorem downLink_notReady (l : Link) (c : DownCause) (now : Nat) : (downLink l c now).stage ≠ 9 := by cases c <;> simp [downLink, restartOf]

theorem linkOf_stringDown {s : State} {x y : Nat} {c : DownCause} (h : y = x ∨ quietLink s y) :
    linkOf (stringDown s x c) y = linkOf (fallen s x c) y := by
  have hno : noAbortOn (fallen s x c) y := by
    rcases h with rfl | hq
    · exact .inr (by rw [linkOf_fallen, if_pos rfl]; exact downLink_notReady _ _ _)
    · exact .inl (by rw [quietLink, fallen_sw]; exact hq)
  rw [stringDown_eq]
  split
  · split
    · exact linkOf_of_links rfl y
    · exact linkOf_portDown _ _ hno
  · rfl

theorem linkOf_stringDown_self (s : State) (x : Nat) (c : DownCause) :
    linkOf (stringDown s x c) x = downLink (linkOf s x) c (linkNow s x) := by
  rw [linkOf_stringDown (.inl rfl), linkOf_fallen, if_pos rfl]

theorem linkOf_stringDown_quiet {s : State} {x y : Nat} (c : DownCause) (hne : y ≠ x) (hq : quietLink s y) :
    linkOf (stringDown s x c) y = linkOf s y := by
  rw [linkOf_stringDown (.inr hq), linkOf_fallen, if_neg hne.symm]

theorem stringDown_miswire (s : State) (x : Nat) :
    (linkOf (stringDown s x .miswire) x).stage = 0 ∧ (linkOf (stringDown s x .miswire) x).cause = .miswire := by
  rw [linkOf_stringDown_self]
  exact ⟨rfl, rfl⟩

/-! An event is in the scroll, or counted as suppressed (R509, R511). -/

theorem mem_drop_append_last {α : Type} {l : List α} {n : Nat} (a : α) (h : n ≤ l.length) : a ∈ (l ++ [a]).drop n := by
  rw [List.drop_append_of_le_length h]
  simp

theorem mem_tailPush (t : Tel) (e : ScrollEntry) : e ∈ (tailPush t e).tail ++ (tailPush t e).waitQ := by
  unfold tailPush
  split
  · simp
  · dsimp only
    exact List.mem_append_left _ (mem_drop_append_last _ (by omega))

theorem sealEntry_event (s : State) (e : ScrollEntry) :
    (sealEntry s e).cls = e.cls ∧ (sealEntry s e).ev = e.ev ∧ (sealEntry s e).site = e.site ∧ (sealEntry s e).args = e.args := by
  simp only [sealEntry]
  split <;> exact ⟨rfl, rfl, rfl, rfl⟩

theorem noted_scroll (s : State) (cls : Nat) (ev : ScrollEv) (site : Nat) (args : List Nat) :
    noted (scroll s cls ev site args) cls ev site args := by
  simp only [scroll, scrollEntry, Bool.false_eq_true, if_false]
  split
  · refine .inr ?_
    rw [count_bump]
    exact le_min (Nat.le_add_left 1 _) (by norm_num [ctrMax])
  · exact .inl ⟨_, mem_tailPush _ _, sealEntry_event _ _⟩

end Sys2Proof.Machine
end

section
/-! SUPPORT. The control frames of a string and the snapshots of the Brola, case by case, and O34 (R105, R107, R131 to R133, R180, R416,
R506, R507). -/

namespace Sys2Proof.Machine

open Sys2Proof

/-! ATTACH and BRIDGE_HELLO (R107, R180, R416). -/

theorem strReady_iff (s : State) (n : Nat) : strReady s n = true ↔ (linkOf s n).stage = 9 := by simp [strReady]

theorem setLink_only (s : State) (n : Nat) (l : Link) :
    linkOf (setLink s n l) n = l ∧ (∀ m, m ≠ n → linkOf (setLink s n l) m = linkOf s m) ∧ setLink s n l = { s with links := (setLink s n l).links } :=
  ⟨linkOf_setLink_self _ _ _, fun m hm => by rw [linkOf_setLink, if_neg hm.symm], rfl⟩

theorem linkOf_miswired (s : State) (n m : Nat) (ev : ScrollEv) (args : List Nat) :
    linkOf (miswired s n ev args) m = linkOf (stringDown s n .miswire) m := linkOf_of_links (scroll_links _ _ _ _ _ _) m

theorem miswired_down (s : State) (n : Nat) (ev : ScrollEv) (args : List Nat) :
    (linkOf (miswired s n ev args) n).stage = 0 ∧ (linkOf (miswired s n ev args) n).cause = .miswire := by
  rw [linkOf_miswired]
  exact stringDown_miswire s n

section
variable {s : State} {n : Nat} (hr : strReady s n = true)
include hr

theorem exec_attach_leafString (id : W64) (b : Nat) (leaf : LeafReport) (hn : n < 512) (hb : isBridge s n = false) :
    exec (.attach n id b leaf) s = .next (if attachFits s n b then setLink s n { linkOf s n with attach := id, attachB := b, attachOk := true }
      else miswired s n .miswired [b]) := by
  show execAttach n id b leaf s = _
  simp [execAttach, hn, hb, (strReady_iff s n).1 hr]

theorem exec_bridgeHello_bridge (h : BridgeHello) (hn : n < 512) (hb : isBridge s n = true) :
    exec (.bridgeHello n h) s = .next (if h = farHello s n then setLink s n { linkOf s n with attachOk := true }
      else miswired s n .bridgeMiscabled [h.dy, h.dx, h.course, ofB h.memberB, h.dir]) := by
  show execBridgeHello n h s = _
  simp [execBridgeHello, hn, hb, (strReady_iff s n).1 hr]

theorem exec_bridgeHello_soundpost (h : BridgeHello) (hn : 512 ≤ n ∧ n < 544) :
    exec (.bridgeHello n h) s = .next (if twinHelloOk s h then setLink s n { linkOf s n with attachOk := true } else stringDown s n .miswire) := by
  show execBridgeHello n h s = _
  simp [execBridgeHello, hn, Nat.not_lt.2 hn.1, (strReady_iff s n).1 hr]

end

/-! ASSIGN (R131, R288). -/

/-- Of two ASSIGN frames the one with the higher sweep number, the first among equals (R131). -/
def higherSweep (x y : Assign) : Assign := if x.sweep < y.sweep then y else x

theorem higherSweep_le (x y : Assign) : x.sweep ≤ (higherSweep x y).sweep ∧ y.sweep ≤ (higherSweep x y).sweep := by
  unfold higherSweep
  split <;> omega

theorem foldl_higherSweep_le (l : List Assign) (a : Assign) :
    a.sweep ≤ (l.foldl higherSweep a).sweep ∧ ∀ y ∈ l, y.sweep ≤ (l.foldl higherSweep a).sweep := by
  induction l generalizing a with
  | nil => simp
  | cons y t ih =>
    obtain ⟨hstart, hall⟩ := ih (higherSweep a y)
    obtain ⟨ha, hy⟩ := higherSweep_le a y
    exact ⟨ha.trans hstart, List.forall_mem_cons.2 ⟨hy.trans hstart, hall⟩⟩

theorem foldl_higherSweep_top {l : List Assign} {a : Assign} (h : ∀ y ∈ l, y.sweep ≤ a.sweep) : l.foldl higherSweep a = a := by
  induction l with
  | nil => rfl
  | cons y t ih =>
    obtain ⟨hy, ht⟩ := List.forall_mem_cons.1 h
    rw [List.foldl_cons, higherSweep, if_neg (by omega), ih ht]

theorem assignTop_eq (l : TMap Nat (Option Assign)) (a : Assign) : assignTop l a = (l.filterMap (·.2)).foldl higherSweep a := rfl

theorem assignTop_le (l : TMap Nat (Option Assign)) (a : Assign) :
    a.sweep ≤ (assignTop l a).sweep ∧ ∀ x ∈ l, ∀ y, x.2 = some y → y.sweep ≤ (assignTop l a).sweep := by
  obtain ⟨hstart, hall⟩ := foldl_higherSweep_le (l.filterMap (·.2)) a
  exact ⟨hstart, fun x hx y hy => hall y (List.mem_filterMap.2 ⟨x, hx, hy⟩)⟩

theorem assignTop_top {l : TMap Nat (Option Assign)} {a : Assign} (h : ∀ x ∈ l, ∀ y, x.2 = some y → y.sweep ≤ a.sweep) : assignTop l a = a :=
  foldl_higherSweep_top fun y hy => by
    obtain ⟨x, hx, hxy⟩ := List.mem_filterMap.1 hy
    exact h x hx y hxy

theorem mem_tmapSet {κ ν : Type} [DecidableEq κ] {m : TMap κ ν} {k : κ} {v : ν} {e : κ × ν} :
    e ∈ TMap.set m k v ↔ e = (k, v) ∨ (e ∈ m ∧ e.1 ≠ k) := by
  simp [TMap.set, TMap.erase]

/-- The table read that a digest starts leaves what the Brola was assigned (R288). -/
theorem takeDigest_assigned (s : State) (d : W64) :
    (takeDigest s d).brola.asg = s.brola.asg ∧ (takeDigest s d).brola.assigns = s.brola.assigns := by
  unfold takeDigest
  split
  · exact ⟨rfl, rfl⟩
  · unfold readGroups
    refine List.foldlRecOn (motive := fun t : State => t.brola.asg = s.brola.asg ∧ t.brola.assigns = s.brola.assigns) _ _ ?_ fun t ht _ _ => ht
    exact ⟨rfl, rfl⟩

/-- The Brola holding a new ASSIGN of string b, the one of the highest sweep in force. -/
def assigned (s : State) (b : Nat) (a : Assign) : State :=
  { s with brola := { s.brola with assigns := s.brola.assigns.set b (some a), asg := some (assignTop (s.brola.assigns.set b (some a)) a) } }

theorem exec_assign {s : State} {b : Nat} (a : Assign) (hb : b < 32) :
    exec (.assign b a) s = .next (takeDigest (assigned s b a) (assignTop (s.brola.assigns.set b (some a)) a).digest) := by
  show execAssign b a s = _
  rw [execAssign, if_neg (by omega)]
  rfl

/-- While no string holds a higher sweep the new frame applies; with its digest acted upon nothing is read (R131, R288). -/
theorem exec_assign_top {s : State} {b : Nat} {a : Assign} (hb : b < 32)
    (htop : ∀ x ∈ s.brola.assigns, ∀ y, x.2 = some y → y.sweep ≤ a.sweep) (hd : s.brola.digest = some a.digest) :
    exec (.assign b a) s = .next { s with brola := { s.brola with assigns := s.brola.assigns.set b (some a), asg := some a } } := by
  have ha : assignTop (s.brola.assigns.set b (some a)) a = a := assignTop_top fun x hx y hy => by
    rcases mem_tmapSet.1 hx with rfl | ⟨hm, -⟩
    · cases hy
      exact Nat.le_refl _
    · exact htop x hm y hy
  rw [exec_assign a hb, assigned, ha, takeDigest, if_pos hd]

/-- An ASSIGN below the highest sweep that another string holds leaves that one in force. -/
theorem exec_assign_below {s : State} {b : Nat} {a : Assign} (hb : b < 32)
    (h : ∃ x ∈ s.brola.assigns, x.1 ≠ b ∧ ∃ y, x.2 = some y ∧ a.sweep < y.sweep) :
    ∃ u z, exec (.assign b a) s = .next u ∧ u.brola.asg = some z ∧ u.brola.assigns.get b none = some a ∧ a.sweep < z.sweep
      ∧ ∀ x ∈ s.brola.assigns, x.1 ≠ b → ∀ y, x.2 = some y → y.sweep ≤ z.sweep := by
  obtain ⟨-, hall⟩ := assignTop_le (s.brola.assigns.set b (some a)) a
  have hothers : ∀ x ∈ s.brola.assigns, x.1 ≠ b → ∀ y, x.2 = some y → y.sweep ≤ (assignTop (s.brola.assigns.set b (some a)) a).sweep :=
    fun x hx hne => hall x (mem_tmapSet.2 (.inr ⟨hx, hne⟩))
  obtain ⟨x, hx, hne, y, hy, hlt⟩ := h
  obtain ⟨hasg, hheld⟩ := takeDigest_assigned (assigned s b a) (assignTop (s.brola.assigns.set b (some a)) a).digest
  refine ⟨_, _, exec_assign a hb, hasg, ?_, hlt.trans_le (hothers x hx hne y hy), hothers⟩
  rw [hheld]
  exact TMap.get_set_self _ _ _ _

/-! STEER (R132). -/

theorem exec_steer_unsent {s : State} (b : Nat) {c : Nat} {mB : Bool} (h : ∀ o ∈ s.brola.rq.out, sentTo s o c mB = false) :
    exec (.steer b c mB) s = .next { s with brola := { s.brola with steered := insertOnce (c, mB) s.brola.steered } } := by
  have hnone : s.brola.rq.out.filter (fun o => sentTo { s with brola := { s.brola with steered := insertOnce (c, mB) s.brola.steered } } o c mB)
      = [] := List.filter_eq_nil_iff.2 fun o ho => by simpa [sentTo] using h o ho
  show execSteer b c mB s = _
  simp only [execSteer, hnone, List.map_nil, List.foldl_nil]

/-! Snapshots (R506, R507). -/

theorem exec_snap_kept {s : State} (b : Nat) {time : Nat} (h : time ∈ s.brola.snaps ∨ 4 ≤ s.brola.snaps.length) :
    exec (.snap b time) s = .next s := by
  show execSnap b time s = _
  rw [execSnap, if_pos (h.imp_right .inr)]

theorem exec_snap_new {s : State} (b : Nat) {time : Nat} (hn : time ∉ s.brola.snaps) (hc : ∀ x ∈ s.brola.snapCopies, x.1 ≠ time)
    (h4 : s.brola.snaps.length < 4) :
    exec (.snap b time) s = .next { s with brola := { s.brola with snaps := s.brola.snaps ++ [time] } } := by
  show execSnap b time s = _
  rw [execSnap, if_neg]
  rintro (h | h | h)
  · exact hn h
  · obtain ⟨x, hx, he⟩ := List.any_eq_true.1 h
    exact hc x hx (by simpa using he)
  · omega

theorem exec_brolaSnapshot_due {s : State} {time : Nat} (h : time ∈ s.brola.snaps) (ht : time ≤ s.brola.now) :
    exec (.brolaSnapshot time) s = .next { s with brola := { s.brola with
      snaps := s.brola.snaps.filter (· != time)
      snapCopies := s.brola.snapCopies ++ [(time, s.ctr.filter fun c => isBrolaCtr c.1)] } } := by
  show execBrolaSnapshot time s = _
  rw [execBrolaSnapshot, if_pos ⟨h, ht⟩]

theorem exec_brolaSnapshot_early {s : State} {time : Nat} (h : time ∉ s.brola.snaps ∨ s.brola.now < time) :
    exec (.brolaSnapshot time) s = .next s := by
  show execBrolaSnapshot time s = _
  rw [execBrolaSnapshot, if_neg (by rintro ⟨hm, ht⟩; rcases h with h | h <;> [exact h hm; omega])]

end Sys2Proof.Machine

open Sys2Proof Sys2Proof.Machine

/-- Settles O34: the wiring that a Ready string reports is noted, or it goes down with MISWIRE; then what the Brola keeps of its frames. -/
theorem stringFrames : Obligations.StringFrames := by
  refine ⟨fun s n b leaf id h hn hr => ⟨?attach, ?attachMiswired, ?hello, ?helloMiswired, ?twinHello, ?twinMiswired⟩,
    fun s b c time mB a hb => ⟨?assignTop, exec_assign_below hb, ?steer, ?restore, exec_snap_new b, exec_snap_kept b, ?snapshot, exec_brolaSnapshot_early⟩⟩
  case attach =>
    intro hl hb hf
    exact ⟨_, by rw [exec_attach_leafString hr id b leaf hl hb, if_pos hf], setLink_only _ _ _⟩
  case attachMiswired =>
    intro hl hb hf
    obtain ⟨hstage, hcause⟩ := miswired_down s n .miswired [b]
    refine ⟨_, by rw [exec_attach_leafString hr id b leaf hl hb, if_neg (by simp [hf])], hstage, hcause, fun m hm hq => ?_, noted_scroll _ _ _ _ _⟩
    rw [linkOf_miswired, linkOf_stringDown_quiet _ hm hq]
  case hello =>
    intro hl hb hf
    exact ⟨_, by rw [exec_bridgeHello_bridge hr h hl hb, if_pos hf], by rw [linkOf_setLink_self], rfl⟩
  case helloMiswired =>
    intro hl hb hf
    exact ⟨_, by rw [exec_bridgeHello_bridge hr h hl hb, if_neg hf], miswired_down _ _ _ _⟩
  case twinHello =>
    intro hl hf
    exact ⟨_, by rw [exec_bridgeHello_soundpost hr h ⟨hl, hn⟩, if_pos hf], by rw [linkOf_setLink_self], rfl⟩
  case twinMiswired =>
    intro hl hf
    exact ⟨_, by rw [exec_bridgeHello_soundpost hr h ⟨hl, hn⟩, if_neg (by simp [hf])], stringDown_miswire _ _⟩
  case assignTop => exact fun htop hd => ⟨_, exec_assign_top hb htop hd, rfl, TMap.get_set_self _ _ _ _, rfl, rfl⟩
  case steer => exact fun h => ⟨_, exec_steer_unsent b h, fun x => mem_insertOnce, rfl⟩
  case restore => exact ⟨_, rfl, fun x => by simp [and_comm], rfl⟩
  case snapshot => exact fun hm ht => ⟨_, _, exec_brolaSnapshot_due hm ht, rfl, by simp, fun x => List.mem_filter⟩

end

section
/-! SUPPORT. What is sent is only added to: settling requests and invalidations leaves everything sent before in place (R70, R126). -/

namespace Sys2Proof.Machine

open Sys2Proof

/-! Operations that send nothing. -/

theorem foldl_out {α : Type} {f : State → α → State} (h : ∀ s a, (f s a).out = s.out) (l : List α) (s : State) :
    (l.foldl f s).out = s.out :=
  List.foldlRecOn l f (motive := fun t => t.out = s.out) rfl fun t ht a _ => (h t a).trans ht

@[simp] theorem setResp_out (s : State) (w : Party) (p : Resp) : (setResp s w p).out = s.out := by cases w <;> rfl

@[simp] theorem setRunning_out (s : State) (w : Party) (x : Running) : (setRunning s w x).out = s.out := by simp [setRunning]

@[simp] theorem dropRunning_out (s : State) (w : Party) (r : Req) : (dropRunning s w r).out = s.out := by simp [dropRunning]

@[simp] theorem dupEvicted_out (s : State) (w : Party) (e : DupEntry) : (dupEvicted s w e).out = s.out := by
  unfold dupEvicted
  (repeat' split) <;> simp

theorem elim_dupEvicted_out (s : State) (w : Party) (o : Option DupEntry) : (o.elim s (dupEvicted s w)).out = s.out := by
  cases o with
  | none => rfl
  | some e => exact dupEvicted_out s w e

@[simp] theorem addDup_out (s : State) (w : Party) (e : DupEntry) : (addDup s w e).out = s.out := by
  simp only [addDup]
  split_ifs <;> simp [elim_dupEvicted_out]

@[simp] theorem setCount_out (s : State) (w : Party) (src epoch : Nat) (c : CountSlot) : (setCount s w src epoch c).out = s.out := by
  simp [setCount]

@[simp] theorem takeCount_out (s : State) (w : Party) (r : Req) : (takeCount s w r).1.out = s.out := by
  simp only [takeCount]
  (repeat' split) <;> simp

@[simp] theorem zeroCount_out (s : State) (w : Party) (src epoch : Nat) : (zeroCount s w src epoch).out = s.out := by
  unfold zeroCount
  split <;> simp

@[simp] theorem dropFinal_out (s : State) (w : Party) (r : Req) : (dropFinal s w r).out = s.out := by simp [dropFinal]

@[simp] theorem gapNote_out (s : State) (b : MirrorBody) : (gapNote s b).out = s.out := by
  simp only [gapNote]
  (repeat' split) <;> rfl

@[simp] theorem aloneChange_out (s : State) (sx key capo : Nat) (b : MirrorBody) : (aloneChange s sx key capo b).out = s.out := by
  simp only [aloneChange]
  (repeat' split) <;> simp

@[simp] theorem mirrorChange_out (s : State) (sx key capo : Nat) (b : MirrorBody) : (mirrorChange s sx key capo b).1.out = s.out := by
  unfold mirrorChange
  (repeat' split) <;> simp

@[simp] theorem mirrorAll_out (s : State) (sx capo : Nat) (l : List (Nat × MirrorBody)) : (mirrorAll s sx capo l).1.out = s.out := by
  induction l generalizing s with
  | nil => rfl
  | cons x t ih => simp [mirrorAll, ih]

@[simp] theorem performedWith_out (more : List Nat) (r : Req) (v : Via) (d : Done) : (performedWith more r v d).out = d.s.out := by
  simp only [performedWith, setRunning_out]
  (repeat' split) <;> simp

@[simp] theorem countDone_out (s : State) (w : Party) (r : Req) : (countDone s w r).out = s.out := by
  simp only [countDone]
  (repeat' split) <;> simp

@[simp] theorem memUncorr_out (s : State) (k : Nat) : (memUncorr s k).out = s.out := (memUncorr_undisturbed s k).out

@[simp] theorem homeWrite_out (s : State) (key : Nat) (bs : List Byte) (poison : Bool) : (homeWrite s key bs poison).out = s.out := by
  unfold homeWrite
  split
  · exact (physWrite_undisturbed s key bs poison).out
  · rfl

@[simp] theorem raiseOwn_out (s : State) (k : Bool × Nat × Nat) (inc : Nat) : (raiseOwn s k inc).out = s.out := by
  simp [raiseOwn, raiseCtr, mirrorNote]

@[simp] theorem flagFound_out (s : State) (m : Bool) (capo : Nat) (l : SwLoc) : (flagFound s m capo l).out = s.out := by cases l <;> rfl

@[simp] theorem swPerform_out (s : State) (r : Req) (l : SwLoc) : (swPerform s r l).s.out = s.out := by
  simp only [swPerform]
  (repeat' split) <;> simp [raiseCtr]

@[simp] theorem lfPerform_out (s : State) (r : Req) (l : LfLoc) : (lfPerform s r l).s.out = s.out := by
  simp only [lfPerform]
  (repeat' split) <;> rfl

@[simp] theorem leafWrite_out (s : State) (a : Nat) (bs : List Byte) (poison : Bool) : (leafWrite s a bs poison).out = s.out := rfl

@[simp] theorem shardRaise_out (s : State) (capo off n : Nat) : (shardRaise s capo off n).out = s.out :=
  foldl_out (fun t d => by dsimp only; split <;> simp) _ _

@[simp] theorem progStore_out (s : State) (r : Req) : (progStore s r).s.out = s.out := by
  simp only [progStore]
  split <;> rfl

@[simp] theorem finalChange_out (s : State) (w : Party) (r : Req) (b : StateRec) : (finalChange s w r b).1.out = s.out := by
  cases w
  · exact mirrorChange_out _ _ _ _ _
  · rfl

@[simp] theorem finalGone_out (s : State) (w : Party) (r : Req) : (finalGone s w r).1.out = s.out := by simp [finalGone]

@[simp] theorem heldPage_out (s : State) (r : Req) : (heldPage s r).s.out = s.out := by
  simp only [heldPage]
  (repeat' split) <;> simp [xlateFault, refuse]

@[simp] theorem heldRun_out (s : State) (h : HeldFinal) : (heldRun s h).s.out = s.out := by
  simp only [heldRun]
  split
  · split
    · rfl
    · cases lfLoc (aOff h.r.addr % 2 ^ 45) <;> simp [refuse]
  · split
    · split <;> simp
    · cases swLoc (aOff h.r.addr % 2 ^ 45) <;> simp [refuse]

/-! Operations that send completions. -/

theorem sends_nothing {s t : State} (h : t.out = s.out) : s.out <+: t.out := ⟨[], by rw [h, List.append_nil]⟩

theorem sendIfDone_sends (s : State) (w : Party) (r : Req) : s.out <+: (sendIfDone s w r).out := by
  simp only [sendIfDone]
  (repeat' split) <;> simp [sendDone, emits]

theorem finishIf_sends_more (s : State) (w : Party) (r : Req) : s.out <+: (finishIf s w r).out := by
  simp only [finishIf]
  split
  · exact sends_nothing rfl
  split
  · exact sends_nothing rfl
  (repeat' split) <;> simp [sendIfDone_sends]

theorem applyFinals_sends (n : Nat) (s : State) (w : Party) (src epoch : Nat) : s.out <+: (applyFinals n s w src epoch).out := by
  induction n generalizing s with
  | zero => exact sends_nothing rfl
  | succ n ih =>
    simp only [applyFinals]
    split
    · exact sends_nothing rfl
    · next h _ =>
      have hrun : s.out <+: (performedWith (finalGone s w h.r).2 h.r h.v (heldRun (finalGone s w h.r).1 h)).out := sends_nothing (by simp)
      exact (hrun.trans (finishIf_sends_more _ _ _)).trans (ih _)

theorem settle_sends (r : Req) (v : Via) (d : Done) : d.s.out <+: (settle r v d).out := by
  have hcount : d.s.out <+: (countDone (performed r v d) (partyOf v) r).out := sends_nothing (by simp [performed])
  exact (hcount.trans (applyFinals_sends _ _ _ _ _)).trans (finishIf_sends_more _ _ _)

theorem portFinish_sends (s : State) (tag ktag : Nat) (c : Cmp) : s.out <+: (portFinish s tag ktag c).out := by
  simp only [portFinish]
  (repeat' split) <;> simp [emit]

theorem invFinish_sends (s : State) (i : Inval) : s.out <+: (invFinish s i).out := by
  unfold invFinish
  split
  · exact settle_sends _ _ (refuse s .brola _ .ok)
  · exact portFinish_sends _ _ _ _
  · exact sends_nothing rfl

theorem invStep_sends {s t : State} (h : invStep s = some t) : s.out <+: t.out := by
  unfold invStep at h
  split at h
  · cases h
    exact invFinish_sends { s with brola := { s.brola with atsInv := dropFirst (invEnds s) s.brola.atsInv } } _
  · split at h
    · obtain ⟨i, -, rfl⟩ := Option.map_eq_some_iff.1 h
      exact sends_nothing rfl
    · cases h

theorem invGo_sends (n : Nat) (s : State) : s.out <+: (invGo n s).out := by
  induction n generalizing s with
  | zero => exact sends_nothing rfl
  | succ n ih =>
    unfold invGo
    split
    · next t h => exact (invStep_sends h).trans (ih t)
    · exact sends_nothing rfl

theorem invSettle_sends (s : State) : s.out <+: (invSettle s).out := invGo_sends _ s

end Sys2Proof.Machine
end

section
/-! SUPPORT. The Brola's request port, its translations and its invalidations, case by case, and O32 (R110, R111, R120, R125, R126, R550). -/

namespace Sys2Proof.Machine

open Sys2Proof

/-! How a request at the port ends, and how it goes on (R111, R114, R128). -/

theorem portFinish_ok {s : State} {c : Cmp} (tag ktag : Nat) (h : c.status = .ok) : portFinish s tag ktag c = emit s (.portDone tag c) := by
  simp [portFinish, h]

/-- A completion that is not OK is counted for its kernel. -/
theorem portFinish_xlateFault {s : State} {c : Cmp} (tag ktag : Nat) (h : c.status = .xlateFault) :
    portFinish s tag ktag c = emit (setKernel s ktag ((kernelOf s ktag).1, (kernelOf s ktag).2 + 1)) (.portDone tag c) := by
  simp [portFinish, h]

/-- The request as the port issues it: with the leaf's SRC and CAPO and the next SEQ of its stream. -/
def portSent (s : State) (r : Req) : Req :=
  { r with src := brolaSrc s, capo := (s.brola.asg.map (·.capo)).getD 0, seq := nextSeq s.brola.rq (destOf r.addr) r.tc, vc := false, retry := false, hops := 0 }

/-- A request of a legal format joins those outstanding, held until its release; nothing outside the requester changes. -/
theorem portIssue_legal {s : State} {r : Req} (tag ktag : Nat) (src : Option Nat) (h : portFormat r = true) :
    ∃ o, (portIssue s tag ktag r src).brola.rq.out = s.brola.rq.out ++ [o] ∧ o.owner = .port tag ktag ∧ o.released = false ∧ o.r = portSent s r
      ∧ portIssue s tag ktag r src = { s with brola := { s.brola with rq := (portIssue s tag ktag r src).brola.rq } } := by
  simp only [portIssue, if_pos h]
  exact ⟨_, rfl, rfl, rfl, rfl, rfl⟩

theorem portIssue_illegal {s : State} {r : Req} (tag ktag : Nat) (src : Option Nat) (h : portFormat r = false) :
    portIssue s tag ktag r src = portRefuse s tag ktag := by
  simp [portIssue, h]

/-- A request refused at the port is answered ACC_DENIED and counted for its kernel alone. -/
theorem portRefuse_effect (s : State) (tag ktag : Nat) : let u := portRefuse s tag ktag
    u.out = s.out ++ [.portRefused tag .accDenied] ∧ kernelOf u ktag = ((kernelOf s ktag).1, (kernelOf s ktag).2 + 1)
      ∧ (∀ k, k ≠ ktag → kernelOf u k = kernelOf s k) ∧ u = { s with out := u.out, brola := { s.brola with kernels := u.brola.kernels } } :=
  ⟨rfl, TMap.get_set_self _ _ _ _, fun _ hk => TMap.get_set_ne _ _ _ hk.symm, rfl⟩

/-! PORT_REQUEST (R110, R111, R125, R550). -/

theorem exec_portRequest_counter {s : State} {p : PortReq} {k : CtrKey} (h : p.ctr = some k) :
    exec (.portRequest p) s = .next (portCounter s p k) := by
  show execPortRequest p s = _
  simp only [execPortRequest, h]

section
variable {s : State} {p : PortReq} (hc : p.ctr = none)
include hc

theorem exec_portRequest_full (hl : portLoc s p.req = none) (hfull : 8192 ≤ portCount s) : exec (.portRequest p) s = .next s := by
  show execPortRequest p s = _
  simp only [execPortRequest, hc, hl, if_pos hfull, ite_self]

theorem exec_portRequest_fabric (hv : p.v = false) (hl : portLoc s p.req = none) (hroom : portCount s < 8192) :
    exec (.portRequest p) s = .next (portIssue s p.tag p.ktag p.req none) := by
  show execPortRequest p s = _
  simp only [execPortRequest, hc, hv, hl, Bool.false_eq_true, if_false, if_neg (Nat.not_le.2 hroom)]

theorem exec_portRequest_miss (hv : p.v = true) (hroom : portCount s < 8192) (hx : xlateHit s p.req.addr.toNat p.pasid = none) :
    exec (.portRequest p) s = .next (portWait s p) := by
  show execPortRequest p s = _
  simp only [execPortRequest, hc, hv, hx, if_true, if_neg (Nat.not_le.2 hroom)]

theorem exec_portRequest_hit {x : Nat × AtsXlate} (hv : p.v = true) (hroom : portCount s < 8192)
    (hx : xlateHit s p.req.addr.toNat p.pasid = some x) :
    exec (.portRequest p) s = .next (portXlated s p.tag p.ktag p.req p.req.addr.toNat x) := by
  show execPortRequest p s = _
  simp only [execPortRequest, hc, hv, hx, if_true, if_neg (Nat.not_le.2 hroom)]

end

theorem portXlated_readOnly {s : State} {r : Req} {x : Nat × AtsXlate} (tag ktag va : Nat) (hw : needsWrite r.op = true) (hx : x.2.write = false) :
    portXlated s tag ktag r va x = portFinish s tag ktag (cmpErr r (brolaSrc s) .xlateFault (BitVec.ofNat 64 va)) := by
  simp [portXlated, hw, hx]

theorem portXlated_writable {s : State} {r : Req} {x : Nat × AtsXlate} (tag ktag va : Nat) (hx : x.2.write = true) :
    portXlated s tag ktag r va x
      = portIssue (xlateTouch s x) tag ktag { r with addr := x.2.fbase + BitVec.ofNat 64 (va - x.2.vbase) } (some x.1) := by
  simp [portXlated, hx]

/-! The host's answers (R125). -/

section
variable {s : State} {o : Outst} {va pasid tag ktag : Nat} (hf : findOut s .brola o.id = some o) (hw : waiting o = some (va, pasid, tag, ktag))
include hf hw

theorem exec_atsTranslationComplete_none :
    exec (.atsTranslationComplete o.id none) s
      = .next (portFinish (dropOut s .brola o.id) tag ktag (cmpErr o.r (brolaSrc s) .xlateFault o.r.addr)) := by
  show execAtsTranslationComplete o.id none s = _
  simp only [execAtsTranslationComplete, hf, hw]
  rfl

theorem exec_atsTranslationComplete_bad {x : AtsXlate} (hx : xlateOk x va = false) :
    exec (.atsTranslationComplete o.id (some x)) s
      = .next (portFinish (dropOut s .brola o.id) tag ktag (cmpErr o.r (brolaSrc s) .xlateFault o.r.addr)) := by
  show execAtsTranslationComplete o.id (some x) s = _
  simp only [execAtsTranslationComplete, hf, hw, hx, Bool.false_eq_true, if_false]
  rfl

theorem exec_atsTranslationComplete_good {x : AtsXlate} (hx : xlateOk x va = true) :
    exec (.atsTranslationComplete o.id (some x)) s
      = .next (portXlated (xlateAdd (dropOut s .brola o.id) { x with pasid := pasid }).1 tag ktag o.r va (s.brola.nextXlate, { x with pasid := pasid })) := by
  show execAtsTranslationComplete o.id (some x) s = _
  simp only [execAtsTranslationComplete, hf, hw, hx, if_true]
  rfl

theorem exec_atsTranslationTimeout_due (ht : o.accepted + (s.brola.asg.map (·.cto)).getD 8000 * 1000 ≤ s.brola.now) :
    exec (.atsTranslationTimeout o.id) s
      = .next (portFinish (dropOut s .brola o.id) tag ktag (cmpErr o.r (brolaSrc s) .xlateFault o.r.addr)) := by
  show execAtsTranslationTimeout o.id s = _
  simp only [execAtsTranslationTimeout, hf, hw, if_pos ht]

theorem exec_atsTranslationTimeout_early (ht : s.brola.now < o.accepted + (s.brola.asg.map (·.cto)).getD 8000 * 1000) :
    exec (.atsTranslationTimeout o.id) s = .next s := by
  show execAtsTranslationTimeout o.id s = _
  simp only [execAtsTranslationTimeout, hf, hw, if_neg (Nat.not_le.2 ht)]

end

/-- A waiting request that ends with XLATE_FAULT leaves the outstanding ones, and its completion goes to the accelerator. -/
theorem portFinish_dropOut (s : State) (id tag ktag : Nat) (r : Req) : let u := portFinish (dropOut s .brola id) tag ktag (cmpErr r (brolaSrc s) .xlateFault r.addr)
    u.out = s.out ++ [.portDone tag (cmpErr r (brolaSrc s) .xlateFault r.addr)] ∧ u.brola.rq.out = dropFirst (fun y => y.id == id) s.brola.rq.out
      ∧ u.brola.xlates = s.brola.xlates := by
  rw [portFinish_xlateFault tag ktag rfl]
  exact ⟨rfl, rfl, rfl⟩

/-- A translation that permits writes is kept as the latest copy, and its request goes on in place of the one that waited. -/
theorem portXlated_added {s : State} {x : AtsXlate} {r : Req} (id tag ktag va : Nat) (hw : x.write = true)
    (hf : portFormat { r with addr := x.fbase + BitVec.ofNat 64 (va - x.vbase) } = true) :
    let u := portXlated (xlateAdd (dropOut s .brola id) x).1 tag ktag r va (s.brola.nextXlate, x)
    ∃ o', u.brola.rq.out = dropFirst (fun y => y.id == id) s.brola.rq.out ++ [o'] ∧ o'.r.addr = x.fbase + BitVec.ofNat 64 (va - x.vbase)
      ∧ o'.owner = .port tag ktag ∧ (s.brola.nextXlate, x) ∈ u.brola.xlates ∧ u.out = s.out := by
  rw [portXlated_writable _ _ _ hw]
  obtain ⟨o', hout, howner, -, hr, hrest⟩ := portIssue_legal
    (s := xlateTouch (xlateAdd (dropOut s .brola id) x).1 (s.brola.nextXlate, x)) tag ktag (some s.brola.nextXlate) hf
  refine ⟨o', hout, by rw [hr]; rfl, howner, ?_, ?_⟩
  · rw [hrest]
    exact List.mem_append_right _ (List.mem_singleton_self _)
  · rw [hrest]
    rfl

/-! Invalidations (R126; log entry 173). -/

theorem mem_xlates_dropXlates (s : State) (lo len : Nat) (x : Nat × AtsXlate) :
    x ∈ (dropXlates s lo len).1.brola.xlates ↔ x ∈ s.brola.xlates ∧ overlap lo len x.2.vbase x.2.size = 0 := by
  simp [dropXlates]

/-- An invalidation waits for each request outstanding whose translation it discards. -/
theorem mem_waits_dropXlates {s : State} {lo len n : Nat} {o : Outst} (ho : o ∈ s.brola.rq.out) (hn : o.xlateSrc = some n)
    (hx : ∃ x ∈ s.brola.xlates, x.1 = n ∧ overlap lo len x.2.vbase x.2.size ≠ 0) : o.id ∈ (dropXlates s lo len).2 := by
  obtain ⟨x, hmem, rfl, hov⟩ := hx
  refine List.mem_map_of_mem (List.mem_filter.2 ⟨ho, ?_⟩)
  rw [hn]
  exact decide_eq_true (List.mem_map_of_mem (List.mem_filter.2 ⟨hmem, decide_eq_true hov⟩))

theorem invAdd_room {s : State} (i : Inval) (h : invRoom s = true) :
    (invAdd s i).1 = { s with brola := { s.brola with
      atsInv := s.brola.atsInv ++ [{ i with begun := true, waits := (dropXlates s i.lo i.len).2 }]
      xlates := (dropXlates s i.lo i.len).1.brola.xlates } } := by
  simp only [invAdd, h, if_true]
  rfl

theorem invAdd_full {s : State} (i : Inval) (h : invRoom s = false) :
    (invAdd s i).1 = { s with brola := { s.brola with atsInv := s.brola.atsInv ++ [i] } } := by
  simp only [invAdd, h, Bool.false_eq_true, if_false]

theorem exec_atsInvalidation (tag lo len : Nat) (s : State) :
    exec (.atsInvalidation tag lo len) s = .next (invAdd s { tag := some tag, lo := lo, len := len }).1 := rfl

theorem invalDone_iff (s : State) (i : Inval) : invalDone s i = true ↔ i.begun = true ∧ ∀ id ∈ i.waits, findOut s .brola id = none := by
  simp [invalDone]

section
variable {s : State} {tag : Nat} {i : Inval} {t : List Inval} (hi : s.brola.atsInv = i :: t) (htag : i.tag = some tag)
include hi htag

theorem exec_atsInvalidationComplete_done (hd : invalDone s i = true) :
    exec (.atsInvalidationComplete tag) s
      = .next (invSettle (emit { s with brola := { s.brola with atsInv := t } } (.atsInvDone tag))) := by
  show execAtsInvalidationComplete tag s = _
  simp [execAtsInvalidationComplete, hi, htag, hd, dropFirst]

theorem exec_atsInvalidationComplete_early (hd : invalDone s i = false) : exec (.atsInvalidationComplete tag) s = .next s := by
  show execAtsInvalidationComplete tag s = _
  simp [execAtsInvalidationComplete, hi, htag, hd]

end

/-- Without an invalidation nothing goes on. -/
theorem invSettle_none {s : State} (h : s.brola.atsInv = []) : invSettle s = s := by simp [invSettle, h, invGo]

end Sys2Proof.Machine

open Sys2Proof Sys2Proof.Machine

/-- Settles O32: the accelerator's reads of counters, its requests, the host's translations, and the host's invalidations. -/
theorem leafPortTranslates : Obligations.LeafPortTranslates := by
  refine ⟨fun s p k hk => ⟨?counter, ?noCounter⟩, fun s p hc hl => ⟨?legal, ?illegal, exec_portRequest_full hc hl, ?miss, ?readOnly⟩,
    fun s o va pasid tag ktag x hf hw => ⟨?noXlate, ?good, ?bad, ?due, exec_atsTranslationTimeout_early hf hw⟩,
    fun s tag lo len i t => ⟨?room, ?full, fun hi htag => ⟨fun hb hwaits => ?_, ?early⟩⟩⟩
  case counter =>
    intro hb
    refine ⟨_, { cmpOf p.req (brolaSrc s) .ok with result := BitVec.ofNat 64 (count s k.1 k.2) }, exec_portRequest_counter hk, ?_, rfl, rfl⟩
    rw [portCounter, if_pos hb, portFinish_ok _ _ rfl, emit]
  case noCounter =>
    intro hb
    refine ⟨portRefuse s p.tag p.ktag, ?_, rfl, rfl⟩
    rw [exec_portRequest_counter hk, portCounter, if_neg (by simp [hb])]
  case legal =>
    intro hv hroom hfmt
    obtain ⟨o, hout, howner, hrel, hr, hrest⟩ := portIssue_legal (s := s) p.tag p.ktag none hfmt
    exact ⟨_, o, exec_portRequest_fabric hc hv hl hroom, hout, howner, hrel, by rw [hr]; rfl, by rw [hr]; rfl, hrest⟩
  case illegal =>
    intro hv hroom hfmt
    refine ⟨_, exec_portRequest_fabric hc hv hl hroom, ?_⟩
    rw [portIssue_illegal _ _ _ hfmt]
    exact portRefuse_effect s p.tag p.ktag
  case miss =>
    intro hv hroom hx
    exact ⟨_, _, exec_portRequest_miss hc hv hroom hx, rfl, rfl, rfl, rfl, rfl, rfl⟩
  case readOnly =>
    intro x hv hroom hx hneeds hro
    refine ⟨_, cmpErr p.req (brolaSrc s) .xlateFault (BitVec.ofNat 64 p.req.addr.toNat), exec_portRequest_hit hc hv hroom hx, ?_⟩
    rw [portXlated_readOnly _ _ _ hneeds hro, portFinish_xlateFault _ _ rfl]
    exact ⟨rfl, rfl, rfl⟩
  case noXlate =>
    obtain ⟨hout, hgone, -⟩ := portFinish_dropOut s o.id tag ktag o.r
    exact ⟨_, _, exec_atsTranslationComplete_none hf hw, hout, rfl, hgone⟩
  case good =>
    intro hx hwr _ hfmt
    obtain ⟨o', h⟩ := portXlated_added (s := s) (x := { x with pasid := pasid }) o.id tag ktag va hwr hfmt
    exact ⟨_, o', exec_atsTranslationComplete_good hf hw hx, h⟩
  case bad =>
    intro hx
    obtain ⟨hout, -, hkept⟩ := portFinish_dropOut s o.id tag ktag o.r
    exact ⟨_, _, exec_atsTranslationComplete_bad hf hw hx, hout, rfl, hkept⟩
  case due =>
    intro ht
    obtain ⟨hout, hgone, -⟩ := portFinish_dropOut s o.id tag ktag o.r
    exact ⟨_, _, exec_atsTranslationTimeout_due hf hw ht, hout, rfl, hgone⟩
  case room =>
    intro hr
    refine ⟨_, _, (exec_atsInvalidation _ _ _ _).trans (congrArg _ (invAdd_room _ hr)), rfl, fun o ho n hn => mem_waits_dropXlates ho hn, mem_xlates_dropXlates s lo len, rfl⟩
  case full =>
    intro hr
    rw [exec_atsInvalidation, invAdd_full _ hr]
  case early =>
    rintro (hb | ⟨id, hid, hout⟩)
    · exact exec_atsInvalidationComplete_early hi htag (by simp [invalDone, hb])
    · refine exec_atsInvalidationComplete_early hi htag (Bool.eq_false_iff.2 fun hd => ?_)
      exact hout (((invalDone_iff s i).1 hd).2 id hid)
  have hexec := exec_atsInvalidationComplete_done hi htag ((invalDone_iff s i).2 ⟨hb, hwaits⟩)
  refine ⟨⟨_, hexec, (invSettle_sends _).subset (by simp [emit])⟩, fun ht => ?_⟩
  rw [hexec, invSettle_none (by exact ht)]
  rfl

end

section
/-! SUPPORT. One decision of an arbiter: who contends, who wins, and what a grant, a flit and an emergency message change (R153, R154, R321). -/

namespace Sys2Proof.Machine

open Sys2Proof

/-! The winner and the lost rounds. -/

theorem arbBest_mem {l : List (Nat × Nat)} {b : Nat × Nat} (h : arbBest l = some b) : b ∈ l := by
  induction l with
  | nil => cases h
  | cons x t ih =>
    rw [arbBest] at h
    cases ht : arbBest t with
    | none =>
      rw [ht] at h
      cases h
      exact List.mem_cons_self
    | some y =>
      simp only [ht] at h
      split at h
      · exact List.mem_cons_of_mem x (ih (ht.trans h))
      · cases h
        exact List.mem_cons_self

theorem arbBest_pair (x y : Nat × Nat) : arbBest [x, y] = some (if x.2 < y.2 then y else x) := (apply_ite some _ _ _).symm

/-- Among requesters in ascending order the winner is the one that beats every other: by its score, or on a tie by its number (R153). -/
theorem arbBest_eq_some {l : List (Nat × Nat)} (hs : l.Pairwise fun x y => x.1 < y.1) {b : Nat × Nat} (hb : b ∈ l)
    (hmax : ∀ y ∈ l, y.1 ≠ b.1 → y.2 < b.2 ∨ (y.2 = b.2 ∧ b.1 < y.1)) : arbBest l = some b := by
  induction l with
  | nil => cases hb
  | cons x t ih =>
    obtain ⟨hx, ht⟩ := List.pairwise_cons.1 hs
    rw [arbBest]
    rcases List.mem_cons.1 hb with rfl | hbt
    · cases hy : arbBest t with
      | none => rfl
      | some y =>
        have hyt := arbBest_mem hy
        have hnot : ¬ y.2 > b.2 := by
          have := hmax y (List.mem_cons_of_mem _ hyt) (hx y hyt).ne'
          omega
        exact if_neg hnot
    · rw [ih ht hbt fun y hy => hmax y (List.mem_cons_of_mem _ hy)]
      have hlt := hx b hbt
      have hgt : b.2 > x.2 := by
        have := hmax x List.mem_cons_self hlt.ne
        omega
      exact if_pos hgt

/-- The lost rounds after a grant: none of the winner's, one more of each other requester's, the rest as they were. -/
theorem arbLost_get (a : Arb) (l : List Nat) (b t : Nat) :
    (arbLost a l b).get t 0 = if t ∈ l then (if t = b then 0 else min (a.lost.get t 0 + 1) 255) else a.lost.get t 0 := by
  suffices h : ∀ m : TMap Nat Nat, (l.foldl (fun m i => m.set i (if i = b then 0 else min (a.lost.get i 0 + 1) 255)) m).get t 0
      = if t ∈ l then (if t = b then 0 else min (a.lost.get t 0 + 1) 255) else m.get t 0 from h a.lost
  induction l with
  | nil => intro m; simp
  | cons i l ih =>
    intro m
    rw [List.foldl_cons, ih, TMap.get_set]
    by_cases hl : t ∈ l
    · simp [hl]
    · by_cases hi : i = t
      · simp [hi]
      · simp [hl, hi, Ne.symm hi]

/-! The classes that contend for an output. -/

/-- A class's head fits: credit, calendar and flits allow it to go (R153). -/
def ClassFits (s : State) (sx port t : Nat) : Prop :=
  ∃ h r, queueOf s sx port t false = h :: r ∧ h.cells ≤ creditAt s sx port t (pktCapo h.p) false
    ∧ calFits s sx port (pktCapo h.p) (pktFlits h.p) = true ∧ mayStart s sx h = true

/-- The stamp of a class's head packet. -/
def headStamp (s : State) (sx port t : Nat) : Nat := (queueOf s sx port t false).map (·.stamp) |>.headD 0

/-- The score of a class by its head's stamp (R153). -/
def classScore (s : State) (sx port t : Nat) : Nat := arbScore (arbOf s sx port) (stampNow s) (headStamp s sx port t) t

/-- The eligible classes with what they would send. -/
def contenders (s : State) (sx port : Nat) : List (Nat × Nat × Bool) :=
  (List.range 8).filterMap fun i => (eligible s sx port i).map fun x => (i, x)

/-- The eligible classes with their scores. -/
def scored (s : State) (sx port : Nat) : List (Nat × Nat) :=
  (contenders s sx port).map fun x => (x.1, arbScore (arbOf s sx port) (stampNow s) x.2.1 x.1)

theorem scored_pairwise (s : State) (sx port : Nat) : (scored s sx port).Pairwise fun x y => x.1 < y.1 := by
  refine List.pairwise_map.2 (List.pairwise_filterMap.2 (List.pairwise_lt_range.imp fun {i j} hij x hx y hy => ?_))
  obtain ⟨_, _, rfl⟩ := Option.map_eq_some_iff.1 hx
  obtain ⟨_, _, rfl⟩ := Option.map_eq_some_iff.1 hy
  exact hij

section
variable {s : State} {sx port : Nat} (hharm : isHarmonic s sx port = false) (hbridge : port < 128 → isBridge s (linkNo sx port) = false)
include hharm hbridge

/-- On an output that stores and forwards a grant sends the head packet of the class. -/
theorem grantClass_forward (cls : Nat) (vc : Bool) (ecc : EccMet) : grantClass s sx port cls vc ecc = transmit s sx port cls ecc := by
  rw [grantClass, if_neg (by simp [hharm]), if_neg (by simpa using hbridge)]

variable (hup : outputUp s sx port = true)
include hup

/-- There a class is eligible just when its head fits. -/
theorem eligible_forward (t : Nat) (x : Nat × Bool) :
    eligible s sx port t = some x ↔ ClassFits s sx port t ∧ x = (headStamp s sx port t, false) := by
  rw [eligible, if_neg (by simp [hup]), if_neg (by simp [hharm]), if_neg (by simpa using hbridge)]
  cases hq : queueOf s sx port t false with
  | nil => simp [ClassFits, hq]
  | cons h r =>
    have hfit : ClassFits s sx port t ↔ (h.cells ≤ creditAt s sx port t (pktCapo h.p) false
        ∧ calFits s sx port (pktCapo h.p) (pktFlits h.p) = true) ∧ mayStart s sx h = true := by simp [ClassFits, hq, and_assoc]
    have hstamp : headStamp s sx port t = h.stamp := by simp [headStamp, hq]
    rw [hfit, hstamp]
    simp only [Option.ite_none_right_eq_some, Option.some.injEq, Bool.and_eq_true, decide_eq_true_eq, eq_comm (a := x)]

theorem mem_scored_forward (x : Nat × Nat) :
    x ∈ scored s sx port ↔ x.1 < 8 ∧ ClassFits s sx port x.1 ∧ x.2 = classScore s sx port x.1 := by
  obtain ⟨t, n⟩ := x
  simp only [scored, contenders, List.mem_map, List.mem_filterMap, List.mem_range, Option.map_eq_some_iff,
    eligible_forward hharm hbridge hup, Prod.mk.injEq]
  constructor
  · rintro ⟨_, ⟨i, hi, _, ⟨hfit, rfl⟩, rfl⟩, rfl, rfl⟩
    exact ⟨hi, hfit, rfl⟩
  · rintro ⟨hi, hfit, rfl⟩
    exact ⟨_, ⟨t, hi, _, ⟨hfit, rfl⟩, rfl⟩, rfl, rfl⟩

/-- The class that beats every other one that fits is granted; the rounds are counted for the classes that fit. -/
theorem grantBest_forward {c : Nat} (hc : c < 8) (hfit : ClassFits s sx port c) (hbest : ∀ t < 8, t ≠ c → ClassFits s sx port t →
      classScore s sx port t < classScore s sx port c ∨ (classScore s sx port t = classScore s sx port c ∧ c < t)) (ecc : EccMet) :
    ∃ l, (∀ t, t ∈ l ↔ t < 8 ∧ ClassFits s sx port t) ∧ grantBest s sx port ecc
      = transmit (setArb s sx port { arbOf s sx port with lost := arbLost (arbOf s sx port) l c, emergRun := 0 }) sx port c ecc := by
  have hmem := mem_scored_forward hharm hbridge hup
  have hwin : arbBest (scored s sx port) = some (c, classScore s sx port c) := by
    refine arbBest_eq_some (scored_pairwise s sx port) ((hmem _).2 ⟨hc, hfit, rfl⟩) fun y hy hne => ?_
    obtain ⟨hy8, hyfit, hyscore⟩ := (hmem y).1 hy
    rw [hyscore]
    exact hbest y.1 hy8 hne hyfit
  refine ⟨(contenders s sx port).map (·.1), fun t => ?_, ?_⟩
  · have h : (contenders s sx port).map (·.1) = (scored s sx port).map (·.1) := by simp [scored]
    simp [h, hmem]
  · simp only [grantBest]
    rw [← contenders, ← scored, hwin]
    exact grantClass_forward (s := setArb s sx port _) hharm hbridge _ _ _

end

/-! What the parts of a grant leave alone. -/

@[simp] theorem pump_sw (s : State) (x : Nat) : (pump s x).sw = s.sw := by
  simp only [pump]
  split <;> rfl

@[simp] theorem sendSlots_sw (s : State) (x : Option Nat) (bs : List SlotBody) : (sendSlots s x bs).sw = s.sw := by
  unfold sendSlots
  split
  · rfl
  · dsimp only
    split <;> simp

/-- The parts of the switch core that a taken credit leaves alone. -/
theorem takeCredit_kept (s : State) (sx port n : Nat) (p : Pkt) (vc : Bool) :
    let u := takeCredit s sx port n p vc
    u.links = s.links ∧ u.sw.queues = s.sw.queues ∧ u.sw.arb = s.sw.arb := by
  simp only [takeCredit]
  split_ifs
  · cases p <;> exact ⟨rfl, rfl, rfl⟩
  all_goals exact ⟨rfl, rfl, rfl⟩

theorem portString_of_links {s u : State} (h : u.links = s.links) (sx port seq : Nat) : portString u sx port seq = portString s sx port seq := by
  have hr : strReady u = strReady s := funext fun x => by rw [strReady, strReady, linkOf_of_links h]
  simp only [portString, hr]

/-- A packet read out of its cells without an error. -/
theorem readOut_clean (s : State) (sx i : Nat) (banks : List Nat) (p : Pkt) : readOut s sx ⟨[], []⟩ i banks p = (s, some p) := rfl

/-- A packet that leaves on a peer link carries its route along (R162). -/
def onPeerLink (s : State) (port : Nat) (x : Nat × Pkt × (Nat × Nat × Bool) × Org) : State :=
  if 130 ≤ port ∧ port ≤ 132 then { s with sw := { s.sw with transit := s.sw.transit ++ [x] } } else s

theorem onPeerLink_kept (s : State) (port : Nat) (x : Nat × Pkt × (Nat × Nat × Bool) × Org) :
    let u := onPeerLink s port x
    u.links = s.links ∧ u.sw.queues = s.sw.queues ∧ u.sw.arb = s.sw.arb := by
  simp only [onPeerLink]
  split <;> exact ⟨rfl, rfl, rfl⟩

/-- A transmission that begins is the output's, unless it is one flit; queues and arbiters stay. -/
theorem beginSend_effect (s : State) (sx port flits cls : Nat) (str : Option Nat) (ps : List QPkt) :
    let u := beginSend s sx port flits cls str ps
    sendingAt u sx port = (if flits ≤ 1 then none else some { ps := ps, cls := cls, left := flits - 1, str := str })
      ∧ u.sw.queues = s.sw.queues ∧ u.sw.arb = s.sw.arb := by
  simp [beginSend, sendingAt]

/-- A packet sent without a bank error: it leaves its queue and this SX, and its transmission begins (R136, R146). -/
theorem transmit_effect {s : State} {sx port c : Nat} {q : QPkt} {tl : List QPkt} (hq : queueOf s sx port c false = q :: tl) :
    let u := transmit s sx port c ⟨[], []⟩
    let out := rechannel s port q.dest.2.2 q.p
    u.sw.queues = s.sw.queues.set (sx, port, c, false) tl ∧ u.sw.arb = s.sw.arb ∧ Out.fwd out sx port ∈ u.out
      ∧ sendingAt u sx port = (if pktFlits out ≤ 1 then none
          else some { ps := [q], cls := c, left := pktFlits out - 1, str := portString s sx port (pktSeq out) }) := by
  intro u out
  let s1 := bump (takeCredit (setQueue s sx port c false tl) sx port q.cells out false) .sxPktOut [sx, port, c]
  let s2 := onPeerLink s1 port (peerOf sx port, out, q.dest, q.org)
  have hu : u = emit (beginSend s2 sx port (pktFlits out) c (portString s2 sx port (pktSeq out)) [q]) (.fwd out sx port) := by
    simp only [u, transmit, hq, readOut_clean]
    rfl
  obtain ⟨hl1, hq1, ha1⟩ := takeCredit_kept (setQueue s sx port c false tl) sx port q.cells out false
  obtain ⟨hl2, hq2, ha2⟩ := onPeerLink_kept s1 port (peerOf sx port, out, q.dest, q.org)
  obtain ⟨hsend, hq3, ha3⟩ := beginSend_effect s2 sx port (pktFlits out) c (portString s2 sx port (pktSeq out)) [q]
  have hstr : portString s2 sx port = portString s sx port := funext fun _ => portString_of_links (hl2.trans hl1) _ _ _
  rw [hu]
  refine ⟨hq3.trans (hq2.trans hq1), ha3.trans (ha2.trans ha1), by simp [emit], ?_⟩
  rw [← hstr]
  exact hsend

/-- A decision for a class without a bank error: what the packet leaves behind, and the rounds lost (R153). -/
theorem grantBest_effect {s : State} {sx port c : Nat} {q : QPkt} {tl : List QPkt} (hharm : isHarmonic s sx port = false)
    (hbridge : port < 128 → isBridge s (linkNo sx port) = false) (hup : outputUp s sx port = true) (hc : c < 8)
    (hq : queueOf s sx port c false = q :: tl) (hfit : ClassFits s sx port c) (hbest : ∀ t < 8, t ≠ c → ClassFits s sx port t →
      classScore s sx port t < classScore s sx port c ∨ (classScore s sx port t = classScore s sx port c ∧ c < t)) :
    let u := grantBest s sx port ⟨[], []⟩
    let out := rechannel s port q.dest.2.2 q.p
    queueOf u sx port c false = tl
      ∧ (∀ t v, (t, v) ≠ (c, false) → queueOf u sx port t v = queueOf s sx port t v)
      ∧ Out.fwd out sx port ∈ u.out
      ∧ sendingAt u sx port = (if pktFlits out ≤ 1 then none
          else some { ps := [q], cls := c, left := pktFlits out - 1, str := portString s sx port (pktSeq out) })
      ∧ (arbOf u sx port).lost.get c 0 = 0 ∧ (arbOf u sx port).emergRun = 0
      ∧ ∀ t < 8, t ≠ c → (ClassFits s sx port t → (arbOf u sx port).lost.get t 0 = min ((arbOf s sx port).lost.get t 0 + 1) 255)
          ∧ (¬ ClassFits s sx port t → (arbOf u sx port).lost.get t 0 = (arbOf s sx port).lost.get t 0) := by
  intro u out
  obtain ⟨l, hl, hgrant⟩ := grantBest_forward hharm hbridge hup hc hfit hbest ⟨[], []⟩
  have hu : u = _ := hgrant
  obtain ⟨hqueues, harb, hout, hsend⟩ := transmit_effect (s := setArb s sx port
    { arbOf s sx port with lost := arbLost (arbOf s sx port) l c, emergRun := 0 }) (sx := sx) (port := port) (c := c) (tl := tl) hq
  rw [← hu] at hqueues harb hout hsend
  have ha : arbOf u sx port = { arbOf s sx port with lost := arbLost (arbOf s sx port) l c, emergRun := 0 } := by
    rw [arbOf, harb]
    exact arbOf_setArb_self _ _ _ _
  rw [ha]
  refine ⟨?_, fun t v hne => ?_, hout, hsend, ?_, rfl, fun t ht hne => ⟨fun h => ?_, fun h => ?_⟩⟩
  · rw [queueOf, hqueues, TMap.get_set_self]
  · rw [queueOf, hqueues, TMap.get_set_ne]
    · rfl
    · rintro ⟨⟩
      exact hne rfl
  · rw [arbLost_get, if_pos ((hl c).2 ⟨hc, hfit⟩), if_pos rfl]
  · rw [arbLost_get, if_pos ((hl t).2 ⟨ht, h⟩), if_neg hne]
  · rw [arbLost_get, if_neg fun hm => h ((hl t).1 hm).2]

/-! One decision. -/

/-- The rounds in which classes wait for credit are counted, and nothing else (Table 6-7). -/
theorem waits_counted (s : State) (sx port : Nat) (l : List Nat) :
    ∃ c, l.foldl (fun s t => if waitsCredit s sx port t then bump s .sxCreditWait [sx, port, t] else s) s = { s with ctr := c } := by
  induction l generalizing s with
  | nil => exact ⟨s.ctr, rfl⟩
  | cons t l ih =>
    rw [List.foldl_cons]
    split
    · obtain ⟨c, hc⟩ := ih (bump s .sxCreditWait [sx, port, t])
      exact ⟨c, hc⟩
    · exact ih s

theorem emergency_of_quiet {s : State} {sx port : Nat} (h : s.sw.injected.get (sx, port) [] = []) : emergency s sx port = none := by
  simp [emergency, h]

theorem exec_arbiterDecision {sx port : Nat} (hsx : sx < 4) (hport : port < 144) (b : Bool) (e f : List EccHit) (s : State) :
    exec (.arbiterDecision sx port b e f) s = .next (arbiterDecision s sx port b ⟨e, f⟩) := by
  show execArbiterDecision sx port b e f s = _
  rw [execArbiterDecision, if_pos ⟨hsx, hport⟩]

/-! The counters play no part in a decision. -/

theorem sendingAt_ctr (s : State) (c : TMap CtrKey Nat) (sx port : Nat) : sendingAt { s with ctr := c } sx port = sendingAt s sx port := rfl

theorem emergency_ctr (s : State) (c : TMap CtrKey Nat) (sx port : Nat) : emergency { s with ctr := c } sx port = emergency s sx port := rfl

theorem arbOf_ctr (s : State) (c : TMap CtrKey Nat) (sx port : Nat) : arbOf { s with ctr := c } sx port = arbOf s sx port := rfl

section
variable {s : State} {sx port : Nat} (b : Bool) (ecc : EccMet)

/-- A free output without an emergency message decides among its classes. -/
theorem arbiterDecision_grant (hm : emergency s sx port = none) (hw : sendingAt s sx port = none) :
    ∃ c, arbiterDecision s sx port b ecc = grantBest { s with ctr := c } sx port ecc := by
  obtain ⟨c, hc⟩ := waits_counted s sx port (List.range 8)
  exact ⟨c, by simp [arbiterDecision, hc, emergency_ctr, sendingAt_ctr, hm, hw]⟩

/-- A busy output does nothing between flit boundaries. -/
theorem arbiterDecision_busy {w : Sending} (hw : sendingAt s sx port = some w) :
    ∃ c, arbiterDecision s sx port false ecc = { s with ctr := c } := by
  obtain ⟨c, hc⟩ := waits_counted s sx port (List.range 8)
  exact ⟨c, by simp [arbiterDecision, hc, sendingAt_ctr, hw]⟩

/-- At a flit boundary a busy output goes on, if no emergency message pre-empts it. -/
theorem arbiterDecision_boundary {w : Sending} (hm : emergency s sx port = none) (hw : sendingAt s sx port = some w) :
    ∃ c, arbiterDecision s sx port true ecc = nextFlit { s with ctr := c } sx port w := by
  obtain ⟨c, hc⟩ := waits_counted s sx port (List.range 8)
  exact ⟨c, by simp [arbiterDecision, hc, emergency_ctr, sendingAt_ctr, hm, hw]⟩

/-- An emergency message goes first, on a free output and at a flit boundary, in a run of fewer than 256 flits. -/
theorem arbiterDecision_emergency {m : Inject} (hm : emergency s sx port = some m) (hrun : (arbOf s sx port).emergRun < 256)
    (hfree : sendingAt s sx port = none ∨ b = true) :
    ∃ c, arbiterDecision s sx port b ecc = sendEmergency { s with ctr := c } sx port m := by
  obtain ⟨c, hc⟩ := waits_counted s sx port (List.range 8)
  have hturn : ((sendingAt s sx port).isNone || b) = true := by
    rcases hfree with h | h <;> simp [h]
  exact ⟨c, by simp only [arbiterDecision, hc, emergency_ctr, sendingAt_ctr, arbOf_ctr, hturn, if_true, hm, hrun]⟩

end

/-! A flit at a flit boundary. -/

/-- The next flit of a transmission leaves where it is in the buffer; with the last one the output is free (R146). -/
theorem nextFlit_here {s : State} {sx port : Nat} {w : Sending} (h : flitHere s sx w = true) :
    sendingAt (nextFlit s sx port w) sx port = if w.left ≤ 1 then none else some { w with left := w.left - 1 } := by
  simp [nextFlit, h, sendingAt]

/-- One that still arrives is waited for (R151). -/
theorem nextFlit_late {s : State} {sx port : Nat} {w : Sending} (h : flitHere s sx w = false) : nextFlit s sx port w = s := by
  simp [nextFlit, h]

theorem nextFlit_queues (s : State) (sx port : Nat) (w : Sending) : (nextFlit s sx port w).sw.queues = s.sw.queues := by
  rw [nextFlit]
  split <;> simp

/-- What a flit of an emergency message changes in the switch core: its own requester and the length of the run (R154). -/
theorem sendEmergency_sw (s : State) (sx port : Nat) (m : Inject) :
    (sendEmergency s sx port m).sw = { s.sw with
      injected := s.sw.injected.set (sx, port) (if m.left ≤ 1 then (s.sw.injected.get (sx, port) []).tail
        else { m with left := m.left - 1 } :: (s.sw.injected.get (sx, port) []).tail)
      arb := s.sw.arb.set (sx, port) { arbOf s sx port with emergRun := (arbOf s sx port).emergRun + 1 } } := by
  simp only [sendEmergency, arbOf, sendSlots_sw]
  split
  · split <;> simp [setArb]
  · simp [setArb]

/-! A DDR5 channel's arbiter. -/

/-- The score of a channel's queue by the age of its head (R321). -/
def ddrScore (a : Arb) (i g : Nat) : Nat := min g 0x7FFFFFFF + a.lost.get i 0 * 2 ^ a.stepLog2 + a.prio.get i 0 * 2 ^ a.unitLog2

/-- A refresh pre-empts the queues (R321). -/
theorem exec_ddrArbiterDecision_refresh (hx ch : Nat) (busy : Bool) (ra wa : Option Nat) (s : State) :
    exec (.ddrArbiterDecision hx ch busy ra wa true) s = .next s := by
  show execDdrArbiterDecision hx ch busy ra wa true s = _
  simp [execDdrArbiterDecision]

theorem exec_ddrArbiterDecision_busy (hx ch : Nat) (ra wa : Option Nat) (refresh : Bool) (s : State) :
    exec (.ddrArbiterDecision hx ch true ra wa refresh) s = .next s := by
  show execDdrArbiterDecision hx ch true ra wa refresh s = _
  simp [execDdrArbiterDecision]

theorem exec_ddrArbiterDecision_idle (hx ch : Nat) (s : State) : exec (.ddrArbiterDecision hx ch false none none false) s = .next s := by
  show execDdrArbiterDecision hx ch false none none false s = _
  simp [execDdrArbiterDecision, arbBest]

section
variable {hx ch : Nat} (hhx : hx < 2) (hch : ch < 6) (s : State)
include hhx hch

theorem exec_ddrArbiterDecision_both (r w : Nat) :
    let a := arbOf s (4 + hx) ch
    exec (.ddrArbiterDecision hx ch false (some r) (some w) false) s
      = .next (setArb s (4 + hx) ch { a with lost := arbLost a [0, 1] (if ddrScore a 0 r < ddrScore a 1 w then 1 else 0) }) := by
  show execDdrArbiterDecision hx ch false (some r) (some w) false s = _
  rw [execDdrArbiterDecision, if_neg (by simp; omega)]
  simp only [Option.map, List.filterMap, id, arbBest_pair, apply_ite Prod.fst, ddrScore]
  rfl

theorem exec_ddrArbiterDecision_read (r : Nat) :
    let a := arbOf s (4 + hx) ch
    exec (.ddrArbiterDecision hx ch false (some r) none false) s = .next (setArb s (4 + hx) ch { a with lost := arbLost a [0] 0 }) := by
  show execDdrArbiterDecision hx ch false (some r) none false s = _
  rw [execDdrArbiterDecision, if_neg (by simp; omega)]
  rfl

end

end Sys2Proof.Machine

open Sys2Proof Sys2Proof.Machine

/-- Settles O20: a grant, a busy output and an emergency message, then the channel arbiters. -/
theorem arbitersGrant : Obligations.ArbitersGrant := by
  refine ⟨fun s sx port c q tl hsx hport hharm hbridge => ⟨?grant, fun w hw => ⟨?busy, ?boundary⟩, ?emergency⟩,
    fun s hx ch ra wa busy hhx hch => ⟨exec_ddrArbiterDecision_refresh _ _ _ _ _ _, exec_ddrArbiterDecision_busy _ _ _ _ _ _,
      exec_ddrArbiterDecision_idle _ _ _, ?both, ?read⟩⟩
  case grant =>
    intro hquiet hfree hup hc hq hfit hbest b
    obtain ⟨ctr, hdec⟩ := arbiterDecision_grant b ⟨[], []⟩ (emergency_of_quiet hquiet) hfree
    exact ⟨_, (exec_arbiterDecision hsx (by omega) _ _ _ _).trans (congrArg _ hdec),
      grantBest_effect (s := { s with ctr := ctr }) hharm hbridge hup hc hq hfit hbest⟩
  case busy =>
    intro e f
    obtain ⟨ctr, hdec⟩ := arbiterDecision_busy ⟨e, f⟩ hw
    exact ⟨_, (exec_arbiterDecision hsx (by omega) _ _ _ _).trans (congrArg _ hdec), rfl⟩
  case boundary =>
    intro hquiet e f
    obtain ⟨ctr, hdec⟩ := arbiterDecision_boundary ⟨e, f⟩ (emergency_of_quiet hquiet) hw
    refine ⟨_, (exec_arbiterDecision hsx (by omega) _ _ _ _).trans (congrArg _ hdec), nextFlit_queues _ _ _ _,
      fun h => nextFlit_here h, fun h => ?_⟩
    rw [nextFlit_late (s := { s with ctr := ctr }) h]
  case emergency =>
    intro m hm hrun b e f hfree
    obtain ⟨ctr, hdec⟩ := arbiterDecision_emergency b ⟨e, f⟩ hm hrun hfree
    refine ⟨_, (exec_arbiterDecision hsx (by omega) _ _ _ _).trans (congrArg _ hdec), ?_⟩
    rw [arbOf, sendEmergency_sw]
    simp [arbOf]
  case both =>
    rintro r w rfl rfl
    refine ⟨_, exec_ddrArbiterDecision_both hhx hch s r w, by simp, ?_⟩
    rw [arbOf_setArb_self]
    split
    · next h =>
      rw [if_pos (show ddrScore _ 0 r < ddrScore _ 1 w from h)]
      simp [arbLost_get]
    · next h =>
      rw [if_neg (show ¬ ddrScore _ 0 r < ddrScore _ 1 w from h)]
      simp [arbLost_get]
  case read =>
    rintro r rfl
    exact ⟨_, exec_ddrArbiterDecision_read hhx hch s r, by simp, by simp [arbLost_get], by simp [arbLost_get]⟩

end

section
/-! SUPPORT. The credit of a link, stated and received, and the bulks of a bridge string, case by case, and O21 (R136, R168, R169, R184, R185,
R481). -/

namespace Sys2Proof.Machine

open Sys2Proof

/-! Limits received (R168, R169). -/

/-- Keys written one after the other hold what was written for each. -/
theorem get_foldl_set {κ ν : Type} [DecidableEq κ] {key : Nat → κ} (hkey : Function.Injective key) (f : Nat → ν) (l : List Nat) {i : Nat}
    (hi : i ∈ l) (m : TMap κ ν) (d : ν) : (l.foldl (fun m t => m.set (key t) (f t)) m).get (key i) d = f i := by
  induction l using List.reverseRecOn with
  | nil => cases hi
  | append_singleton l t ih =>
    rw [List.foldl_append, List.foldl_cons, List.foldl_nil, TMap.get_set]
    split
    · next h => rw [hkey h]
    · next h =>
      have hmem : i ∈ l := by
        rcases List.mem_append.1 hi with hl | ht
        · exact hl
        · exact absurd (congrArg key (List.mem_singleton.1 ht).symm) h
      exact ih hmem

theorem get_foldl_set_ne {κ ν : Type} [DecidableEq κ] {key : Nat → κ} {j : κ} (hj : ∀ t, key t ≠ j) (f : Nat → ν) (l : List Nat)
    (m : TMap κ ν) (d : ν) : (l.foldl (fun m t => m.set (key t) (f t)) m).get j d = m.get j d :=
  List.foldlRecOn l _ (motive := fun n => n.get j d = m.get j d) rfl fun n hn t _ => (TMap.get_set_ne n _ _ (hj t)).trans hn

section
variable (s : State) (x : Nat) (c : CreditSet) (vc : Bool)

theorem setLimits_class {t : Nat} (ht : t < 8) : (setLimits s x c vc).sw.limit.get (creditKey x, t, vc) 0 = c.cl.getD t 0 % 65536 := by
  have hpool : (creditKey x, 8, vc) ≠ (creditKey x, t, vc) := by
    rintro ⟨⟩
    omega
  have hkey : Function.Injective fun t : Nat => (creditKey x, t, vc) := by
    rintro a b ⟨⟩
    rfl
  rw [setLimits, TMap.get_set_ne _ _ _ hpool]
  exact get_foldl_set hkey (fun t => c.cl.getD t 0 % 65536) _ (List.mem_range.2 ht) _ _

theorem setLimits_pool : (setLimits s x c vc).sw.limit.get (creditKey x, 8, vc) 0 = c.pool % 65536 := by simp [setLimits]

/-- The limits of another link and of the other VC stay. -/
theorem setLimits_other {j : Nat} {v : Bool} (h : (j, v) ≠ (creditKey x, vc)) (t : Nat) :
    (setLimits s x c vc).sw.limit.get (j, t, v) 0 = s.sw.limit.get (j, t, v) 0 := by
  have hne : ∀ i, (creditKey x, i, vc) ≠ (j, t, v) := by
    rintro i ⟨⟩
    exact h rfl
  rw [setLimits, TMap.get_set_ne _ _ _ (hne 8)]
  exact get_foldl_set_ne hne _ _ _ _

end

/-- The state once both limits of a CREDIT are taken: those of VC 1 on a bridge string only. -/
def limitsTaken (s : State) (x : Nat) (c0 : CreditSet) (c1 : Option CreditSet) : State :=
  c1.elim (setLimits s x c0 false) fun c => if isBridge s x then setLimits (setLimits s x c0 false) x c true else setLimits s x c0 false

theorem exec_credit {x : Nat} (hx : x < 576) (c0 : CreditSet) (c1 : Option CreditSet) (s : State) :
    exec (.credit x c0 c1) s = .next (setLink (limitsTaken s x c0 c1) x { linkOf s x with creditRx := true }) := by
  show execCredit x c0 c1 s = _
  rw [execCredit, if_pos hx]
  cases c1 with
  | none => rfl
  | some c =>
    have hb : isBridge (setLimits s x c0 false) x = isBridge s x := rfl
    simp only [limitsTaken, Option.elim, hb]
    split <;> rfl

section
variable {s : State} {x : Nat} (c0 : CreditSet) {c1 : Option CreditSet}

theorem limitsTaken_bridge (hb : isBridge s x = true) (c : CreditSet) :
    limitsTaken s x c0 (some c) = setLimits (setLimits s x c0 false) x c true := by simp [limitsTaken, hb]

theorem limitsTaken_oneVc (h : c1 = none ∨ isBridge s x = false) : limitsTaken s x c0 c1 = setLimits s x c0 false := by
  rcases h with rfl | hb
  · rfl
  · cases c1 <;> simp [limitsTaken, hb]

/-- What a CREDIT leaves in the limits of VC 0 and of other links, whether or not it sets VC 1. -/
theorem limitsTaken_eq_setLimits (c1 : Option CreditSet) : limitsTaken s x c0 c1 = setLimits s x c0 false
    ∨ ∃ c, limitsTaken s x c0 c1 = setLimits (setLimits s x c0 false) x c true := by
  cases c1 with
  | none => exact .inl rfl
  | some c =>
    cases hb : isBridge s x with
    | false => exact .inl (limitsTaken_oneVc c0 (.inr hb))
    | true => exact .inr ⟨c, limitsTaken_bridge c0 hb c⟩

theorem limitsTaken_vc0 (c1 : Option CreditSet) (t : Nat) :
    (limitsTaken s x c0 c1).sw.limit.get (creditKey x, t, false) 0 = (setLimits s x c0 false).sw.limit.get (creditKey x, t, false) 0 := by
  rcases limitsTaken_eq_setLimits (s := s) (x := x) c0 c1 with h | ⟨c, h⟩
  · rw [h]
  · rw [h, setLimits_other _ _ _ _ (by simp)]

theorem limitsTaken_otherLink (c1 : Option CreditSet) {j : Nat} (hj : j ≠ creditKey x) (t : Nat) (v : Bool) :
    (limitsTaken s x c0 c1).sw.limit.get (j, t, v) 0 = s.sw.limit.get (j, t, v) 0 := by
  rcases limitsTaken_eq_setLimits (s := s) (x := x) c0 c1 with h | ⟨c, h⟩
  · rw [h, setLimits_other _ _ _ _ (by simp [hj])]
  · rw [h, setLimits_other _ _ _ _ (by simp [hj]), setLimits_other _ _ _ _ (by simp [hj])]

theorem limitsTaken_only (c1 : Option CreditSet) :
    limitsTaken s x c0 c1 = { s with sw := { s.sw with limit := (limitsTaken s x c0 c1).sw.limit } } := by
  rcases limitsTaken_eq_setLimits (s := s) (x := x) c0 c1 with h | ⟨c, h⟩ <;> rw [h] <;> rfl

end

theorem exec_pcredit_calendared {x : Nat} {s : State} (h : (512 ≤ x ∧ x < 544) ∨ isBridge s x = true) (capo : Nat) (vc : Bool) (cl : Nat) :
    exec (.pcredit x capo vc cl) s
      = .next { s with sw := { s.sw with pLimit := s.sw.pLimit.set (creditKey x, capo, vc) (cl % 65536) } } := by
  show execPcredit x capo vc cl s = _
  rw [execPcredit, if_pos h]

theorem exec_pcredit_other {x : Nat} {s : State} (hx : x < 512 ∨ 544 ≤ x) (hb : isBridge s x = false) (capo : Nat) (vc : Bool) (cl : Nat) :
    exec (.pcredit x capo vc cl) s = .next s := by
  have h : ¬ ((512 ≤ x ∧ x < 544) ∨ isBridge s x = true) := by
    rw [hb]
    simp
    omega
  show execPcredit x capo vc cl s = _
  rw [execPcredit, if_neg h]

/-! Limits stated (R168, R481). -/

/-- A change of shares that goes on changes the shares in force alone (R170). -/
theorem settleD_only (s : State) (x : Nat) : ∃ e, settleD s x = { s with sw := { s.sw with dEff := e } } := by
  simp only [settleD]
  (repeat' split) <;> exact ⟨_, rfl⟩

section
variable (s : State) (x : Nat) (vc : Bool)

theorem creditSet_class {t : Nat} (ht : t < 8) : (creditSet s x vc).cl.getD t 0
    = (s.sw.freed.get (creditKey x, t, vc) 0 + if brolaEnd x then 16 else dNow s (linkInput x).1 (linkInput x).2 t) % 65536 := by
  simp [creditSet, limitOf, linkSize, ht]

theorem creditSet_pool : (creditSet s x vc).pool
    = (s.sw.freed.get (creditKey x, 8, vc) 0 + if brolaEnd x then 128 else landPool s (linkInput x).1 (linkInput x).2) % 65536 := by
  simp [creditSet, limitOf, linkSize]

end

/-- What is sent one event after the other is sent after what was sent before. -/
theorem foldl_emits {α : Type} {f : State → α → State} (h : ∀ s a, ∃ l, f s a = emits s l) (l : List α) (s : State) :
    ∃ o, l.foldl f s = emits s o := by
  induction l generalizing s with
  | nil => exact ⟨[], by simp [emits]⟩
  | cons a t ih =>
    obtain ⟨o, ho⟩ := h s a
    obtain ⟨o', ho'⟩ := ih (emits s o)
    exact ⟨o ++ o', by rw [List.foldl_cons, ho, ho']; simp [emits]⟩

/-- The limits that an end states for VC 1, on a bridge string only. -/
def statedVc1 (s : State) (x : Nat) : Option CreditSet := if isBridge s x then some (creditSet s x true) else none

theorem statedVc1_isSome (s : State) (x : Nat) : (statedVc1 s x).isSome = isBridge s x := by
  rw [statedVc1]
  split
  · next h => exact h.symm
  · next h => exact (Bool.not_eq_true _ ▸ h).symm

/-- The limits of the pinned capos' accounts of an input, sent one after the other (R481). -/
def accountsSent (s : State) (x : Nat) : State :=
  (pinnedCapos s.prog.eff).foldl (fun s c =>
    (if isBridge s x then [false, true] else [false]).foldl (fun s vc => emit s (.link x (.pcredit c vc
      ((s.sw.freed.get (creditKey x, 16 + c, vc) 0 + accountOf s (linkInput x).1 (linkInput x).2 c) % 65536)))) s) s

theorem accountsSent_emits (s : State) (x : Nat) : ∃ l, accountsSent s x = emits s l :=
  foldl_emits (fun s _ => foldl_emits (fun _ _ => ⟨[_], rfl⟩) _ s) _ s

/-- An end states its limits as they stand once its shares have settled, and after them those of the accounts. -/
theorem creditSend_eq (s : State) (x : Nat) : ∃ l, creditSend s x
    = setLink (emits (settleD s x) (.link x (.credit (creditSet (settleD s x) x false) (statedVc1 (settleD s x) x)) :: l)) x
        { linkOf (settleD s x) x with creditTx := true } := by
  let t := setLink (emit (settleD s x) (.link x (.credit (creditSet (settleD s x) x false) (statedVc1 (settleD s x) x)))) x
    { linkOf (settleD s x) x with creditTx := true }
  have hsend : creditSend s x = if decide (512 ≤ x ∧ x < 544) || isBridge t x then accountsSent t x else t := rfl
  rw [hsend]
  split
  · obtain ⟨l, hl⟩ := accountsSent_emits t x
    exact ⟨l, by rw [hl]; simp [t, emits, emit, setLink]⟩
  · exact ⟨[], rfl⟩

/-! Bulks (R184, R185). -/

/-- The class's share of the credit that a discarded bulk returns; the rest is the pool's (R169, R185; log entry 157). -/
def bulkClassShare (s : State) (str : Nat) (h : BulkHdr) : Nat :=
  min ((h.bytes + 64 + 255) / 256) (dNow s (str / 128) (str % 128) h.tc - heldCls s (str / 128) (str % 128) h.tc h.vc)

section
variable {s : State} {str tc : Nat} {vc : Bool} {q : QPkt} {r : List QPkt} (hb : isBridge s str = true)
include hb

theorem exec_bulkClose_due (hq : queueOf s (str / 128) (str % 128) tc vc = q :: r) (ht : q.enq + brgClose s.prog.eff ≤ s.clk.now) :
    exec (.bulkClose str tc vc) s = .next { s with sw := { s.sw with bulkReady := insertOnce (str, tc, vc) s.sw.bulkReady } } := by
  show execBulkClose str tc vc s = _
  simp [execBulkClose, hb, hq, ht]

theorem exec_bulkClose_early (hq : queueOf s (str / 128) (str % 128) tc vc = q :: r) (ht : s.clk.now < q.enq + brgClose s.prog.eff) :
    exec (.bulkClose str tc vc) s = .next s := by
  show execBulkClose str tc vc s = _
  simp [execBulkClose, hb, hq, Nat.not_le.2 ht]

theorem exec_bulkClose_empty (hq : queueOf s (str / 128) (str % 128) tc vc = []) : exec (.bulkClose str tc vc) s = .next s := by
  show execBulkClose str tc vc s = _
  simp [execBulkClose, hb, hq]

theorem exec_bulkReceive_bad (h : BulkHdr) (ps : List Pkt) {bcrc : W32} (hc : bcrc ≠ bulkCrc h) :
    exec (.bulkReceive str h ps bcrc) s = .next (bump (freedAdd (freedAdd s str h.tc h.vc (bulkClassShare s str h)) str 8 h.vc
      ((h.bytes + 64 + 255) / 256 - bulkClassShare s str h)) .brgBulkErr [str]) := by
  show execBulkReceive str h ps bcrc s = _
  simp [execBulkReceive, hb, bulkOk, hc, bulkClassShare]

/-- A bulk of one packet that passes its checks arrives as that packet, with its share of the credit. -/
theorem exec_bulkReceive_one {h : BulkHdr} {p : Pkt} (hbytes : h.bytes = pktBytes p) (hcount : h.count = 1) (hmax : h.bytes ≤ 65536) :
    exec (.bulkReceive str h [p] (bulkCrc h)) s
      = .next (arrive s (str / 128) (str % 128) p h.vc (some ((64 + pktBytes p + 255) / 256))) := by
  have hok : bulkOk h [p] (bulkCrc h) = true := by
    rw [hbytes] at hmax
    simp [bulkOk, hbytes, hcount, hmax]
  show execBulkReceive str h [p] (bulkCrc h) s = _
  simp [execBulkReceive, hb, hok, bulkShares]

end

/-- The credit that two shares return together is what was to be returned. -/
theorem freedAdd_split (s : State) (x : Nat) {t : Nat} (ht : t < 8) (vc : Bool) (a b : Nat) :
    let u := freedAdd (freedAdd s x t vc a) x 8 vc b
    u.sw.freed.get (x, t, vc) 0 + u.sw.freed.get (x, 8, vc) 0 = s.sw.freed.get (x, t, vc) 0 + s.sw.freed.get (x, 8, vc) 0 + (a + b) := by
  have hne : t ≠ 8 := by omega
  simp [freedAdd, TMap.get_set, hne, hne.symm]
  omega

/-! A packet that comes in on a string and is sent on (R136). -/

/-- A part of the state that no step of a fold changes is the same at its end. -/
theorem foldl_kept {α β : Type} {g : State → β} {f : State → α → State} (h : ∀ s a, g (f s a) = g s) (l : List α) (s : State) :
    g (l.foldl f s) = g s := by
  induction l generalizing s with
  | nil => rfl
  | cons a t ih => exact (ih (f s a)).trans (h s a)

/-- The parts of the state that copies for harmonic strings leave alone: landing reserves, queues and what has been sent. -/
def besideCopies (s : State) : List Landed × TMap (Nat × Nat × Nat × Bool) (List QPkt) × List Out := (s.sw.landing, s.sw.queues, s.out)

theorem harmOne_kept (s : State) (sx point port tc capo : Nat) (p : Pkt) (f : Nat) :
    besideCopies (harmOne s sx point port tc capo p f) = besideCopies s := by
  simp only [harmOne]
  (repeat' split) <;> rfl

theorem harmCopy_kept (s : State) (sx point port : Nat) (p : Pkt) :
    let u := harmCopy s sx point port p
    u.sw.landing = s.sw.landing ∧ u.sw.queues = s.sw.queues ∧ u.out = s.out := by
  have h : besideCopies (harmCopy s sx point port p) = besideCopies s :=
    foldl_kept (g := besideCopies) (fun _ _ => harmOne_kept _ _ _ _ _ _ _ _) _ _
  simpa only [besideCopies, Prod.mk.injEq] using h

theorem noteArrival_kept (s : State) (sx port : Nat) (p : Pkt) : (noteArrival s sx port p).sw = s.sw ∧ (noteArrival s sx port p).out = s.out := by
  unfold noteArrival
  split <;> exact ⟨rfl, rfl⟩

/-- A packet whose way out is of its own SX lands; only its class's share of the cells is settled by the reserve. -/
theorem takeRoute_here (s : State) (x : Landed) {o : Nat} (v : Bool) (ho : o ≠ 255) : ∃ y,
    let u := takeRoute s x (.to x.sx o v)
    u.sw.landing = s.sw.landing ++ [y] ∧ y.p = x.p ∧ y.vcIn = x.vcIn ∧ y.ret = x.ret ∧ u.out = s.out ∧ u.sw.queues = s.sw.queues := by
  simp only [takeRoute, landedFor, ho, and_false, if_false, if_true]
  split <;> exact ⟨_, rfl, rfl, rfl, rfl, rfl, rfl⟩

/-- A packet on a string that passes the checks and is routed to another port of its SX lands there (R136). -/
theorem arrive_lands {s : State} {sx port : Nat} {p : Pkt} {vc : Bool} {o : Nat} {v : Bool} (hport : port < 128) (hok : pktOk p = true)
    (hfirst : firstRefuses s sx port p = false) (hroute : route s sx port p vc = .to sx o v) (ho : o ≠ 255) (ret : Option Nat) : ∃ y,
    let u := arrive s sx port p vc ret
    u.sw.landing = s.sw.landing ++ [y] ∧ y.p = p ∧ y.vcIn = vc ∧ y.ret = ret ∧ u.out = s.out ∧ u.sw.queues = s.sw.queues := by
  let s1 := bump s .sxPktIn [sx, port, pktTc p]
  have hpeer : ¬ (130 ≤ port ∧ port ≤ 132) := by omega
  have hway : routeAt s1 sx port p vc = .to sx o v := by
    simp only [routeAt, transitFor, if_neg hpeer]
    exact hroute
  let s2 := { s1 with sw := { s1.sw with lastIn := s1.sw.lastIn.set (sx, port) (stampNow s1), transit := s1.sw.transit } }
  have hfirst' : firstRefuses s2 sx port p = false := hfirst
  let x := atInput sx port p (stampNow s1) 0 vc ret (orgAt s1 sx port p vc)
  have hu : arrive s sx port p vc ret = takeRoute (harmCopy (noteArrival s2 sx port p) sx 0 port p) x (.to sx o v) := by
    simp only [arrive, hok, if_neg hpeer]
    rw [if_neg (by simp), if_neg (by rw [hfirst']; simp)]
    rw [hway]
  obtain ⟨hsw, hnote⟩ := noteArrival_kept s2 sx port p
  obtain ⟨hland, hqueues, hout⟩ := harmCopy_kept (noteArrival s2 sx port p) sx 0 port p
  obtain ⟨y, hy, hp, hvc, hret, hyout, hyqueues⟩ := takeRoute_here (harmCopy (noteArrival s2 sx port p) sx 0 port p) x v ho
  rw [hsw] at hland hqueues
  rw [hu]
  exact ⟨y, hy.trans (congrArg (· ++ [y]) hland), hp, hvc, hret, (hyout.trans hout).trans hnote, hyqueues.trans hqueues⟩

end Sys2Proof.Machine

open Sys2Proof Sys2Proof.Machine

/-- Settles O21: limits received, of a link and of an account, and stated; then the bulks of a bridge string. -/
theorem creditsAndBulks : Obligations.CreditsAndBulks := by
  refine ⟨fun s x cl capo c0 c1 vc hx => ⟨?credit, ?pcredit, fun h hb => exec_pcredit_other h hb capo vc cl, ?send⟩,
    fun s str tc vc q r h ps p o v hb => ⟨?due, exec_bulkClose_early hb, exec_bulkClose_empty hb, ?bad, ?one⟩⟩
  case credit =>
    refine ⟨_, exec_credit hx c0 c1 s, fun t ht => ?_, ?_, ?_, fun h t => ?_, fun j t v hj => limitsTaken_otherLink c0 c1 hj t v,
      linkOf_setLink_self _ _ _, fun y hy => ?_, ?_⟩
    · exact (limitsTaken_vc0 c0 c1 t).trans (setLimits_class s x c0 false ht)
    · exact (limitsTaken_vc0 c0 c1 8).trans (setLimits_pool s x c0 false)
    · rintro c rfl hb
      rw [limitsTaken_bridge c0 hb]
      exact ⟨fun t ht => setLimits_class _ x c true ht, setLimits_pool _ x c true⟩
    · rw [limitsTaken_oneVc c0 h]
      exact setLimits_other s x c0 false (by simp) t
    · rw [linkOf_setLink, if_neg hy.symm, limitsTaken_only]
      rfl
    · rw [limitsTaken_only]
      rfl
  case pcredit =>
    intro h
    refine ⟨_, exec_pcredit_calendared h capo vc cl, rfl, fun j => ?_⟩
    simp only [TMap.get_set, eq_comm]
  case send =>
    obtain ⟨l, hl⟩ := creditSend_eq s x
    obtain ⟨e, he⟩ := settleD_only s x
    rw [he] at hl
    have hexec : exec (.creditSend x) s = .next (creditSend s x) := congrArg _ (if_pos hx)
    rw [hl] at hexec
    exact ⟨_, _, _, l, hexec, rfl, statedVc1_isSome _ x, fun t ht => creditSet_class _ x false ht, creditSet_pool _ x false,
      linkOf_setLink_self _ _ _, rfl⟩
  case due =>
    intro hq ht
    exact ⟨_, exec_bulkClose_due hb hq ht, fun k => mem_insertOnce, rfl⟩
  case bad =>
    intro bcrc hc
    refine ⟨_, exec_bulkReceive_bad hb h ps hc, count_bump _ _ _ _, rfl, fun ht => ?_⟩
    have hshare : bulkClassShare s str h + ((h.bytes + 64 + 255) / 256 - bulkClassShare s str h) = (h.bytes + 64 + 255) / 256 :=
      Nat.add_sub_cancel' (Nat.min_le_left _ _)
    exact (freedAdd_split s str ht h.vc _ _).trans (by rw [hshare])
  case one =>
    intro hbytes hcount hmax hok hfirst hroute ho
    obtain ⟨y, hy⟩ := arrive_lands (Nat.mod_lt str (by decide)) hok hfirst hroute ho (some ((64 + pktBytes p + 255) / 256))
    exact ⟨_, y, exec_bulkReceive_one hb hbytes hcount hmax, hy⟩

end

section
/-! SUPPORT. Multicast stores, their copies and their end, and copy descriptors at a leaf and at a Kojor, case by case, and O27 (R44, R121, R122,
R175 to R177). -/

namespace Sys2Proof.Machine

open Sys2Proof

/-! A request that the Brola answers (R72, R117). -/

theorem runEntry_entersBrola {s : State} {r : Req} (h : entersBrola s r) (n : Nat) (hop : opIdem r.op = false) (go : State → State) :
    runEntry s r (.brola n) go = go s := by
  obtain ⟨hhdr, hasg, hfmt, hrun, hdup, -, -⟩ := h
  have hleave : leaveDie s r (.brola n) = s := rfl
  have hat : entryAt s r (.brola n) = .go s := by
    simp [entryAt, partyOf, lookup, Option.isSome_iff_ne_none.1 hasg, hfmt, hrun, hop, hdup]
  have hentry : entry s r (.brola n) = .go s := by simp [entry, hhdr, partyOf, hostPass, hat]
  rw [runEntry, hleave, hentry]

theorem entersBrola.idle {s : State} {r : Req} (h : entersBrola s r) :
    findRunning s .brola r = none ∧ oldestFinal s .brola r.src r.epoch = none := by
  obtain ⟨-, -, -, hrun, -, hfin, -⟩ := h
  exact ⟨hrun, hfin⟩

/-- A duplicate entry added at the Brola changes its entries, and a counter where one goes early (R74, R117). -/
theorem addDup_brola (s : State) (e : DupEntry) : ∃ c l, addDup s .brola e
    = { s with ctr := c, brola := { s.brola with resp := { s.brola.resp with dups := l } } } := by
  have helim : ∀ (l : List DupEntry) (o : Option DupEntry), ∃ c, o.elim (setResp s .brola { s.brola.resp with dups := l })
      (dupEvicted (setResp s .brola { s.brola.resp with dups := l }) .brola)
      = { s with ctr := c, brola := { s.brola with resp := { s.brola.resp with dups := l } } } := by
    intro l o
    cases o <;> exact ⟨_, rfl⟩
  simp only [addDup, respOf]
  split
  · obtain ⟨c, hc⟩ := helim _ _
    exact ⟨c, _, hc⟩
  · split
    · obtain ⟨c, hc⟩ := helim _ _
      exact ⟨c, _, hc⟩
    · exact ⟨s.ctr, _, rfl⟩

/-- A request performed at the Brola that counts nowhere is answered at once; beside the answer a duplicate entry may be left. -/
theorem settle_brola {r : Req} {d : Done} (n : Nat) (hrun : findRunning d.s .brola r = none) (hfin : oldestFinal d.s .brola r.src r.epoch = none)
    (hc : countable r d.c = false) : ∃ c l, settle r (.brola n) d
      = emit { d.s with ctr := c, brola := { d.s.brola with resp := { d.s.brola.resp with dups := l } } } (.cmp d.c) := by
  obtain ⟨c, l, ht⟩ : ∃ c l, (if leavesDup r d.c then addDup d.s .brola (dupOf d.s (.brola n) r d.c) else d.s)
      = { d.s with ctr := c, brola := { d.s.brola with resp := { d.s.brola.resp with dups := l } } } := by
    split
    · exact addDup_brola _ _
    · exact ⟨d.s.ctr, d.s.brola.resp.dups, rfl⟩
  refine ⟨c, l, ?_⟩
  generalize hT : ({ d.s with ctr := c, brola := { d.s.brola with resp := { d.s.brola.resp with dups := l } } } : State) = t at *
  have hrun' : findRunning t .brola r = none := by rw [← hT]; exact hrun
  have hfin' : oldestFinal t .brola r.src r.epoch = none := by rw [← hT]; exact hfin
  have hp : performed r (.brola n) d = setRunning t .brola (performedEntry r (.brola n) d.c []) := by
    simp [performed, performedWith, partyOf, ht, hrun', performedEntry]
  have hf := (oldestFinal_setRunning t .brola (performedEntry r (.brola n) d.c []) r.src r.epoch).trans hfin'
  have hdrop : dropRunning (setRunning t .brola (performedEntry r (.brola n) d.c [])) .brola r = t :=
    dropRunning_setRunning_new (x := performedEntry r (.brola n) d.c []) hrun'
  have hend : finishIf (setRunning t .brola (performedEntry r (.brola n) d.c [])) .brola r = emit t (.cmp d.c) := by
    simp only [finishIf, sendIfDone, findRunning_performedEntry hrun', hdrop]
    simp [performedEntry, hc, sendDone, emits, emit]
  have hw : partyOf (.brola n) = .brola := rfl
  rw [settle, afterDone, hp, hw, countDone_uncountable hrun' hc, settleFinals_none hf, hend]

/-! A request that the Kojor answers and counts nowhere. -/

/-- With no twin it is answered at once; beside the answer a duplicate entry may be left (R72). -/
theorem settle_uncounted {r : Req} {v : Via} {d : Done} (h : answersAlone d.s r v) (hn : noTwin d.s) (hc : countable r d.c = false)
    (hop : r.op ≠ 2) : settle r v d = emit (withItsDup r v d) (.cmp d.c) := by
  obtain ⟨hv, hrun, hfin⟩ := h
  have ht := withItsDup_undisturbed r v d
  have hrt : findRunning (withItsDup r v d) .kojor r = none := (findRunning_undisturbed ht r).trans hrun
  have hp : performed r v d = setRunning (withItsDup r v d) .kojor (performedEntry r v d.c []) :=
    performed_new hv (mirrorAll_noTwin (hn.of_course ht.course) _ _ _) hrt
  have hf := (oldestFinal_setRunning (withItsDup r v d) .kojor (performedEntry r v d.c []) r.src r.epoch).trans
    ((oldestFinal_undisturbed ht _ _).trans hfin)
  rw [settle, afterDone, hv, hp, countDone_uncountable hrt hc, settleFinals_none hf, finishIf_sends hrt (by simp [hc])]
  simp [tellShards, hop]

theorem addDup_ctl (s : State) (e : DupEntry) : (addDup s .kojor e).ctl = s.ctl := by
  have hset : ∀ l, (setResp s .kojor { respOf s .kojor with dups := l }).ctl = s.ctl := fun _ => rfl
  have hevict : ∀ t e, (dupEvicted t .kojor e).ctl = t.ctl := by
    intro t e
    simp only [dupEvicted]
    split <;> simp
  simp only [addDup]
  split
  · cases (respOf s .kojor).dups.find? fun x => x.src == e.src with
    | none => exact hset _
    | some old => exact (hevict _ _).trans (hset _)
  · simp [hset]

theorem withItsDup_ctl (r : Req) (v : Via) (d : Done) : (withItsDup r v d).ctl = d.s.ctl := by
  unfold withItsDup
  split
  · exact addDup_ctl _ _
  · rfl

theorem entersKojor.answersAlone {s : State} {r : Req} {v : Via} (h : entersKojor s r v) (w : Sw) : answersAlone { s with sw := w } r v := by
  have hp := h.partyOf
  obtain ⟨-, -, -, -, -, -, -, -, hrun, -, hfin, -⟩ := h
  exact ⟨hp, hrun, hfin⟩

/-! Multicast stores (R44, R175, R176). -/

section
variable {s : State} {r : Req} {v : Via} (h : entersKojor s r v) (hop : r.op = 0x28)
include h hop

theorem exec_mst : exec (.mst r v) s = .next (doMst (entryState s r v) r v) := by
  show execMst r v s = _
  rw [execMst, if_pos hop, runEntry_enters h]

/-- A multicast store refused is answered, and nothing else but counters changes. -/
theorem settle_mst_refused (w : Sw) (c : TMap CtrKey Nat) {st : Status} (hst : st ≠ .ok) :
    settle r v (refuse { s with sw := w, ctr := c } .kojor r st) = emit { s with sw := w, ctr := c } (.cmp (cmpOf r (mySrc s) st)) :=
  settle_plain (d := refuse { s with sw := w, ctr := c } .kojor r st) (h.answersAlone w) (by simp [leavesDup, opIdem, hop])
    (by simp [countable, refuse, cmpOf, hst]) (by simp [hop]) rfl

theorem doMst_reserved (hk : kindReserved r.addr = true) :
    ∃ w, doMst (entryState s r v) r v = emit { s with sw := w } (.cmp (cmpOf r (mySrc s) .unreachable)) := by
  obtain ⟨w, hw⟩ := entryState_eq s r v
  refine ⟨w, ?_⟩
  rw [hw, doMst, if_pos (by simp [hk])]
  exact settle_mst_refused h hop w s.ctr (by decide)

variable (hk : kindReserved r.addr = false) (hz : zerosOk r.addr = true)
include hk hz

theorem doMst_noLeaf (hl : mcastSet s r.addr r.capo = []) :
    ∃ w c, doMst (entryState s r v) r v = emit { s with sw := w, ctr := c } (.cmp (cmpOf r (mySrc s) .capoViolation)) := by
  obtain ⟨w, hw⟩ := entryState_eq s r v
  have hset : mcastSet { s with sw := w } r.addr r.capo = [] := hl
  refine ⟨w, (bump { s with sw := w } .capoViol [sourceCapo { s with sw := w } r v]).ctr, ?_⟩
  rw [hw, doMst, if_neg (by simp [hk, hz])]
  simp only [hset, List.isEmpty_nil, if_true]
  exact settle_mst_refused h hop w _ (by decide)

end

/-! What the Kojor's own requests leave alone (R136, R177). -/

/-- Between the two states the numbers of the next multicast store and of the next request, memory and the stream are the same. -/
@[reducible, simp] def NumbersKept (s t : State) : Prop :=
  t.sw.nextMc = s.sw.nextMc ∧ t.rq.nextId = s.rq.nextId ∧ t.mem = s.mem ∧ t.str = s.str

theorem NumbersKept.trans {s t u : State} (h : NumbersKept s t) (h' : NumbersKept t u) : NumbersKept s u := by
  obtain ⟨h1, h2, h3, h4⟩ := h
  obtain ⟨g1, g2, g3, g4⟩ := h'
  exact ⟨g1.trans h1, g2.trans h2, g3.trans h3, g4.trans h4⟩

theorem setRunning_numbersKept (s : State) (x : Running) : NumbersKept s (setRunning s .kojor x) := by simp [setRunning, setResp]

theorem mcastSettle_numbersKept (s : State) (id : Nat) : NumbersKept s (mcastSettle s id) := by
  simp only [mcastSettle]
  (repeat' split) <;> simp [setRunning, dropRunning, setResp, sendDone, emits]

theorem mcastFail_numbersKept (s : State) (id pos : Nat) : NumbersKept s (mcastFail s id pos) := by
  unfold mcastFail
  split
  · simp
  · split
    · exact NumbersKept.trans (by simp) (mcastSettle_numbersKept _ _)
    · simp

theorem copyLost_numbersKept (s : State) (p : Pkt) : NumbersKept s (copyLost s p) := by
  unfold copyLost
  split
  · simp
  · exact NumbersKept.trans (by simp) (mcastFail_numbersKept _ _ _)

theorem noPath_numbersKept (s : State) (sx port : Nat) (p : Pkt) : NumbersKept s (noPath s sx port p) := by
  have hbump : NumbersKept s (bump s .sxUnroutable [sx, port]) := by simp
  cases p with
  | cmp c hb => exact hbump
  | req r =>
    simp only [noPath]
    split
    · exact hbump.trans (copyLost_numbersKept _ _)
    · simp [answer]

theorem unland_numbersKept (s : State) (i : Nat) : NumbersKept s (unland s i) := by
  simp only [unland]
  (repeat' split) <;> simp [freedAdd]

theorem landNone_numbersKept (s : State) (x : Landed) : NumbersKept s (landNone s x) :=
  NumbersKept.trans (by simp [land]) (unland_numbersKept _ _)

theorem takeRoute_numbersKept (s : State) (x : Landed) (res : RouteRes) : NumbersKept s (takeRoute s x res) := by
  have hnone := landNone_numbersKept s x
  rcases res with ⟨dsx, dport, vc⟩ | _ | _
  · simp only [takeRoute]
    split
    · exact hnone
    · split
      · exact hnone.trans (noPath_numbersKept _ _ _ _)
      · split <;> simp [land]
  · exact hnone.trans (noPath_numbersKept _ _ _ _)
  · refine hnone.trans ?_
    simp only [takeRoute]
    split <;> simp [answer]

theorem releaseTry_numbersKept (s : State) (id : Nat) : NumbersKept s (releaseTry s .kojor id) := by
  unfold releaseTry
  split
  · simp
  · split
    · exact NumbersKept.trans (by simp [setOut, setRq, rqOf]) (takeRoute_numbersKept _ _ _)
    · simp

theorem releaseAll_numbersKept (s : State) : NumbersKept s (releaseAll s .kojor) :=
  List.foldlRecOn _ _ (motive := NumbersKept s) (by simp) fun _ ht id _ => ht.trans (releaseTry_numbersKept _ id)

/-- One request issued takes one number. -/
theorem kIssue_numbers (s : State) (r : Req) (ow : Owner) : let u := kIssue s r ow
    u.sw.nextMc = s.sw.nextMc ∧ u.rq.nextId = s.rq.nextId + 1 ∧ u.mem = s.mem ∧ u.str = s.str :=
  releaseAll_numbersKept (issue s .kojor { r with src := mySrc s } ow none none)

theorem foldl_kIssue_numbers {α : Type} (req : State → α → Req) (ow : α → Owner) (l : List α) (s : State) :
    let u := l.foldl (fun s a => kIssue s (req s a) (ow a)) s
    u.sw.nextMc = s.sw.nextMc ∧ u.rq.nextId = s.rq.nextId + l.length ∧ u.mem = s.mem ∧ u.str = s.str := by
  induction l generalizing s with
  | nil => simp
  | cons a t ih =>
    obtain ⟨hmc, hid, hmem, hstr⟩ := kIssue_numbers s (req s a) (ow a)
    obtain ⟨hmc', hid', hmem', hstr'⟩ := ih (kIssue s (req s a) (ow a))
    exact ⟨hmc'.trans hmc, by rw [List.foldl_cons, hid', hid, List.length_cons]; omega, hmem'.trans hmem, hstr'.trans hstr⟩

theorem hostPass_nextMc (s : State) (r : Req) (v : Via) : (hostPass s r v).1.sw.nextMc = s.sw.nextMc := by
  cases v with
  | host p =>
    simp only [hostPass]
    (repeat' split) <;> rfl
  | _ => rfl

theorem entryState_nextMc (s : State) (r : Req) (v : Via) : (entryState s r v).sw.nextMc = s.sw.nextMc := by
  obtain ⟨l, hl⟩ := leaveDie_eq s r v
  rw [entryState, hostPass_nextMc, hl]

/-- A multicast store with leaves takes its number, and each of its copies a request's number (R176). -/
theorem doMst_copies (s : State) {r : Req} (v : Via) (hk : kindReserved r.addr = false) (hz : zerosOk r.addr = true)
    (hl : mcastSet s r.addr r.capo ≠ []) (hv : partyOf v = .kojor) : let u := doMst s r v
    u.sw.nextMc = s.sw.nextMc + 1 ∧ u.rq.nextId = s.rq.nextId + (mcastSet s r.addr r.capo).length ∧ u.mem = s.mem ∧ u.str = s.str := by
  simp only [doMst, if_neg (show ¬ (kindReserved r.addr || !zerosOk r.addr) = true by simp [hk, hz]), List.isEmpty_iff, if_neg hl, keepRunning, hv]
  obtain ⟨hmc, hid, hmem, hstr⟩ := foldl_kIssue_numbers (fun s (p : Nat × Nat) => mcastCopy s r p.2) (fun p => .mcast s.sw.nextMc p.1)
    (mcastSet s r.addr r.capo) _
  obtain ⟨hmc', hid', hmem', hstr'⟩ := setRunning_numbersKept _ _
  exact ⟨hmc.trans hmc', hid.trans (by rw [hid']), hmem.trans hmem', hstr.trans hstr'⟩

/-! The end of a multicast store (R177). -/

/-- The store once one copy of it has failed. -/
def copyFailed (m : Mcast) (p : Nat) : Mcast := { m with waiting := m.waiting.filter (· != p), failed := m.failed ++ [p] }

/-- The state in which that is noted and counted. -/
def failNoted (s : State) (m : Mcast) (p : Nat) : State := { bump s .sxMcastFail [viaSx m.v, m.r.capo] with mcasts := [copyFailed m p] }

section
variable {s : State} {m : Mcast} {p : Nat} (hm : s.mcasts = [m])
include hm

theorem mcastFail_other (hp : p ∉ m.waiting) : mcastFail s m.id p = s := by simp [mcastFail, hm, hp]

variable (hp : p ∈ m.waiting)
include hp

theorem mcastFail_waiting : mcastFail s m.id p = mcastSettle (failNoted s m p) m.id := by
  simp [mcastFail, mcastMark, hm, hp, bump, replaceFirst, failNoted, copyFailed]

/-- A copy fails while others are still waited for. -/
theorem mcastFail_more (hw : (copyFailed m p).waiting ≠ []) : mcastFail s m.id p = failNoted s m p := by
  rw [mcastFail_waiting hm hp]
  simp [mcastSettle, failNoted, show (copyFailed m p).id = m.id from rfl, hw]

/-- The last copy waited for fails: the store is over (R177). -/
theorem mcastFail_last {x : Running} (hw : (copyFailed m p).waiting = []) (hx : findRunning s .kojor m.r = some x) :
    mcastFail s m.id p = sendDone (dropRunning { failNoted s m p with mcasts := [] } .kojor m.r) x
      (mcastCmp (failNoted s m p) (copyFailed m p)) := by
  have hx' : findRunning { failNoted s m p with mcasts := [] } .kojor (copyFailed m p).r = some x := hx
  have hfailed : (copyFailed m p).failed.isEmpty = false := by simp [copyFailed]
  have hmc : (failNoted s m p).mcasts = [copyFailed m p] := rfl
  rw [mcastFail_waiting hm hp, mcastSettle, hmc]
  simp [show (copyFailed m p).id = m.id from rfl, hw, hx', hfailed]
  rfl

end

/-- The completion of a store of which a copy has failed. -/
theorem mcastCmp_copyFailed (s : State) (m : Mcast) (p : Nat) : let c := mcastCmp s (copyFailed m p)
    c.status = .partialMcast ∧ c.delivered = m.delivered.length ∧ c.dst = m.r.src ∧ c.seq = m.r.seq := by
  simp [mcastCmp, copyFailed, cmpOf]

theorem foldl_mcastFail_none {s : State} (hm : s.mcasts = []) (id : Nat) (l : List Nat) : l.foldl (fun s p => mcastFail s id p) s = s :=
  List.foldlRecOn l _ (motive := fun t => t = s) rfl fun t ht p _ => by
    rw [ht]
    simp [mcastFail, hm]

/-- Once every copy that a store waits for has failed it is over: PARTIAL_MCAST, with the number delivered (R177). -/
theorem foldl_mcastFail_ends (l : List Nat) {s : State} {m : Mcast} {x : Running} (hm : s.mcasts = [m]) (hw : m.waiting ≠ [])
    (hl : ∀ p ∈ m.waiting, p ∈ l) (hx : findRunning s .kojor m.r = some x) : ∃ c,
    let u := l.foldl (fun s p => mcastFail s m.id p) s
    u.mcasts = [] ∧ Out.cmp c ∈ u.out ∧ c.status = .partialMcast ∧ c.delivered = m.delivered.length ∧ c.dst = m.r.src ∧ c.seq = m.r.seq := by
  induction l generalizing s m with
  | nil =>
    obtain ⟨p, hp⟩ := List.exists_mem_of_ne_nil _ hw
    cases hl p hp
  | cons p t ih =>
    rw [List.foldl_cons]
    by_cases hp : p ∈ m.waiting
    · by_cases hw' : (copyFailed m p).waiting = []
      · rw [mcastFail_last hm hp hw' hx, foldl_mcastFail_none rfl]
        exact ⟨mcastCmp (failNoted s m p) (copyFailed m p), rfl, by simp [sendDone, emits], mcastCmp_copyFailed _ m p⟩
      · rw [mcastFail_more hm hp hw']
        refine ih (s := failNoted s m p) (m := copyFailed m p) rfl hw' (fun q hq => ?_) hx
        obtain ⟨hq, hne⟩ := List.mem_filter.1 hq
        exact (List.mem_cons.1 (hl q hq)).resolve_left (by simpa using hne)
    · rw [mcastFail_other hm hp]
      refine ih hm hw (fun q hq => (List.mem_cons.1 (hl q hq)).resolve_left ?_) hx
      rintro rfl
      exact hp hq

section
variable {s : State} {m : Mcast} (hm : s.mcasts = [m])
include hm

/-- In time the copies that wait fail, and what the Kojor has outstanding for them is forgotten. -/
theorem exec_mcastCopyTimeout_due (ht : m.arrived + capoCto s.prog.eff m.r.capo * 500 ≤ s.clk.now) : ∃ q,
    exec (.mcastCopyTimeout m.id) s = .next (m.waiting.foldl (fun s p => mcastFail s m.id p) { s with rq := q }) := by
  show ∃ q, execMcastCopyTimeout m.id s = _
  simp only [execMcastCopyTimeout, hm, List.find?_cons, beq_self_eq_true, if_pos ht]
  exact ⟨_, rfl⟩

theorem exec_mcastCopyTimeout_early (ht : s.clk.now < m.arrived + capoCto s.prog.eff m.r.capo * 500) :
    exec (.mcastCopyTimeout m.id) s = .next s := by
  show execMcastCopyTimeout m.id s = _
  simp [execMcastCopyTimeout, hm, Nat.not_le.2 ht]

end

/-! A copy descriptor at a leaf (R121). -/

/-- A copy descriptor is no write that R70 counts. -/
theorem countable_cpyd {r : Req} (hop : r.op = 0x38) (c : Cmp) : countable r c = false := by
  simp [countable, opIsWrite, opIsAtomic, opIsRed, hop]

/-- The descriptor is queued at the Brola. -/
def queuedLeaf (s : State) (r : Req) : Done :=
  ⟨{ s with brola := { s.brola with copyQ := s.brola.copyQ ++ [r] } }, cmpOf r (brolaSrc s) .ok, []⟩

section
variable {s : State} {r : Req} (h : entersBrola s r) (n : Nat) (hop : r.op = 0x38) (hown : ownLeaf s r.addr = true)
  (hloc : lfLoc (aOff r.addr % 2 ^ 45) = some .copyQ) (hok : copyBadB s r = none)
include h hop hown hloc hok

theorem exec_cpyd_brola : exec (.cpyd r (.brola n)) s
    = .next (settle r (.brola n) (if s.brola.copyQ.length < 1024 then queuedLeaf s r else retryIn s .brola r 10)) := by
  have hidem : opIdem r.op = false := by rw [hop]; rfl
  have hready : ∀ run, lfReady s r run = .ok s (run .copyQ) := fun run => by
    simp only [lfReady, hown, hloc]
    simp [lfAccepts, hop]
  show execCpyd r (.brola n) s = _
  rw [execCpyd, if_pos hop, runEntry_entersBrola h n hidem]
  simp only [doCpyd, hready, hok]
  by_cases hroom : s.brola.copyQ.length < 1024
  · rw [if_pos hroom, if_neg (Nat.not_le.2 hroom)]
    rfl
  · rw [if_neg hroom, if_pos (Nat.not_lt.1 hroom)]
    rfl

end

/-! A copy descriptor at a Kojor (R121, R445). -/

/-- The descriptor is queued at the Kojor, which has its twin to tell. -/
def queuedKojor (s : State) (r : Req) : Done :=
  ⟨{ s with ctl := { s.ctl with copyQ := s.ctl.copyQ ++ [r] } }, cmpOf r (mySrc s) .ok, [(0, .mstate (.copyQueued r))]⟩

/-- The ranges of a descriptor are judged alike whatever the switch holds (R60). -/
theorem copyBadK_sw {s : State} {r : Req} {v : Via} (h : copyBadK s r v = none) (w : Sw) : copyBadK { s with sw := w } r v = none := by
  have hun : ∀ off n, unmappedAt { s with sw := w } r.capo off n = unmappedAt s r.capo off n := fun _ _ => rfl
  have hwr : ∀ off n, unwritableAt { s with sw := w } r.capo off n = unwritableAt s r.capo off n := fun _ _ => rfl
  have hown : ∀ a, ownCourse { s with sw := w } a = ownCourse s a := fun _ => rfl
  simp only [copyBadK, hun, hwr, hown] at h ⊢
  split at h
  · cases h
  · cases h
  · simpa using h

section
variable {s : State} {r : Req} {v : Via} (h : entersKojor s r v) (hop : r.op = 0x38) (hk : kindReserved r.addr = false)
  (hz : zerosOk r.addr = true) (hctl : ctlHere s r.addr = true) (hloc : swLoc (aOff r.addr % 2 ^ 45) = some .copyQ)
  (hok : copyBadK s r v = none) (hm : mirrorOn s = false)
include h hop hk hz hctl hloc hok hm

theorem exec_cpyd_kojor : ∃ w, exec (.cpyd r v) s = .next (settle r v (if deferred s r.capo then energyDefer { s with sw := w } r
    else queuedKojor { s with sw := w } r)) := by
  obtain ⟨w, hw⟩ := entryState_eq s r v
  have hctl' : ctlHere { s with sw := w } r.addr = true := hctl
  have hm' : mirrorOn { s with sw := w } = false := hm
  have hdef : deferred { s with sw := w } r.capo = deferred s r.capo := rfl
  have hready : ∀ run, ctlReady { s with sw := w } r v run = .ok { s with sw := w } (run .copyQ) := fun run => by
    simp only [ctlReady, hz, hctl', hloc]
    simp [swAccepts, hop, mirrorFull, hm']
  have hdo : doCpyd { s with sw := w } r v = settle r v (if deferred s r.capo then energyDefer { s with sw := w } r
      else queuedKojor { s with sw := w } r) := by
    have hv := h.partyOf
    cases v with
    | brola b => cases hv
    | _ =>
      simp only [doCpyd, hk, hready, copyBadK_sw hok w, hdef, Bool.false_eq_true, if_false]
      split <;> rfl
  refine ⟨w, ?_⟩
  show execCpyd r v s = _
  rw [execCpyd, if_pos hop, runEntry_enters h, hw, hdo]

end

/-! A free engine takes the next descriptor (R121, R122). -/

/-- What names a copy: its number and its descriptor. -/
def copyName (x : CopyRun) : Nat × Req := (x.id, x.desc)

theorem map_replaceFirst {α β : Type} {p : α → Bool} {f : α → β} {l : List α} {x y : α} (hx : l.find? p = some x) (hf : f y = f x) :
    (replaceFirst p (fun _ => y) l).map f = l.map f := by
  induction l with
  | nil => rfl
  | cons a t ih =>
    rw [List.find?_cons] at hx
    rw [replaceFirst]
    cases hp : p a with
    | true =>
      rw [hp] at hx
      cases hx
      simp [hf]
    | false =>
      rw [hp] at hx
      simp [ih hx]

/-- Reading the blocks of a copy leaves the leaf's memory, the queue and the names of the copies alone. -/
@[reducible, simp] def CopiesKept (s t : State) : Prop :=
  t.brola.copies.map copyName = s.brola.copies.map copyName ∧ t.brola.copyQ = s.brola.copyQ ∧ t.brola.nextCopy = s.brola.nextCopy
    ∧ t.brola.mem = s.brola.mem

theorem copyRead_copiesKept (s : State) (id : Nat) : CopiesKept s (copyRead s .brola id) := by
  unfold copyRead
  split
  · simp
  · next x hx =>
    have hid : (fun y : CopyRun => y.id == x.id) = fun y => y.id == id := by
      have := List.find?_some hx
      simp only [beq_iff_eq] at this
      rw [this]
    dsimp only
    split
    · simp
    · refine ⟨?_, rfl, rfl, rfl⟩
      show (replaceFirst (fun y : CopyRun => y.id == x.id) _ s.brola.copies).map copyName = _
      rw [hid]
      exact map_replaceFirst hx rfl

theorem foldl_copyRead_copiesKept (id : Nat) (l : List Nat) (s : State) : CopiesKept s (l.foldl (fun s _ => copyRead s .brola id) s) :=
  List.foldlRecOn l _ (motive := CopiesKept s) (by simp) fun t ht _ _ => by
    obtain ⟨hc, hq, hn, hm⟩ := ht
    obtain ⟨hc', hq', hn', hm'⟩ := copyRead_copiesKept t id
    exact ⟨hc'.trans hc, hq'.trans hq, hn'.trans hn, hm'.trans hm⟩

/-- The Brola once an engine has taken a descriptor and left those of the list. -/
def copyTaken (s : State) (r : Req) (t : List Req) : State :=
  let b := s.brola
  { s with brola := { b with copyQ := t, nextCopy := b.nextCopy + 1, copies := b.copies ++ [{ id := b.nextCopy, desc := r }] } }

section
variable {s : State} {r : Req} {t : List Req} (hq : s.brola.copyQ = r :: t)
include hq

theorem exec_copyStart_free (hfree : s.brola.copies.length < 16) :
    ∃ u, exec (.copyStart .brola) s = .next u ∧ CopiesKept (copyTaken s r t) u := by
  show ∃ u, execCopyStart .brola s = .next u ∧ _
  simp only [execCopyStart, hq, hfree, decide_true, Bool.not_true, Bool.false_eq_true, if_false]
  exact ⟨_, rfl, foldl_copyRead_copiesKept _ _ _⟩

theorem exec_copyStart_busy (hbusy : 16 ≤ s.brola.copies.length) : exec (.copyStart .brola) s = .next s := by
  show execCopyStart .brola s = _
  simp [execCopyStart, hq, Nat.not_lt.2 hbusy]

end

end Sys2Proof.Machine

open Sys2Proof Sys2Proof.Machine

/-- Settles O27: multicast stores, refused and copied, and their time limit; then descriptors at a leaf and at a Kojor, and the engines. -/
theorem multicastsAndCopies : Obligations.MulticastsAndCopies := by
  refine ⟨fun s r v h hop hk => ?reserved, fun s r v h hop hk hz => ⟨fun hl => ?noLeaf, fun hl => ?copies⟩,
    fun s m x hm hw hx => ⟨fun ht => ?timeout, exec_mcastCopyTimeout_early hm⟩,
    fun s r n h hop hown hloc hok => ⟨fun hroom => ?leaf, fun hfull => ?leafFull⟩,
    fun s r v h hop hk _ hz hctl hloc hok hm ha => ⟨fun hd => ?kojor, fun hd => ?deferred⟩,
    fun s r t hq => ⟨fun hfree => ?start, exec_copyStart_busy hq⟩⟩
  case reserved =>
    obtain ⟨w, hw⟩ := doMst_reserved h hop hk
    exact ⟨_, (exec_mst h hop).trans (congrArg _ hw), rfl, rfl⟩
  case noLeaf =>
    obtain ⟨w, c, hw⟩ := doMst_noLeaf h hop hk hz hl
    exact ⟨_, (exec_mst h hop).trans (congrArg _ hw), rfl, rfl⟩
  case copies =>
    obtain ⟨w, hw⟩ := entryState_eq s r v
    have hcopies := doMst_copies (entryState s r v) v hk hz (by rw [hw]; exact hl) h.partyOf
    rw [entryState_nextMc, hw] at hcopies
    exact ⟨_, (exec_mst h hop).trans (by rw [hw]), hcopies⟩
  case timeout =>
    obtain ⟨q, hexec⟩ := exec_mcastCopyTimeout_due hm ht
    obtain ⟨c, hc⟩ := foldl_mcastFail_ends m.waiting (s := { s with rq := q }) hm hw (fun _ hp => hp) hx
    exact ⟨_, c, hexec, hc⟩
  case leaf =>
    obtain ⟨hrun, hfin⟩ := h.idle
    have hexec := exec_cpyd_brola h n hop hown hloc hok
    rw [if_pos hroom] at hexec
    obtain ⟨c, l, hs⟩ := settle_brola (d := queuedLeaf s r) n hrun hfin (countable_cpyd hop _)
    exact ⟨_, hexec.trans (congrArg _ hs), rfl, rfl, rfl⟩
  case leafFull =>
    obtain ⟨hrun, hfin⟩ := h.idle
    have hexec := exec_cpyd_brola h n hop hown hloc hok
    rw [if_neg (Nat.not_lt.2 hfull)] at hexec
    obtain ⟨c, l, hs⟩ := settle_brola (d := retryIn s .brola r 10) n hrun hfin (countable_cpyd hop _)
    exact ⟨_, hexec.trans (congrArg _ hs), rfl, rfl⟩
  case kojor =>
    obtain ⟨w, hexec⟩ := exec_cpyd_kojor h hop hk hz hctl hloc hok hm
    rw [hd] at hexec
    let d := queuedKojor { s with sw := w } r
    have hs : settle r v d = emit (withItsDup r v d) (.cmp d.c) := settle_uncounted (h.answersAlone w) ⟨hm, ha⟩
      (countable_cpyd hop _) (by omega)
    exact ⟨_, hexec.trans (congrArg _ hs), congrArg Ctl.copyQ (withItsDup_ctl r v d),
      congrArg (· ++ [Out.cmp d.c]) (withItsDup_undisturbed r v d).out⟩
  case deferred =>
    obtain ⟨w, hexec⟩ := exec_cpyd_kojor h hop hk hz hctl hloc hok hm
    rw [hd] at hexec
    have hs := settle_plain (d := energyDefer { s with sw := w } r) (h.answersAlone w) (by simp [leavesDup, energyDefer, cmpLater, cmpOf])
      (countable_cpyd hop _) (by simp [hop]) rfl
    exact ⟨_, hexec.trans (congrArg _ hs), rfl, rfl⟩
  case start =>
    obtain ⟨u, hu, hc, hcq, hn, hmem⟩ := exec_copyStart_free hq hfree
    refine ⟨u, hu, hcq, hn, ?_, hmem⟩
    have hname : (s.brola.nextCopy, r) ∈ u.brola.copies.map copyName := by
      rw [hc]
      simp [copyTaken, copyName]
    obtain ⟨x, hx, hxn⟩ := List.mem_map.1 hname
    obtain ⟨hid, hdesc⟩ := Prod.mk.inj hxn
    exact ⟨x, hx, hid, hdesc⟩

end

section
/-! SUPPORT. Ops of a tile's slots: when they issue, and what a tile written over or a result added to it leaves (R226, R230). -/

namespace Sys2Proof.Machine

open Sys2Proof

theorem slotReady.slotOk {s : State} {n : Nat} (h : slotReady s n) : slotOk s n = true := by
  obtain ⟨hrun, hend, hstall, hfetch, -, hstop, hpc, hn⟩ := h
  simp [Machine.slotOk, bundleOk, hrun, hend, hstall, hfetch, hstop, hpc, hn]

/-- A tile written over leaves every other tile alone. -/
theorem tileBecomes_setTile (s : State) (n : Nat) (t : Tile) : tileBecomes s (setTile s n t) n t :=
  ⟨rfl, tileOf_setTile_self s n t, fun m hm => by rw [tileOf_setTile, if_neg (Ne.symm hm)]⟩

theorem tileBecomes.trans {s u w : State} {n : Nat} {t t' : Tile} (h : tileBecomes s u n t) (h' : tileBecomes u w n t') : tileBecomes s w n t' := by
  obtain ⟨hu, -, ho⟩ := h
  obtain ⟨hw, ht, ho'⟩ := h'
  exact ⟨by rw [hw, hu], ht, fun m hm => (ho' m hm).trans (ho m hm)⟩

/-- A result added joins the pending ones of its tile. -/
theorem tileBecomes_addPend (s : State) (n : Nat) (w : PendW) :
    tileBecomes s (addPend s n w) n { tileOf s n with pend := (tileOf s n).pend ++ [w] } := tileBecomes_setTile _ _ _

theorem tileBecomes.str {s u : State} {n : Nat} {t : Tile} (h : tileBecomes s u n t) : u.str = s.str := by
  obtain ⟨hu, -⟩ := h
  rw [hu]

theorem tileBecomes.tile {s u : State} {n : Nat} {t : Tile} (h : tileBecomes s u n t) : tileOf u n = t := by
  obtain ⟨-, ht, -⟩ := h
  exact ht

theorem tileBecomes.scrBytes {s u : State} {n : Nat} {t : Tile} (h : tileBecomes s u n t) (k a len : Nat) :
    scrBytes u k a len = scrBytes s k a len := by
  obtain ⟨hu, -⟩ := h
  rw [hu]
  rfl

theorem tileBecomes.addPend {s u : State} {n : Nat} {t : Tile} (h : tileBecomes s u n t) (x : PendW) :
    tileBecomes s (addPend u n x) n { t with pend := t.pend ++ [x] } := by
  rw [← h.tile]
  exact h.trans (tileBecomes_addPend u n x)

theorem tileBecomes.setMe {s u : State} {n : Nat} {t : Tile} (h : tileBecomes s u n t) (m : Nat) (e : Me) :
    tileBecomes s (setMe u n m e) n { t with mes := t.mes.set m e } := by
  rw [← h.tile]
  exact h.trans (tileBecomes_setTile _ _ _)

theorem tileBecomes_self (s : State) (n : Nat) : tileBecomes s s n (tileOf s n) := ⟨rfl, rfl, fun _ _ => rfl⟩

end Sys2Proof.Machine
end

section
/-! SUPPORT. The vector unit's arithmetic, and O8 (R199, R230, R240). -/

namespace Sys2Proof.Machine

open Sys2Proof

/-- The unit is taken for one cycle, and its result joins the pending ones. -/
theorem tileBecomes_vecResult (s : State) (n : Nat) (w : PendW) :
    tileBecomes s (addPend (vecBusyFor s n 1) n w) n
      { tileOf s n with vBusy := s.str.cycle + 1, pend := (tileOf s n).pend ++ [w] } := by
  have h := (tileBecomes_setTile s n { tileOf s n with vBusy := s.str.cycle + 1 }).trans (tileBecomes_addPend (vecBusyFor s n 1) n w)
  rwa [vecBusyFor, tileOf_setTile_self] at h

section
variable {s : State} {n : Nat} {o : VecOp} (h : slotReady s n) (hbusy : (tileOf s n).vBusy ≤ s.str.cycle)
include h hbusy

/-- An op that reads no scratch, on a unit that is free, runs. -/
theorem vectorOp_free (go : State → State) : vectorOp s n o false go = go s := by
  simp [vectorOp, h.slotOk, vecIllegal, Nat.not_lt.2 hbusy]

theorem vecArith_free (f : Nat → Nat → Nat → Nat) (hd : o.vd < 16) (ha : o.va < 16) (hb : o.vb < 16) (hc : o.vc < 16) :
    let t := tileOf s n
    let lane := fun r i => (TMap.get (t.v.get r []) i (0 : W32)).toNat
    tileBecomes s (vecArith s n o f) n { t with
      vBusy := s.str.cycle + 1
      pend := t.pend ++ [.vreg (s.str.cycle + 6) o.vd
        ((List.range t.vlen).map fun i => (i, BitVec.ofNat 32 (f (lane o.va i) (lane o.vb i) (lane o.vc i))))] } := by
  simp only [vecArith, vectorOp_free h hbusy, laneOf, Nat.mod_eq_of_lt hd, Nat.mod_eq_of_lt ha, Nat.mod_eq_of_lt hb, Nat.mod_eq_of_lt hc]
  exact tileBecomes_vecResult _ _ _

end

/-- The engines of the group in VB (R240). -/
def vaccMes (vb : Nat) : List Nat := if bit vb 2 then (List.range 8).map (· + 8 * (vb % 4)) else List.range 32

theorem bit_two (n : Nat) : bit n 2 = decide (4 ≤ n % 8) := by
  simp only [bit]
  rw [Bool.eq_iff_iff]
  simp
  omega

theorem mem_vaccMes {vb m : Nat} : m ∈ vaccMes vb ↔ if 4 ≤ vb % 8 then 8 * (vb % 4) ≤ m ∧ m < 8 * (vb % 4) + 8 else m < 32 := by
  unfold vaccMes
  rw [bit_two]
  split
  · next h =>
    rw [if_pos (by simpa using h)]
    simp only [List.mem_map, List.mem_range]
    constructor
    · rintro ⟨k, hk, rfl⟩
      omega
    · intro hm
      exact ⟨m - 8 * (vb % 4), by omega, by omega⟩
  · next h =>
    rw [if_neg (by simpa using h), List.mem_range]

/-- The lanes of the lane block VA that the accumulators of the group fill, up to VLEN. -/
def vaccLanes (t : Tile) (o : VecOp) : List (Nat × W32) :=
  ((vaccMes o.vb).flatMap fun m => (List.range 128).map fun r => (4096 * o.va + 128 * m + r, t.acc.get (m, r) 0)).filter
    fun x => decide (x.1 < t.vlen)

theorem mem_vaccLanes {t : Tile} {o : VecOp} {k : Nat} {x : W32} : (k, x) ∈ vaccLanes t o ↔ ∃ m r, r < 128
    ∧ (if 4 ≤ o.vb % 8 then 8 * (o.vb % 4) ≤ m ∧ m < 8 * (o.vb % 4) + 8 else m < 32) ∧ k = 4096 * o.va + 128 * m + r ∧ k < t.vlen
    ∧ x = t.acc.get (m, r) 0 := by
  simp only [vaccLanes, List.mem_filter, List.mem_flatMap, List.mem_map, List.mem_range, mem_vaccMes, Prod.mk.injEq, decide_eq_true_eq]
  constructor
  · rintro ⟨⟨m, hm, r, hr, rfl, rfl⟩, hk⟩
    exact ⟨m, r, hr, hm, rfl, hk, rfl⟩
  · rintro ⟨m, r, hr, hm, rfl, hk, rfl⟩
    exact ⟨⟨m, hm, r, hr, rfl, rfl⟩, hk⟩

theorem exec_vacc {s : State} {n : Nat} {o : VecOp} (h : slotReady s n) (hbusy : (tileOf s n).vBusy ≤ s.str.cycle) (ha : o.va < 8) :
    exec (.vacc n o) s = .next (addPend (vecBusyFor s n 1) n (.vreg (s.str.cycle + 6) (o.vd % 16) (vaccLanes (tileOf s n) o))) := by
  show execVacc n o s = _
  simp only [execVacc, h.slotOk, Nat.not_le.2 ha, decide_false, Bool.and_false, Bool.false_eq_true, if_false, vectorOp_free h hbusy]
  rfl

end Sys2Proof.Machine

open Sys2Proof Sys2Proof.Machine

/-- Settles O8: the five lane-by-lane ops, then the lanes that the accumulators fill. -/
theorem vectorArithmetic : Obligations.VectorArithmetic := by
  intro s n o h hbusy hd ha hb hc t lane makes each
  have harith := fun f => vecArith_free h hbusy f hd ha hb hc
  refine ⟨⟨_, rfl, harith _⟩, ⟨_, rfl, harith _⟩, ⟨_, rfl, harith _⟩, ⟨_, rfl, harith _⟩, ⟨_, rfl, harith _⟩, fun hva => ?vacc⟩
  case vacc =>
    refine ⟨_, vaccLanes t o, exec_vacc h hbusy hva, ?_, fun k x => mem_vaccLanes⟩
    rw [Nat.mod_eq_of_lt hd]
    exact tileBecomes_vecResult _ _ _

end

section
/-! SUPPORT. Bytes that an op moves cycle by cycle: the scratch checks, the ports, and the parts in which they are read (R229, R230). -/

namespace Sys2Proof.Machine

open Sys2Proof

/-! The checks of an op that moves bytes (R229). -/

theorem scrCheck_passes {s : State} {n part : Nat} {ranges : List (Nat × Nat)} {ports : List (Nat × Nat × Nat)} (go : State → State)
    (hr : ∀ x ∈ ranges, x.1 + x.2 ≤ scrTop s) (hp : portFits s n ports = true) :
    scrCheck s n part ranges ports go = go (portTake s n ports) := by
  have hout : outOfScratch s ranges = none := by
    simp only [outOfScratch, Option.map_eq_none_iff, List.find?_eq_none, decide_eq_true_eq]
    intro x hx
    exact Nat.not_lt.2 (hr x hx)
  simp [scrCheck, hout, hp]

/-- The ports serve an op if each of its cycles has room for what it moves then. -/
theorem portFits_of_room {s : State} {n : Nat} {l : List (Nat × Nat × Nat)}
    (h : ∀ p ∈ l, ∃ j, p.1 = s.str.cycle + j ∧ portRoom s n j ((l.filter fun q => q.1 == s.str.cycle + j).map (·.2.1)).sum
      ((l.filter fun q => q.1 == s.str.cycle + j).map (·.2.2)).sum) : portFits s n l = true := by
  simp only [portFits, List.all_eq_true, List.mem_eraseDups, List.mem_map, decide_eq_true_eq]
  rintro c ⟨p, hp, rfl⟩
  obtain ⟨j, hj, hread, hwrite⟩ := h p hp
  simpa [hj, List.filter_append] using ⟨hread, hwrite⟩

/-- Entries of rising cycles: one for each. -/
theorem filter_cycle (c k j : Nat) (f : Nat → Nat × Nat) (hj : j < k) :
    ((List.range k).map fun i => (c + i, f i)).filter (fun p => p.1 == c + j) = [(c + j, f j)] := by
  rw [List.filter_map]
  have hp : (fun p : Nat × Nat × Nat => p.1 == c + j) ∘ (fun i => (c + i, f i)) = fun i => i == j := by
    funext i
    simp
  rw [hp, List.filter_beq, List.count_eq_one_of_mem List.nodup_range (List.mem_range.2 hj)]
  rfl

theorem portFits_cycles {s : State} {n k : Nat} (f : Nat → Nat × Nat) (h : ∀ j < k, portRoom s n j (f j).1 (f j).2) :
    portFits s n ((List.range k).map fun j => (s.str.cycle + j, f j)) = true := by
  refine portFits_of_room fun p hp => ?_
  obtain ⟨j, hj, rfl⟩ := List.mem_map.1 hp
  have hk := List.mem_range.1 hj
  refine ⟨j, rfl, ?_⟩
  rw [filter_cycle _ _ _ _ hk]
  simpa using h j hk

/-- Each of the engines moves its bytes in the present cycle. -/
theorem portFits_now {α : Type} {s : State} {n : Nat} (l : List α) (r w : Nat) (h : portRoom s n 0 (r * l.length) (w * l.length)) :
    portFits s n (l.map fun _ => (s.str.cycle, r, w)) = true := by
  refine portFits_of_room fun p hp => ⟨0, ?_, ?_⟩
  · obtain ⟨-, -, rfl⟩ := List.mem_map.1 hp
    rfl
  · rw [List.filter_eq_self.2 (by simp)]
    simpa [Nat.mul_comm] using h

theorem spread_eq (c rate total k : Nat) :
    spread c rate total k = (List.range k).map fun j => (c + j, min rate (total - rate * j)) := by
  induction k generalizing c total with
  | zero => rfl
  | succ k ih =>
    rw [spread, ih, List.range_succ_eq_map]
    simp only [List.map_cons, List.map_map, Nat.mul_zero, Nat.sub_zero, Nat.add_zero, List.cons.injEq, true_and, List.map_inj_left]
    intro j _
    simp only [Function.comp, Nat.mul_succ]
    congr 1 <;> omega

/-! Bytes read in parts (R230). -/

theorem Memory.readN_append (m : List Host.Cell) (a i j : Nat) :
    Memory.readN m a (i + j) = Memory.readN m a i ++ Memory.readN m (a + i) j := by
  induction i generalizing a with
  | zero => simp [Memory.readN]
  | succ i ih =>
    rw [Nat.succ_add, Memory.readN, Memory.readN, ih, Nat.add_assoc, Nat.add_comm 1 i]
    rfl

theorem scrBytes_append (s : State) (n a i j : Nat) : scrBytes s n a (i + j) = scrBytes s n a i ++ scrBytes s n (a + i) j := by
  simp only [scrBytes, Memory.readN_append, scrKey, Nat.add_assoc]

@[simp] theorem scrBytes_zero (s : State) (n a : Nat) : scrBytes s n a 0 = [] := rfl

/-- Equal parts in order are the whole. -/
theorem scrBytes_equalParts (s : State) (n a d k : Nat) :
    ((List.range k).flatMap fun j => scrBytes s n (a + j * d) d) = scrBytes s n a (k * d) := by
  induction k with
  | zero => simp
  | succ k ih => rw [List.range_succ, List.flatMap_append, ih, Nat.succ_mul, scrBytes_append]; simp

/-- Parts of a given size, and what is left in the last, are the whole. -/
theorem scrBytes_parts (s : State) (n a d len k : Nat) :
    ((List.range k).flatMap fun j => scrBytes s n (a + d * j) (min d (len - d * j))) = scrBytes s n a (min len (d * k)) := by
  induction k with
  | zero => simp
  | succ k ih =>
    rw [List.range_succ, List.flatMap_append, ih]
    simp only [List.flatMap_singleton, Nat.mul_succ]
    rcases Nat.le_total len (d * k) with h | h
    · rw [Nat.sub_eq_zero_of_le h, Nat.min_eq_left h, Nat.min_eq_left (by omega : len ≤ d * k + d)]
      simp
    · rw [Nat.min_eq_right h, show min len (d * k + d) = d * k + min d (len - d * k) by omega, scrBytes_append]

/-- An op that has read the first of its k parts. -/
def firstRead (s : State) (n : Nat) (what : ReadFor) (f : Nat → Nat × Nat × Nat × Nat) (k : Nat) : ReadRun :=
  { what := what, parts := (List.range (k - 1)).map fun j => f (j + 1), els := scrBytes s n (f 0).1 (f 0).2.1
    scales := scrBytes s n (f 0).2.2.1 (f 0).2.2.2 }

theorem range_eq_cons {k : Nat} (h : 0 < k) : List.range k = 0 :: (List.range (k - 1)).map (· + 1) := by
  obtain ⟨i, rfl⟩ : ∃ i, k = i + 1 := ⟨k - 1, by omega⟩
  exact List.range_succ_eq_map

/-- Of several parts the first is read, and the others wait. -/
theorem readPart_parts (s : State) (n c : Nat) (what : ReadFor) (f : Nat → Nat × Nat × Nat × Nat) {k : Nat} (hk : 1 < k) :
    readPart s n c { what := what, parts := (List.range k).map f } = addPend s n (.read (c + 1) (firstRead s n what f k)) := by
  have hne : ((List.range (k - 1)).map fun j => f (j + 1)).isEmpty = false := by
    simp only [List.isEmpty_eq_false_iff, ne_eq, List.map_eq_nil_iff, List.range_eq_nil]
    omega
  rw [range_eq_cons (by omega : 0 < k)]
  simp [readPart, firstRead, Function.comp_def, hne]

/-- A single part is read at once. -/
theorem readPart_one (s : State) (n c : Nat) (what : ReadFor) (p : Nat × Nat × Nat × Nat) :
    readPart s n c { what := what, parts := [p] }
      = readEnd s n c { what := what, parts := [], els := scrBytes s n p.1 p.2.1, scales := scrBytes s n p.2.2.1 p.2.2.2 } := rfl

/-- What the op will have read is what its parts hold. -/
theorem firstRead_readsOn {s u : State} {n k : Nat} {what : ReadFor} {f : Nat → Nat × Nat × Nat × Nat} (hk : 0 < k)
    (h : PendW.read (s.str.cycle + 1) (firstRead s n what f k) ∈ (tileOf u n).pend) :
    readsOn s u n (k - 1) what ((List.range k).flatMap fun j => scrBytes s n (f j).1 (f j).2.1)
      ((List.range k).flatMap fun j => scrBytes s n (f j).2.2.1 (f j).2.2.2) := by
  refine ⟨_, h, rfl, by simp [firstRead], ?_, ?_⟩ <;> simp [firstRead, range_eq_cons hk, List.flatMap_map]

end Sys2Proof.Machine
end

section
/-! SUPPORT. An op issued to the engines of a group, one after the other: their accumulators and buffers, and what else it leaves of
a tile (R196, R197, R238, R239). -/

namespace Sys2Proof.Machine

open Sys2Proof

/-! Accumulators as the newest op leaves them (R197). -/

/-- The values that a pending result brings to the accumulators of ME m. -/
def accVals (m : Nat) : PendW → Option (List (Nat × W32))
  | .acc _ k l => if k = m then some l else none
  | _ => none

theorem newestAcc_eq (t : Tile) (m r : Nat) : newestAcc t m r
    = ((t.pend.filterMap (accVals m)).getLast?.map fun l => TMap.get l r 0).getD (t.acc.get (m, r) 0) := by
  have hv : newestAcc t m r = (match (t.pend.filterMap (accVals m)).getLast? with
    | some l => TMap.get l r 0
    | none => t.acc.get (m, r) 0) := rfl
  rw [hv]
  cases (t.pend.filterMap (accVals m)).getLast? <;> rfl

/-- Results of other kinds, or of other engines, leave the newest values alone. -/
theorem newestAcc_append_other {t t' : Tile} {m : Nat} {l : List PendW} (hp : t'.pend = t.pend ++ l) (ha : t'.acc = t.acc)
    (hl : ∀ w ∈ l, accVals m w = none) : newestAcc t' m = newestAcc t m := by
  funext r
  rw [newestAcc_eq, newestAcc_eq, hp, ha, List.filterMap_append, List.filterMap_eq_nil_iff.2 hl, List.append_nil]

/-- The last result for an engine gives its newest values. -/
theorem newestAcc_append_last {t : Tile} {m : Nat} {l₁ l₂ : List PendW} {d : Nat} {vals : List (Nat × W32)}
    (hp : t.pend = l₁ ++ .acc d m vals :: l₂) (hl : ∀ w ∈ l₂, accVals m w = none) (r : Nat) : newestAcc t m r = TMap.get vals r 0 := by
  rw [newestAcc_eq, hp, List.filterMap_append, List.filterMap_cons_some (b := vals) (by simp [accVals]), List.filterMap_eq_nil_iff.2 hl]
  simp

theorem get_map_range (f : Nat → W32) {k r : Nat} (h : r < k) : TMap.get ((List.range k).map fun i => (i, f i)) r 0 = f r := by
  have hg : ∀ l : List Nat, r ∈ l → TMap.get (l.map fun i => (i, f i)) r 0 = f r := by
    intro l
    induction l with
    | nil => simp
    | cons a t ih =>
      intro hr
      simp only [List.map_cons, TMap.get]
      split
      · next he => rw [he]
      · next he => exact ih ((List.mem_cons.1 hr).resolve_left (Ne.symm he))
  exact hg _ (List.mem_range.2 h)

/-! The buffers of an engine (R196, R239). -/

@[simp] theorem activeBuf_setIdle (e : Me) (b : WBuf) : activeBuf (setIdle e b) = activeBuf e := by
  unfold setIdle activeBuf
  split <;> simp_all

@[simp] theorem idleBuf_setIdle (e : Me) (b : WBuf) : idleBuf (setIdle e b) = b := by
  unfold setIdle idleBuf
  split <;> simp_all

/-- The end of a load fills the idle buffer. -/
theorem readEnd_ldw (v : State) (n d m : Nat) (els scales : List Byte) :
    idleBuf (meOfTile (tileOf (readEnd v n d { what := .ldw m, els := els, scales := scales }) n) m)
      = { idleBuf (meOfTile (tileOf v n) m) with els := els, scales := scales } := by
  simp [readEnd, meOfTile]

/-! The groups (R238). -/

theorem groupMes_nodup {o : MatOp} {ms : List Nat} (h : groupMes o = some ms) : ms.Nodup := by
  unfold groupMes at h
  split_ifs at h
  · cases h
    exact List.nodup_range
  · cases h
    exact List.nodup_range.map fun a b hab => by simpa using hab
  · cases h
    exact List.nodup_singleton _

theorem matIllegal_legal {o : MatOp} {ms : List Nat} (hg : groupMes o = some ms) (har : o.areg < 16) (hfmt : o.fmt ≤ 6)
    (hodd : o.fmt ≤ 2 → o.areg % 2 = 0) : matIllegal o = false := by
  have hmx : (isMx o.fmt && o.areg % 2 == 1) = false := by
    by_cases hm : o.fmt ≤ 2
    · simp [hodd hm]
    · simp [isMx, hm]
  have hrange : ¬ (7 ≤ o.fmt ∨ 16 ≤ o.areg) := by omega
  simp [matIllegal, hg, hmx, hrange]

/-- An op of a legal encoding whose engines are all free goes on. -/
theorem matrixOp_free {s : State} {n : Nat} {o : MatOp} {ms : List Nat} {busy : Me → Bool} {usesFmt : Bool} (h : slotReady s n)
    (hg : groupMes o = some ms) (har : o.areg < 16) (hfmt : o.fmt ≤ 6) (hodd : o.fmt ≤ 2 → o.areg % 2 = 0)
    (hb : ∀ m ∈ ms, busy (meOfTile (tileOf s n) m) = false) (go : List Nat → State → State) :
    matrixOp s n o usesFmt busy go = go ms s := by
  obtain ⟨o', ho, hleg⟩ : ∃ o', (if usesFmt then o else { o with fmt := 3 }) = o' ∧ matIllegal o' = false := by
    cases usesFmt
    · exact ⟨_, rfl, matIllegal_legal (o := { o with fmt := 3 }) hg har (by simp) (by simp)⟩
    · exact ⟨_, rfl, matIllegal_legal hg har hfmt hodd⟩
  have hnone : (ms.any fun m => busy (meOfTile (tileOf s n) m)) = false := by simpa using hb
  simp only [matrixOp, ho, hg, hleg, h.slotOk, Option.getD_some, hnone, Bool.not_true, Bool.false_eq_true, if_false]

/-! One engine after the other. -/

/-- An op issued to ME m: a result or a read joins the pending ones, and the engine is left as e says. -/
def issueTo (w : Nat → PendW) (e : Nat → Me) (t : Tile) (m : Nat) : Tile :=
  { t with pend := t.pend ++ [w m], mes := t.mes.set m (e m) }

/-- What an op on ME m reads of a tile is as it was. -/
def sameFor (t t' : Tile) (m : Nat) : Prop :=
  t'.ad = t.ad ∧ t'.stride = t.stride ∧ t'.acc = t.acc ∧ meOfTile t' m = meOfTile t m ∧ newestAcc t' m = newestAcc t m

theorem sameFor.refl (t : Tile) (m : Nat) : sameFor t t m := ⟨rfl, rfl, rfl, rfl, rfl⟩

theorem sameFor.trans {t t' t'' : Tile} {m : Nat} (h : sameFor t t' m) (h' : sameFor t' t'' m) : sameFor t t'' m := by
  obtain ⟨h1, h2, h3, h4, h5⟩ := h
  obtain ⟨g1, g2, g3, g4, g5⟩ := h'
  exact ⟨g1.trans h1, g2.trans h2, g3.trans h3, g4.trans h4, g5.trans h5⟩

theorem sameFor.meAddr {t t' : Tile} {m : Nat} (h : sameFor t t' m) (r k : Nat) : meAddr t' r k = meAddr t r k := by
  obtain ⟨h1, h2, -⟩ := h
  rw [Machine.meAddr, h1, h2, ← Machine.meAddr]

/-- An op on one engine changes nothing that one on another reads. -/
theorem sameFor_issueTo {w : Nat → PendW} {e : Nat → Me} {m k : Nat} (hw : accVals k (w m) = none) (hk : m ≠ k) (t : Tile) :
    sameFor t (issueTo w e t m) k :=
  ⟨rfl, rfl, rfl, TMap.get_set_ne _ _ _ hk, newestAcc_append_other rfl rfl (by simpa using hw)⟩

/-- A tile to whose engines ms an op has been issued. -/
def issued (w : Nat → PendW) (e : Nat → Me) (t : Tile) (ms : List Nat) : Tile := ms.foldl (issueTo w e) t

section
variable (w : Nat → PendW) (e : Nat → Me) (t : Tile) (ms : List Nat)

theorem issued_eq : issued w e t ms = { t with pend := t.pend ++ ms.map w, mes := (issued w e t ms).mes } := by
  induction ms generalizing t with
  | nil => simp [issued]
  | cons m ms ih =>
    show issued w e (issueTo w e t m) ms = _
    rw [ih]
    simp [issueTo, issued]

theorem meOfTile_issued {m : Nat} (hd : ms.Nodup) :
    meOfTile (issued w e t ms) m = if m ∈ ms then e m else meOfTile t m := by
  induction ms generalizing t with
  | nil => simp [issued]
  | cons a ms ih =>
    obtain ⟨ha, hd'⟩ := List.nodup_cons.1 hd
    show meOfTile (issued w e (issueTo w e t a) ms) m = _
    rw [ih _ hd']
    by_cases hm : m ∈ ms
    · simp [hm]
    · by_cases hma : m = a
      · subst hma
        simp [hm, meOfTile, issueTo]
      · simp only [hm, if_false, List.mem_cons, hma, or_self, meOfTile, issueTo]
        exact TMap.get_set_ne _ _ _ (Ne.symm hma)

/-- Where each op brings values to its own engine alone, the engines of others keep theirs. -/
theorem newestAcc_issued_other (hw : ∀ m k, m ≠ k → accVals k (w m) = none) {k : Nat} (hk : k ∉ ms) :
    newestAcc (issued w e t ms) k = newestAcc t k := by
  refine newestAcc_append_other (l := ms.map w) (by rw [issued_eq]) (by rw [issued_eq]) fun x hx => ?_
  obtain ⟨m, hm, rfl⟩ := List.mem_map.1 hx
  exact hw m k fun he => hk (he ▸ hm)

theorem newestAcc_issued (hd : ms.Nodup) (hw : ∀ m k, m ≠ k → accVals k (w m) = none) {m d : Nat} {vals : List (Nat × W32)} (hm : m ∈ ms)
    (hv : w m = .acc d m vals) (r : Nat) : newestAcc (issued w e t ms) m r = TMap.get vals r 0 := by
  obtain ⟨l₁, l₂, rfl⟩ := List.append_of_mem hm
  have hp : (issued w e t (l₁ ++ m :: l₂)).pend = (t.pend ++ l₁.map w) ++ .acc d m vals :: l₂.map w := by
    rw [issued_eq]
    simp [hv]
  refine newestAcc_append_last hp (fun x hx => ?_) r
  obtain ⟨k, hk, rfl⟩ := List.mem_map.1 hx
  refine hw k m fun he => ?_
  have := (List.nodup_append.1 hd).2.1
  exact (List.nodup_cons.1 this).1 (he ▸ hk)

end

/-- The model's loop over the engines of a group issues the op to each, if its one step does so on every tile that is the same for that
engine. `R` ties a state to the tile as it stands. -/
theorem foldl_issued {f : State → Nat → State} {w : Nat → PendW} {e : Nat → Me} (R : State → Tile → Prop) {t : Tile} {ms : List Nat}
    (hw : ∀ m k, m ≠ k → accVals k (w m) = none) (hf : ∀ m ∈ ms, ∀ u t', R u t' → sameFor t t' m → R (f u m) (issueTo w e t' m))
    (hd : ms.Nodup) {u : State} (hR : R u t) : R (ms.foldl f u) (issued w e t ms) := by
  have key : ∀ (l : List Nat) (u : State) (t' : Tile), l ⊆ ms → l.Nodup → R u t' → (∀ m ∈ l, sameFor t t' m) →
      R (l.foldl f u) (issued w e t' l) := by
    intro l
    induction l with
    | nil => exact fun u t' _ _ hR _ => hR
    | cons m l ih =>
      intro u t' hl hd hR hs
      obtain ⟨hm, hd'⟩ := List.nodup_cons.1 hd
      obtain ⟨hmem, hl'⟩ := List.cons_subset.1 hl
      refine ih _ _ hl' hd' (hf m hmem _ _ hR (hs m (List.mem_cons_self ..))) fun k hk => ?_
      have hne : m ≠ k := fun he => hm (he ▸ hk)
      exact (hs k (List.mem_cons_of_mem _ hk)).trans (sameFor_issueTo (hw m k hne) hne t')
  exact key ms u t (List.Subset.refl ms) hd hR fun m _ => sameFor.refl t m

end Sys2Proof.Machine
end

section
/-! SUPPORT. The ops of the matrix engines, case by case, and O7 (R194, R197, R198, R230, R238, R239). -/

namespace Sys2Proof.Machine

open Sys2Proof

/-- More pending results. -/
def addPends (t : Tile) (l : List PendW) : Tile := { t with pend := t.pend ++ l }

theorem newestAcc_addPends {l : List PendW} {m : Nat} (hl : ∀ x ∈ l, accVals m x = none) (t : Tile) :
    newestAcc (addPends t l) m = newestAcc t m := newestAcc_append_other rfl rfl hl

theorem tileBecomes.postInc {s u : State} {n : Nat} {t : Tile} (h : tileBecomes s u n t) (o : MatOp) (by_ : Nat) :
    ∃ l, (∀ x ∈ l, ∀ m, accVals m x = none) ∧ tileBecomes s (postInc u n o by_) n (addPends t l) := by
  have hadv : ∀ {v t'} r k, tileBecomes s v n t' → ∃ d x, tileBecomes s (adAdvance v n r k) n { t' with pend := t'.pend ++ [.areg d r x] } :=
    fun r k h' => ⟨_, _, h'.addPend _⟩
  unfold Machine.postInc
  split
  · obtain ⟨d, x, h1⟩ := hadv o.areg by_ h
    dsimp only
    split
    · obtain ⟨d', x', h2⟩ := hadv (o.areg + 1) 8 h1
      exact ⟨[.areg d o.areg x, .areg d' (o.areg + 1) x'], by simp [accVals], by simpa [addPends] using h2⟩
    · exact ⟨[.areg d o.areg x], by simp [accVals], h1⟩
  · exact ⟨[], by simp, by simpa [addPends] using h⟩

/-- To the engines ms of tile n an op has been issued; beside that ports are taken, and address registers move on. -/
def issuedAt (s u : State) (n : Nat) (ms : List Nat) (w : Nat → PendW) (e : Nat → Me) : Prop :=
  ∃ p l, (∀ x ∈ l, ∀ m, accVals m x = none) ∧ tileBecomes s u n (addPends (issued w e { tileOf s n with ports := p } ms) l)

theorem issuedAt_postInc {s u : State} {n : Nat} {w : Nat → PendW} {e : Nat → Me} {ms : List Nat} {p : List (Nat × Nat × Nat)}
    (h : tileBecomes s u n (issued w e { tileOf s n with ports := p } ms)) (o : MatOp) (by_ : Nat) :
    issuedAt s (postInc u n o by_) n ms w e := by
  obtain ⟨l, hl, hu⟩ := h.postInc o by_
  exact ⟨p, l, hl, hu⟩

/-- The loop of an op over its engines, once the ports are taken, and what follows it. -/
theorem issuedAt_loop {s : State} {n : Nat} {f : State → Nat → State} {w : Nat → PendW} {e : Nat → Me} {ms : List Nat} (hd : ms.Nodup)
    (hw : ∀ m k, m ≠ k → accVals k (w m) = none)
    (hf : ∀ u t m, tileBecomes s u n t → sameFor (tileOf s n) t m → tileBecomes s (f u m) n (issueTo w e t m))
    (ports : List (Nat × Nat × Nat)) (o : MatOp) (by_ : Nat) :
    issuedAt s (postInc (ms.foldl f (portTake s n ports)) n o by_) n ms w e :=
  issuedAt_postInc (foldl_issued (fun u t => tileBecomes s u n t) (t := { tileOf s n with ports := (tileOf s n).ports ++ ports }) hw
    (fun m _ u t hu hs => hf u t m hu hs) hd (tileBecomes_setTile s n _)) o by_

section
variable {s u : State} {n : Nat} {ms : List Nat} {w : Nat → PendW} {e : Nat → Me} (h : issuedAt s u n ms w e)
include h

theorem issuedAt.only : u = { s with tiles := u.tiles } ∧ ∀ k, k ≠ n → tileOf u k = tileOf s k := by
  obtain ⟨p, l, -, hu, -, ho⟩ := h
  exact ⟨hu, ho⟩

theorem issuedAt.acc : (tileOf u n).acc = (tileOf s n).acc := by
  obtain ⟨p, l, -, hu⟩ := h
  rw [hu.tile, addPends, issued_eq]

theorem issuedAt.mem_pend {m : Nat} (hm : m ∈ ms) : w m ∈ (tileOf u n).pend := by
  obtain ⟨p, l, -, hu⟩ := h
  rw [hu.tile, addPends, issued_eq]
  simp only [List.mem_append, List.mem_map]
  exact .inl (.inr ⟨m, hm, rfl⟩)

theorem issuedAt.me (hd : ms.Nodup) {m : Nat} (hm : m ∈ ms) : meOfTile (tileOf u n) m = e m := by
  obtain ⟨p, l, -, hu⟩ := h
  rw [hu.tile]
  exact (meOfTile_issued w e _ ms hd).trans (if_pos hm)

theorem issuedAt.newestAcc_other (hw : ∀ m k, m ≠ k → accVals k (w m) = none) {m : Nat} (hm : m ∉ ms) :
    newestAcc (tileOf u n) m = newestAcc (tileOf s n) m := by
  obtain ⟨p, l, hl, hu⟩ := h
  rw [hu.tile, newestAcc_addPends fun x hx => hl x hx m]
  exact newestAcc_issued_other w e _ ms hw hm

theorem issuedAt.newestAcc (hd : ms.Nodup) (hw : ∀ m k, m ≠ k → accVals k (w m) = none) {m d : Nat} {f : Nat → W32} (hm : m ∈ ms)
    (hv : w m = .acc d m ((List.range 128).map fun r => (r, f r))) {r : Nat} (hr : r < 128) : newestAcc (tileOf u n) m r = f r := by
  obtain ⟨p, l, hl, hu⟩ := h
  rw [hu.tile, newestAcc_addPends fun x hx => hl x hx m]
  exact (newestAcc_issued w e _ ms hd hw hm hv r).trans (get_map_range f hr)

end

/-! ZACC (R238). -/

/-- Whether ZACC on ME m in cycle c leaves a pending result: not what an older step would deliver later. -/
def keptByZacc (c m : Nat) : PendW → Bool
  | .acc d k _ => k != m || decide (d ≤ c + 1)
  | _ => true

theorem keptByZacc_of_other {c m k : Nat} (hk : k ≠ m) {w : PendW} (hw : accVals k w ≠ none) : keptByZacc c m w = true := by
  cases w with
  | acc d j l =>
    have hj : j = k := by
      by_contra hj
      exact hw (if_neg hj)
    simp [keptByZacc, hj, hk]
  | _ => rfl

theorem filterMap_filter_of {α β : Type} {f : α → Option β} {p : α → Bool} (h : ∀ a, f a ≠ none → p a = true) (l : List α) :
    (l.filter p).filterMap f = l.filterMap f := by
  rw [List.filterMap_filter]
  congr 1
  funext a
  by_cases ha : f a = none
  · simp [ha]
  · rw [if_pos (h a ha)]

/-- One engine's accumulators at +0, and what older steps on it would deliver gone. -/
def zeroed (c : Nat) (t : Tile) (m : Nat) : Tile :=
  { t with
    pend := t.pend.filter (keptByZacc c m) ++ [.acc (c + 1) m ((List.range 128).map fun r => (r, 0))]
    mes := t.mes.set m { meOfTile t m with busy := c + 1 } }

theorem tileBecomes_zaccOne {s u : State} {n : Nat} {t : Tile} (h : tileBecomes s u n t) (m : Nat) :
    tileBecomes s (zaccOne n u m) n (zeroed s.str.cycle t m) := by
  have hu := (h.trans (tileBecomes_setTile u n { t with pend := (zeroed s.str.cycle t m).pend })).setMe m
    { meOfTile t m with busy := s.str.cycle + 1 }
  simp only [zaccOne, h.tile, h.str]
  exact hu

theorem newestAcc_zeroed_other (c : Nat) (t : Tile) {m k : Nat} (hk : k ≠ m) : newestAcc (zeroed c t m) k = newestAcc t k := by
  have hfil := filterMap_filter_of (p := keptByZacc c m) (fun _ hw => keptByZacc_of_other hk hw) t.pend
  have hlast : accVals k (.acc (c + 1) m ((List.range 128).map fun r => (r, 0))) = none := if_neg (Ne.symm hk)
  funext r
  rw [newestAcc_eq, newestAcc_eq]
  simp only [zeroed, List.filterMap_append, hfil, List.filterMap_cons_none hlast, List.filterMap_nil, List.append_nil]

theorem newestAcc_zeroed_self (c : Nat) (t : Tile) (m : Nat) {r : Nat} (hr : r < 128) : newestAcc (zeroed c t m) m r = 0 :=
  (newestAcc_append_last (t := zeroed c t m) (l₂ := []) rfl (by simp) r).trans (get_map_range (fun _ => 0) hr)

/-- Once all are zeroed, those of ms read +0 and every other reads as before. -/
theorem newestAcc_foldl_zeroed (c : Nat) (ms : List Nat) (t : Tile) (k : Nat) :
    (k ∉ ms → newestAcc (ms.foldl (zeroed c) t) k = newestAcc t k)
      ∧ (∀ r < 128, k ∈ ms ∨ newestAcc t k r = 0 → newestAcc (ms.foldl (zeroed c) t) k r = 0) := by
  induction ms generalizing t with
  | nil => simp
  | cons m ms ih =>
    obtain ⟨hother, hzero⟩ := ih (zeroed c t m)
    constructor
    · intro hk
      obtain ⟨hm, hms⟩ := List.ne_and_not_mem_of_not_mem_cons hk
      exact (hother hms).trans (newestAcc_zeroed_other c t hm)
    · intro r hr hk
      refine hzero r hr ?_
      by_cases hm : k = m
      · subst hm
        exact .inr (newestAcc_zeroed_self c t k hr)
      · rw [newestAcc_zeroed_other c t hm]
        simpa [hm] using hk

section
variable {s : State} {n : Nat} {o : MatOp} {ms : List Nat} (h : slotReady s n) (hg : groupMes o = some ms) (har : o.areg < 16)
  (hfmt : o.fmt ≤ 6) (hodd : o.fmt ≤ 2 → o.areg % 2 = 0)
include h hg har hfmt hodd

theorem exec_zacc (hfree : ∀ m ∈ ms, (meOfTile (tileOf s n) m).busy ≤ s.str.cycle) :
    exec (.zacc n o) s = .next (ms.foldl (zaccOne n) s) := by
  show execZacc n o s = _
  rw [execZacc, matrixOp_free h hg har hfmt hodd (fun m hm => by simpa [meBusy] using hfree m hm)]

end

theorem tileBecomes_foldl_zaccOne (s : State) (n : Nat) (ms : List Nat) :
    tileBecomes s (ms.foldl (zaccOne n) s) n (ms.foldl (zeroed s.str.cycle) (tileOf s n)) :=
  List.foldl_rel (r := fun u t => tileBecomes s u n t) (tileBecomes_self s n) fun m _ _ _ hu => tileBecomes_zaccOne hu m

/-! LDACC and STACC (R230, R238). -/

section
variable (s : State) (n : Nat) (o : MatOp)

/-- What LDACC brings to ME m, and the engine after it. -/
def ldaccVal (m : Nat) : PendW := .acc (s.str.cycle + 8) m
  ((List.range 128).map fun r => (r, BitVec.ofNat 32 (ofLe (scrBytes s n (meAddr (tileOf s n) o.areg m + 4 * r) 4))))

def busyOne (m : Nat) : Me := { meOfTile (tileOf s n) m with busy := s.str.cycle + 1 }

/-- The bytes that STACC writes for ME m. -/
def staccVal (m : Nat) : PendW := .scr (s.str.cycle + 6) (meAddr (tileOf s n) o.areg m)
  ((List.range 128).flatMap fun r => leBytes 4 ((tileOf s n).acc.get (m, r) 0).toNat)

variable {s n o}

theorem accVals_ldaccVal {m k : Nat} (h : m ≠ k) : accVals k (ldaccVal s n o m) = none := if_neg h

theorem ldaccOne_issues {u : State} {t : Tile} {m : Nat} (h : tileBecomes s u n t) (hs : sameFor (tileOf s n) t m) :
    tileBecomes s (ldaccOne n o u m) n (issueTo (ldaccVal s n o) (busyOne s n) t m) := by
  have ha := hs.meAddr o.areg m
  obtain ⟨-, -, -, hme, -⟩ := hs
  have hu := (h.addPend (ldaccVal s n o m)).setMe m (busyOne s n m)
  simp only [ldaccOne, h.tile, h.str, h.scrBytes, ha, hme]
  exact hu

theorem staccOne_issues {u : State} {t : Tile} {m : Nat} (h : tileBecomes s u n t) (hs : sameFor (tileOf s n) t m) :
    tileBecomes s (staccOne n o u m) n (issueTo (staccVal s n o) (busyOne s n) t m) := by
  have ha := hs.meAddr o.areg m
  obtain ⟨-, -, hacc, hme, -⟩ := hs
  have hu := (h.addPend (staccVal s n o m)).setMe m (busyOne s n m)
  simp only [staccOne, h.tile, h.str, ha, hacc, hme]
  exact hu

end

theorem needs_inside {s : State} {o : MatOp} {t : Tile} {ms : List Nat} {len slen : Nat}
    (h : ∀ m ∈ ms, meAddr t o.areg m + len ≤ scrTop s) (hsc : slen ≠ 0 → ∀ m ∈ ms, meAddr t (o.areg + 1) m + slen ≤ scrTop s) :
    ∀ x ∈ needs o t ms len slen, x.1 + x.2 ≤ scrTop s := by
  simp only [needs, List.mem_flatMap, List.mem_cons]
  rintro x ⟨m, hm, rfl | hx⟩
  · exact h m hm
  · split at hx
    · simp at hx
    · next hne =>
      rw [List.mem_singleton.1 hx]
      exact hsc hne m hm

section
variable {s : State} {n : Nat} {o : MatOp} {ms : List Nat} (h : slotReady s n) (hg : groupMes o = some ms) (har : o.areg < 16)
  (hfmt : o.fmt ≤ 6) (hodd : o.fmt ≤ 2 → o.areg % 2 = 0) (hfree : ∀ m ∈ ms, (meOfTile (tileOf s n) m).busy ≤ s.str.cycle)
  (hin : ∀ m ∈ ms, meAddr (tileOf s n) o.areg m + 512 ≤ scrTop s)
include h hg har hfmt hodd hfree hin

theorem exec_ldacc (hroom : portRoom s n 0 (512 * ms.length) 0) :
    ∃ u, exec (.ldacc n o) s = .next u ∧ issuedAt s u n ms (ldaccVal s n o) (busyOne s n) := by
  show ∃ u, execLdacc n o s = .next u ∧ _
  rw [execLdacc, matrixOp_free h hg har hfmt hodd (fun m hm => by simpa [meBusy] using hfree m hm),
    scrCheck_passes _ (needs_inside hin fun hne => absurd rfl hne) (portFits_now ms 512 0 (by simpa using hroom))]
  exact ⟨_, rfl, issuedAt_loop (groupMes_nodup hg) (fun m k => accVals_ldaccVal) (fun u t m => ldaccOne_issues) _ _ _⟩

theorem exec_stacc (hroom : portRoom s n 0 0 (512 * ms.length)) :
    ∃ u, exec (.stacc n o) s = .next u ∧ issuedAt s u n ms (staccVal s n o) (busyOne s n) := by
  show ∃ u, execStacc n o s = .next u ∧ _
  rw [execStacc, matrixOp_free h hg har hfmt hodd (fun m hm => by simpa [meBusy] using hfree m hm),
    scrCheck_passes _ (needs_inside hin fun hne => absurd rfl hne) (portFits_now ms 0 512 (by simpa using hroom))]
  exact ⟨_, rfl, issuedAt_loop (groupMes_nodup hg) (fun m k _ => rfl) (fun u t m => staccOne_issues) _ _ _⟩

end

/-- An op that reads sees the scratch of the state it began in, whatever has been issued since. -/
theorem tileBecomes.firstRead {s u : State} {n : Nat} {t : Tile} (h : tileBecomes s u n t) (k : Nat) (what : ReadFor)
    (f : Nat → Nat × Nat × Nat × Nat) (i : Nat) : firstRead u k what f i = firstRead s k what f i := by
  simp only [Machine.firstRead, h.scrBytes]

/-! LDW (R198, R230, R239). -/

/-- The part of a tile that an LDW reads in its j-th cycle. -/
def loadPart (t : Tile) (o : MatOp) (m j : Nat) : Nat × Nat × Nat × Nat :=
  (meAddr t o.areg m + 1024 * j, min 1024 (128 * rowBytes o.fmt - 1024 * j), meAddr t (o.areg + 1) m,
    if 128 * rowBytes o.fmt ≤ 1024 * j then (if isMx o.fmt then 1024 else 0) else 0)

/-- The elements are read in 1,024-byte parts, and the scales after them. -/
theorem loadPart_whole (s : State) (n : Nat) (t : Tile) (o : MatOp) (m : Nat) :
    ((List.range (loadCycles o.fmt)).flatMap fun j => scrBytes s n (loadPart t o m j).1 (loadPart t o m j).2.1)
        = scrBytes s n (meAddr t o.areg m) (128 * rowBytes o.fmt)
      ∧ ((List.range (loadCycles o.fmt)).flatMap fun j => scrBytes s n (loadPart t o m j).2.2.1 (loadPart t o m j).2.2.2)
        = if isMx o.fmt then scrBytes s n (meAddr t (o.areg + 1) m) 1024 else [] := by
  constructor
  · have hlen : min (128 * rowBytes o.fmt) (1024 * loadCycles o.fmt) = 128 * rowBytes o.fmt := by
      unfold rowBytes loadCycles
      split_ifs <;> rfl
    exact (scrBytes_parts ..).trans (congrArg _ hlen)
  · by_cases hmx : isMx o.fmt = true
    · have hk : ∃ k, loadCycles o.fmt = k + 1 ∧ 128 * rowBytes o.fmt = 1024 * k := by
        have hfmt : o.fmt ≤ 2 := by simpa [isMx] using hmx
        unfold rowBytes loadCycles
        split_ifs
        · exact ⟨16, rfl, rfl⟩
        · exact ⟨32, rfl, rfl⟩
        · omega
      obtain ⟨k, hc, hlen⟩ := hk
      have hnone : ((List.range k).flatMap fun j => scrBytes s n (loadPart t o m j).2.2.1 (loadPart t o m j).2.2.2) = [] := by
        refine List.flatMap_eq_nil_iff.2 fun j hj => ?_
        have hj' := List.mem_range.1 hj
        simp [loadPart, hlen, Nat.not_le.2 (show 1024 * j < 1024 * k by omega)]
      rw [hc, List.range_succ, List.flatMap_append, hnone]
      simp [loadPart, hlen, hmx]
    · refine (List.flatMap_eq_nil_iff.2 fun j _ => ?_).trans (if_neg hmx).symm
      simp [loadPart, hmx]

section
variable (s : State) (n : Nat) (o : MatOp)

/-- The load of ME m, its first part read; and the engine, its idle buffer ready when the load ends. -/
def loadVal (m : Nat) : PendW := .read (s.str.cycle + 1) (firstRead s n (.ldw m) (loadPart (tileOf s n) o m) (loadCycles o.fmt))

def loadMe (m : Nat) : Me := setIdle (meOfTile (tileOf s n) m) { fmt := o.fmt, ready := s.str.cycle + loadCycles o.fmt }

variable {s n o}

theorem one_lt_loadCycles (fmt : Nat) : 1 < loadCycles fmt := by
  unfold loadCycles
  split_ifs <;> decide

theorem loadOne_issues {u : State} {t : Tile} {m : Nat} (h : tileBecomes s u n t) (hs : sameFor (tileOf s n) t m) :
    tileBecomes s (loadOne n o u m) n (issueTo (loadVal s n o) (loadMe s n o) t m) := by
  have ha := hs.meAddr o.areg m
  have hsa := hs.meAddr (o.areg + 1) m
  obtain ⟨-, -, -, hme, -⟩ := hs
  have hset := h.setMe m (loadMe s n o m)
  have hread := readPart_parts (Machine.setMe u n m (loadMe s n o m)) n s.str.cycle (.ldw m) (loadPart (tileOf s n) o m)
    (one_lt_loadCycles o.fmt)
  have heq : loadOne n o u m = Machine.addPend (Machine.setMe u n m (loadMe s n o m)) n (loadVal s n o m) := by
    rw [loadVal, ← hset.firstRead, ← hread]
    simp only [loadOne, setMe_str, h.tile, h.str, ha, hsa, hme]
    rfl
  rw [heq]
  exact hset.addPend _

theorem loadMe_buffers (m : Nat) : activeBuf (loadMe s n o m) = activeBuf (meOfTile (tileOf s n) m)
    ∧ idleBuf (loadMe s n o m) = { fmt := o.fmt, ready := s.str.cycle + loadCycles o.fmt } := by simp [loadMe]

end

/-! STEP (R194, R197, R238, R239). -/

/-- The active buffer of a step on ME m, and the cycles it takes. -/
def stepBuf (t : Tile) (o : MatOp) (m : Nat) : WBuf := activeBuf (stepMe o (meOfTile t m))
def stepTime (t : Tile) (o : MatOp) (m : Nat) : Nat := (stepCycles (stepBuf t o m).fmt o.fmt).getD 1

/-- A row is read in equal parts, whatever the operand pair. -/
theorem stepCycles_divides {w x k : Nat} (h : stepCycles w x = some k) : 0 < k ∧ k ∣ rowBytes x ∧ k ∣ 8 := by
  have hk : k = 1 ∨ k = 2 ∨ k = 4 := by
    unfold stepCycles at h
    split_ifs at h <;> cases h <;> decide
  have hrow : rowBytes x = 128 ∨ rowBytes x = 256 ∨ rowBytes x = 512 := by
    unfold rowBytes
    split_ifs <;> decide
  rcases hk with rfl | rfl | rfl <;> rcases hrow with h' | h' | h' <;> rw [h'] <;> decide

/-- The sum that a step gives row r: its accumulator and the exact dot product, rounded once. -/
def rowSum (w : WBuf) (fmt : Nat) (x xs : List Byte) (old : W32) (r : Nat) : W32 :=
  let row := (w.els.drop (r * rowBytes w.fmt)).take (rowBytes w.fmt)
  let ws := (w.scales.drop (r * 8)).take 8
  BitVec.ofNat 32 (stepAcc old.toNat ((List.range 256).map fun i => fpMul (scaledAt w.fmt row ws i) (scaledAt fmt x xs i)))

theorem stepSums_rowSum (e : Me) (fmt : Nat) (x xs : List Byte) (old : Nat → W32) :
    stepSums e fmt x xs ((List.range 128).map old) = (List.range 128).map fun r => (r, rowSum (activeBuf e) fmt x xs (old r) r) := by
  refine List.map_congr_left fun r hr => ?_
  have hr' := List.mem_range.1 hr
  simp [rowSum, List.getD_eq_getElem?_getD, hr']

/-- The end of a step delivers the sums of the active buffer's rows. -/
theorem readEnd_step (v : State) (n d m fmt : Nat) (old : Nat → W32) (x xs : List Byte) :
    readEnd v n d { what := .step m fmt ((List.range 128).map old), els := x, scales := xs }
      = addPend v n (.acc (d + 9) m ((List.range 128).map fun r => (r, rowSum (activeBuf (meOfTile (tileOf v n) m)) fmt x xs (old r) r))) := by
  simp only [readEnd, stepSums_rowSum]

section
variable (s : State) (n : Nat) (o : MatOp)

/-- The input row of a step on ME m, and its block scales. -/
def stepRow (m : Nat) : List Byte := scrBytes s n (meAddr (tileOf s n) o.areg m) (rowBytes o.fmt)
def stepScales (m : Nat) : List Byte := if isMx o.fmt then scrBytes s n (meAddr (tileOf s n) (o.areg + 1) m) 8 else []

/-- The part of them that the step reads in its j-th cycle. -/
def stepPart (t : Tile) (o : MatOp) (m j : Nat) : Nat × Nat × Nat × Nat :=
  (meAddr t o.areg m + j * (rowBytes o.fmt / stepTime t o m), rowBytes o.fmt / stepTime t o m,
    meAddr t (o.areg + 1) m + j * ((if isMx o.fmt then 8 else 0) / stepTime t o m), (if isMx o.fmt then 8 else 0) / stepTime t o m)

def stepWhat (m : Nat) : ReadFor := .step m o.fmt ((List.range 128).map (newestAcc (tileOf s n) m))

/-- The step on ME m: its sums, where it takes one cycle, or its first part read; and the engine, busy for its cycles. -/
def stepVal (m : Nat) : PendW :=
  if stepTime (tileOf s n) o m = 1 then
    .acc (s.str.cycle + 9) m ((List.range 128).map fun r => (r,
      rowSum (stepBuf (tileOf s n) o m) o.fmt (stepRow s n o m) (stepScales s n o m) (newestAcc (tileOf s n) m r) r))
  else .read (s.str.cycle + 1) (firstRead s n (stepWhat s n o m) (stepPart (tileOf s n) o m) (stepTime (tileOf s n) o m))

def steppedMe (m : Nat) : Me :=
  { stepMe o (meOfTile (tileOf s n) m) with
    busy := s.str.cycle + stepTime (tileOf s n) o m, steps := (stepMe o (meOfTile (tileOf s n) m)).steps + 1 }

variable {s n o}

theorem accVals_stepVal {m k : Nat} (h : m ≠ k) : accVals k (stepVal s n o m) = none := by
  unfold stepVal
  split
  · exact if_neg h
  · rfl

section
variable {m k : Nat} (hk : stepCycles (stepBuf (tileOf s n) o m).fmt o.fmt = some k)
include hk

theorem stepTime_eq : stepTime (tileOf s n) o m = k := by rw [stepTime, hk]; rfl

theorem stepPart_whole :
    ((List.range k).flatMap fun j => scrBytes s n (stepPart (tileOf s n) o m j).1 (stepPart (tileOf s n) o m j).2.1) = stepRow s n o m
      ∧ ((List.range k).flatMap fun j => scrBytes s n (stepPart (tileOf s n) o m j).2.2.1 (stepPart (tileOf s n) o m j).2.2.2)
        = stepScales s n o m := by
  obtain ⟨hpos, hrow, hsc⟩ := stepCycles_divides hk
  simp only [stepPart, stepTime_eq hk, scrBytes_equalParts, Nat.mul_div_cancel' hrow, stepRow, stepScales, true_and]
  by_cases hmx : isMx o.fmt = true
  · simp [hmx, Nat.mul_div_cancel' hsc]
  · simp [hmx]

end

/-- Where only counters differ besides. -/
theorem tileBecomes.bump {u : State} {t : Tile} {c : TMap CtrKey Nat} (h : tileBecomes { s with ctr := c } u n t) (k : CtrName)
    (ix : List Nat) (i : Nat) : ∃ c', tileBecomes { s with ctr := c' } (bump u k ix i) n t := by
  obtain ⟨hu, ht, ho⟩ := h
  exact ⟨(Machine.bump u k ix i).ctr, by rw [hu]; rfl, ht, ho⟩

/-- A step on ME m is counted, and its first part read. -/
theorem stepOne_eq {u : State} {t : Tile} {m : Nat} {c : TMap CtrKey Nat} (h : tileBecomes { s with ctr := c } u n t)
    (hs : sameFor (tileOf s n) t m) : ∃ v c', tileBecomes { s with ctr := c' } v n { t with mes := t.mes.set m (steppedMe s n o m) }
      ∧ stepOne n o u m = readPart v n s.str.cycle
        { what := stepWhat s n o m, parts := (List.range (stepTime (tileOf s n) o m)).map (stepPart (tileOf s n) o m) } := by
  have ha := hs.meAddr o.areg m
  have hsa := hs.meAddr (o.areg + 1) m
  obtain ⟨-, -, -, hme, hnew⟩ := hs
  obtain ⟨c', hb⟩ := (h.setMe m (steppedMe s n o m)).bump .rtMeSteps [n, m, (stepBuf (tileOf s n) o m).fmt, o.fmt] 1
  refine ⟨_, c', hb, ?_⟩
  simp only [stepOne, bump_str, setMe_str, h.tile, h.str, ha, hsa, hme, hnew]
  rfl

theorem stepOne_issues {u : State} {t : Tile} {m : Nat} (hk : stepCycles (stepBuf (tileOf s n) o m).fmt o.fmt ≠ none)
    (h : ∃ c, tileBecomes { s with ctr := c } u n t) (hs : sameFor (tileOf s n) t m) :
    ∃ c, tileBecomes { s with ctr := c } (stepOne n o u m) n (issueTo (stepVal s n o) (steppedMe s n o) t m) := by
  obtain ⟨k, hk⟩ := Option.ne_none_iff_exists'.1 hk
  obtain ⟨c, h⟩ := h
  obtain ⟨v, c', hb, heq⟩ := stepOne_eq (o := o) h hs
  obtain ⟨hrow, hsc⟩ := stepPart_whole hk
  have hend := hb.addPend (stepVal s n o m)
  refine ⟨c', ?_⟩
  rw [heq]
  by_cases h1 : stepTime (tileOf s n) o m = 1
  · rw [← stepTime_eq hk, h1, List.range_one, List.flatMap_singleton] at hrow hsc
    have hval : .acc (s.str.cycle + 9) m _ = stepVal s n o m := (if_pos h1).symm
    have hmes : meOfTile { t with mes := t.mes.set m (steppedMe s n o m) } m = steppedMe s n o m := TMap.get_set_self _ _ _ _
    have hbytes := fun a len => (hb.scrBytes n a len).trans (show _ = scrBytes s n a len from rfl)
    have hbuf : activeBuf (steppedMe s n o m) = stepBuf (tileOf s n) o m := rfl
    have hsums := readEnd_step v n s.str.cycle m o.fmt (newestAcc (tileOf s n) m) (stepRow s n o m) (stepScales s n o m)
    rw [hb.tile, hmes, hbuf, hval] at hsums
    rw [h1, List.range_one, List.map_singleton, readPart_one, hbytes, hbytes, hrow, hsc]
    exact (congrArg (fun w => tileBecomes _ w n _) hsums).mpr hend
  · obtain ⟨hpos, -⟩ := stepCycles_divides hk
    have hval : .read (s.str.cycle + 1) (firstRead { s with ctr := c' } n (stepWhat s n o m) (stepPart (tileOf s n) o m)
      (stepTime (tileOf s n) o m)) = stepVal s n o m := (if_neg h1).symm
    rw [readPart_parts _ _ _ _ _ (by rw [stepTime_eq hk] at h1 ⊢; omega), hb.firstRead, hval]
    exact hend

end

/-- The loop of a step over its engines, once the ports are taken, and what follows it; steps are counted besides. -/
theorem issuedAt_steps {s : State} {n : Nat} {o : MatOp} {ms : List Nat} (hd : ms.Nodup)
    (hpair : ∀ m ∈ ms, stepCycles (stepBuf (tileOf s n) o m).fmt o.fmt ≠ none) (ports : List (Nat × Nat × Nat)) (by_ : Nat) :
    ∃ c, issuedAt { s with ctr := c } (postInc (ms.foldl (stepOne n o) (portTake s n ports)) n o by_) n ms (stepVal s n o) (steppedMe s n o) := by
  obtain ⟨c, hc⟩ := foldl_issued (f := stepOne n o) (w := stepVal s n o) (fun u t => ∃ c, tileBecomes { s with ctr := c } u n t)
    (t := { tileOf s n with ports := (tileOf s n).ports ++ ports }) (fun m k => accVals_stepVal)
    (fun m hm u t hu hs => stepOne_issues (hpair m hm) hu hs) hd ⟨s.ctr, tileBecomes_setTile s n _⟩
  exact ⟨c, issuedAt_postInc hc _ _⟩

section
variable {s : State} {n : Nat} {o : MatOp} {ms : List Nat} (h : slotReady s n) (hg : groupMes o = some ms) (har : o.areg < 16)
  (hfmt : o.fmt ≤ 6) (hodd : o.fmt ≤ 2 → o.areg % 2 = 0)
include h hg har hfmt hodd

theorem exec_ldw (hfree : ∀ m ∈ ms, (idleBuf (meOfTile (tileOf s n) m)).ready ≤ s.str.cycle)
    (hin : ∀ m ∈ ms, meAddr (tileOf s n) o.areg m + 128 * rowBytes o.fmt ≤ scrTop s)
    (hsc : isMx o.fmt = true → ∀ m ∈ ms, meAddr (tileOf s n) (o.areg + 1) m + 1024 ≤ scrTop s)
    (hroom : ∀ j < loadCycles o.fmt,
      portRoom s n j (min 1024 (128 * rowBytes o.fmt + (if isMx o.fmt then 1024 else 0) - 1024 * j) * ms.length) 0) :
    ∃ u, exec (.ldw n o) s = .next u ∧ issuedAt s u n ms (loadVal s n o) (loadMe s n o) := by
  have hneeds : ∀ x ∈ needs o (tileOf s n) ms (128 * rowBytes o.fmt) (if isMx o.fmt then 1024 else 0), x.1 + x.2 ≤ scrTop s :=
    needs_inside hin fun hne => by
      have hmx : isMx o.fmt = true := by
        by_contra hmx
        exact hne (if_neg hmx)
      rw [if_pos hmx]
      exact hsc hmx
  have hports := portFits_cycles (s := s) (n := n) (k := loadCycles o.fmt)
    (fun j => (min 1024 (128 * rowBytes o.fmt + (if isMx o.fmt then 1024 else 0) - 1024 * j) * ms.length, 0)) hroom
  show ∃ u, execLdw n o s = .next u ∧ _
  rw [execLdw, matrixOp_free h hg har hfmt hodd (fun m hm => by simpa using hfree m hm)]
  simp only [spread_eq, List.map_map, Function.comp_def]
  rw [scrCheck_passes _ hneeds hports]
  exact ⟨_, rfl, issuedAt_loop (groupMes_nodup hg) (fun m k _ => rfl) (fun u t m => loadOne_issues) _ _ _⟩

theorem exec_step (hpair : ∀ m ∈ ms, stepCycles (stepBuf (tileOf s n) o m).fmt o.fmt ≠ none)
    (hfree : ∀ m ∈ ms, (meOfTile (tileOf s n) m).busy ≤ s.str.cycle)
    (hflip : o.flip = true → ∀ m ∈ ms, (idleBuf (meOfTile (tileOf s n) m)).ready ≤ s.str.cycle)
    (hin : ∀ m ∈ ms, meAddr (tileOf s n) o.areg m + rowBytes o.fmt ≤ scrTop s)
    (hsc : isMx o.fmt = true → ∀ m ∈ ms, meAddr (tileOf s n) (o.areg + 1) m + 8 ≤ scrTop s)
    (hroom : ∀ j < 4, portRoom s n j ((ms.filter fun m => decide (j < stepTime (tileOf s n) o m)).map
      fun m => (rowBytes o.fmt + (if isMx o.fmt then 8 else 0)) / stepTime (tileOf s n) o m).sum 0) :
    ∃ u c, exec (.step n o) s = .next u ∧ issuedAt { s with ctr := c } u n ms (stepVal s n o) (steppedMe s n o) := by
  have hneeds : ∀ x ∈ needs o (tileOf s n) ms (rowBytes o.fmt) (if isMx o.fmt then 8 else 0), x.1 + x.2 ≤ scrTop s :=
    needs_inside hin fun hne => by
      have hmx : isMx o.fmt = true := by
        by_contra hmx
        exact hne (if_neg hmx)
      rw [if_pos hmx]
      exact hsc hmx
  have hbad : (ms.any fun m => (stepCycles (activeBuf (stepMe o (meOfTile (tileOf s n) m))).fmt o.fmt).isNone) = false := by
    rw [List.any_eq_false]
    exact fun m hm => by simpa [stepBuf] using hpair m hm
  have hports := portFits_cycles (s := s) (n := n) (k := 4) (fun j => ((((ms.map fun m =>
      (stepCycles (activeBuf (stepMe o (meOfTile (tileOf s n) m))).fmt o.fmt).getD 1).filter fun k => decide (j < k)).map
      fun k => (rowBytes o.fmt + (if isMx o.fmt then 8 else 0)) / k).sum, 0)) fun j hj => by
    rw [List.filter_map, List.map_map]
    exact hroom j hj
  show ∃ u c, execStep n o s = .next u ∧ _
  simp only [execStep, hg, Option.getD_some, hbad, Bool.and_false, Bool.false_eq_true, if_false]
  rw [matrixOp_free h hg har hfmt hodd fun m hm => by simpa [hfree m hm] using fun hf => hflip hf m hm,
    scrCheck_passes _ hneeds hports]
  obtain ⟨c, hc⟩ := issuedAt_steps (groupMes_nodup hg) hpair _ _
  exact ⟨_, c, rfl, hc⟩

end

end Sys2Proof.Machine

open Sys2Proof Sys2Proof.Machine

/-- Settles O7: each op goes on to its engines, and what it then leaves of each is read off; the sums of a step by its number of cycles. -/
theorem matrixOps : Obligations.MatrixOps := by
  intro s n o ms t c me inside free k only others h hg har hfmt hodd
  have hd := groupMes_nodup hg
  refine ⟨fun hfree => ?zacc, fun hfree hin hroom => ?ldacc, fun hfree hin hroom => ?stacc, fun hfree hin hroom => ?ldw,
    fun hpair hfree hflip hin hroom => ?step⟩
  case zacc =>
    have hu := tileBecomes_foldl_zaccOne s n ms
    refine ⟨_, exec_zacc h hg har hfmt hodd hfree, ⟨hu.1, hu.2.2⟩, fun m hm r => ?_, fun m hm r hr => ?_⟩
    · rw [hu.tile, (newestAcc_foldl_zeroed _ ms t m).1 hm]
    · rw [hu.tile, (newestAcc_foldl_zeroed _ ms t m).2 r hr (.inl hm)]
  case ldacc =>
    obtain ⟨u, hu, hi⟩ := exec_ldacc h hg har hfmt hodd hfree hin hroom
    exact ⟨u, hu, hi.only, fun m hm r => by rw [hi.newestAcc_other (fun m k => accVals_ldaccVal) hm],
      fun m hm r hr => hi.newestAcc hd (fun m k => accVals_ldaccVal) hm rfl hr⟩
  case stacc =>
    obtain ⟨u, hu, hi⟩ := exec_stacc h hg har hfmt hodd hfree hin hroom
    exact ⟨u, hu, hi.only, hi.acc, fun m hm => hi.mem_pend hm⟩
  case ldw =>
    obtain ⟨u, hu, hi⟩ := exec_ldw h hg har hfmt hodd hfree hin.1 hin.2 hroom
    refine ⟨u, hu, hi.only, hi.acc, fun m hm r => by rw [hi.newestAcc_other (fun m k _ => rfl) hm], fun m hm => ?_⟩
    obtain ⟨hact, hidle⟩ := loadMe_buffers (s := s) (n := n) (o := o) m
    obtain ⟨hels, hscales⟩ := loadPart_whole s n t o m
    have hread := firstRead_readsOn (by have := one_lt_loadCycles o.fmt; omega) (hi.mem_pend hm)
    rw [hels, hscales] at hread
    dsimp only
    rw [hi.me hd hm, hact, hidle]
    exact ⟨rfl, rfl, rfl, hread, fun v d els scales => readEnd_ldw v n d m els scales⟩
  case step =>
    obtain ⟨u, x, hu, hi⟩ := exec_step h hg har hfmt hodd hpair hfree hflip hin.1 hin.2 hroom
    have hw : ∀ m k, m ≠ k → accVals k (stepVal s n o m) = none := fun m k => accVals_stepVal
    refine ⟨u, hu, ?_, fun m hm r => ?_, fun m hm => ?_⟩
    · rw [hi.only.1]
    · rw [hi.newestAcc_other hw hm]
      rfl
    obtain ⟨i, hk⟩ := Option.ne_none_iff_exists'.1 (hpair m hm)
    obtain ⟨hpos, -⟩ := stepCycles_divides hk
    have hki : k m = i := stepTime_eq hk
    have hme : meOfTile (tileOf u n) m = steppedMe s n o m := hi.me hd hm
    refine ⟨by rw [hme]; rfl, fun h1 r hr => ?_, fun h1 => ?_, fun v hv => ?_⟩
    · exact hi.newestAcc hd hw hm (if_pos h1) hr
    · have hpend : PendW.read (c + 1) (firstRead s n (stepWhat s n o m) (stepPart t o m) (stepTime t o m)) ∈ (tileOf u n).pend := by
        have hval : stepVal s n o m = .read (c + 1) _ := if_neg (Nat.ne_of_gt h1)
        rw [← hval]
        exact hi.mem_pend hm
      obtain ⟨hrow, hsc⟩ := stepPart_whole hk
      have hread := firstRead_readsOn (by omega : 0 < k m) hpend
      rw [hki] at hread ⊢
      rwa [hrow, hsc] at hread
    · have hdue : c + k m - 1 + 9 = c + k m + 8 := by omega
      dsimp only
      rw [readEnd_step, hv, hdue]
      rfl

end

section
/-! SUPPORT. The state beside windows and the control of programs: what an operation may note there; and a window that takes the place of
another (R74, R201, R205, R217). -/

namespace Sys2Proof.Machine

open Sys2Proof

/-! Notes beside: memory, counters and telemetry. -/

/-- Nothing but memory, counters and telemetry differs. -/
def Aside (s t : State) : Prop := t = { s with mem := t.mem, ctr := t.ctr, tel := t.tel }

theorem Aside.refl (s : State) : Aside s s := rfl

theorem Aside.trans {s t u : State} (h : Aside s t) (h' : Aside t u) : Aside s u := by
  unfold Aside at h h'
  unfold Aside
  rw [h', h]

theorem Aside.course {s t : State} (h : Aside s t) : t.course = s.course := by rw [h]
theorem Aside.disc {s t : State} (h : Aside s t) : t.disc = s.disc := by rw [h]
theorem Aside.prog {s t : State} (h : Aside s t) : t.prog = s.prog := by rw [h]
theorem Aside.ctl {s t : State} (h : Aside s t) : t.ctl = s.ctl := by rw [h]
theorem Aside.out {s t : State} (h : Aside s t) : t.out = s.out := by rw [h]
theorem Aside.wins {s t : State} (h : Aside s t) : t.wins = s.wins := by rw [h]

theorem Aside.winOf {s t : State} (h : Aside s t) (k : Nat) : winOf t k = winOf s k := by rw [Machine.winOf, h.wins, ← Machine.winOf]

theorem Aside.noTwin {s t : State} (h : Aside s t) (hn : noTwin s) : noTwin t := hn.of_course h.course

theorem bump_aside (s : State) (c : CtrName) (ix : List Nat) (n : Nat) : Aside s (bump s c ix n) := rfl

theorem scroll_aside (s : State) (cls : Nat) (ev : ScrollEv) (site : Nat) (args : List Nat) (capo : Option Nat) :
    Aside s (scroll s cls ev site args capo) := by
  simp only [scroll, scrollEntry, Bool.false_eq_true, if_false]
  split <;> rfl

theorem foldl_aside {α : Type} {f : State → α → State} (h : ∀ s a, Aside s (f s a)) (l : List α) (s : State) : Aside s (l.foldl f s) :=
  List.foldlRecOn l f (motive := Aside s) (.refl s) fun t ht a _ => ht.trans (h t a)

theorem memUncorr_aside (s : State) (k : Nat) : Aside s (memUncorr s k) := by
  simp only [memUncorr]
  split
  · exact scroll_aside ..
  · split <;> exact (bump_aside ..).trans (scroll_aside ..)

theorem countBytes_aside (s : State) (k n : Nat) (wr : Bool) : Aside s (countBytes s k n wr) := by
  obtain ⟨c, hc⟩ := countBytes_eq s k n wr
  rw [hc]
  rfl

theorem homeWrite_aside (s : State) (k : Nat) (bs : List Byte) (poison : Bool) : Aside s (homeWrite s k bs poison) := by
  unfold homeWrite
  split
  · have hfind := foldl_aside (fun s (w : Nat) => memUncorr_aside s (w * 8)) (partialFinds s.mem.latent (wordsOf k bs.length)).eraseDups s
    exact (hfind.trans (countBytes_aside _ k bs.length true)).trans rfl
  · rfl

theorem bumpIf_aside (s : State) (b : Bool) (c : CtrName) (ix : List Nat) (n : Nat) : Aside s (if b then bump s c ix n else s) := by
  split
  · exact bump_aside ..
  · exact .refl s

theorem accRead_aside (s : State) (w : Window) (rt line : Nat) : Aside s (accRead s w rt line).1 := by
  have hsoft := bumpIf_aside s (decide (line ∈ w.accSoft)) .rtAccCorr [rt] 1
  simp only [accRead]
  split
  · exact hsoft.trans ((bump_aside ..).trans (scroll_aside ..))
  · exact hsoft

/-! No twin. -/

theorem noTwin.twinUp {s : State} (h : noTwin s) : s.course.twinUp = false := by
  obtain ⟨hm, ha⟩ := h
  simpa [mirrorOn, ha] using hm

theorem winNote_noTwin {s : State} (h : noTwin s) (w : Window) (b : StateRec) : winNote s w b = s := by
  rw [winNote, mirrorNote, mirrorChange_noTwin h]

/-! A window in place of another. -/

/-- Nothing but what stands under window number k differs, and that is o. -/
def windowBecomes (s u : State) (k : Nat) (o : Option Window) : Prop :=
  u = { s with wins := u.wins } ∧ winOf u k = o ∧ ∀ j, j ≠ k → winOf u j = winOf s j

theorem windowBecomes_set (s : State) (k : Nat) (o : Option Window) : windowBecomes s { s with wins := s.wins.set k o } k o :=
  ⟨rfl, TMap.get_set_self _ _ _ _, fun _ hj => TMap.get_set_ne _ _ _ (Ne.symm hj)⟩

theorem windowBecomes_setWin (s : State) (w : Window) : windowBecomes s (setWin s w) w.d.wid (some w) := windowBecomes_set _ _ _

@[simp] theorem winOf_setWin_self (s : State) (w : Window) : winOf (setWin s w) w.d.wid = some w := TMap.get_set_self _ _ _ _

theorem windowBecomes.trans {s t u : State} {k : Nat} {o o' : Option Window} (h : windowBecomes s t k o) (h' : windowBecomes t u k o') :
    windowBecomes s u k o' := by
  obtain ⟨ht, -, ho⟩ := h
  obtain ⟨hu, hk, ho'⟩ := h'
  exact ⟨by rw [hu, ht], hk, fun j hj => (ho' j hj).trans (ho j hj)⟩

theorem windowBecomes.self {s u : State} {k : Nat} {o : Option Window} (h : windowBecomes s u k o) : winOf u k = o := by
  obtain ⟨-, hk, -⟩ := h
  exact hk

theorem windowBecomes.course {s u : State} {k : Nat} {o : Option Window} (h : windowBecomes s u k o) : u.course = s.course := by
  obtain ⟨hu, -⟩ := h
  rw [hu]

theorem windowBecomes.noTwin {s u : State} {k : Nat} {o : Option Window} (h : windowBecomes s u k o) (hn : noTwin s) : noTwin u :=
  hn.of_course h.course

/-! The ends of an instance with no twin (R205, R207; Table 7-7). -/

theorem winAdvance_inactive {s : State} {k : Nat} {w : Window} (h : winOf s k = some w) (hst : w.st ≠ .active) : winAdvance s k = s := by
  simp [winAdvance, h, hst]

theorem winCheck_inactive {s : State} {k : Nat} {w : Window} (h : winOf s k = some w) (hst : w.st ≠ .active) : winCheck s k = s := by
  simp [winCheck, h, hst, winAdvance_inactive h hst]

/-- With no twin this member serves its own lines. -/
theorem winGive_noTwin {s : State} {w : Window} (hn : noTwin s) (h : winOf s w.d.wid = some w) (ha : w.st ≠ .active) (hf : w.st ≠ .finalising)
    (ho : w.ownDone = false) (ht : w.twinDone = false) :
    windowBecomes s (winGive s w) w.d.wid (some { w with given := [] }) := by
  have hg : givenNow s w = [] := by simp [givenNow, hn.twinUp]
  simp only [winGive, hg, hf, or_false]
  by_cases hsame : w.given = []
  · rw [if_pos hsame.symm]
    exact ⟨rfl, by rw [h, ← hsame], fun _ _ => rfl⟩
  · have hw : { w with given := [], ownDone := false, twinDone := false } = { w with given := [] } := by simp [ho, ht]
    have hset := windowBecomes_setWin s { w with given := [] }
    rw [if_neg (Ne.symm hsame), hw, winNote_noTwin (hset.noTwin hn), winCheck_inactive hset.self ha]
    exact hset

/-- A window after its instance: idle, with its own lines. -/
def idleWin (w : Window) : Window := { clearInst w with st := .idle, given := [] }

theorem winEnd_noTwin {s : State} (hn : noTwin s) (w : Window) (tell : Bool) :
    windowBecomes s (winEnd s w tell) w.d.wid (if w.d.rearm then some (idleWin w) else none) := by
  have htell : ∀ {t o} b, windowBecomes s t w.d.wid o → (if tell then winNote t w b else t) = t := fun b ht => by
    rw [winNote_noTwin (ht.noTwin hn), ite_self]
  unfold winEnd
  split
  · have hset := windowBecomes_setWin s { clearInst w with st := .idle }
    dsimp only
    rw [htell _ hset]
    exact hset.trans (winGive_noTwin (hset.noTwin hn) hset.self (by simp) (by simp) rfl rfl)
  · have hset := windowBecomes_set s w.d.wid none
    dsimp only
    rw [htell _ hset]
    exact hset

end Sys2Proof.Machine
end

section
/-! SUPPORT. The ends of a window's instance, case by case, and O30 (R205 to R207, R283; Table 7-7). -/

namespace Sys2Proof.Machine

open Sys2Proof

/-! A finalised instance (R205, R206, R283). -/

theorem finishLine_aside (w : Window) (x : State × List (Nat × List Byte) × List Nat × Bool × Bool) (line : Nat) :
    Aside x.1 (finishLine w x line).1 := by
  simp only [finishLine]
  split
  · exact .refl _
  · exact (accRead_aside ..).trans ((homeWrite_aside ..).trans (bumpIf_aside ..))

theorem foldl_finishLine_aside (w : Window) (lines : List Nat) (x : State × List (Nat × List Byte) × List Nat × Bool × Bool) :
    Aside x.1 (lines.foldl (finishLine w) x).1 :=
  List.foldlRecOn lines (finishLine w) (motive := fun y => Aside x.1 y.1) (Aside.refl x.1) fun _ hy line _ =>
    hy.trans (finishLine_aside w _ line)

/-- A window whose results this member has written, with no twin: nothing of it is left to write. -/
def writtenWin (w : Window) (ovf pline : Bool) : Window :=
  { w with accSoft := [], accHard := [], ownWritten := true, twinWritten := true, ovfNow := ovf, plineNow := pline }

theorem winWritten_ready {s : State} {k : Nat} {w : Window} (hn : noTwin s) (h : winOf s k = some w) (hst : w.st = .finalising)
    (hown : w.ownWritten = true) (hw : w.waits = []) : winWritten s k = winFinish s k := by
  simp [winWritten, h, hst, hown, hw, winNote_noTwin hn]

theorem winFinalise_noTwin {s : State} (hn : noTwin s) {w : Window} (hst : w.st = .finalising) (hheld : w.held = []) (hw : w.waits = []) :
    ∃ t ovf pline, Aside s t ∧ winFinalise s w = winFinish (setWin t (writtenWin w ovf pline)) w.d.wid := by
  let lines := ((winPages w).filter (winToWrite s w)).flatMap fun o => (List.range 64).map fun i => (o - w.d.base) / 64 + i
  have hx := foldl_finishLine_aside w lines (s, [], [], false, false)
  generalize hfold : lines.foldl (finishLine w) (s, [], [], false, false) = x at hx
  have hnx := hx.noTwin hn
  have hset := windowBecomes_setWin x.1 (writtenWin w (w.ovfNow || x.2.2.2.1) (w.plineNow || x.2.2.2.2))
  refine ⟨x.1, w.ovfNow || x.2.2.2.1, w.plineNow || x.2.2.2.2, hx, ?_⟩
  simp only [winFinalise, hfold, lines, hheld, List.map_nil, List.foldl_nil, mirrorChange_noTwin hnx, mirrorAll_noTwin hnx, ite_self,
    hnx.twinUp, Bool.not_false, Bool.or_true, List.append_nil]
  simp only [writtenWin, hheld] at hset ⊢
  exact winWritten_ready (hset.noTwin hnx) hset.self hst rfl hw

/-- With its results written and no twin nothing of a window is left to write. -/
theorem winToWrite_written (s : State) {w : Window} (hown : w.ownWritten = true) (ht : w.twinWritten = true) (off : Nat) :
    winToWrite s w off = false := by
  cases ho : winOwn s w off <;> simp [winToWrite, winHalf, hown, ht, ho]

/-- The instance counted, and its EPOCH the last. -/
def finishedWin (w : Window) : Window := { w with lastF := some w.epoch, finals := w.finals + 1, ovf := w.ovfNow, pline := w.plineNow }

/-- The arrival counter that a window raises at its end. -/
def finalCtr (s : State) (w : Window) : Bool × Nat × Nat := ((site s).memberB, w.d.capo, w.d.fctr)

theorem winFinish_noTwin {s : State} (hn : noTwin s) {w : Window} (hst : w.st = .finalising) (hown : w.ownWritten = true)
    (ht : w.twinWritten = true) (hw : w.waits = []) :
    ∃ t v, Aside s t ∧ windowBecomes t v w.d.wid (if w.d.rearm then some (idleWin (finishedWin w)) else none)
      ∧ winFinish (setWin s w) w.d.wid = if w.d.fctrInc ≠ 0 then raiseOwn v (finalCtr s w) w.d.fctrInc else v := by
  have hset := windowBecomes_setWin s w
  have hns := hset.noTwin hn
  have hdone : ((winPages w).any (winToWrite (setWin s w) w)) = false :=
    List.any_eq_false.2 fun off _ => by simp [winToWrite_written _ hown ht]
  have hhas : twinHas (setWin s w) w = false := by simp [twinHas, hn.twinUp]
  let t := bump s .rtWinFinal [winRt (setWin s w) w, w.d.capo]
  have h1 : windowBecomes t (setWin (setWin t w) (finishedWin w)) w.d.wid (some (finishedWin w)) :=
    (windowBecomes_setWin t w).trans (windowBecomes_setWin (setWin t w) (finishedWin w))
  have h2 := h1.trans (winEnd_noTwin (h1.noTwin ((bump_aside ..).noTwin hn)) (finishedWin w) (!s.course.twinUp))
  refine ⟨t, _, bump_aside .., h2, ?_⟩
  have hsite : (site (winEnd (setWin (setWin t w) (finishedWin w)) (finishedWin w) (!s.course.twinUp))).memberB = (site s).memberB := by
    obtain ⟨hu, -⟩ := h2
    rw [hu]
    rfl
  have hend : w.st = .finalising ∧ !(winPages w).any (winToWrite (setWin s w) w) ∧ w.waits = []
      ∧ (w.twinEnded ∨ !twinHas (setWin s w) w) := ⟨hst, by simp [hdone], hw, .inr (by simp [hhas])⟩
  simp only [winFinish, winOf_setWin_self]
  rw [if_pos hend, finalCtr, ← hsite]
  rfl

theorem raiseOwn_noTwin {s : State} (hn : noTwin s) (k : Bool × Nat × Nat) (inc : Nat) :
    raiseOwn s k inc = setCtr s k (ctrOf s k + BitVec.ofNat 64 inc) := by
  have ht : noTwin (setCtr s k (ctrOf s k + BitVec.ofNat 64 inc)) := hn.of_course (sampleWaits_undisturbed _).course
  simp only [raiseOwn, raiseCtr, mirrorNote, mirrorChange_noTwin ht]

/-- An arrival counter that takes a value: no other changes, and no window. -/
theorem ctrOf_setCtr (s : State) (k j : Bool × Nat × Nat) (x : W64) : ctrOf (setCtr s k x) j = if j = k then x else ctrOf s j := by
  have hctl : (setCtr s k x).ctl = { s.ctl with ctrs := s.ctl.ctrs.set k x } := by
    simp only [setCtr, sampleWaits]
    split <;> rfl
  simp only [ctrOf, hctl, TMap.get_set, eq_comm]

/-- A window's arrival counter raised at its end: that one and no other, and no window. -/
theorem raiseFinal_noTwin {v : State} (hn : noTwin v) (k : Bool × Nat × Nat) (inc : Nat) :
    (∀ j, winOf (if inc ≠ 0 then raiseOwn v k inc else v) j = winOf v j)
      ∧ ∀ j, ctrOf (if inc ≠ 0 then raiseOwn v k inc else v) j
        = if j = k ∧ inc ≠ 0 then ctrOf v j + BitVec.ofNat 64 inc else ctrOf v j := by
  by_cases hi : inc ≠ 0
  · rw [if_pos hi, raiseOwn_noTwin hn]
    refine ⟨fun j => by rw [winOf, setCtr_wins, ← winOf], fun j => ?_⟩
    rw [ctrOf_setCtr]
    by_cases hj : j = k <;> simp [hi, hj]
  · rw [if_neg hi]
    exact ⟨fun _ => rfl, fun _ => by simp [hi]⟩

theorem exec_windowFinalised {s : State} {w : Window} (hn : noTwin s) (h : winOf s w.d.wid = some w) (hst : w.st = .finalising)
    (hheld : w.held = []) (hw : w.waits = []) (hany : (winPages w).any (winToWrite s w) = true) :
    ∃ t v ovf pline, Aside s t ∧ windowBecomes t v w.d.wid (if w.d.rearm then some (idleWin (finishedWin (writtenWin w ovf pline))) else none)
      ∧ exec (.windowFinalised w.d.wid) s = .next (if w.d.fctrInc ≠ 0 then raiseOwn v (finalCtr s w) w.d.fctrInc else v) := by
  obtain ⟨t, ovf, pline, ht, hfin⟩ := winFinalise_noTwin hn hst hheld hw
  obtain ⟨t', v, ht', hv, hend⟩ := winFinish_noTwin (ht.noTwin hn) (w := writtenWin w ovf pline) hst rfl rfl hw
  have hctr : finalCtr t (writtenWin w ovf pline) = finalCtr s w := by simp only [finalCtr, site, ht.disc, writtenWin]
  refine ⟨t', v, ovf, pline, ht.trans ht', hv, ?_⟩
  rw [hctr] at hend
  show execWindowFinalised w.d.wid s = _
  simp only [execWindowFinalised, h, if_pos (And.intro hst hany), hfin]
  exact congrArg _ hend

/-! An instance past its deadline, and recovery (R207). -/

theorem foldl_dropRunning_out (l : List (Req × Via)) (s : State) : (l.foldl (fun s h => dropRunning s .kojor h.1) s).out = s.out
    ∧ (l.foldl (fun s h => dropRunning s .kojor h.1) s).wins = s.wins :=
  List.foldlRecOn l _ (motive := fun t : State => t.out = s.out ∧ t.wins = s.wins) ⟨rfl, rfl⟩ fun _ ht _ _ => ht

/-- An expired window. -/
def expiredWin (s : State) (w : Window) : Window := { clearInst w with st := .expired, changedAt := s.clk.now }

theorem winExpire_noTwin {s : State} (hn : noTwin s) (w : Window) (tell : Bool) :
    winOf (winExpire s w tell) w.d.wid = some (expiredWin s w) ∧ (winExpire s w tell).out = s.out := by
  let b := bump s .rtWinExpire [winRt s w, w.d.capo]
  have hset := windowBecomes_setWin b (expiredWin s w)
  obtain ⟨hout, hwins⟩ := foldl_dropRunning_out w.held (setWin b (expiredWin s w))
  have hexp : winExpire s w tell = w.held.foldl (fun s h => dropRunning s .kojor h.1) (setWin b (expiredWin s w)) := by
    have hnote := winNote_noTwin (hset.noTwin ((bump_aside ..).noTwin hn)) w (winRec w .expired)
    cases tell
    · rfl
    · exact congrArg (w.held.foldl fun s h => dropRunning s .kojor h.1) hnote
  rw [hexp]
  exact ⟨by rw [winOf, hwins, ← winOf]; exact hset.self, hout⟩

end Sys2Proof.Machine

open Sys2Proof Sys2Proof.Machine

/-- Settles O30: with no twin a finalised instance writes its lines, which changes nothing but memory and counts, and its window then takes the
place of itself, idle, or of nothing; its arrival counter is raised after that. -/
theorem windowsEnd : Obligations.WindowsEnd := by
  intro s w h hm ha
  have hn : noTwin s := ⟨hm, ha⟩
  refine ⟨fun hst hheld hw hany => ?final, fun hno => ?notFinal, fun hst hd hdue => ?deadline, fun hno => ?notDue, fun hst hdue hre => ?recover,
    fun hp he => ?stays⟩
  case final =>
    obtain ⟨t, v, ovf, pline, ht, hv, hexec⟩ := exec_windowFinalised hn h hst hheld hw hany
    obtain ⟨hwin, hctr⟩ := raiseFinal_noTwin (hv.noTwin (ht.noTwin hn)) (finalCtr s w) w.d.fctrInc
    obtain ⟨hrest, hself, hother⟩ := hv
    have hctrs : ∀ j, ctrOf v j = ctrOf s j := fun j => by rw [ctrOf, hrest]; simp only [ht.ctl, ctrOf]
    refine ⟨_, hexec, fun j hj => by rw [hwin, hother j hj, ht.winOf], fun hre => ?_, fun hre => ?_, fun j => by rw [hctr, hctrs]; rfl⟩
    · rw [if_pos hre] at hself
      exact ⟨_, (hwin _).trans hself, rfl, rfl, rfl, rfl, rfl⟩
    · rw [hwin, hself, hre]
      rfl
  case notFinal =>
    show execWindowFinalised w.d.wid s = _
    simp only [execWindowFinalised, h]
    rw [if_neg (by rintro ⟨hst, hany⟩; rcases hno with hno | hno; exacts [hno hst, by simp [hno] at hany])]
  case deadline =>
    have hexec : exec (.windowDeadline w.d.wid) s = .next (winExpire s w true) := by
      show execWindowDeadline w.d.wid s = _
      simp only [execWindowDeadline, h, if_pos (And.intro hst (And.intro hd hdue))]
    obtain ⟨hwin, hout⟩ := winExpire_noTwin hn w true
    exact ⟨_, _, hexec, hwin, rfl, rfl, rfl, hout⟩
  case notDue =>
    show execWindowDeadline w.d.wid s = _
    simp only [execWindowDeadline, h]
    rw [if_neg (by rintro ⟨hst, hd, hdue⟩; rcases hno with hno | hno | hno; exacts [hno hst, hd hno, by omega])]
  case recover =>
    have hexec : exec (.windowRecover w.d.wid) s = .next (winEnd s w true) := by
      show execWindowRecover w.d.wid s = _
      simp only [execWindowRecover, h, if_pos (And.intro hst hdue)]
    obtain ⟨hu, hwin, -⟩ := winEnd_noTwin hn w true
    rw [hre] at hwin
    exact ⟨_, _, hexec, hwin, rfl, rfl, by rw [hu]⟩
  case stays =>
    show execWindowRecover w.d.wid s = _
    simp only [execWindowRecover, h]
    rw [if_neg (by rintro ⟨hst | hst, -⟩; exacts [hp hst, he hst])]

end

section
/-! SUPPORT. What settling any request leaves, with no twin: the windows, the course, and that no FINAL request is newly
held; and its answer (R58, R70, R73). -/

namespace Sys2Proof.Machine

open Sys2Proof

/-! What is left of the windows. -/

theorem Aside.undisturbed {s t : State} (h : Aside s t) : Undisturbed s t := by
  rw [h]
  exact Undisturbed.refl s

/-- The windows and the course are the same, and no FINAL request is newly held at the Kojor. -/
def KeepsWindows (s t : State) : Prop :=
  t.wins = s.wins ∧ t.course = s.course ∧ ∀ h ∈ t.resp.finals, h ∈ s.resp.finals

theorem KeepsWindows.refl (s : State) : KeepsWindows s s := ⟨rfl, rfl, fun _ h => h⟩

theorem KeepsWindows.trans {s t u : State} (h : KeepsWindows s t) (h' : KeepsWindows t u) : KeepsWindows s u := by
  obtain ⟨hw, hc, hf⟩ := h
  obtain ⟨hw', hc', hf'⟩ := h'
  exact ⟨hw'.trans hw, hc'.trans hc, fun x hx => hf x (hf' x hx)⟩

theorem KeepsWindows.noTwin {s t : State} (h : KeepsWindows s t) (hn : noTwin s) : noTwin t := by
  obtain ⟨-, hc, -⟩ := h
  exact hn.of_course hc

theorem KeepsWindows.winOf {s t : State} (h : KeepsWindows s t) (k : Nat) : winOf t k = winOf s k := by
  obtain ⟨hw, -⟩ := h
  rw [Machine.winOf, hw, ← Machine.winOf]

theorem KeepsWindows.oldestFinal {s t : State} (h : KeepsWindows s t) {src epoch : Nat} (hf : oldestFinal s .kojor src epoch = none) :
    oldestFinal t .kojor src epoch = none := by
  obtain ⟨-, -, hsub⟩ := h
  exact List.find?_eq_none.2 fun x hx => List.find?_eq_none.1 hf x (hsub x hx)

theorem Aside.keepsWindows {s t : State} (h : Aside s t) : KeepsWindows s t := by
  rw [h]
  exact .refl s

theorem foldl_keepsWindows {α : Type} {f : State → α → State} (h : ∀ s a, noTwin s → KeepsWindows s (f s a)) (l : List α) {s : State}
    (hn : noTwin s) : KeepsWindows s (l.foldl f s) :=
  List.foldlRecOn l f (motive := KeepsWindows s) (.refl s) fun t ht a _ => ht.trans (h t a (ht.noTwin hn))

/-- A responder's tables with no more FINAL requests held. -/
theorem setResp_keepsWindows (s : State) (w : Party) {p : Resp} (h : ∀ x ∈ p.finals, x ∈ (respOf s w).finals) :
    KeepsWindows s (setResp s w p) := by
  cases w
  · exact ⟨rfl, rfl, h⟩
  · exact .refl s

theorem setRunning_keepsWindows (s : State) (w : Party) (x : Running) : KeepsWindows s (setRunning s w x) :=
  setResp_keepsWindows s w fun _ h => h

theorem dropRunning_keepsWindows (s : State) (w : Party) (r : Req) : KeepsWindows s (dropRunning s w r) :=
  setResp_keepsWindows s w fun _ h => h

theorem setCount_keepsWindows (s : State) (w : Party) (src epoch : Nat) (c : CountSlot) : KeepsWindows s (setCount s w src epoch c) :=
  setResp_keepsWindows s w fun _ h => h

theorem mem_of_mem_dropFirst {α : Type} {p : α → Bool} {l : List α} {a : α} (h : a ∈ dropFirst p l) : a ∈ l := by
  induction l with
  | nil => exact h
  | cons b t ih =>
    unfold dropFirst at h
    split at h
    · exact List.mem_cons_of_mem b h
    · rcases List.mem_cons.1 h with rfl | h
      · exact List.mem_cons_self
      · exact List.mem_cons_of_mem b (ih h)

theorem dropFinal_keepsWindows (s : State) (w : Party) (r : Req) : KeepsWindows s (dropFinal s w r) :=
  setResp_keepsWindows s w fun _ h => mem_of_mem_dropFirst h

theorem dupEvicted_keepsWindows (s : State) (w : Party) (e : DupEntry) : KeepsWindows s (dupEvicted s w e) := by
  cases w
  · unfold dupEvicted
    dsimp only
    split
    · exact .refl s
    · exact ((bump_aside ..).trans (scroll_aside ..)).keepsWindows
  · exact .refl s

theorem elim_dupEvicted_keepsWindows (s : State) (w : Party) (o : Option DupEntry) : KeepsWindows s (o.elim s (dupEvicted s w)) := by
  cases o with
  | none => exact .refl s
  | some e => exact dupEvicted_keepsWindows s w e

theorem addDup_keepsWindows (s : State) (w : Party) (e : DupEntry) : KeepsWindows s (addDup s w e) := by
  have hset : ∀ l, KeepsWindows s (setResp s w { respOf s w with dups := l }) := fun _ => setResp_keepsWindows s w fun _ h => h
  simp only [addDup]
  split
  · exact (hset _).trans (elim_dupEvicted_keepsWindows ..)
  · split
    · exact (hset _).trans (elim_dupEvicted_keepsWindows ..)
    · exact hset _

theorem takeCount_keepsWindows (s : State) (w : Party) (r : Req) : KeepsWindows s (takeCount s w r).1 := by
  simp only [takeCount]
  split
  · exact .refl s
  · split
    · exact .refl s
    · exact setCount_keepsWindows ..

theorem zeroCount_keepsWindows (s : State) (w : Party) (src epoch : Nat) : KeepsWindows s (zeroCount s w src epoch) := by
  unfold zeroCount
  split
  · exact .refl s
  · exact setCount_keepsWindows ..

/-! The steps of a settled request. -/

theorem setCtr_keepsWindows (s : State) (k : Bool × Nat × Nat) (x : W64) : KeepsWindows s (setCtr s k x) := by
  obtain ⟨ws, h⟩ := setCtr_eq s k x
  rw [h]
  exact .refl s

theorem raiseOwn_keepsWindows {s : State} (hn : noTwin s) (k : Bool × Nat × Nat) (inc : Nat) : KeepsWindows s (raiseOwn s k inc) := by
  rw [raiseOwn_noTwin hn]
  exact setCtr_keepsWindows ..

theorem shardRaise_keepsWindows {s : State} (hn : noTwin s) (capo off n : Nat) : KeepsWindows s (shardRaise s capo off n) :=
  foldl_keepsWindows (fun t d ht => by
    dsimp only
    split
    · exact raiseOwn_keepsWindows ht ..
    · exact .refl t) _ hn

theorem sendIfDone_keepsWindows (s : State) (w : Party) (r : Req) : KeepsWindows s (sendIfDone s w r) := by
  unfold sendIfDone
  split
  · exact .refl s
  · split
    · exact .refl s
    · split
      · exact (dropRunning_keepsWindows s w r).trans (.refl _)
      · exact .refl s

theorem finishIf_keepsWindows {s : State} (hn : noTwin s) (w : Party) (r : Req) : KeepsWindows s (finishIf s w r) := by
  have hsend := sendIfDone_keepsWindows s w r
  unfold finishIf
  split
  · exact .refl s
  · split
    · exact .refl s
    · split
      · dsimp only
        split
        · exact hsend.trans (shardRaise_keepsWindows (hsend.noTwin hn) ..)
        · exact hsend
      · exact .refl s

theorem performedWith_keepsWindows (more : List Nat) (r : Req) (v : Via) (d : Done) (hn : noTwin d.s) :
    KeepsWindows d.s (performedWith more r v d) := by
  have hdup : KeepsWindows d.s (if leavesDup r d.c then addDup d.s (partyOf v) (dupOf d.s v r d.c) else d.s) := by
    split
    · exact addDup_keepsWindows ..
    · exact .refl _
  unfold performedWith
  dsimp only
  cases hv : partyOf v <;> rw [hv] at hdup
  · simp only [mirrorAll_noTwin (hdup.noTwin hn)]
    exact hdup.trans (setRunning_keepsWindows ..)
  · exact hdup.trans (setRunning_keepsWindows ..)

theorem countDone_keepsWindows {s : State} (hn : noTwin s) (w : Party) (r : Req) : KeepsWindows s (countDone s w r) := by
  unfold countDone
  split
  · exact .refl s
  · next x _ =>
    split
    · exact .refl s
    · split
      · have htake := takeCount_keepsWindows s w x.r
        simp only [mirrorChange_noTwin (htake.noTwin hn), ite_self]
        exact htake.trans (setRunning_keepsWindows ..)
      · exact .refl s

theorem finalChange_noTwin {s : State} (hn : noTwin s) (w : Party) (r : Req) (b : StateRec) : finalChange s w r b = (s, []) := by
  cases w
  · exact mirrorChange_noTwin hn ..
  · rfl

theorem finalGone_keepsWindows {s : State} (hn : noTwin s) (w : Party) (r : Req) : KeepsWindows s (finalGone s w r).1 := by
  have hgone := (dropFinal_keepsWindows s w r).trans (zeroCount_keepsWindows _ w r.src r.epoch)
  simp only [finalGone, finalChange_noTwin (hgone.noTwin hn)]
  exact hgone

/-! What a FINAL request does when it is applied. -/

theorem swPerform_keepsWindows (s : State) (r : Req) (l : SwLoc) : KeepsWindows s (swPerform s r l).s := by
  unfold swPerform
  dsimp only
  split
  · cases l <;> exact .refl s
  · split
    · split <;> exact .refl s
    · split
      · exact .refl s
      · split <;> exact setCtr_keepsWindows ..
    · exact .refl s

theorem lfPerform_keepsWindows (s : State) (r : Req) (l : LfLoc) : KeepsWindows s (lfPerform s r l).s := by
  unfold lfPerform
  dsimp only
  (repeat' split) <;> exact .refl s

theorem heldPage_keepsWindows (s : State) (r : Req) : KeepsWindows s (heldPage s r).s := by
  unfold heldPage
  dsimp only
  split
  · exact .refl s
  · split
    · exact .refl s
    · split
      · exact .refl s
      · exact (homeWrite_aside ..).keepsWindows

theorem progStore_keepsWindows (s : State) (r : Req) : KeepsWindows s (progStore s r).s := by
  unfold progStore
  dsimp only
  split <;> exact .refl s

theorem heldRun_keepsWindows (s : State) (h : HeldFinal) : KeepsWindows s (heldRun s h).s := by
  unfold heldRun
  dsimp only
  split
  · split
    · exact .refl s
    · cases lfLoc (aOff h.r.addr % 2 ^ 45) with
      | none => exact .refl s
      | some l => exact lfPerform_keepsWindows s h.r l
  · split
    · split
      · exact progStore_keepsWindows s h.r
      · exact heldPage_keepsWindows s h.r
    · cases swLoc (aOff h.r.addr % 2 ^ 45) with
      | none => exact .refl s
      | some l => exact swPerform_keepsWindows s h.r l

theorem applyFinals_keepsWindows (n : Nat) {s : State} (hn : noTwin s) (w : Party) (src epoch : Nat) :
    KeepsWindows s (applyFinals n s w src epoch) := by
  induction n generalizing s with
  | zero => exact .refl s
  | succ n ih =>
    unfold applyFinals
    split
    · exact .refl s
    · next h _ =>
      have hrun := (finalGone_keepsWindows hn w h.r).trans (heldRun_keepsWindows (finalGone s w h.r).1 h)
      have hdone := hrun.trans (performedWith_keepsWindows (finalGone s w h.r).2 h.r h.v _ (hrun.noTwin hn))
      have hfin := hdone.trans (finishIf_keepsWindows (hdone.noTwin hn) w h.r)
      exact hfin.trans (ih (hfin.noTwin hn))

theorem settleFinals_keepsWindows {s : State} (hn : noTwin s) (w : Party) (src epoch : Nat) : KeepsWindows s (settleFinals s w src epoch) :=
  applyFinals_keepsWindows _ hn w src epoch

/-! A request settled with no twin. -/

theorem settle_keepsWindows (r : Req) (v : Via) {d : Done} (hn : noTwin d.s) : KeepsWindows d.s (settle r v d) := by
  have hp := performedWith_keepsWindows [] r v d hn
  have hc := hp.trans (countDone_keepsWindows (hp.noTwin hn) (partyOf v) r)
  have hf := hc.trans (settleFinals_keepsWindows (hc.noTwin hn) (partyOf v) r.src r.epoch)
  exact hf.trans (finishIf_keepsWindows (hf.noTwin hn) (partyOf v) r)

theorem sameReq_of_same {a b c : Req} (hab : sameReq a b = true) : sameReq c a = sameReq c b := by
  simp only [sameReq, Bool.and_eq_true, beq_iff_eq] at hab
  obtain ⟨⟨⟨hsrc, htc⟩, hseq⟩, hdest⟩ := hab
  simp only [sameReq, hsrc, htc, hseq, hdest]

theorem find?_replaceFirst {α : Type} {p : α → Bool} {x : α} (hx : p x = true) {l : List α} (h : l.any p = true) :
    (replaceFirst p (fun _ => x) l).find? p = some x := by
  induction l with
  | nil => simp at h
  | cons a t ih =>
    unfold replaceFirst
    split
    · simp [hx]
    · next ha =>
      have hat : t.any p = true := by simpa [ha] using h
      simp [ha, ih hat]

/-- The entry of a request, new or in place of the one there was, is the one found. -/
theorem findRunning_setRunning {s : State} {w : Party} {x : Running} {r : Req} (hx : sameReq x.r r = true) :
    findRunning (setRunning s w x) w r = some x := by
  have hsame : (fun y : Running => sameReq y.r x.r) = fun y => sameReq y.r r := funext fun y => sameReq_of_same hx
  cases h : (respOf s w).running.any fun y => sameReq y.r r with
  | true => simp [setRunning, findRunning, hsame, h, find?_replaceFirst (p := fun y : Running => sameReq y.r r) hx h]
  | false =>
    have hnone := List.find?_eq_none.2 (List.any_eq_false.1 h)
    simp [setRunning, findRunning, hsame, h, hnone, hx]

/-- The entry of a request performed with completion c that waits for nothing, in place of the one there is. -/
def awaitsNone (s : State) (r : Req) (v : Via) (c : Cmp) : Running :=
  { (findRunning s .kojor r).getD { r := r, v := v, why := .mirror } with why := .mirror, awaits := [], done := some c }

/-- A request that has been performed with no twin waits for nothing. -/
theorem findRunning_performed {r : Req} {v : Via} {d : Done} (hv : partyOf v = .kojor) (hn : noTwin d.s) :
    ∃ x, findRunning (performed r v d) .kojor r = some x ∧ x.awaits = [] ∧ x.done = some d.c := by
  have hnt : noTwin (withItsDup r v d) := hn.of_course (withItsDup_undisturbed r v d).course
  have hx : sameReq ((findRunning (withItsDup r v d) .kojor r).getD { r := r, v := v, why := .mirror }).r r = true := by
    cases h : findRunning (withItsDup r v d) .kojor r with
    | none => exact sameReq_self r
    | some y => exact List.find?_some (p := fun y : Running => sameReq y.r r) h
  have hp : performed r v d = setRunning (withItsDup r v d) .kojor (awaitsNone (withItsDup r v d) r v d.c) := by
    unfold withItsDup at hnt ⊢
    simp only [performed, performedWith, hv, mirrorAll_noTwin hnt, List.nil_append, awaitsNone]
  exact ⟨_, by rw [hp]; exact findRunning_setRunning hx, rfl, rfl⟩

/-- With no twin a request refused is answered at once, whatever waits beside it. -/
theorem settle_answers {r : Req} {v : Via} {d : Done} (hv : partyOf v = .kojor) (hn : noTwin d.s)
    (hf : oldestFinal d.s .kojor r.src r.epoch = none) (hc : d.c.status ≠ .ok) : Out.cmp d.c ∈ (settle r v d).out := by
  obtain ⟨x, hfind, hawaits, hdone⟩ := findRunning_performed (r := r) hv hn
  have hcount : countable x.r d.c = false := by simp [countable, hc]
  have hcd : countDone (performed r v d) .kojor r = performed r v d := by simp [countDone, hfind, hdone, hcount]
  have hfinal : oldestFinal (performed r v d) .kojor r.src r.epoch = none := (performedWith_keepsWindows [] r v d hn).oldestFinal hf
  rw [settle, afterDone, hv, hcd, settleFinals_none hfinal]
  simp [finishIf, hfind, hdone, hawaits, hcount, hc, sendIfDone, sendDone, emits]

end Sys2Proof.Machine
end

section
/-! SUPPORT. What is told the twin: messages that wait at the switch, and nothing else but the windows they are about (R205, R218, R388 to R391). -/

namespace Sys2Proof.Machine

open Sys2Proof

/-- What waits at the port of a path is still there. -/
def KeepsInjected (s t : State) : Prop := ∀ p x, x ∈ s.sw.injected.get p [] → x ∈ t.sw.injected.get p []

/-- Nothing but counters, what waits at the switch, the messages that are not confirmed and the changes noted for a rebuild differs, and what
waited at the switch still does. -/
def Told (s t : State) : Prop :=
  t = { s with ctr := t.ctr, sw := t.sw, course := t.course }
    ∧ t.course = { s.course with mseq := t.course.mseq, unconf := t.course.unconf, changes := t.course.changes, changeCapos := t.course.changeCapos,
                                 gap := t.course.gap, gapRecs := t.course.gapRecs }
    ∧ KeepsInjected s t

theorem Told.refl (s : State) : Told s s := ⟨rfl, rfl, fun _ _ h => h⟩

theorem Told.trans {s t u : State} (h : Told s t) (h' : Told t u) : Told s u := by
  obtain ⟨ht, hc, hi⟩ := h
  obtain ⟨hu, hc', hi'⟩ := h'
  exact ⟨by rw [hu, ht], by rw [hc', hc], fun p x hx => hi' p x (hi p x hx)⟩

theorem Told.wins {s t : State} (h : Told s t) : t.wins = s.wins := by
  obtain ⟨ht, -⟩ := h
  rw [ht]

theorem Told.winOf {s t : State} (h : Told s t) (k : Nat) : winOf t k = winOf s k := by rw [Machine.winOf, h.wins, ← Machine.winOf]

theorem mirrorSend_told (s : State) (q sx key capo : Nat) (b : MirrorBody) : Told s (mirrorSend s q sx key capo b) := by
  refine ⟨rfl, rfl, fun p x hx => ?_⟩
  simp only [mirrorSend, TMap.get_set]
  split
  · next hp =>
    subst hp
    exact List.mem_append_left _ hx
  · exact hx

theorem mirrorOut_told (s : State) (sx key capo : Nat) (b : MirrorBody) : Told s (mirrorOut s sx key capo b).1 := by
  simp only [mirrorOut]
  split
  · exact ⟨rfl, rfl, fun _ _ h => h⟩
  · exact Told.trans ⟨rfl, rfl, fun _ _ h => h⟩ (mirrorSend_told ..)

theorem gapNote_told (s : State) (b : MirrorBody) : Told s (gapNote s b) := by
  unfold gapNote
  split
  · exact ⟨rfl, rfl, fun _ _ h => h⟩
  · exact ⟨rfl, rfl, fun _ _ h => h⟩
  · split
    · exact .refl s
    · exact ⟨rfl, rfl, fun _ _ h => h⟩
  · exact .refl s

theorem aloneChange_told (s : State) (sx key capo : Nat) (b : MirrorBody) : Told s (aloneChange s sx key capo b) := by
  have hcount : Told s { s with course := { s.course with changes := s.course.changes + 1, changeCapos := insertOnce capo s.course.changeCapos } } :=
    ⟨rfl, rfl, fun _ _ h => h⟩
  simp only [aloneChange]
  split
  · split
    · exact hcount.trans (gapNote_told ..)
    · exact hcount.trans (mirrorOut_told ..)
  · exact hcount

theorem mirrorChange_told (s : State) (sx key capo : Nat) (b : MirrorBody) : Told s (mirrorChange s sx key capo b).1 := by
  unfold mirrorChange
  split
  · exact mirrorOut_told ..
  · split
    · exact aloneChange_told ..
    · exact .refl s

theorem winNote_told (s : State) (w : Window) (b : StateRec) : Told s (winNote s w b) := mirrorChange_told ..

/-! Windows that change, and the twin told of it. -/

/-- As `Told`, but the windows may differ too. -/
def ToldOfWins (s t : State) : Prop := Told { s with wins := t.wins } t

theorem ToldOfWins.refl (s : State) : ToldOfWins s s := Told.refl s

theorem ToldOfWins.trans {s t u : State} (h : ToldOfWins s t) (h' : ToldOfWins t u) : ToldOfWins s u := by
  obtain ⟨ht, hc, hi⟩ := h
  obtain ⟨hu, hc', hi'⟩ := h'
  refine ⟨?_, hc'.trans (by rw [hc]), fun p x hx => hi' p x (hi p x hx)⟩
  rw [hu]
  simp only
  rw [ht]

theorem Told.ofWins {s t : State} (h : Told s t) : ToldOfWins s t := by
  unfold ToldOfWins
  rw [h.wins]
  exact h

theorem ToldOfWins.out {s t : State} (h : ToldOfWins s t) : t.out = s.out := by
  obtain ⟨ht, -⟩ := h
  rw [ht]

theorem ToldOfWins.mem {s t : State} (h : ToldOfWins s t) : t.mem = s.mem := by
  obtain ⟨ht, -⟩ := h
  rw [ht]

theorem ToldOfWins.disc {s t : State} (h : ToldOfWins s t) : t.disc = s.disc := by
  obtain ⟨ht, -⟩ := h
  rw [ht]

theorem ToldOfWins.serves {s t : State} (h : ToldOfWins s t) :
    t.course.rebuildTgt = s.course.rebuildTgt ∧ t.course.serving = s.course.serving ∧ t.course.twinUp = s.course.twinUp := by
  obtain ⟨-, hc, -⟩ := h
  rw [hc]
  exact ⟨rfl, rfl, rfl⟩

theorem setWin_told (s : State) (w : Window) : ToldOfWins s (setWin s w) := Told.refl _

theorem winAdvance_told (s : State) (k : Nat) : ToldOfWins s (winAdvance s k) := by
  unfold winAdvance
  split
  · exact .refl s
  · split
    · exact (setWin_told ..).trans (winNote_told ..).ofWins
    · exact .refl s

theorem winCheck_told (s : State) (k : Nat) : ToldOfWins s (winCheck s k) := by
  unfold winCheck
  split
  · exact .refl s
  · split
    · exact ((setWin_told ..).trans (winNote_told ..).ofWins).trans (winAdvance_told ..)
    · exact winAdvance_told ..

theorem winGive_told (s : State) (w : Window) : ToldOfWins s (winGive s w) := by
  simp only [winGive]
  split
  · exact .refl s
  · exact ((setWin_told ..).trans (winNote_told ..).ofWins).trans (winCheck_told ..)

theorem placeLines_told (s : State) : ToldOfWins s (placeLines s) :=
  List.foldlRecOn _ winGive (motive := ToldOfWins s) (.refl s) fun t ht w _ => ht.trans (winGive_told t w)

/-- The same window and instance, which may have gone on to be finalised. -/
def AdvancedFrom (w w' : Window) : Prop := w' = { w with ownDone := w'.ownDone, st := w'.st } ∧ (w'.st = w.st ∨ w'.st = .finalising)

theorem AdvancedFrom.refl (w : Window) : AdvancedFrom w w := ⟨rfl, .inl rfl⟩

theorem AdvancedFrom.trans {w w' w'' : Window} (h : AdvancedFrom w w') (h' : AdvancedFrom w' w'') : AdvancedFrom w w'' := by
  obtain ⟨he, hst⟩ := h
  obtain ⟨he', hst'⟩ := h'
  refine ⟨by rw [he', he], ?_⟩
  rcases hst' with h1 | h1
  · rw [h1]
    exact hst
  · exact .inr h1

/-- A window that is checked stays the same window, which may have gone on to be finalised. -/
theorem winAdvance_window {s : State} {w : Window} (h : winOf s w.d.wid = some w) :
    ∃ w', winOf (winAdvance s w.d.wid) w.d.wid = some w' ∧ AdvancedFrom w w' := by
  simp only [winAdvance, h]
  split
  · exact ⟨_, ((winNote_told ..).winOf _).trans (winOf_setWin_self s { w with st := .finalising }), rfl, .inr rfl⟩
  · exact ⟨w, h, .refl w⟩

theorem winCheck_window {s : State} {w : Window} (h : winOf s w.d.wid = some w) :
    ∃ w', winOf (winCheck s w.d.wid) w.d.wid = some w' ∧ AdvancedFrom w w' := by
  simp only [winCheck, h]
  split
  · obtain ⟨w', hw', hadv⟩ := winAdvance_window (w := { w with ownDone := true })
      (((winNote_told _ w (.halfDone w.d.wid w.epoch w.taken)).winOf _).trans (winOf_setWin_self s { w with ownDone := true }))
    exact ⟨w', hw', AdvancedFrom.trans ⟨rfl, .inl rfl⟩ hadv⟩
  · exact winAdvance_window h

/-! The confirmation of a message (R390, R391). -/

/-- The confirmation of a message waits at the port of a path. -/
def standsConfirmed (u : State) (mseq : Nat) : Prop := ∃ p, ∃ x ∈ u.sw.injected.get p [], ∃ q, x.msg = some (q, .mconfirm [mseq])

theorem KeepsInjected.standsConfirmed {s t : State} (h : KeepsInjected s t) {mseq : Nat} (hs : standsConfirmed s mseq) : standsConfirmed t mseq := by
  obtain ⟨p, x, hx, hq⟩ := hs
  exact ⟨p, x, h p x hx, hq⟩

theorem ToldOfWins.standsConfirmed {s t : State} (h : ToldOfWins s t) {mseq : Nat} (hs : standsConfirmed s mseq) : standsConfirmed t mseq := by
  obtain ⟨-, -, hi⟩ := h
  exact KeepsInjected.standsConfirmed hi hs

theorem mem_of_mem_get {κ α : Type} [DecidableEq κ] {m : TMap κ (List α)} {k : κ} {x : α} (h : x ∈ m.get k []) : ∃ e ∈ m, x ∈ e.2 := by
  induction m with
  | nil => simp [TMap.get] at h
  | cons e t ih =>
    obtain ⟨a, v⟩ := e
    unfold TMap.get at h
    split at h
    · exact ⟨(a, v), List.mem_cons_self, h⟩
    · obtain ⟨e, he, hx⟩ := ih h
      exact ⟨e, List.mem_cons_of_mem _ he, hx⟩

theorem standsConfirmed.confirmedTo {u : State} {mseq : Nat} (h : standsConfirmed u mseq) : confirmedTo u mseq := by
  obtain ⟨p, x, hx, q, hq⟩ := h
  obtain ⟨e, he, hxe⟩ := mem_of_mem_get hx
  exact ⟨q, e, he, x, hxe, hq⟩

theorem confirmTwin_told (s : State) (mseq : Nat) : Told s (confirmTwin s mseq) :=
  Told.trans ⟨rfl, rfl, fun _ _ h => h⟩ (mirrorSend_told ..)

theorem confirmTwin_stands (s : State) (mseq : Nat) : standsConfirmed (confirmTwin s mseq) mseq :=
  ⟨_, _, by rw [confirmTwin, mirrorSend, TMap.get_set_self]; exact List.mem_append_right _ (List.mem_singleton_self _), nextMseq s, rfl⟩

end Sys2Proof.Machine
end

section
/-! SUPPORT. A contribution at a declared window, by the state of the window's instance, and O29 (R200, R201, R204, R205, R208; Table 7-7). -/

namespace Sys2Proof.Machine

open Sys2Proof

/-! Its bytes on its lines (R201, R217). -/

/-- The same window and instance: only what stands in the lines and accumulators may differ. -/
def SameInst (w w' : Window) : Prop :=
  w' = { w with lines := w'.lines, accs := w'.accs, accSoft := w'.accSoft, accHard := w'.accHard }

theorem SameInst.refl (w : Window) : SameInst w w := rfl

theorem SameInst.trans {w w' w'' : Window} (h : SameInst w w') (h' : SameInst w' w'') : SameInst w w'' := by
  unfold SameInst at h h'
  unfold SameInst
  rw [h', h]

/-- The bytes that a line of a window has received. -/
def lineGot (w : Window) (k : Nat) : Nat := (w.lines.get k {}).bytes

theorem accRead_window (s : State) (w : Window) (rt line : Nat) :
    SameInst w (accRead s w rt line).2 ∧ ∀ k, lineGot (accRead s w rt line).2 k = lineGot w k := by
  refine ⟨rfl, fun k => ?_⟩
  simp only [accRead, lineGot]
  split
  · by_cases hk : line = k
    · subst hk
      rw [TMap.get_set_self]
    · rw [TMap.get_set_ne _ _ _ hk]
  · rfl

theorem lineAdd_aside (rt : Nat) (p : Bool) (x : State × Window) (l : Nat × Nat) : Aside x.1 (lineAdd rt p x l).1 := by
  have hread := accRead_aside x.1 x.2 rt l.1
  simp only [lineAdd]
  split
  · exact hread
  · exact hread.trans (bump_aside ..)

theorem lineAdd_window (rt : Nat) (p : Bool) (x : State × Window) (l : Nat × Nat) : SameInst x.2 (lineAdd rt p x l).2 := by
  obtain ⟨hread, -⟩ := accRead_window x.1 x.2 rt l.1
  exact hread.trans rfl

theorem lineAdd_got (rt : Nat) (p : Bool) (x : State × Window) (l : Nat × Nat) (k : Nat) :
    lineGot (lineAdd rt p x l).2 k = lineGot x.2 k + if l.1 = k then l.2 else 0 := by
  obtain ⟨-, hread⟩ := accRead_window x.1 x.2 rt l.1
  by_cases hk : l.1 = k
  · subst hk
    simp only [lineAdd, lineGot, TMap.get_set_self, if_true]
    exact congrArg (· + l.2) (hread l.1)
  · simp only [lineAdd, lineGot, TMap.get_set_ne _ _ _ hk, if_neg hk]
    exact hread k

theorem foldl_lineAdd (rt : Nat) (p : Bool) (l : List (Nat × Nat)) (x : State × Window) :
    Aside x.1 (l.foldl (lineAdd rt p) x).1 ∧ SameInst x.2 (l.foldl (lineAdd rt p) x).2 :=
  List.foldlRecOn l (lineAdd rt p) (motive := fun y => Aside x.1 y.1 ∧ SameInst x.2 y.2) ⟨.refl _, .refl _⟩ fun y hy a _ =>
    ⟨hy.1.trans (lineAdd_aside rt p y a), hy.2.trans (lineAdd_window rt p y a)⟩

theorem foldl_lineAdd_got (rt : Nat) (p : Bool) (l : List (Nat × Nat)) (x : State × Window) (k : Nat) :
    lineGot (l.foldl (lineAdd rt p) x).2 k = lineGot x.2 k + (l.map fun a => if a.1 = k then a.2 else 0).sum := by
  induction l generalizing x with
  | nil => rfl
  | cons a t ih =>
    rw [List.foldl_cons, ih, lineAdd_got, List.map_cons, List.sum_cons]
    omega

/-- A line stands once among the lines of a range. -/
theorem lineBytes_sum {off n : Nat} {l : Nat × Nat} (h : l ∈ lineBytes off n) :
    ((lineBytes off n).map fun a => if a.1 = l.1 then a.2 else 0).sum = l.2 := by
  obtain ⟨i, hi, rfl⟩ := List.mem_map.1 h
  simp only [lineBytes, List.map_map, Function.comp_def, Nat.add_left_cancel_iff]
  rw [List.sum_map_eq_nsmul_single i _ fun j hj _ => if_neg hj, List.nodup_range.count, if_pos hi]
  simp

/-- A contribution to a window whose lines hold nothing. -/
theorem winAdd_window (s : State) (rt : Nat) (w : Window) (r : Req) (off : Nat) :
    Aside s (winAdd s rt w r off).1 ∧ SameInst w (winAdd s rt w r off).2
      ∧ (w.lines = [] → ∀ l ∈ lineBytes off r.len, lineGot (winAdd s rt w r off).2 l.1 = l.2) := by
  obtain ⟨hs, hw⟩ := foldl_lineAdd rt r.poison (lineBytes off r.len) (s, w)
  refine ⟨hs, hw.trans rfl, fun hempty l hl => ?_⟩
  have hgot : lineGot (winAdd s rt w r off).2 l.1 = _ := foldl_lineAdd_got rt r.poison (lineBytes off r.len) (s, w) l.1
  rw [hgot, lineBytes_sum hl]
  simp [lineGot, hempty, TMap.get]

/-! An instance that opens (R205, R208). -/

/-- The request has its completion, with this status. -/
def answeredWith (r : Req) (u : State) (st : Status) : Prop :=
  ∃ c, Out.cmp c ∈ u.out ∧ c.status = st ∧ c.dst = r.src ∧ c.tc = r.tc ∧ c.seq = r.seq

/-- What a contribution that opens an instance leaves of its window. -/
def openedBy (s u : State) (w : Window) (r : Req) (v : Via) : Prop :=
  ∃ w', winOf u w.d.wid = some w' ∧ (w'.st = .active ∨ w'.st = .finalising) ∧ w'.epoch = r.epoch ∧ w'.fmt = r.attr % 16
    ∧ w'.exact = decide (r.op = 0x21) ∧ w'.d = w.d ∧ (∀ l ∈ lineBytes (aOff r.addr - w.d.base) r.len, (w'.lines.get l.1 {}).bytes = l.2)
    ∧ (w.d.each = true → answeredWith r u .ok ∧ w'.held = []) ∧ (w.d.each = false → u.out = s.out ∧ w'.held = [(r, v)])

theorem AdvancedFrom.opened {s u : State} {w w' w'' : Window} {r : Req} {v : Via} (hadv : AdvancedFrom w' w'')
    (hu : winOf u w.d.wid = some w'') (hinst : SameInst { openInst s w r with held := w'.held } w')
    (hgot : ∀ l ∈ lineBytes (aOff r.addr - w.d.base) r.len, lineGot w' l.1 = l.2)
    (heach : w.d.each = true → answeredWith r u .ok ∧ w'.held = []) (hhold : w.d.each = false → u.out = s.out ∧ w'.held = [(r, v)]) :
    openedBy s u w r v := by
  obtain ⟨he, hst⟩ := hadv
  have hw' : w'.st = .active := by rw [hinst]; rfl
  refine ⟨w'', hu, hst.imp (·.trans hw') id, ?_⟩
  rw [he, hinst]
  exact ⟨rfl, rfl, beq_eq_decide r.op 0x21, rfl, hgot, heach, hhold⟩

/-- A contribution accepted with no twin: its bytes are added, and the request is answered at once by an EACH window and held by another. -/
theorem winTake_noTwin {s : State} (hn : noTwin s) (w : Window) (r : Req) (v : Via) (off : Nat) (opened : Bool) :
    ∃ t w' src m, Aside s t ∧ SameInst w w' ∧ (w.lines = [] → ∀ l ∈ lineBytes off r.len, lineGot w' l.1 = l.2)
      ∧ winTake s w r v off opened = if w'.d.each then winCheck (settle r v ⟨setWin t w', cmpOf r src .ok, m⟩) w'.d.wid
        else winCheck (keepRunning (setWin t { w' with held := w'.held ++ [(r, v)] }) r v .window) w'.d.wid := by
  simp only [winTake]
  generalize pageRt s w.rtOut w.d.capo (aOff r.addr) = rt
  obtain ⟨hs, hinst, hgot⟩ := winAdd_window s rt w r off
  generalize winAdd s rt w r off = x at hs hinst hgot ⊢
  have hb := hs.trans (bump_aside x.1 .rtLaneBytes [rt, ofB x.2.exact, x.2.d.capo] r.len)
  simp only [winNote_noTwin (hb.noTwin hn), ite_self]
  exact ⟨_, _, _, _, hb, hinst, hgot, rfl⟩

theorem winCheck_opens {s u : State} {w w' : Window} {r : Req} {v : Via} (hd : w'.d = w.d) (hwin : winOf u w'.d.wid = some w')
    (hinst : SameInst { openInst s w r with held := w'.held } w')
    (hgot : ∀ l ∈ lineBytes (aOff r.addr - w.d.base) r.len, lineGot w' l.1 = l.2)
    (heach : w.d.each = true → answeredWith r u .ok ∧ w'.held = []) (hhold : w.d.each = false → u.out = s.out ∧ w'.held = [(r, v)]) :
    openedBy s (winCheck u w'.d.wid) w r v := by
  obtain ⟨w'', hwin', hadv⟩ := winCheck_window hwin
  have hout : (winCheck u w'.d.wid).out = u.out := (winCheck_told u w'.d.wid).out
  refine hadv.opened (hd ▸ hwin') hinst hgot ?_ ?_
  · rw [answeredWith, hout]
    exact heach
  · rw [hout]
    exact hhold

theorem winTake_opens {s : State} {w : Window} {r : Req} {v : Via} (ha : answersAlone s r v) (hn : noTwin s) :
    openedBy s (winTake s (openInst s w r) r v (aOff r.addr - w.d.base) true) w r v := by
  obtain ⟨t, w', src, m, ht, hw, hgot, htake⟩ := winTake_noTwin hn (openInst s w r) r v (aOff r.addr - w.d.base) true
  specialize hgot rfl
  have hd : w'.d = w.d := by rw [hw]; rfl
  have hheld : w'.held = [] := by rw [hw]; rfl
  have hnt := ht.noTwin hn
  rw [htake]
  split
  case isTrue he =>
    let d : Done := ⟨setWin t w', cmpOf r src .ok, m⟩
    have hset := windowBecomes_setWin t w'
    have hns : noTwin d.s := hset.noTwin hnt
    have hund : Undisturbed s d.s := ht.undisturbed.trans (Undisturbed.refl t)
    obtain ⟨-, hans⟩ := settle_noTwin (ha.of_undisturbed hund) hns
    have hkeep := settle_keepsWindows r v hns
    refine winCheck_opens hd ((hkeep.winOf _).trans hset.self) (by rw [hheld]; exact hw) hgot (fun _ => ⟨?_, hheld⟩)
      fun hf => by simp [hd, hf] at he
    exact ⟨d.c, by rw [hans.out]; simp [emit], rfl, rfl, rfl, rfl⟩
  case isFalse he =>
    let wh := { w' with held := w'.held ++ [(r, v)] }
    have hset := windowBecomes_setWin t wh
    have hkeep : KeepsWindows (setWin t wh) (keepRunning (setWin t wh) r v .window) := setRunning_keepsWindows ..
    have hinst : SameInst { openInst s w r with held := wh.held } wh := by
      unfold SameInst at hw ⊢
      simp only [wh]
      rw [hw]
    refine winCheck_opens (w' := wh) hd ((hkeep.winOf _).trans hset.self) hinst hgot
      (fun hf => absurd (hd ▸ hf) he) fun _ => ⟨(setRunning_out ..).trans ht.out, by simp [wh, hheld]⟩

/-! An instance poisoned, and what is refused (R205). -/

/-- A poisoned window. -/
def poisonedWin (s : State) (w : Window) (src : Nat) : Window := { clearInst w with st := .poisoned, conflict := src, changedAt := s.clk.now }

/-- The state of a poisoned instance, before its held contributions are answered. -/
def poisonedAt (s : State) (w : Window) (src : Nat) : State := setWin (bump s .rtWinPoison [winRt s w, w.d.capo]) (poisonedWin s w src)

theorem poisonedAt_undisturbed (s : State) (w : Window) (src : Nat) : Undisturbed s (poisonedAt s w src) := Undisturbed.refl s

/-- Every held contribution of a poisoned instance answered. -/
def answerHeld (w : Window) (src : Nat) (s : State) : State :=
  w.held.foldl (fun s h => settle h.1 h.2 ⟨s, sigOf w (cmpOf h.1 (mySrc s) .ok) src, []⟩) s

theorem winPoison_noTwin {s : State} (hn : noTwin s) (w : Window) (src : Nat) (tell : Bool) :
    winPoison s w src tell = answerHeld w src (poisonedAt s w src) := by
  have hnp : noTwin (poisonedAt s w src) := hn.of_course (poisonedAt_undisturbed s w src).course
  cases tell
  · rfl
  · exact congrArg (answerHeld w src) (winNote_noTwin hnp w (winRec { w with conflict := src } .poisoned))

theorem winPoison_keepsWindows {s : State} (hn : noTwin s) (w : Window) (src : Nat) (tell : Bool) :
    KeepsWindows (poisonedAt s w src) (winPoison s w src tell) := by
  have hnp : noTwin (poisonedAt s w src) := hn.of_course (poisonedAt_undisturbed s w src).course
  rw [winPoison_noTwin hn]
  exact foldl_keepsWindows (fun t (h : Req × Via) ht => settle_keepsWindows h.1 h.2
    (d := ⟨t, sigOf w (cmpOf h.1 (mySrc t) .ok) src, []⟩) ht) w.held hnp

/-- A contribution refused with no twin: it is answered, and the windows are as they were. -/
theorem settle_refuses {r : Req} {v : Via} {d : Done} {st : Status} (hv : partyOf v = .kojor) (hn : noTwin d.s)
    (hf : oldestFinal d.s .kojor r.src r.epoch = none) (hst : d.c.status = st) (hok : st ≠ .ok) (hdst : d.c.dst = r.src) (htc : d.c.tc = r.tc)
    (hseq : d.c.seq = r.seq) : answeredWith r (settle r v d) st ∧ (settle r v d).wins = d.s.wins := by
  obtain ⟨hwins, -⟩ := settle_keepsWindows r v hn
  exact ⟨⟨d.c, settle_answers hv hn hf (hst ▸ hok), hst, hdst, htc, hseq⟩, hwins⟩

/-- One of another EPOCH, or that differs otherwise, in an ACTIVE instance. -/
theorem winArrive_poisons {s : State} {w : Window} {r : Req} {v : Via} (ha : answersAlone s r v) (hn : noTwin s) (hst : w.st = .active)
    (hmis : winMismatch w r (aOff r.addr - w.d.base) = true) :
    winOf (winArrive s w r v) w.d.wid = some (poisonedWin s w r.src) ∧ answeredWith r (winArrive s w r v) .collMismatch := by
  obtain ⟨hv, -, hfin⟩ := ha
  have hkeep := winPoison_keepsWindows hn w r.src true
  have hnp : noTwin (winPoison s w r.src true) := hkeep.noTwin (hn.of_course (poisonedAt_undisturbed s w r.src).course)
  have hf := hkeep.oldestFinal ((oldestFinal_undisturbed (poisonedAt_undisturbed s w r.src) _ _).trans hfin)
  have harr : winArrive s w r v = settle r v ⟨winPoison s w r.src true, sigOf w (cmpOf r (mySrc (winPoison s w r.src true)) .ok) r.src, []⟩ := by
    simp [winArrive, hst, hmis]
  have hset := settle_keepsWindows r v (d := ⟨winPoison s w r.src true, sigOf w (cmpOf r (mySrc (winPoison s w r.src true)) .ok) r.src, []⟩) hnp
  rw [harr]
  refine ⟨?_, (settle_refuses (st := .collMismatch) hv hnp hf rfl (by decide) rfl rfl rfl).1⟩
  rw [hset.winOf, hkeep.winOf]
  exact winOf_setWin_self _ (poisonedWin s w r.src)

theorem winArrive_poisoned {s : State} {w : Window} {r : Req} {v : Via} (ha : answersAlone s r v) (hn : noTwin s) (hst : w.st = .poisoned) :
    answeredWith r (winArrive s w r v) .collMismatch ∧ (winArrive s w r v).wins = s.wins := by
  obtain ⟨hv, -, hfin⟩ := ha
  have harr : winArrive s w r v = settle r v ⟨s, sigOf w (cmpOf r (mySrc s) .ok) w.conflict, []⟩ := by simp [winArrive, hst]
  rw [harr]
  exact settle_refuses (st := .collMismatch) hv hn hfin rfl (by decide) rfl rfl rfl

theorem winMismatch_epoch {w : Window} {r : Req} (h : r.epoch ≠ w.epoch) (off : Nat) : winMismatch w r off = true := by
  simp [winMismatch, h]

/-- What the declared windows make of a contribution to an unmirrored page whose RT is in service (R205, R208; Table 7-7). -/
def atWindows (s : State) (r : Req) (v : Via) (rt : Nat) : State :=
  match winAt s r.capo (aOff r.addr) with
  | none => settle r v (refuse s .kojor r .accDenied)
  | some w =>
    let stop := w.d.base + w.d.lenp * 4096
    if aOff r.addr + r.len > stop then
      let s := if w.d.group ≠ 0 ∧ w.st = .active then winPoison s w r.src true else s
      settle r v ⟨s, cmpErr r (mySrc s) .accSplit (r.addr + BitVec.ofNat 64 (stop - aOff r.addr)), []⟩
    else if winDenies w r then settle r v (refuse s .kojor r .accDenied)
    else
      match winRetry s w r (aOff r.addr - w.d.base) with
      | some us => settle r v (retryIn (if us = 10 then bump s .rtHeldFull [rt] else s) .kojor r us)
      | none => if w.st != .expired && deferred s r.capo then settle r v (energyDefer s r) else winArrive s w r v

/-! The way of a contribution to its window (R63, R200, R204). -/

/-- A contribution to a page of an unmirrored region that this member serves, whose RT is in service, with no twin. -/
structure ReachesRt (s : State) (r : Req) (v : Via) (g : Region) (rtOut : List Nat) : Prop where
  enters : entersKojor s r v
  kind : kindReserved r.addr = false
  zeros : zerosOk r.addr = true
  scratch : scratchWin (aOff r.addr) = none
  tier : tierOf (aOff r.addr) ≠ none
  region : regionAt s.prog.eff r.capo (aOff r.addr / 4096) = some g
  plain : g.mir = false
  cache : cached s (viaSx v) r.capo g.rid = true
  mine : isMine s (aOff r.addr) = true
  up : rtUp s (pageRt (cacheTouch s (viaSx v) r.capo g.rid) rtOut r.capo (aOff r.addr)) = true

theorem ReachesRt.found {s : State} {r : Req} {v : Via} {g : Region} {l : List Nat} (h : ReachesRt s r v g l)
    (hl : ((winAt s r.capo (aOff r.addr)).map (·.rtOut)).getD [] = l) :
    doRst (entryState s r v) r v = atWindows (atPage s r v g) r v (pageRt (cacheTouch s (viaSx v) r.capo g.rid) l r.capo (aOff r.addr)) := by
  obtain ⟨sw, hsw⟩ := entryState_eq s r v
  obtain ⟨-, hkind, hzeros, hscr, htier, hreg, hplain, hcache, hmine, hup⟩ := h
  have hcache' : cached { s with sw := sw } (viaSx v) r.capo g.rid = true := hcache
  have hmine' : isMine (cacheTouch { s with sw := sw } (viaSx v) r.capo g.rid) (aOff r.addr) = true := hmine
  have hwin : winAt (cacheTouch { s with sw := sw } (viaSx v) r.capo g.rid) r.capo (aOff r.addr) = winAt s r.capo (aOff r.addr) := rfl
  have hrt : pageRt (cacheTouch { s with sw := sw } (viaSx v) r.capo g.rid) l r.capo (aOff r.addr)
    = pageRt (cacheTouch s (viaSx v) r.capo g.rid) l r.capo (aOff r.addr) := rfl
  have hup' : rtUp (cacheTouch { s with sw := sw } (viaSx v) r.capo g.rid)
    (pageRt (cacheTouch s (viaSx v) r.capo g.rid) l r.capo (aOff r.addr)) = true := hup
  rw [atPage, hsw]
  simp only [doRst, hkind, hzeros, hscr, Option.isNone_eq_false_iff.2 (Option.isSome_iff_ne_none.2 htier), hreg, hcache', hmine', hwin,
    hl, hrt, hup', hplain]
  simp only [Bool.not_true, Bool.not_false, Bool.false_and, Bool.and_false, Bool.or_false, Bool.false_eq_true, if_false]
  unfold atWindows
  rfl

theorem atPage_beside (s : State) (r : Req) (v : Via) (g : Region) :
    ∃ w c, atPage s r v g = { s with sw := w, mem := { s.mem with rcache := c } } := by
  obtain ⟨w, hw⟩ := entryState_eq s r v
  obtain ⟨c, hc⟩ := atPage_eq s r v g
  exact ⟨w, c, by rw [hc, hw]⟩

/-- Either instruction of a contribution. -/
theorem exec_contribution {s : State} {r : Req} {v : Via} {i : Req → Via → Instr} (he : entersKojor s r v)
    (hi : (r.op = 0x20 ∧ i = .rst) ∨ (r.op = 0x21 ∧ i = .rstx)) : exec (i r v) s = .next (doRst (entryState s r v) r v) := by
  have hrun := runEntry_enters he fun s => doRst s r v
  rcases hi with ⟨hop, rfl⟩ | ⟨hop, rfl⟩
  · show execRst r v s = _
    rw [execRst, if_pos hop, hrun]
  · show execRstx r v s = _
    rw [execRstx, if_pos hop, hrun]

/-- An arrival that needs no held-contribution record, or finds one free, meets no RETRY (R208). -/
theorem winRetry_none {s : State} {w : Window} {r : Req} {off : Nat} (hst : w.st ≠ .finalising)
    (h : needsRecord s w r off = false ∨ heldUsed s r.capo < poolPart s 262144 r.capo) : winRetry s w r off = none := by
  unfold winRetry
  rw [if_neg fun hf => hst hf.1, if_neg]
  rcases h with h | h
  · simp [h]
  · simp only [Bool.and_eq_true, decide_eq_true_eq, not_and]
    omega

/-- A contribution inside a window that does not exclude it, and that meets no RETRY and no ENERGY_DEFER, is for the instance. -/
theorem atWindows_arrives {s : State} {w : Window} {r : Req} {v : Via} {rt : Nat} (hw : winAt s r.capo (aOff r.addr) = some w)
    (hin : aOff r.addr + r.len ≤ w.d.base + w.d.lenp * 4096) (hdeny : winDenies w r = false) (hdef : deferred s r.capo = false)
    (hretry : winRetry s w r (aOff r.addr - w.d.base) = none) : atWindows s r v rt = winArrive s w r v := by
  simp only [atWindows, hw, hdeny, hretry, hdef, Bool.and_false, Bool.false_eq_true, if_false]
  rw [if_neg (by omega)]

end Sys2Proof.Machine

open Sys2Proof Sys2Proof.Machine

/-- Settles O29: a contribution that reaches its RT is for the declared windows to take or refuse; what settling a request answers, and that it
leaves the windows, holds whatever contributions a poisoned instance still held. -/
theorem contributionsArrive : Obligations.ContributionsArrive := by
  intro s r v g i he hi hkind hzeros hscr htier hreg hplain hcache hmine hm halone off up answered
  have hn : noTwin s := ⟨hm, halone⟩
  have hexec := exec_contribution he hi
  have ha := answersAlone_atPage he g
  have hund := atPage_undisturbed s r v g
  have hnp : noTwin (atPage s r v g) := hn.of_course hund.course
  obtain ⟨sw, c, hpage⟩ := atPage_beside s r v g
  have hwins : (atPage s r v g).wins = s.wins := by rw [hpage]
  have hwinAt : winAt (atPage s r v g) r.capo off = winAt s r.capo off := by rw [winAt, hwins, ← winAt]
  refine ⟨fun hnone hup => ?outside, fun w hat hw hup hin hdeny hdef => ?inside⟩
  case outside =>
    have hfound := ReachesRt.found ⟨he, hkind, hzeros, hscr, htier, hreg, hplain, hcache, hmine, hup⟩ (by rw [hnone]; rfl)
    rw [hexec, hfound, atWindows, hwinAt, hnone]
    obtain ⟨hv, -, hfin⟩ := ha
    obtain ⟨hans, hkeep⟩ := settle_refuses (d := refuse (atPage s r v g) .kojor r .accDenied) (st := .accDenied) hv hnp hfin rfl (by decide)
      rfl rfl rfl
    obtain ⟨⟨hphys, -⟩, -⟩ := settle_noTwin (d := refuse (atPage s r v g) .kojor r .accDenied) (answersAlone_atPage he g) hnp
    exact ⟨_, rfl, hans, hkeep.trans hwins, hphys.trans (atPage_sameMem s r v g).1⟩
  case inside =>
    have hfound := ReachesRt.found ⟨he, hkind, hzeros, hscr, htier, hreg, hplain, hcache, hmine, hup⟩ (by rw [hat]; rfl)
    have hdef' : deferred (atPage s r v g) r.capo = false := by rw [hpage]; exact hdef
    have harr : winRetry (atPage s r v g) w r (off - w.d.base) = none → exec (i r v) s = .next (winArrive (atPage s r v g) w r v) := by
      intro hr
      rw [hexec, hfound, atWindows_arrives (hwinAt.trans hat) hin hdeny hdef' hr]
    refine ⟨fun hst hlast hmis hfree => ?idle, fun hst hep => ?active, fun hst => ?poisoned, fun hst => ?expired⟩
    case idle =>
      have hopen : openInst (atPage s r v g) w r = openInst s w r := by rw [hpage]; rfl
      have hfree' : heldUsed (atPage s r v g) r.capo < poolPart (atPage s r v g) 262144 r.capo := by rw [hpage]; exact hfree
      have htake : winArrive (atPage s r v g) w r v = winTake (atPage s r v g) (openInst (atPage s r v g) w r) r v (off - w.d.base) true := by
        simp only [winArrive, hst, hopen]
        rw [if_neg hlast, if_neg (by rw [show winMismatch _ _ _ = false from hmis]; decide)]
      obtain ⟨w', hwin, hst', hepoch, hfmt, hexact, hd, hgot, heach, hhold⟩ := winTake_opens (w := w) ha hnp
      exact ⟨_, w', (harr (winRetry_none (by simp [hst]) (.inr hfree'))).trans (congrArg _ htake), hwin, hst', hepoch, hfmt, hexact, hd, hgot, heach,
        fun hf => ⟨(hhold hf).1.trans hund.out, (hhold hf).2⟩⟩
    case active =>
      have hmis := winMismatch_epoch hep (off - w.d.base)
      have hr : winRetry (atPage s r v g) w r (off - w.d.base) = none :=
        winRetry_none (by simp [hst]) (.inl (by simp [needsRecord, hst, hmis]))
      obtain ⟨hwin, hans⟩ := winArrive_poisons ha hnp hst hmis
      exact ⟨_, _, harr hr, hwin, rfl, rfl, rfl, rfl, hans⟩
    case poisoned =>
      obtain ⟨hans, hkeep⟩ := winArrive_poisoned ha hnp hst
      exact ⟨_, harr (winRetry_none (by simp [hst]) (.inl (by simp [needsRecord, hst]))), hans, hkeep.trans hwins⟩
    case expired =>
      have hbump : winArrive (atPage s r v g) w r v
          = bump (atPage s r v g) .rtWinDrop [pageRt (atPage s r v g) w.rtOut w.d.capo off, w.d.capo] := by simp only [winArrive, hst, off]
      refine ⟨_, (harr (winRetry_none (by simp [hst]) (.inl (by simp [needsRecord, hst])))).trans (congrArg _ hbump), hund.out, hwins, ?_⟩
      rw [hpage]
      rfl

end

section
/-! SUPPORT. What a message of the twin leaves, by its kind, and O45 (R205, R206, R317, R318, R391, R393, R400, R403). -/

namespace Sys2Proof.Machine

open Sys2Proof

/-! A message confirmed after it has been applied. -/

theorem takeMirror_takes {s : State} (h : takesMirror s = true) (mseq : Nat) (f : State → State) :
    takeMirror s mseq f = confirmTwin (f s) mseq := by simp [takeMirror, h]

theorem takeMirror_ignores {s : State} (h : takesMirror s = false) (mseq : Nat) (f : State → State) : takeMirror s mseq f = s := by
  simp [takeMirror, h]

theorem confirmTwin_confirms (s : State) (mseq : Nat) : confirmedTo (confirmTwin s mseq) mseq := (confirmTwin_stands s mseq).confirmedTo

/-! Duplicate entries of the twin (R73, R74). -/

theorem scroll_notes (s : State) (cls : Nat) (ev : ScrollEv) (site : Nat) (args : List Nat) (capo : Option Nat) :
    ∃ c t, scroll s cls ev site args capo = { s with ctr := c, tel := t } := by
  simp only [scroll, scrollEntry, Bool.false_eq_true, if_false]
  split <;> exact ⟨_, _, rfl⟩

theorem dupEvicted_notes (s : State) (e : DupEntry) : ∃ c t, dupEvicted s .kojor e = { s with ctr := c, tel := t } := by
  unfold dupEvicted
  dsimp only
  split
  · exact ⟨s.ctr, s.tel, rfl⟩
  · obtain ⟨c, t, h⟩ := scroll_notes (bump s .sxDupEvict [e.sx, e.capo]) 5 .dupEvicted (siteSX e.sx) [e.src, e.seq] (some e.capo)
    exact ⟨c, t, h⟩

/-- A duplicate entry added at the Kojor stands among its entries; where one goes early it is counted and written to the scroll. -/
theorem addDup_kojor (s : State) (e : DupEntry) :
    ∃ c t l, e ∈ l ∧ addDup s .kojor e = { s with resp := { s.resp with dups := l }, ctr := c, tel := t } := by
  have hlast : ∀ l : List DupEntry, e ∈ l ++ [e] := fun l => List.mem_append_right l (List.mem_singleton_self e)
  by_cases hfull : 4096 ≤ (s.resp.dups.filter fun x => x.src == e.src).length
  · simp only [addDup, respOf, ge_iff_le, hfull, decide_true, if_true]
    cases (s.resp.dups.find? fun x => x.src == e.src) with
    | none => exact ⟨s.ctr, s.tel, _, hlast _, rfl⟩
    | some old =>
      obtain ⟨c, t, h⟩ := dupEvicted_notes
        (setResp s .kojor { s.resp with dups := dropFirst (fun x => x.src == e.src) s.resp.dups ++ [e] }) old
      exact ⟨c, t, _, hlast _, h⟩
  · exact ⟨s.ctr, s.tel, _, hlast s.resp.dups, by simp [addDup, respOf, setResp, hfull]⟩

theorem takeDup_entry (s : State) (e : DupEntry) :
    ∃ c t l, { e with twins := true } ∈ l ∧ takeDup s e = { s with resp := { s.resp with dups := l }, ctr := c, tel := t } := by
  obtain ⟨c, t, l, hmem, h⟩ := addDup_kojor
    { s with resp := { s.resp with dups := s.resp.dups.filter fun x => !(x.src == e.src && x.tc == e.tc && x.seq == e.seq) } } { e with twins := true }
  exact ⟨c, t, l, hmem, h⟩

/-- A message's duplicate entry, where it carries one. -/
theorem elim_takeDup (s : State) (d : Option DupEntry) : ∃ c t l, (∀ e, d = some e → { e with twins := true } ∈ l)
    ∧ d.elim s (takeDup s) = { s with resp := { s.resp with dups := l }, ctr := c, tel := t } := by
  cases d with
  | none => exact ⟨s.ctr, s.tel, s.resp.dups, by simp, rfl⟩
  | some e =>
    obtain ⟨c, t, l, hmem, h⟩ := takeDup_entry s e
    exact ⟨c, t, l, by simpa using hmem, h⟩

/-! Bytes of the twin (R318, R391). -/

theorem homeWrite_stored {s : State} {k : Nat} {bs : List Byte} {p : Bool} (hup : backUp s (keyTarget k) = true) (hwf : Memory.wf s.mem.phys = true) :
    keyStored s (homeWrite s k bs p) k bs := fun i => by
  rw [homeWrite, if_pos hup, physWrite_phys, Memory.read_writeN hwf]

theorem homeWrite_missed {s : State} {k : Nat} (bs : List Byte) (p : Bool) (hup : backUp s (keyTarget k) = false) :
    (homeWrite s k bs p).mem.phys = s.mem.phys ∧ (keyTarget k, keyPage k) ∈ (homeWrite s k bs p).mem.missed := by
  rw [homeWrite, if_neg (by simp [hup])]
  exact ⟨rfl, mem_insertOnce_self _ _⟩

theorem mem_markWords {l ws : List Nat} {x : Nat} : x ∈ markWords l ws ↔ x ∈ l ∨ x ∈ ws := by
  induction ws generalizing l with
  | nil => simp [markWords]
  | cons a t ih =>
    have h : markWords l (a :: t) = markWords (insertOnce a l) t := rfl
    rw [h, ih, mem_insertOnce, List.mem_cons]
    tauto

/-! A contribution of the twin to an EACH window (R206). -/

/-- The lines of a window with the bytes of some lines added. -/
def addBytes (p : Bool) (m : TMap Nat Line) (l : Nat × Nat) : TMap Nat Line :=
  m.set l.1 { m.get l.1 {} with bytes := (m.get l.1 {}).bytes + l.2, poisoned := (m.get l.1 {}).poisoned || p }

theorem foldl_addBytes (p : Bool) (l : List (Nat × Nat)) (m : TMap Nat Line) (k : Nat) :
    ((l.foldl (addBytes p) m).get k {}).bytes = (m.get k {}).bytes + (l.map fun a => if a.1 = k then a.2 else 0).sum := by
  induction l generalizing m with
  | nil => rfl
  | cons a t ih =>
    have ha : ((addBytes p m a).get k {}).bytes = (m.get k {}).bytes + if a.1 = k then a.2 else 0 := by
      rw [addBytes, TMap.get_set]
      split
      · next h => rw [h]
      · rfl
    rw [List.foldl_cons, ih, ha, List.map_cons, List.sum_cons]
    omega

/-- Plain accumulators replace those of the window (R206). -/
def putAccs (accs : List (Nat × W64)) (m : TMap Nat Acc) : TMap Nat Acc :=
  accs.foldl (fun (m : TMap Nat Acc) a => m.set a.1 { m.get a.1 {} with any := true, plain := a.2 }) m

/-- A window of the twin's plain contribution, before its half is checked. -/
def withAccs (w : Window) (fmt off : Nat) (accs : List (Nat × W64)) (p : Bool) : Window :=
  { w with lines := (lineBytes off (accs.length * fmtSize fmt)).foldl (addBytes p) w.lines, accs := putAccs accs w.accs }

theorem takeAcc_plain {s : State} {w : Window} (h : winOf s w.d.wid = some w) (hst : w.st = .active) (fmt off : Nat)
    (accs : List (Nat × W64)) (p : Bool) : takeAcc s w.d.wid w.epoch false fmt off [] accs p = winCheck (setWin s (withAccs w fmt off accs p)) w.d.wid := by
  unfold takeAcc
  rw [h]
  dsimp only
  rw [if_neg (by simp [hst])]
  rfl

/-! Strings (R398, R402, R434). -/

/-- Nothing but strings, the frames sent and the sweep that an ASSIGN names differs. -/
def FramesSent (s t : State) : Prop :=
  t = { s with links := t.links, out := t.out, disc := { s.disc with sweepReg := t.disc.sweepReg } }

theorem FramesSent.refl (s : State) : FramesSent s s := rfl

theorem FramesSent.trans {s t u : State} (h : FramesSent s t) (h' : FramesSent t u) : FramesSent s u := by
  unfold FramesSent at h h'
  unfold FramesSent
  rw [h', h]

theorem FramesSent.mem {s t : State} (h : FramesSent s t) : t.mem = s.mem := by rw [h]
theorem FramesSent.course {s t : State} (h : FramesSent s t) : t.course = s.course := by rw [h]
theorem FramesSent.phase {s t : State} (h : FramesSent s t) : t.disc.phase = s.disc.phase := by rw [h]
theorem FramesSent.keepsInjected {s t : State} (h : FramesSent s t) : KeepsInjected s t := by
  rw [h]
  exact fun _ _ hx => hx

theorem foldl_framesSent {α : Type} {f : State → α → State} (h : ∀ s a, FramesSent s (f s a)) (l : List α) (s : State) :
    FramesSent s (l.foldl f s) :=
  List.foldlRecOn l f (motive := FramesSent s) (.refl s) fun t ht a _ => ht.trans (h t a)

theorem setLink_framesSent (s : State) (x : Nat) (l : Link) : FramesSent s (setLink s x l) := rfl

theorem pump_framesSent (s : State) (x : Nat) : FramesSent s (pump s x) := by
  simp only [pump]
  split
  · exact .refl s
  · exact setLink_framesSent ..

theorem sendFrame_framesSent (s : State) (x : Nat) (f : Frame) : FramesSent s (sendFrame s x f) := by
  have hslots : FramesSent s (sendSlots s (some x) [.ctrl f]) := by
    simp only [sendSlots]
    split
    · exact (setLink_framesSent ..).trans (pump_framesSent ..)
    · exact .refl s
  have hemit : ∀ (t : State) (o : Out), FramesSent t (emit t o) := fun _ _ => rfl
  unfold sendFrame
  split
  · exact hslots.trans (hemit ..)
  · exact hslots.trans (hemit ..)

theorem sendAssign_framesSent (s : State) (n : Nat) : FramesSent s (sendAssign s n) := by
  unfold sendAssign
  split
  · exact .refl s
  · next a _ =>
    have hsweep : FramesSent s { s with disc := { s.disc with sweepReg := a.sweep % 65536 } } := rfl
    exact hsweep.trans (sendFrame_framesSent ..)

theorem enterStage_framesSent (s : State) (x st : Nat) : FramesSent s (enterStage s x st) := by
  simp only [enterStage]
  split
  · exact setLink_framesSent ..
  · exact setLink_framesSent ..

theorem raiseStrings_framesSent (s : State) (causes : List DownCause) : FramesSent s (raiseStrings s causes) :=
  foldl_framesSent (fun t n => by
    dsimp only
    split
    · exact enterStage_framesSent ..
    · exact .refl t) _ s

theorem toLeaves_framesSent (s : State) (f : Frame) : FramesSent s (toLeaves s f) := foldl_framesSent (fun t n => sendFrame_framesSent t n f) _ s

/-! The end of a rebuild at its target (R317, R402, R403). -/

theorem bootReady_phase (d : Disc) : (bootReady d).phase = d.phase := by
  unfold bootReady bootWrite
  split <;> rfl

/-- The target once the end record has come and is confirmed: it serves. -/
def rebuilt (s : State) : State :=
  { poisonBare s with
    accMib := accStore s.prog.eff
    course := { s.course with rebuildTgt := false, serving := true, twinUp := true, leaving := false, lastHb := s.clk.now }
    disc := bootReady { s.disc with phase := 9, joining := false } }

theorem rebuilt_poison (s : State) (w : Nat) : w ∈ (rebuilt s).mem.poison ↔ w ∈ s.mem.poison
    ∨ ∃ g ∈ regions s.prog.eff, g.mir = false ∧ ∃ x ∈ regionPlaces g true, w ∈ wordsOf (physKey x.1 x.2 0) 4096 := by
  simp only [rebuilt, poisonBare, mem_markWords, List.mem_flatMap, List.mem_filter, Bool.not_eq_true']
  constructor
  · rintro (h | ⟨x, ⟨g, ⟨hg, hm⟩, hx⟩, hw⟩)
    · exact .inl h
    · exact .inr ⟨g, hg, hm, x, hx, hw⟩
  · rintro (h | ⟨g, hg, hm, x, hx, hw⟩)
    · exact .inl h
    · exact .inr ⟨x, ⟨g, ⟨hg, hm⟩, hx⟩, hw⟩

/-- The journal's record kept, and confirmed. -/
def journalKept (s : State) (mseq : Nat) (j : Journal) : State :=
  confirmTwin { s with course := { s.course with journal := s.course.journal ++ [j], tgtCkpt := j.ckpt } } mseq

theorem exec_mjournal {s : State} (h : s.course.rebuildTgt = true) (mseq : Nat) (j : Journal) (hj : j.phase ≠ 4) :
    exec (.mjournal mseq j) s = .next (journalKept s mseq j) := by
  show execMjournal mseq j s = _
  simp [execMjournal, h, hj, journalKept]

/-- The leaves told that this member serves, with their ASSIGNs, and the strings that were disabled brought up. -/
def serveLeaves (s : State) : State :=
  let s := toLeaves s (.restore (site s).course (site s).memberB)
  raiseStrings ((leafStrings s).foldl sendAssign s) [.disabled]

theorem serveLeaves_framesSent (s : State) : FramesSent s (serveLeaves s) :=
  ((toLeaves_framesSent ..).trans (foldl_framesSent sendAssign_framesSent ..)).trans (raiseStrings_framesSent ..)

theorem exec_mjournal_end {s : State} (h : s.course.rebuildTgt = true) (mseq : Nat) {j : Journal} (hj : j.phase = 4) :
    exec (.mjournal mseq j) s = .next (serveLeaves (placeLines (rebuilt (journalKept s mseq j)))) := by
  show execMjournal mseq j s = _
  simp only [execMjournal, h, hj, if_true, Bool.not_true, Bool.false_eq_true, if_false]
  rfl

/-! Confirmations of the twin (R389, R391). -/

/-- The messages taken off the unconfirmed, and nothing else. -/
def takenOff (s : State) (qs : List Nat) : State :=
  { s with course := { s.course with unconf := s.course.unconf.filter fun u => decide (u.mseq ∉ qs) }, resp := { s.resp with running := [] } }

/-- Where no request executes, no window waits and no message is held, what is confirmed is only taken off the unconfirmed. -/
theorem confirmed_idle {s : State} (hrun : s.resp.running = []) (hwait : ∀ w ∈ s.wins.filterMap (·.2), w.waits = [])
    (hheld : ∀ y ∈ s.course.unconf, y.held = false) (qs : List Nat) : confirmed s qs = takenOff s qs := by
  have hnone : (s.wins.filterMap (·.2)).filter (fun w => w.waits.any fun q => decide (q ∈ qs)) = [] :=
    List.filter_eq_nil_iff.2 fun w hw => by simp [hwait w hw]
  have hfree : (s.course.unconf.filter fun u => decide (u.mseq ∉ qs)).filter (·.held) = [] :=
    List.filter_eq_nil_iff.2 fun y hy => by simp [hheld y (List.mem_of_mem_filter hy)]
  simp only [confirmed, hrun, releaseHeld, hfree, List.filter_nil, List.map_nil, List.foldl_nil, hnone, reRead, takenOff]

theorem checkpoint_idle {s : State} (h : s.course.copying = false) : checkpoint s = s := by simp [checkpoint, h]

/-- The payload of a rebuild that is confirmed is counted (R403). -/
def payloadCounted (s : State) (n : Nat) : State :=
  if n = 0 then s else bump { s with course := { s.course with copied := s.course.copied + n } } .courseRbBytes [] n

theorem payloadCounted_beside (s : State) (n : Nat) : ∃ c m, payloadCounted s n = { s with ctr := c, course := { s.course with copied := m } } := by
  unfold payloadCounted
  split <;> exact ⟨_, _, rfl⟩

theorem exec_mconfirm_idle {s : State} (hcopy : s.course.copying = false) (hrun : s.resp.running = [])
    (hwait : ∀ w ∈ s.wins.filterMap (·.2), w.waits = []) (hheld : ∀ y ∈ s.course.unconf, y.held = false) (qs : List Nat) :
    ∃ u, exec (.mconfirm qs) s = .next u ∧ u.course.unconf = s.course.unconf.filter (fun y => decide (y.mseq ∉ qs.take 48))
      ∧ u.mem = s.mem ∧ u.out = s.out := by
  obtain ⟨n, hexec⟩ : ∃ n, exec (.mconfirm qs) s = .next (checkpoint (confirmed (payloadCounted s n) (qs.take 48))) := ⟨_, rfl⟩
  obtain ⟨c, m, hcount⟩ := payloadCounted_beside s n
  rw [hcount] at hexec
  refine ⟨_, hexec, ?_⟩
  rw [confirmed_idle (by exact hrun) (by exact hwait) (by exact hheld), checkpoint_idle (by exact hcopy)]
  exact ⟨rfl, rfl, rfl⟩

/-! Messages applied while the twin serves, by kind. -/

theorem exec_mwrite {s : State} (h : takesMirror s = true) (mseq key : Nat) (bs : List Byte) (p : Bool) (d : Option DupEntry) :
    exec (.mwrite mseq key bs p d) s = .next (confirmTwin (d.elim (homeWrite s key bs p) (takeDup (homeWrite s key bs p))) mseq) :=
  congrArg Host.Outcome.next (takeMirror_takes h ..)

theorem exec_mstate {s : State} (h : takesMirror s = true) (mseq : Nat) (r : StateRec) :
    exec (.mstate mseq r) s = .next (confirmTwin (takeRec s r) mseq) := congrArg Host.Outcome.next (takeMirror_takes h ..)

/-- What a message of bytes leaves beside memory, notes, duplicate entries and what is told. -/
theorem exec_mwrite_beside {s : State} (h : takesMirror s = true) (mseq key : Nat) (bs : List Byte) (p : Bool) (d : Option DupEntry) :
    ∃ u, exec (.mwrite mseq key bs p d) s = .next u ∧ u.mem = (homeWrite s key bs p).mem ∧ confirmedTo u mseq
      ∧ (∀ e, d = some e → { e with twins := true } ∈ u.resp.dups) ∧ u.wins = s.wins ∧ u.prog = s.prog := by
  obtain ⟨c, t, l, hmem, hdup⟩ := elim_takeDup (homeWrite s key bs p) d
  have haside := homeWrite_aside s key bs p
  refine ⟨_, exec_mwrite h mseq key bs p d, ?_, confirmTwin_confirms .., ?_⟩ <;> rw [hdup]
  · rfl
  · exact ⟨hmem, haside.wins, haside.prog⟩

/-- A contribution adds its bytes to the lines of its window. -/
theorem exec_macc_plain {s : State} {w : Window} (h : takesMirror s = true) (hw : winOf s w.d.wid = some w) (hst : w.st = .active)
    (mseq fmt off : Nat) (accs : List (Nat × W64)) (p : Bool) :
    ∃ u w', exec (.macc mseq (.macc w.d.wid w.epoch false fmt off [] accs p none)) s = .next u ∧ winOf u w.d.wid = some w'
      ∧ (∀ l ∈ lineBytes off (accs.length * fmtSize fmt), (w'.lines.get l.1 {}).bytes = (w.lines.get l.1 {}).bytes + l.2)
      ∧ w'.d = w.d ∧ u.mem = s.mem := by
  have hexec : exec (.macc mseq (.macc w.d.wid w.epoch false fmt off [] accs p none)) s
      = .next (confirmTwin (winCheck (setWin s (withAccs w fmt off accs p)) w.d.wid) mseq) := by
    rw [← takeAcc_plain hw hst]
    exact congrArg Host.Outcome.next (takeMirror_takes h ..)
  obtain ⟨w', hwin, hadv, -⟩ := winCheck_window (winOf_setWin_self s (withAccs w fmt off accs p))
  have htold := (winCheck_told (setWin s (withAccs w fmt off accs p)) w.d.wid).trans (confirmTwin_told _ mseq).ofWins
  refine ⟨_, w', hexec, ((confirmTwin_told ..).winOf _).trans hwin, fun l hl => ?_, by rw [hadv]; rfl, ?_⟩
  · have hsum := foldl_addBytes p (lineBytes off (accs.length * fmtSize fmt)) w.lines l.1
    rw [lineBytes_sum hl] at hsum
    rw [hadv]
    exact hsum
  · obtain ⟨hu, -⟩ := htold
    rw [hu]
    rfl

/-- A finalisation of one line: its bytes stand and the window is marked. -/
theorem exec_mfinal_line {s : State} {w : Window} (h : takesMirror s = true) (hw : winOf s w.d.wid = some w) (hst : w.st = .active ∨ w.st = .finalising)
    (mseq k : Nat) (bs : List Byte) :
    exec (.mfinal mseq (.mfinal w.d.wid w.epoch [(k, bs)] [] [])) s
      = .next (confirmTwin (setWin (homeWrite s k bs false) { w with twinWritten := true }) mseq) := by
  have hwin : winOf (homeWrite s k bs false) w.d.wid = some w := ((homeWrite_aside ..).winOf _).trans hw
  have htake : takeFinal s w.d.wid w.epoch [(k, bs)] [] [] = setWin (homeWrite s k bs false) { w with twinWritten := true } := by
    have hready : takeDups { homeWrite s k bs false with mem := { (homeWrite s k bs false).mem with
        poison := markWords (homeWrite s k bs false).mem.poison [] } } [] = homeWrite s k bs false := rfl
    simp only [takeFinal, List.foldl_cons, List.foldl_nil, hready, hwin]
    simp [hst]
  rw [← htake]
  exact congrArg Host.Outcome.next (takeMirror_takes h ..)

/-- A page of a rebuild takes the place of this member's (R400). -/
theorem exec_mcopy_page {s : State} (h : s.course.rebuildTgt = true) (mseq rid i k : Nat) (bs : List Byte) (pz : List Nat) :
    exec (.mcopy mseq (.page rid i k bs pz)) s = .next (confirmTwin (takeItem s (.page rid i k bs pz)) mseq) := by
  show execMcopy mseq _ s = _
  simp [execMcopy, h]

theorem takeItem_page {s : State} (hwf : Memory.wf s.mem.phys = true) (rid i k : Nat) (bs : List Byte) (pz : List Nat) :
    keyStored s (takeItem s (.page rid i k bs pz)) k bs ∧ (∀ w ∈ pz, w ∈ (takeItem s (.page rid i k bs pz)).mem.poison)
      ∧ (keyTarget k, keyPage k) ∉ (takeItem s (.page rid i k bs pz)).mem.missed := by
  refine ⟨fun j => ?_, fun w hw => mem_markWords.2 (.inr hw), fun hm => ?_⟩
  · rw [← Memory.read_writeN hwf, ← physWrite_phys s k bs false]
    rfl
  · simp [takeItem] at hm

/-- At the end of a rebuild the target serves. -/
theorem exec_mjournal_serves {s : State} (h : s.course.rebuildTgt = true) (mseq : Nat) {j : Journal} (hj : j.phase = 4) :
    ∃ u, exec (.mjournal mseq j) s = .next u ∧ u.course.rebuildTgt = false ∧ u.course.serving = true ∧ u.course.twinUp = true
      ∧ u.mem = (rebuilt (journalKept s mseq j)).mem ∧ u.disc.phase = 9 ∧ confirmedTo u mseq := by
  have hplace := placeLines_told (rebuilt (journalKept s mseq j))
  have hframes := serveLeaves_framesSent (placeLines (rebuilt (journalKept s mseq j)))
  have hstands : standsConfirmed (rebuilt (journalKept s mseq j)) mseq :=
    confirmTwin_stands { s with course := { s.course with journal := s.course.journal ++ [j], tgtCkpt := j.ckpt } } mseq
  obtain ⟨htgt, hserve, hup⟩ := hplace.serves
  refine ⟨_, exec_mjournal_end h mseq hj, ?_⟩
  rw [hframes.course, hframes.mem, hframes.phase, htgt, hserve, hup, hplace.mem, hplace.disc]
  exact ⟨rfl, rfl, rfl, rfl, bootReady_phase _, (hframes.keepsInjected.standsConfirmed (hplace.standsConfirmed hstands)).confirmedTo⟩

end Sys2Proof.Machine

open Sys2Proof Sys2Proof.Machine

/-- Settles O45: the confirmation is sent after a message has been applied, and neither it nor what the twin is told of lines takes back what the
message left. -/
theorem mirrorMessages : Obligations.MirrorMessages := by
  refine ⟨fun s mseq key bs p d h => ⟨fun hup hwf => ?mwrite, fun hup => ?missed⟩, fun s mseq k c m v x e h => ⟨?flag, ?counter, ?dup⟩,
    fun s mseq wid off fmt accs p w bs k h hw hwid => ?window, fun s mseq key wid e fmt off bs p x d r h => ?ignored,
    fun s mseq rid i k bs pz j h => ⟨fun hwf => ?mcopy, fun hj => ?record, fun hj => ?endRecord⟩,
    fun s mseq qs j i => ⟨fun h => ?noTarget, ?mconfirm⟩⟩
  case mwrite =>
    obtain ⟨u, hexec, hmem, hconf, hdup, hwins, hprog⟩ := exec_mwrite_beside h mseq key bs p d
    exact ⟨u, hexec, by rw [keyStored, hmem]; exact homeWrite_stored hup hwf, hconf, hdup, hwins, hprog⟩
  case missed =>
    obtain ⟨u, hexec, hmem, hconf, -⟩ := exec_mwrite_beside h mseq key bs p d
    obtain ⟨hphys, hmissed⟩ := homeWrite_missed bs p hup
    exact ⟨u, hexec, by rw [hmem]; exact hphys, by rw [hmem]; exact hmissed, hconf⟩
  case flag =>
    refine ⟨_, exec_mstate h mseq _, fun y => ?_, confirmTwin_confirms .., rfl⟩
    show (s.ctl.flags.set (m, c, k) v).get y false = _
    simp only [TMap.get_set, eq_comm]
  case counter =>
    refine ⟨_, exec_mstate h mseq _, fun y => ctrOf_setCtr s (m, c, k) y x, confirmTwin_confirms .., ?_⟩
    exact setCtr_mem s (m, c, k) x
  case dup =>
    obtain ⟨c, t, l, hmem, hdup⟩ := takeDup_entry s e
    refine ⟨_, exec_mstate h mseq _, ?_, confirmTwin_confirms .., ?_⟩ <;> rw [takeRec, hdup]
    · exact hmem
    · rfl
  case window =>
    subst hwid
    refine ⟨fun hst _ => exec_macc_plain h hw hst mseq fmt off accs p, fun hst hup hwf =>
      ⟨_, _, exec_mfinal_line h hw hst mseq k bs, homeWrite_stored hup hwf, ?_, rfl, confirmTwin_confirms ..⟩⟩
    exact ((confirmTwin_told ..).winOf _).trans (winOf_setWin_self _ { w with twinWritten := true })
  case ignored => exact ⟨congrArg _ (takeMirror_ignores h ..), congrArg _ (takeMirror_ignores h ..), congrArg _ (takeMirror_ignores h ..),
    congrArg _ (takeMirror_ignores h ..)⟩
  case mcopy =>
    obtain ⟨hstored, hpoison, hmissed⟩ := takeItem_page hwf rid i k bs pz
    exact ⟨_, exec_mcopy_page h mseq rid i k bs pz, hstored, hpoison, hmissed, confirmTwin_confirms ..⟩
  case record => exact ⟨_, exec_mjournal h mseq j hj, rfl, rfl, h, confirmTwin_confirms .., rfl⟩
  case endRecord =>
    obtain ⟨u, hexec, htgt, hserve, hup, hmem, hphase, hconf⟩ := exec_mjournal_serves h mseq hj
    exact ⟨u, hexec, htgt, hserve, hup, fun w => by rw [hmem]; exact rebuilt_poison (journalKept s mseq j) w, hphase, hconf⟩
  case noTarget =>
    refine ⟨?_, fun hb => ?_⟩
    · show execMjournal mseq j s = _
      simp [execMjournal, h]
    · show execMcopy mseq i s = _
      simp [execMcopy, h, hb]
  case mconfirm =>
    intro hcopy hrun hwait hheld
    obtain ⟨u, hexec, hunconf, hmem, hout⟩ := exec_mconfirm_idle hcopy hrun hwait hheld qs
    exact ⟨u, hexec, fun y => by simp [hunconf], hmem, hout⟩

end

section
/-! SUPPORT. Exceptions of the stream as they arise: the first one, as a record of the op that raised it (R247, R248). -/

namespace Sys2Proof.Machine

open Sys2Proof

theorem nowCycle_unstalled {s : State} (h : s.str.stall = none) : nowCycle s = s.str.cycle := by
  simp [nowCycle, h]

/-- The first exception of a running stream is recorded, and handlers are stopped. -/
theorem raiseRec_first {s : State} (hrun : s.str.running = true) (hexc : s.str.exc = none) (e : ExcRec) :
    raiseRec s e = stopHandlers (setStr s { s.str with exc := some e, stopAt := some (e.cycle + 12) }) := by
  simp [raiseRec, hrun, hexc]

/-- The record of an exception that arises at the present bundle, in the present cycle. -/
def excHere (s : State) (cause tile part : Nat) (errAddr : W64) (detail : Nat) : ExcRec :=
  { cause := cause, tile := tile, part := part, pc := s.str.pc, status := 0, cycle := nowCycle s, time := s.clk.now, errAddr := errAddr,
    detail := detail }

theorem raiseExc_first {s : State} (hrun : s.str.running = true) (hexc : s.str.exc = none) (cause tile part : Nat) (errAddr : W64)
    (detail : Nat) : raiseExc s cause tile part errAddr detail = stopHandlers (setStr s
      { s.str with exc := some (excHere s cause tile part errAddr detail), stopAt := some (nowCycle s + 12) }) :=
  raiseRec_first hrun hexc _

/-- An exception that is the stream's first, as `streamRaised` says it; nothing but the stream and its tiles differs. -/
theorem raiseExc_streamRaised {s : State} (hrun : s.str.running = true) (hexc : s.str.exc = none) (cause tile part : Nat)
    (errAddr : W64) (detail : Nat) : let u := raiseExc s cause tile part errAddr detail
    streamRaised s u cause tile part ∧ u = { s with str := u.str, tiles := u.tiles } := by
  intro u
  have hu : u = _ := raiseExc_first hrun hexc cause tile part errAddr detail
  rw [hu]
  exact ⟨⟨_, rfl, rfl, rfl, rfl, rfl, rfl, rfl, rfl⟩, rfl⟩

section
variable {s : State} {n : Nat} (h : slotReady s n)
include h

theorem slotReady.raises (cause part : Nat) (errAddr : W64) (detail : Nat) :
    slotRaised s (raiseExc s cause n part errAddr detail) cause n part errAddr detail := by
  obtain ⟨hrun, -, hstall, -, hexc, -⟩ := h
  rw [raiseExc_first hrun hexc, excHere, nowCycle_unstalled hstall]
  exact ⟨rfl, rfl, rfl⟩

/-! What the checks of an op find (R238 to R241). -/

theorem matrixOp_illegal {o : MatOp} {usesFmt : Bool} (hbad : matIllegal (if usesFmt then o else { o with fmt := 3 }) = true)
    (busy : Me → Bool) (go : List Nat → State → State) : matrixOp s n o usesFmt busy go = raiseExc s 1 n 1 := by
  simp [matrixOp, h.slotOk, hbad]

theorem matrixOp_busy {o : MatOp} {ms : List Nat} {m : Nat} {busy : Me → Bool} (hg : groupMes o = some ms) (har : o.areg < 16)
    (hm : m ∈ ms) (hb : busy (meOfTile (tileOf s n) m) = true) (go : List Nat → State → State) :
    matrixOp s n o false busy go = raiseExc s 4 n 1 := by
  have hg' : groupMes { o with fmt := 3 } = some ms := hg
  have hleg := matIllegal_legal hg' har (by simp) (by simp)
  have hany : (ms.any fun m => busy (meOfTile (tileOf s n) m)) = true := List.any_eq_true.2 ⟨m, hm, hb⟩
  simp [matrixOp, h.slotOk, hleg, hg, hany]

theorem vectorOp_busy {o : VecOp} {mem : Bool} (hleg : vecIllegal (tileOf s n) o mem = false) (hb : s.str.cycle < (tileOf s n).vBusy)
    (go : State → State) : vectorOp s n o mem go = raiseExc s 4 n 2 := by
  simp [vectorOp, h.slotOk, hleg, hb]

theorem vectorOp_goes {o : VecOp} {mem : Bool} (hleg : vecIllegal (tileOf s n) o mem = false) (hb : (tileOf s n).vBusy ≤ s.str.cycle)
    (go : State → State) : vectorOp s n o mem go = go s := by
  simp [vectorOp, h.slotOk, hleg, Nat.not_lt.2 hb]

end

theorem matIllegal_of_group {o : MatOp} (h : 6 ≤ o.grp) : matIllegal o = true := by
  have hg : groupMes o = none := by
    unfold groupMes
    rw [if_neg (by omega), if_neg (by omega), if_neg (by omega)]
  simp [matIllegal, hg]

theorem matIllegal_of_format {o : MatOp} (h : 7 ≤ o.fmt) : matIllegal o = true := by simp [matIllegal, h]

/-- VSPLAT reads FP32, which no rule on VLEN or on a pair of registers binds. -/
theorem vecIllegal_splat {o : VecOp} (h : o.areg < 16) (t : Tile) : vecIllegal t { o with fmt := 0 } true = false := by
  simp [vecIllegal, vecMx, Nat.not_le.2 h]

/-! A range beyond general scratch, and ports without room (R229). -/

theorem outOfScratch_one (s : State) (a len : Nat) : outOfScratch s [(a, len)] = if scrTop s < a + len then some a else none := by
  unfold outOfScratch
  generalize scrTop s = top
  by_cases h : top < a + len <;> simp [h]

theorem scrCheck_beyond {s : State} {a len : Nat} (h : scrTop s < a + len) (n part : Nat) (ports : List (Nat × Nat × Nat))
    (go : State → State) : scrCheck s n part [(a, len)] ports go = raiseExc s 2 n part (BitVec.ofNat 64 a) := by
  rw [scrCheck, outOfScratch_one, if_pos h]

theorem portFits_one (s : State) (n r w : Nat) : portFits s n [(s.str.cycle, r, w)] = true ↔ portRoom s n 0 r w := by
  simp [portFits, portRoom, List.eraseDups_cons, List.filter_append]

theorem scrCheck_crowded {s : State} {a len n r w : Nat} (hin : a + len ≤ scrTop s) (h : ¬ portRoom s n 0 r w) (part : Nat)
    (go : State → State) : scrCheck s n part [(a, len)] [(s.str.cycle, r, w)] go = raiseExc s 3 n part := by
  have hfull : portFits s n [(s.str.cycle, r, w)] = false := Bool.eq_false_iff.2 (mt (portFits_one s n r w).1 h)
  rw [scrCheck, outOfScratch_one, if_neg (Nat.not_lt.2 hin)]
  simp only [hfull, Bool.false_eq_true, if_false]

theorem scrCheck_one {s : State} {a len n r w : Nat} (hin : a + len ≤ scrTop s) (h : portRoom s n 0 r w) (part : Nat)
    (go : State → State) : scrCheck s n part [(a, len)] [(s.str.cycle, r, w)] go = go (portTake s n [(s.str.cycle, r, w)]) :=
  scrCheck_passes go (by simpa using hin) ((portFits_one s n r w).2 h)

/-! The ops that raise. -/

section
variable {s : State} {n : Nat} (h : slotReady s n)
include h

theorem exec_ldw_illegal {o : MatOp} (hbad : matIllegal o = true) : exec (.ldw n o) s = .next (raiseExc s 1 n 1) :=
  congrArg Host.Outcome.next (matrixOp_illegal h (usesFmt := true) hbad _ _)

theorem exec_zacc_illegal {o : MatOp} (hbad : matIllegal { o with fmt := 3 } = true) :
    exec (.zacc n o) s = .next (raiseExc s 1 n 1) :=
  congrArg Host.Outcome.next (matrixOp_illegal h (usesFmt := false) hbad _ _)

theorem exec_zacc_busy {o : MatOp} {ms : List Nat} {m : Nat} (hg : groupMes o = some ms) (har : o.areg < 16) (hm : m ∈ ms)
    (hb : s.str.cycle < (meOfTile (tileOf s n) m).busy) : exec (.zacc n o) s = .next (raiseExc s 4 n 1) :=
  congrArg Host.Outcome.next (matrixOp_busy h hg har hm (by simpa [meBusy] using hb) _)

theorem exec_vacc_illegal {o : VecOp} (ha : 8 ≤ o.va) : exec (.vacc n o) s = .next (raiseExc s 1 n 2) := by
  show execVacc n o s = _
  simp [execVacc, h.slotOk, ha]

theorem exec_vadd_busy {o : VecOp} (hb : s.str.cycle < (tileOf s n).vBusy) : exec (.vadd n o) s = .next (raiseExc s 4 n 2) :=
  congrArg Host.Outcome.next (vectorOp_busy h (by simp [vecIllegal]) hb _)

theorem exec_setl_illegal {imm : Nat} (hi : imm < 2 ^ 24) (hbad : imm = 0 ∨ 32768 < imm) :
    exec (.setl n imm) s = .next (raiseExc s 1 n 3) := by
  have hno : ¬ (1 ≤ imm ∧ imm ≤ 32768) := by omega
  show execSetl n imm s = _
  simp only [execSetl, h.slotOk, Nat.mod_eq_of_lt hi, hno, decide_false, Bool.not_false, Bool.and_self, if_true]

section
variable {o : VecOp} (hb : (tileOf s n).vBusy ≤ s.str.cycle) (ha : o.areg < 16)
include hb ha

theorem exec_vsplat_beyond (hout : scrTop s < (tileOf s n).ad.get o.areg 0 + 4) :
    exec (.vsplat n o) s = .next (raiseExc s 2 n 2 (BitVec.ofNat 64 ((tileOf s n).ad.get o.areg 0))) := by
  show execVsplat n o s = _
  rw [execVsplat, vectorOp_goes h (vecIllegal_splat ha _) hb]
  exact congrArg Host.Outcome.next (scrCheck_beyond hout ..)

theorem exec_vsplat_crowded (hin : (tileOf s n).ad.get o.areg 0 + 4 ≤ scrTop s) (hroom : ¬ portRoom s n 0 4 0) :
    exec (.vsplat n o) s = .next (raiseExc s 3 n 2) := by
  show execVsplat n o s = _
  rw [execVsplat, vectorOp_goes h (vecIllegal_splat ha _) hb]
  exact congrArg Host.Outcome.next (scrCheck_crowded hin hroom ..)

end

theorem exec_launch_full {k ec : Nat} (hk : k < 256) (hh : (TMap.find s.str.handlers k).isSome = true)
    (hq : 8 ≤ (tileOf s n).launchQ.length) : exec (.launch n k ec) s = .next (raiseExc s 0x0B n 4 0 k) := by
  show execLaunch n k ec s = _
  simp [execLaunch, h.slotOk, Nat.mod_eq_of_lt hk, Option.isNone_eq_false_iff.2 hh, hq]

end

end Sys2Proof.Machine
end

section
/-! SUPPORT. What a request of the Kojor's own changes: the requesters, the switches, the responders and counters; what has been sent before stays
sent (R67, R108, R136). -/

namespace Sys2Proof.Machine

open Sys2Proof

/-- Requests have been issued, and nothing that they do not move differs. -/
def Requested (s t : State) : Prop :=
  t = { s with out := t.out, ctr := t.ctr, sw := t.sw, rq := t.rq, resp := t.resp, mcasts := t.mcasts } ∧ s.out <+: t.out

theorem Requested.refl (s : State) : Requested s s := ⟨rfl, List.prefix_refl _⟩

theorem Requested.trans {s t u : State} (h : Requested s t) (h' : Requested t u) : Requested s u := by
  obtain ⟨ht, ho⟩ := h
  obtain ⟨hu, ho'⟩ := h'
  exact ⟨by rw [hu, ht], ho.trans ho'⟩

theorem emits_requested (s : State) (os : List Out) : Requested s (emits s os) := ⟨rfl, List.prefix_append ..⟩

theorem emit_requested (s : State) (o : Out) : Requested s (emit s o) := ⟨rfl, List.prefix_append ..⟩

/-- A change of what requests move, which sends nothing. -/
theorem requested_of_eq {s t : State} (h : t = { s with ctr := t.ctr, sw := t.sw, rq := t.rq, resp := t.resp, mcasts := t.mcasts }) :
    Requested s t := by
  rw [h]
  exact ⟨rfl, List.prefix_refl _⟩

theorem bump_requested (s : State) (c : CtrName) (ix : List Nat) (n : Nat) : Requested s (bump s c ix n) := requested_of_eq rfl

theorem mcastSettle_requested (s : State) (id : Nat) : Requested s (mcastSettle s id) := by
  simp only [mcastSettle]
  (repeat' split)
  case h_2.isFalse => exact (requested_of_eq (t := dropRunning _ _ _) rfl).trans (emits_requested ..)
  all_goals exact requested_of_eq rfl

theorem mcastFail_requested (s : State) (id pos : Nat) : Requested s (mcastFail s id pos) := by
  unfold mcastFail
  split
  · exact .refl s
  · split
    · exact Requested.trans (requested_of_eq rfl) (mcastSettle_requested _ _)
    · exact .refl s

theorem copyLost_requested (s : State) (p : Pkt) : Requested s (copyLost s p) := by
  unfold copyLost
  split
  · exact .refl s
  · exact Requested.trans (requested_of_eq rfl) (mcastFail_requested _ _ _)

theorem noPath_requested (s : State) (sx port : Nat) (p : Pkt) : Requested s (noPath s sx port p) := by
  have hbump := bump_requested s .sxUnroutable [sx, port] 1
  cases p with
  | cmp c hb => exact hbump
  | req r =>
    simp only [noPath]
    split
    · exact hbump.trans (copyLost_requested _ _)
    · exact hbump.trans (emit_requested _ _)

theorem landNone_requested (s : State) (x : Landed) : Requested s (landNone s x) := by
  simp only [landNone, unland]
  (repeat' split) <;> exact requested_of_eq rfl

theorem takeRoute_requested (s : State) (x : Landed) (res : RouteRes) : Requested s (takeRoute s x res) := by
  have hnone := landNone_requested s x
  rcases res with ⟨dsx, dport, vc⟩ | _ | _
  · simp only [takeRoute]
    split
    · exact hnone
    · split
      · exact hnone.trans (noPath_requested _ _ _ _)
      · split <;> exact requested_of_eq rfl
  · exact hnone.trans (noPath_requested _ _ _ _)
  · have hbump := hnone.trans (bump_requested _ .sxMisroute [x.sx, x.port] 1)
    simp only [takeRoute]
    split
    · exact hbump.trans (emit_requested _ _)
    · exact hbump

theorem releaseTry_requested (s : State) (id : Nat) : Requested s (releaseTry s .kojor id) := by
  unfold releaseTry
  split
  · exact .refl s
  · next o _ =>
    split
    · simp only [releaseNow, transmitReq, kSend]
      refine Requested.trans ?_ (takeRoute_requested _ _ _)
      refine Requested.trans ?_ (bump_requested _ _ _ _)
      exact Requested.trans (requested_of_eq rfl) (emit_requested _ _)
    · exact .refl s

theorem kIssue_requested (s : State) (r : Req) (ow : Owner) : Requested s (kIssue s r ow) :=
  Requested.trans (requested_of_eq rfl) (List.foldlRecOn _ _ (motive := Requested (issue s .kojor { r with src := mySrc s } ow none none))
    (.refl _) fun _ ht id _ => ht.trans (releaseTry_requested _ id))

theorem foldl_kIssue_requested {α : Type} (req : State → α → Req) (ow : α → Owner) (l : List α) (s : State) :
    Requested s (l.foldl (fun s a => kIssue s (req s a) (ow a)) s) :=
  List.foldlRecOn _ _ (motive := Requested s) (.refl s) fun _ ht a _ => ht.trans (kIssue_requested _ (req _ a) (ow a))

theorem Requested.tileOf {s t : State} (h : Requested s t) (n : Nat) : tileOf t n = tileOf s n := by
  obtain ⟨ht, -⟩ := h
  rw [ht]
  rfl

end Sys2Proof.Machine
end

section
/-! SUPPORT. The queues of a tile's mover engines: what joins them and what leaves them (R242 to R245). -/

namespace Sys2Proof.Machine

open Sys2Proof

@[simp] theorem engOf_setEng_self (s : State) (n e : Nat) (l : List MovRun) : engOf (setEng s n e l) n e = l := by
  simp [engOf, setEng]

theorem tileOf_setEng_ne (s : State) {n k : Nat} (h : k ≠ n) (e : Nat) (l : List MovRun) : tileOf (setEng s n e l) k = tileOf s k := by
  rw [setEng, tileOf_setTile, if_neg (Ne.symm h)]

@[simp] theorem tileOf_setEng_self (s : State) (n e : Nat) (l : List MovRun) :
    tileOf (setEng s n e l) n = { tileOf s n with eng := (tileOf s n).eng.set e l } := tileOf_setTile_self ..

/-- The same operation, but for its number and how far it has got. -/
def sameRun (m m' : MovRun) : Prop := m' = { m with opid := m'.opid, started := m'.started, left := m'.left }

theorem sameRun.refl (m : MovRun) : sameRun m m := by rw [sameRun]

theorem sameRun.fields {m m' : MovRun} (h : sameRun m m') :
    m'.kind = m.kind ∧ m'.ec = m.ec ∧ m'.fa = m.fa ∧ m'.fattr = m.fattr ∧ m'.scr = m.scr ∧ m'.bytes = m.bytes := by
  rw [h]
  exact ⟨rfl, rfl, rfl, rfl, rfl, rfl⟩

/-- Of tile n nothing but an engine's queue differs, which is l now; scratch and the other tiles are as they were. -/
def queueIs (s u : State) (n e : Nat) (l : List MovRun) : Prop :=
  engOf u n e = l ∧ tileOf u n = { tileOf s n with eng := (tileOf u n).eng } ∧ (∀ k, k ≠ n → tileOf u k = tileOf s k) ∧ u.scratch = s.scratch

theorem queueIs_setEng (s : State) (n e : Nat) (l : List MovRun) : queueIs s (setEng s n e l) n e l :=
  ⟨engOf_setEng_self .., by rw [tileOf_setEng_self], fun _ hk => tileOf_setEng_ne s hk e l, rfl⟩

theorem queueIs.trans {s t u : State} {n e : Nat} {l l' : List MovRun} (h : queueIs s t n e l) (h' : queueIs t u n e l') :
    queueIs s u n e l' := by
  obtain ⟨-, ht, ho, hs⟩ := h
  obtain ⟨hq, ht', ho', hs'⟩ := h'
  exact ⟨hq, by rw [ht', ht], fun k hk => (ho' k hk).trans (ho k hk), hs'.trans hs⟩

theorem queueIs.requested {s t u : State} {n e : Nat} {l : List MovRun} (h : queueIs s t n e l) (h' : Requested t u) : queueIs s u n e l := by
  obtain ⟨hq, ht, ho, hs⟩ := h
  refine ⟨by rw [engOf, h'.tileOf, ← engOf, hq], by rw [h'.tileOf]; exact ht, fun k hk => (h'.tileOf k).trans (ho k hk), ?_⟩
  obtain ⟨hu, -⟩ := h'
  rw [hu]
  exact hs

theorem queueIs.joined {s u : State} {n e : Nat} {l : List MovRun} {m : MovRun} (h : queueIs s u n e (l ++ [m])) :
    ((tileOf u n).eng.get e []).length = l.length + 1 ∧ ((tileOf u n).eng.get e []).getLast? = some m := by
  obtain ⟨hq, -⟩ := h
  rw [engOf] at hq
  rw [hq]
  exact ⟨List.length_append, List.getLast?_concat⟩

/-- The start of an engine's first operation leaves the queue as it was, but for what that operation has come to. -/
theorem engStart_queueIs {s : State} {n e : Nat} {m : MovRun} {t : List MovRun} (h : engOf s n e = m :: t) :
    ∃ m', sameRun m m' ∧ queueIs s (engStart s n e) n e (m' :: t) := by
  simp only [engStart, h]
  split
  · exact ⟨m, sameRun.refl m, h, rfl, fun _ _ => rfl, rfl⟩
  · exact ⟨_, by rw [sameRun], (queueIs_setEng s n e _).requested (foldl_kIssue_requested (fun s p => movReq s n m p) _ _ _)⟩

/-- An operation that finds room joins the end of its engine's queue (R244). -/
theorem engPush_joins {s : State} {n e : Nat} (h : (engOf s n e).length < 8) (part : Nat) (m : MovRun) :
    ∃ l m', sameRun m m' ∧ l.length = (engOf s n e).length ∧ queueIs s (engPush s n e part m) n e (l ++ [m']) := by
  have hpush : engPush s n e part m = engStart (setEng (setStr s { s.str with nextOp := s.str.nextOp + 1 }) n e
      (engOf s n e ++ [{ m with opid := s.str.nextOp + 1 }])) n e := by
    simp only [engPush, if_neg (Nat.not_le.2 h)]
    rfl
  have hjoin : queueIs s _ n e _ := queueIs_setEng (setStr s { s.str with nextOp := s.str.nextOp + 1 }) n e
    (engOf s n e ++ [{ m with opid := s.str.nextOp + 1 }])
  rw [hpush]
  cases hq : engOf s n e with
  | nil =>
    rw [hq] at hjoin
    obtain ⟨m', hm, hu⟩ := engStart_queueIs hjoin.1
    refine ⟨[], m', ?_, rfl, hjoin.trans hu⟩
    rw [sameRun] at hm ⊢
    rw [hm]
  | cons a q =>
    rw [hq] at hjoin
    obtain ⟨a', -, hu⟩ := engStart_queueIs hjoin.1
    exact ⟨a' :: q, _, by rw [sameRun], rfl, hjoin.trans hu⟩

theorem tileBecomes.addPend_two {s u : State} {n : Nat} {t : Tile} (h : tileBecomes s u n t) (x y : PendW) :
    tileBecomes s (Machine.addPend (Machine.addPend u n x) n y) n { t with pend := t.pend ++ [x, y] } := by
  simpa using (h.addPend x).addPend y

/-- A tile whose counters have changed, and what the wait network samples of them. -/
theorem tileCounts_sampled (s : State) (n : Nat) (t : Tile) : tileCounts s (sampleWaits (setTile s n t)) n t := by
  obtain ⟨ws, hw⟩ := sampleWaits_eq (setTile s n t)
  obtain ⟨-, ht, ho⟩ := tileBecomes_setTile s n t
  rw [hw]
  exact ⟨rfl, ht, ho⟩

/-- An event counter raised by 1 (R245). -/
theorem raiseEc_one (s : State) (n ec : Nat) : let u := raiseEc s n ec 1
    u = { s with tiles := u.tiles, str := { s.str with waits := u.str.waits } }
      ∧ tileOf u n = { tileOf s n with ec := (tileOf u n).ec, raised := (tileOf u n).raised }
      ∧ ∀ e, (tileOf u n).ec.get e 0 = if e = ec then (tileOf s n).ec.get e 0 + 1 else (tileOf s n).ec.get e 0 := by
  obtain ⟨hu, ht, -⟩ := tileCounts_sampled s n { tileOf s n with
    ec := (tileOf s n).ec.set ec ((tileOf s n).ec.get ec 0 + 1)
    raised := (tileOf s n).raised.set ec (nowCycle s, if ((tileOf s n).raised.get ec (0, 0)).1 = nowCycle s
      then ((tileOf s n).raised.get ec (0, 0)).2 + 1 else 1) }
  change tileOf (raiseEc s n ec 1) n = _ at ht
  refine ⟨hu, by rw [ht], fun e => ?_⟩
  rw [ht, TMap.get_set]
  by_cases he : e = ec
  · rw [if_pos he.symm, if_pos he, he]
  · rw [if_neg (Ne.symm he), if_neg he]

/-! GET and PUT (R242 to R244). -/

/-- The bytes that a transfer of LEN moves, and the operation that joins the queue, with the registers as they stand. -/
def moveLen (o : MovOp) : Nat := (if o.len = 0 then 4096 else o.len) * 64

def moveRun (t : Tile) (o : MovOp) (put : Bool) : MovRun :=
  { opid := 0, kind := if put then 2 else 1, ec := o.ec % 16, fa := t.fa.get o.freg 0, fattr := t.fattr.get o.freg 0, scr := t.ad.get o.areg 0,
    bytes := moveLen o }

/-- Both address registers move on by what is transferred. -/
def movedOn (s : State) (n : Nat) (o : MovOp) : State :=
  addPend (adAdvance s n o.areg (moveLen o)) n (.fa (s.str.cycle + 1) o.freg ((tileOf s n).fa.get o.freg 0 + BitVec.ofNat 64 (moveLen o)))

theorem tileBecomes_movedOn (s : State) (n : Nat) (o : MovOp) : tileBecomes s (movedOn s n o) n { tileOf s n with
    pend := (tileOf s n).pend ++ [.areg (s.str.cycle + 1) o.areg (((tileOf s n).ad.get o.areg 0 + moveLen o) % 2 ^ 29),
      .fa (s.str.cycle + 1) o.freg ((tileOf s n).fa.get o.freg 0 + BitVec.ofNat 64 (moveLen o))] } := (tileBecomes_self s n).addPend_two ..

section
variable {s : State} {n : Nat} {o : MovOp} {put : Bool} (h : slotReady s n) (heng : o.eng < 16) (har : o.areg < 16) (hfr : o.freg < 16)
  (hlen : o.len < 4096) (ha : (tileOf s n).ad.get o.areg 0 % 64 = 0)
  (hfa : ((tileOf s n).fa.get o.freg 0).toNat % 64 = 0) (hat : fattrBad put ((tileOf s n).fattr.get o.freg 0).toNat = false)
  (hin : (tileOf s n).ad.get o.areg 0 + moveLen o ≤ scrTop s)
include h heng har hfr hlen ha hfa hat hin

/-- A transfer that passes the checks joins its engine's queue, or finds it full. -/
theorem transferOp_checked : transferOp s n o put
    = if 8 ≤ (engOf s n o.eng).length then raiseExc s 5 n 3 else engPush (movedOn s n o) n o.eng 3 (moveRun (tileOf s n) o put) := by
  have hout : outOfScratch s [((tileOf s n).ad.get o.areg 0, moveLen o)] = none := by
    rw [outOfScratch_one, if_neg (Nat.not_lt.2 hin)]
  have hal : ¬ ((tileOf s n).ad.get o.areg 0 % 64 ≠ 0 ∨ ((tileOf s n).fa.get o.freg 0).toNat % 64 ≠ 0) := by omega
  simp only [moveLen] at hout
  simp only [transferOp, h.slotOk, Nat.mod_eq_of_lt heng, Nat.mod_eq_of_lt har, Nat.mod_eq_of_lt hfr,
    Nat.mod_eq_of_lt hlen, if_neg hal, hat, hout, Bool.not_true, Bool.false_eq_true, if_false]
  rfl

theorem transferOp_joins (hq : (engOf s n o.eng).length < 8) :
    ∃ l m, sameRun (moveRun (tileOf s n) o put) m ∧ l.length = (engOf s n o.eng).length
      ∧ queueIs (movedOn s n o) (transferOp s n o put) n o.eng (l ++ [m]) := by
  have hmoved : engOf (movedOn s n o) n o.eng = engOf s n o.eng := by rw [engOf, (tileBecomes_movedOn s n o).tile, ← engOf]
  rw [transferOp_checked h heng har hfr hlen ha hfa hat hin, if_neg (Nat.not_le.2 hq)]
  rw [← hmoved] at hq ⊢
  exact engPush_joins hq ..

end

theorem fattrBad_false {put : Bool} {f : Nat} (h : ¬ (bits f 17 15 ≠ 0 ∨ bits f 48 16 ≠ 0))
    (hop : put = true → bits f 0 8 ∈ [0x02, 0x20, 0x21, 0x28]) : fattrBad put f = false := by
  obtain ⟨h1, h2⟩ := not_or.1 h
  cases put with
  | false => simp [fattrBad, not_not.1 h1, not_not.1 h2]
  | true => simpa [fattrBad, not_not.1 h1, not_not.1 h2, or_iff_not_imp_left] using hop rfl

/-! LDFA and the end of an operation (R242, R244). -/

theorem exec_ldfa {s : State} {n areg freg : Nat} (h : slotReady s n) (har : areg < 16) (hfr : freg < 16)
    (ha : (tileOf s n).ad.get areg 0 % 16 = 0) (hin : (tileOf s n).ad.get areg 0 + 16 ≤ scrTop s) (hroom : portRoom s n 0 16 0) :
    ∃ u p, exec (.ldfa n areg freg) s = .next u ∧ tileBecomes s u n { tileOf s n with
      ports := p
      pend := (tileOf s n).pend
        ++ [.fa (s.str.cycle + 6) freg (BitVec.ofNat 64 (ofLe (scrBytes s n ((tileOf s n).ad.get areg 0) 8))),
            .fattr (s.str.cycle + 6) freg (BitVec.ofNat 64 (ofLe (scrBytes s n ((tileOf s n).ad.get areg 0 + 8) 8)))] } := by
  show ∃ u p, execLdfa n areg freg s = .next u ∧ _
  simp only [execLdfa, h.slotOk, Nat.mod_eq_of_lt har, Nat.mod_eq_of_lt hfr, ha, ne_eq, not_true_eq_false, Bool.not_true,
    Bool.false_eq_true, if_false, scrCheck_one hin hroom]
  exact ⟨_, (tileOf s n).ports ++ [(s.str.cycle, 16, 0)], rfl,
    (tileBecomes_setTile s n { tileOf s n with ports := (tileOf s n).ports ++ [(s.str.cycle, 16, 0)] }).addPend_two ..⟩

theorem exec_moverOpComplete_left {s : State} {n e : Nat} {m : MovRun} {r : List MovRun} (hq : engOf s n e = m :: r) (hl : m.left ≠ 0) :
    exec (.moverOpComplete n e) s = .next s := by
  show execMoverOpComplete n e s = _
  simp [execMoverOpComplete, hq, hl]

/-- The only operation of an engine, done: the queue is empty, its event counter rises, and nothing waits to start. -/
theorem exec_moverOpComplete_done {s : State} {n e : Nat} {m : MovRun} (hq : engOf s n e = [m]) (hs : m.started = true) (hl : m.left = 0)
    (hf : m.fail = none) (hk : m.kind ≠ 3) : exec (.moverOpComplete n e) s = .next (raiseEc (setEng s n e []) n m.ec 1) := by
  obtain ⟨-, ht, -⟩ := raiseEc_one (setEng s n e []) n m.ec
  have hempty : engOf (raiseEc (setEng s n e []) n m.ec 1) n e = [] := by
    rw [engOf, ht]
    exact engOf_setEng_self s n e []
  have hdrop : dropSignals (raiseEc (setEng s n e []) n m.ec 1) n e = raiseEc (setEng s n e []) n m.ec 1 := by
    simp [dropSignals, hempty]
  show execMoverOpComplete n e s = _
  simp [execMoverOpComplete, hq, hs, hl, hf, hk, hdrop, engStart, hempty]

end Sys2Proof.Machine

open Sys2Proof Sys2Proof.Machine

/-- Settles O11: GET and PUT pass the checks and join the queue; LDFA reads its two words; the first operation stays, or goes. -/
theorem moverOps : Obligations.MoverOps := by
  intro s n o heng har hfr hec hlen t a fa f len q reserved joins
  have hjoins : ∀ put i, exec i s = .next (transferOp s n o put) → slotReady s n → a % 64 = 0 → fa.toNat % 64 = 0 →
      fattrBad put f.toNat = false → a + len ≤ scrTop s → q.length < 8 → joins i (if put then 2 else 1) := by
    intro put i hi h ha hfa hat hin hq
    obtain ⟨l, m, hm, hl, hqueue⟩ := transferOp_joins h heng har hfr hlen ha hfa hat hin hq
    obtain ⟨hkind, hmec, hmfa, hmat, hmscr, hbytes⟩ := hm.fields
    obtain ⟨hu, ht, ho⟩ := tileBecomes_movedOn s n o
    obtain ⟨hlength, hlast⟩ := hqueue.joined
    obtain ⟨-, htile, hother, hscr⟩ := hqueue
    exact ⟨_, m, hi, hlength.trans (congrArg (· + 1) hl), hlast, hkind, hmec.trans (Nat.mod_eq_of_lt hec), hmfa, hmat, hmscr, hbytes,
      by rw [htile, ht]; rfl, by rw [hscr, hu], fun k hk => (hother k hk).trans (ho k hk)⟩
  refine ⟨fun h ha hfa hres hin hq => ⟨hjoins false _ rfl h ha hfa (fattrBad_false hres nofun) hin hq, fun hop =>
      hjoins true _ rfl h ha hfa (fattrBad_false hres fun _ => hop) hin hq⟩, fun h ha hin hroom => ?ldfa,
    fun m r hq hs hl => exec_moverOpComplete_left hq hl, fun m hq hs hl hf hk => ?done⟩
  case ldfa =>
    obtain ⟨u, p, hx, hu⟩ := exec_ldfa h har hfr ha hin hroom
    exact ⟨u, hx, hu.1, by rw [hu.tile]⟩
  case done =>
    obtain ⟨hu, ht, hec⟩ := raiseEc_one (setEng s n o.eng []) n m.ec
    refine ⟨_, exec_moverOpComplete_done hq hs hl hf hk, ?_, hu, fun e => ?_⟩
    · rw [ht]
      exact engOf_setEng_self s n o.eng []
    · rw [hec, tileOf_setEng_self]

end

section

open Sys2Proof Sys2Proof.Machine

/-- Settles O10: each op goes as far as the check that finds something, and raises that. -/
theorem slotExceptions : Obligations.SlotExceptions := by
  intro s n o v m imm h t raises
  have hr : ∀ {i : Instr} (cause part : Nat) (a : W64) (d : Nat), exec i s = .next (raiseExc s cause n part a d) → raises i cause part a d :=
    fun cause part a d hi => ⟨_, hi, h.raises cause part a d⟩
  refine ⟨fun hbad => hr 1 1 0 0 (exec_ldw_illegal h (hbad.elim matIllegal_of_group matIllegal_of_format)),
    fun hg => hr 1 1 0 0 (exec_zacc_illegal h (matIllegal_of_group hg)),
    fun ha => hr 1 2 0 0 (exec_vacc_illegal h ha),
    fun hi hbad => hr 1 3 0 0 (exec_setl_illegal h hi hbad),
    fun hg har hb => hr 4 1 0 0 (exec_zacc_busy h hg har (List.mem_singleton_self _) hb),
    fun hb => hr 4 2 0 0 (exec_vadd_busy h hb),
    fun hb ha hout => hr 2 2 _ 0 (exec_vsplat_beyond h hb ha hout),
    fun hb ha hin hroom => hr 3 2 0 0 (exec_vsplat_crowded h hb ha hin hroom), ?queue,
    fun hi hh hq => hr 0x0B 4 0 imm (exec_launch_full h hi hh hq)⟩
  case queue =>
    intro heng har hfr hlen ha hfa hat hin hq
    have hattr : fattrBad false (t.fattr.get m.freg 0).toNat = false := by rw [hat]; rfl
    have hmove : t.ad.get m.areg 0 + moveLen m ≤ scrTop s := by
      refine Nat.le_trans ?_ hin
      unfold moveLen
      split <;> omega
    refine hr 5 3 0 0 (congrArg Host.Outcome.next ?_)
    rw [transferOp_checked h heng har hfr hlen ha hfa hattr hmove]
    exact if_pos hq

end

section
/-! SUPPORT. The results of a tile that fall due: what takes effect, what still waits, and what all of it leaves alone (R230). -/

namespace Sys2Proof.Machine

open Sys2Proof

theorem TMap.set_set {κ ν : Type} [DecidableEq κ] (m : TMap κ ν) (k : κ) (v w : ν) : TMap.set (TMap.set m k v) k w = TMap.set m k w := by
  simp [TMap.set, TMap.erase, List.filter_filter]

@[simp] theorem setTile_setTile (s : State) (n : Nat) (t t' : Tile) : setTile (setTile s n t) n t' = setTile s n t' := by
  simp only [setTile, TMap.set_set]

/-! What results leave alone. -/

/-- Nothing but tile n and the scratch of the tiles differs. -/
def tileSettles (s u : State) (n : Nat) : Prop :=
  u = { s with tiles := u.tiles, scratch := u.scratch, scrPoison := u.scrPoison, scrLatent := u.scrLatent }
    ∧ ∀ m, m ≠ n → tileOf u m = tileOf s m

theorem tileSettles.refl (s : State) (n : Nat) : tileSettles s s n := ⟨rfl, fun _ _ => rfl⟩

theorem tileSettles.trans {s t u : State} {n : Nat} (h : tileSettles s t n) (h' : tileSettles t u n) : tileSettles s u n := by
  obtain ⟨ht, ho⟩ := h
  obtain ⟨hu, ho'⟩ := h'
  exact ⟨by rw [hu, ht], fun m hm => (ho' m hm).trans (ho m hm)⟩

theorem tileSettles_setTile (s : State) (n : Nat) (t : Tile) : tileSettles s (setTile s n t) n :=
  ⟨rfl, fun m hm => by rw [tileOf_setTile, if_neg (Ne.symm hm)]⟩

theorem readEnd_settles (s : State) (n c : Nat) (r : ReadRun) : tileSettles s (readEnd s n c r) n := by
  unfold readEnd
  split <;> exact tileSettles_setTile ..

theorem readPart_settles (s : State) (n c : Nat) (r : ReadRun) : tileSettles s (readPart s n c r) n := by
  unfold readPart
  split
  · exact readEnd_settles ..
  · dsimp only
    split
    · exact readEnd_settles ..
    · exact tileSettles_setTile ..

theorem takePend_settles (s : State) (n : Nat) (w : PendW) : tileSettles s (takePend s n w) n := by
  cases w with
  | scr d a bs => exact ⟨rfl, fun _ _ => rfl⟩
  | read c r => exact readPart_settles s n c r
  | _ => exact tileSettles_setTile ..

theorem settleSteps_settles (c n k : Nat) (s : State) : tileSettles s (settleSteps c n k s) n := by
  induction k generalizing s with
  | zero => exact .refl s n
  | succ k ih =>
    simp only [settleSteps]
    split
    · split
      · exact ((tileSettles_setTile s n _).trans (takePend_settles _ n _)).trans (ih _)
      · exact .refl s n
    · exact .refl s n

theorem settleTile_settles (s : State) (c n : Nat) : tileSettles s (settleTile s c n) n := by
  simp only [settleTile]
  split
  · exact .refl s n
  · exact (tileSettles_setTile s n _).trans (settleSteps_settles c n _ _)

/-! The first of the pending results. -/

theorem firstPend_eq_none {l : List PendW} : firstPend l = none ↔ l = [] := by
  cases l with
  | nil => simp [firstPend]
  | cons w t =>
    simp only [firstPend, reduceCtorEq, iff_false]
    split
    · split <;> simp
    · simp

/-- It stands at the place given, and no other comes before it. -/
theorem firstPend_first {l : List PendW} {i : Nat} {w : PendW} (h : firstPend l = some (i, w)) :
    l[i]? = some w ∧ ∀ x ∈ l, pendRank w ≤ pendRank x := by
  induction l generalizing i w with
  | nil => simp [firstPend] at h
  | cons a t ih =>
    cases ht : firstPend t with
    | none =>
      rw [firstPend, ht] at h
      obtain ⟨rfl, rfl⟩ : 0 = i ∧ a = w := by simpa using h
      simp [firstPend_eq_none.1 ht]
    | some q =>
      obtain ⟨j, v⟩ := q
      obtain ⟨hj, hmin⟩ := ih ht
      simp only [firstPend, ht] at h
      split at h
      · next hlt =>
        obtain ⟨rfl, rfl⟩ : j + 1 = i ∧ v = w := by simpa using h
        exact ⟨by simpa using hj, by simpa using ⟨Nat.le_of_lt hlt, hmin⟩⟩
      · next hle =>
        obtain ⟨rfl, rfl⟩ : 0 = i ∧ a = w := by simpa using h
        exact ⟨rfl, by simpa using fun x hx => Nat.le_trans (Nat.not_lt.1 hle) (hmin x hx)⟩

theorem pendRank_ge (w : PendW) : 2 * pendDue w ≤ pendRank w := Nat.le_add_right ..

/-- Once the first of them is not due, none is. -/
theorem pendDue_of_rank {c : Nat} {w x : PendW} (hw : c < pendDue w) (h : pendRank w ≤ pendRank x) : c < pendDue x := by
  have hle : pendRank x ≤ 2 * pendDue x + 1 := by
    unfold pendRank
    split <;> omega
  have hge := pendRank_ge w
  omega

/-! How many steps the pending results may still take. -/

/-- The steps of one of them: a reading op takes one for each part. -/
def pendWeight : PendW → Nat
  | .read _ r => r.parts.length + 2
  | _ => 1

theorem pendSteps_eq (t : Tile) : pendSteps t = (t.pend.map pendWeight).sum := rfl

theorem pendWeight_pos (w : PendW) : 0 < pendWeight w := by
  unfold pendWeight
  split <;> omega

theorem pend_nil_of_steps {t : Tile} (h : pendSteps t = 0) : t.pend = [] := by
  cases ht : t.pend with
  | nil => rfl
  | cons w l =>
    have hw := pendWeight_pos w
    rw [pendSteps_eq, ht, List.map_cons, List.sum_cons] at h
    omega

theorem eraseIdx_weight {l : List PendW} {i : Nat} {w : PendW} (h : l[i]? = some w) :
    (l.map pendWeight).sum = pendWeight w + ((l.eraseIdx i).map pendWeight).sum := by
  obtain ⟨hi, rfl⟩ := List.getElem?_eq_some_iff.1 h
  exact (((List.getElem_cons_eraseIdx_perm hi).map pendWeight).sum_eq).symm.trans (by simp)

theorem filter_eraseIdx {α : Type} {p : α → Bool} {l : List α} {i : Nat} {a : α} (h : l[i]? = some a) (ha : p a = false) :
    (l.eraseIdx i).filter p = l.filter p := by
  induction l generalizing i with
  | nil => rfl
  | cons b t ih =>
    cases i with
    | zero =>
      obtain rfl : b = a := by simpa using h
      simp [ha]
    | succ i => simp [List.filter_cons, ih (i := i) (by simpa using h)]

/-- An op that has read all its bytes leaves at most one result, due later. -/
theorem readEnd_pend (s : State) (n c : Nat) (r : ReadRun) : ∃ l, (tileOf (readEnd s n c r) n).pend = (tileOf s n).pend ++ l
    ∧ (l.map pendWeight).sum ≤ 1 ∧ ∀ x ∈ l, c < pendDue x := by
  unfold readEnd
  split
  · exact ⟨[_], by simp [addPend]; rfl, by simp [pendWeight], by simp [pendDue]⟩
  · exact ⟨[], by simp, by simp, by simp⟩
  · exact ⟨[_], by simp [addPend]; rfl, by simp [pendWeight], by simp [pendDue]⟩

/-- A result that takes effect leaves fewer steps than it was. -/
theorem takePend_pend (s : State) (n : Nat) (w : PendW) : ∃ l, (tileOf (takePend s n w) n).pend = (tileOf s n).pend ++ l
    ∧ (l.map pendWeight).sum < pendWeight w := by
  cases w with
  | read c r =>
    obtain ⟨what, parts, els, scales⟩ := r
    rcases parts with _ | ⟨p, _ | ⟨p', ps⟩⟩
    · obtain ⟨l, hl, hsum, -⟩ := readEnd_pend s n c ⟨what, [], els, scales⟩
      exact ⟨l, hl, by simp only [pendWeight, List.length_nil]; omega⟩
    · obtain ⟨l, hl, hsum, -⟩ := readEnd_pend s n c ⟨what, [], els ++ scrBytes s n p.1 p.2.1, scales ++ scrBytes s n p.2.2.1 p.2.2.2⟩
      exact ⟨l, hl, by simp only [pendWeight, List.length_singleton]; omega⟩
    · exact ⟨[.read (c + 1) ⟨what, p' :: ps, els ++ scrBytes s n p.1 p.2.1, scales ++ scrBytes s n p.2.2.1 p.2.2.2⟩],
        by simp [takePend, readPart, addPend], by simp [pendWeight]⟩
  | scr d a bs => exact ⟨[], by simp [takePend]; rfl, by simp [pendWeight]⟩
  | _ => exact ⟨[], by simp [takePend], by simp [pendWeight]⟩

/-- A result of an op that reads no more bytes leaves no other. -/
theorem takePend_noRead {w : PendW} (h : ∀ d r, w ≠ .read d r) (s : State) (n : Nat) :
    (tileOf (takePend s n w) n).pend = (tileOf s n).pend := by
  cases w with
  | read c r => exact absurd rfl (h c r)
  | scr d a bs => rfl
  | _ => simp [takePend]

/-! Step by step. -/

section
variable {s : State} {c n : Nat}

theorem settleSteps_take {i k : Nat} {w : PendW} (h : firstPend (tileOf s n).pend = some (i, w)) (hw : pendDue w ≤ c) :
    settleSteps c n (k + 1) s
      = settleSteps c n k (takePend (setTile s n { tileOf s n with pend := (tileOf s n).pend.eraseIdx i }) n w) := by
  simp [settleSteps, h, hw]

theorem settleSteps_notDue (h : ∀ x ∈ (tileOf s n).pend, c < pendDue x) (k : Nat) : settleSteps c n k s = s := by
  cases k with
  | zero => rfl
  | succ k =>
    cases hf : firstPend (tileOf s n).pend with
    | none => simp [settleSteps, hf]
    | some q =>
      obtain ⟨i, w⟩ := q
      have hw := h w (List.mem_of_getElem? (firstPend_first hf).1)
      simp [settleSteps, hf, Nat.not_le.2 hw]

/-- Either none is due, or the first one is and the tile goes on without it. -/
theorem settleSteps_cases (k : Nat) (s : State) :
    (∀ x ∈ (tileOf s n).pend, c < pendDue x) ∨ ∃ i w, (tileOf s n).pend[i]? = some w ∧ pendDue w ≤ c ∧ settleSteps c n (k + 1) s
      = settleSteps c n k (takePend (setTile s n { tileOf s n with pend := (tileOf s n).pend.eraseIdx i }) n w) := by
  cases hf : firstPend (tileOf s n).pend with
  | none => simp [firstPend_eq_none.1 hf]
  | some q =>
    obtain ⟨i, w⟩ := q
    obtain ⟨hi, hmin⟩ := firstPend_first hf
    rcases Nat.lt_or_ge c (pendDue w) with hw | hw
    · exact .inl fun x hx => pendDue_of_rank hw (hmin x hx)
    · exact .inr ⟨i, w, hi, hw, settleSteps_take hf hw⟩

theorem settleSteps_due {k : Nat} (hk : pendSteps (tileOf s n) ≤ k) : ∀ x ∈ (tileOf (settleSteps c n k s) n).pend, c < pendDue x := by
  induction k generalizing s with
  | zero => simp [settleSteps, pend_nil_of_steps (Nat.le_zero.1 hk)]
  | succ k ih =>
    rcases settleSteps_cases (c := c) (n := n) k s with h | ⟨i, w, hi, -, heq⟩
    · rw [settleSteps_notDue h]
      exact h
    · rw [heq]
      refine ih ?_
      obtain ⟨l, hl, hsum⟩ := takePend_pend (setTile s n { tileOf s n with pend := (tileOf s n).pend.eraseIdx i }) n w
      have hweight := eraseIdx_weight hi
      rw [pendSteps_eq] at hk ⊢
      rw [hl, List.map_append, List.sum_append, tileOf_setTile_self]
      dsimp only
      omega

/-- Without reading ops nothing joins the results that still wait. -/
theorem settleSteps_filter (h : ∀ x ∈ (tileOf s n).pend, ∀ d r, x ≠ .read d r) (k : Nat) :
    (tileOf (settleSteps c n k s) n).pend.filter (fun x => decide (c < pendDue x))
      = (tileOf s n).pend.filter fun x => decide (c < pendDue x) := by
  induction k generalizing s with
  | zero => rfl
  | succ k ih =>
    rcases settleSteps_cases (c := c) (n := n) k s with h' | ⟨i, w, hi, hw, heq⟩
    · rw [settleSteps_notDue h']
    · have hpend := takePend_noRead (h w (List.mem_of_getElem? hi)) (setTile s n { tileOf s n with pend := (tileOf s n).pend.eraseIdx i }) n
      rw [tileOf_setTile_self] at hpend
      rw [heq, ih (by rw [hpend]; exact fun x hx => h x (List.mem_of_mem_eraseIdx hx)), hpend]
      exact filter_eraseIdx hi (by simpa using hw)

/-- An op that reads reads one part in each cycle, and with the last it delivers its result. -/
theorem settleSteps_read {parts : List (Nat × Nat × Nat × Nat)} (hne : parts ≠ []) {q : ReadRun} (hq : q.parts = parts)
    (hp : (tileOf s n).pend = [.read c q]) {k : Nat} (hk : parts.length ≤ k) :
    settleSteps (c + parts.length - 1) n k s = readEnd (setTile s n { tileOf s n with pend := [] }) n (c + parts.length - 1)
      { q with parts := [], els := q.els ++ parts.flatMap (fun p => scrBytes s n p.1 p.2.1)
               scales := q.scales ++ parts.flatMap (fun p => scrBytes s n p.2.2.1 p.2.2.2) } := by
  induction parts generalizing s c q k with
  | nil => exact absurd rfl hne
  | cons p ps ih =>
    obtain ⟨k, rfl⟩ : ∃ j, k = j + 1 := ⟨k - 1, by simp at hk; omega⟩
    have hfirst : firstPend (tileOf s n).pend = some (0, .read c q) := by rw [hp]; rfl
    have hstep := settleSteps_take (c := c + (p :: ps).length - 1) (k := k) hfirst (by simp [pendDue])
    rw [hp] at hstep
    have hread : takePend (setTile s n { tileOf s n with pend := [] }) n (.read c q)
        = if ps.isEmpty then readEnd (setTile s n { tileOf s n with pend := [] }) n c
            { q with parts := ps, els := q.els ++ scrBytes s n p.1 p.2.1, scales := q.scales ++ scrBytes s n p.2.2.1 p.2.2.2 }
          else addPend (setTile s n { tileOf s n with pend := [] }) n (.read (c + 1)
            { q with parts := ps, els := q.els ++ scrBytes s n p.1 p.2.1, scales := q.scales ++ scrBytes s n p.2.2.1 p.2.2.2 }) := by
      simp only [takePend, readPart, hq]
      rfl
    rw [hstep, List.eraseIdx_zero, List.tail_cons, hread]
    cases ps with
    | nil =>
      simp only [List.isEmpty_nil, if_true, List.length_singleton, Nat.add_sub_cancel, List.flatMap_singleton]
      refine settleSteps_notDue ?_ k
      obtain ⟨l, hl, -, hdue⟩ := readEnd_pend (setTile s n { tileOf s n with pend := [] }) n c
        { q with parts := [], els := q.els ++ scrBytes s n p.1 p.2.1, scales := q.scales ++ scrBytes s n p.2.2.1 p.2.2.2 }
      rw [hl]
      simpa using hdue
    | cons p' ps =>
      have hlen : c + (p :: p' :: ps).length - 1 = c + 1 + (p' :: ps).length - 1 := by simp; omega
      simp only [List.isEmpty_cons, Bool.false_eq_true, if_false, hlen]
      rw [ih (by simp) (q := { q with parts := p' :: ps, els := q.els ++ scrBytes s n p.1 p.2.1, scales := q.scales ++ scrBytes s n p.2.2.1 p.2.2.2 })
        rfl (by simp [addPend]) (by simpa using hk)]
      simp only [addPend, tileOf_setTile_self, setTile_setTile, List.flatMap_cons, List.append_assoc]
      rfl

/-! A whole tile. -/

theorem settleTile_notDue (h : ∀ x ∈ (tileOf s n).pend, c < pendDue x) : settleTile s c n = s := by
  have hall : ((tileOf s n).pend.all fun w => decide (c < pendDue w)) = true := by simpa using h
  simp [settleTile, hall]

/-- The tile whose port use before cycle c is forgotten. -/
def portsFrom (t : Tile) (c : Nat) : Tile := { t with ports := t.ports.filter fun p => decide (c ≤ p.1) }

theorem settleTile_due {x : PendW} (hx : x ∈ (tileOf s n).pend) (hd : pendDue x ≤ c) :
    settleTile s c n = settleSteps c n (pendSteps (tileOf s n)) (setTile s n (portsFrom (tileOf s n) c)) := by
  have hall : ((tileOf s n).pend.all fun w => decide (c < pendDue w)) = false := by
    rw [List.all_eq_false]
    exact ⟨x, hx, by simpa using hd⟩
  simp only [settleTile, hall, Bool.false_eq_true, if_false]
  rfl

theorem settleTile_cases (s : State) (c n : Nat) : (∀ x ∈ (tileOf s n).pend, c < pendDue x) ∧ settleTile s c n = s
    ∨ settleTile s c n = settleSteps c n (pendSteps (tileOf s n)) (setTile s n (portsFrom (tileOf s n) c)) := by
  by_cases h : ∀ x ∈ (tileOf s n).pend, c < pendDue x
  · exact .inl ⟨h, settleTile_notDue h⟩
  · push Not at h
    obtain ⟨x, hx, hd⟩ := h
    exact .inr (settleTile_due hx hd)

theorem settleTile_left (s : State) (c n : Nat) : ∀ x ∈ (tileOf (settleTile s c n) n).pend, c < pendDue x := by
  rcases settleTile_cases s c n with ⟨h, heq⟩ | heq
  · rw [heq]
    exact h
  · rw [heq]
    exact settleSteps_due (by rw [tileOf_setTile_self]; exact Nat.le_refl _)

theorem settleTile_waits (h : ∀ x ∈ (tileOf s n).pend, ∀ d r, x ≠ .read d r) :
    (tileOf (settleTile s c n) n).pend = (tileOf s n).pend.filter fun x => decide (c < pendDue x) := by
  rw [← List.filter_eq_self.2 fun x hx => decide_eq_true (settleTile_left s c n x hx)]
  rcases settleTile_cases s c n with ⟨-, heq⟩ | heq
  · rw [heq]
  · rw [heq, settleSteps_filter (by rw [tileOf_setTile_self]; exact h), tileOf_setTile_self]
    rfl

theorem settleTile_read {q : ReadRun} (hp : (tileOf s n).pend = [.read c q]) (hne : q.parts ≠ []) :
    settleTile s (c + q.parts.length - 1) n = readEnd (setTile s n { portsFrom (tileOf s n) (c + q.parts.length - 1) with pend := [] }) n
      (c + q.parts.length - 1)
      { q with parts := [], els := q.els ++ q.parts.flatMap (fun p => scrBytes s n p.1 p.2.1)
               scales := q.scales ++ q.parts.flatMap (fun p => scrBytes s n p.2.2.1 p.2.2.2) } := by
  have hpos : 0 < q.parts.length := List.length_pos_iff.2 hne
  rw [settleTile_due (x := .read c q) (by simp [hp]) (by simp only [pendDue]; omega),
    settleSteps_read hne rfl (by rw [tileOf_setTile_self]; exact hp) (by simp [pendSteps_eq, hp, pendWeight])]
  simp only [tileOf_setTile_self, setTile_setTile]
  rfl

/-- An address register reads the newest value due for it. -/
theorem settleTile_areg {r v : Nat} {w : PendW} (hp : (tileOf s n).pend = [.areg c r v, w]) (hw : c < pendDue w) :
    (tileOf (settleTile s c n) n).ad.get r 0 = v := by
  have hrank : ¬ pendRank w < pendRank (.areg c r v) := by
    have hge := pendRank_ge w
    have hareg : pendRank (.areg c r v) = 2 * c := rfl
    omega
  have hfirst : firstPend [.areg c r v, w] = some (0, .areg c r v) := by simp [firstPend, hrank]
  obtain ⟨k, hk⟩ : ∃ k, pendSteps (tileOf s n) = k + 1 := ⟨pendWeight w, by simp [pendSteps_eq, hp, pendWeight, Nat.add_comm]⟩
  have hport : (portsFrom (tileOf s n) c).pend = [.areg c r v, w] := hp
  rw [settleTile_due (x := .areg c r v) (by simp [hp]) (by simp [pendDue]), hk,
    settleSteps_take (w := .areg c r v) (i := 0) (by rw [tileOf_setTile_self, hport, hfirst]) (by simp [pendDue]), settleSteps_notDue]
  · simp [takePend]
  · simpa [takePend, hport] using hw

end

end Sys2Proof.Machine
end

section
/-! SUPPORT. Tile registers and event counters, and O6 (R230, R238, R240, R242, R245). -/

namespace Sys2Proof.Machine

open Sys2Proof

theorem registerOp_tileBecomes {s : State} {n : Nat} (h : slotReady s n) (w : PendW) :
    tileBecomes s (registerOp s n w) n { tileOf s n with pend := (tileOf s n).pend ++ [w] } := by
  rw [registerOp, if_pos h.slotOk]
  exact tileBecomes_addPend s n w

/-- The sign-extended 24-bit immediate (R242). -/
theorem signed_imm {imm : Nat} (h : imm < 2 ^ 24) : signed imm 24 = if imm < 2 ^ 23 then (imm : Int) else (imm : Int) - 2 ^ 24 := by
  rw [signed, Nat.mod_eq_of_lt h]
  rfl

theorem exec_setl {s : State} {n imm : Nat} (hi : imm < 2 ^ 24) (h1 : 1 ≤ imm) (h2 : imm ≤ 32768) :
    exec (.setl n imm) s = .next (registerOp s n (.vlen (s.str.cycle + 1) imm)) := by
  show execSetl n imm s = _
  simp only [execSetl, Nat.mod_eq_of_lt hi, h1, h2, and_self, decide_true, Bool.not_true, Bool.and_false, Bool.false_eq_true, if_false]

/-- ECLR leaves of an event counter what has been raised in this cycle (R245). -/
theorem exec_eclr {s : State} {n r : Nat} (h : slotReady s n) (hr : r < 16) : ∃ u, exec (.eclr n r) s = .next u
    ∧ tileCounts s u n { tileOf s n with ec := (tileOf s n).ec.set r (if ((tileOf s n).raised.get r (0, 0)).1 = s.str.cycle
        then BitVec.ofNat 64 ((tileOf s n).raised.get r (0, 0)).2 else 0) } := by
  show ∃ u, execEclr n r s = .next u ∧ _
  simp only [execEclr, h.slotOk, Nat.mod_eq_of_lt hr, if_true]
  exact ⟨_, rfl, tileCounts_sampled s n _⟩

end Sys2Proof.Machine

open Sys2Proof Sys2Proof.Machine

/-- Settles O6: what is due by a cycle takes effect and what is not waits; then the register ops, each by what it adds to the tile. -/
theorem tileResultsAndRegisters : Obligations.TileResultsAndRegisters := by
  refine ⟨fun s n c r v w => ⟨settleTile_left s c n, settleTile_waits, fun q p hq hne => ?part, fun q hp hne => settleTile_read hp hne,
    settleTile_notDue, settleTile_areg⟩, ?ops⟩
  case part =>
    have hmore : (q.parts.drop 1).isEmpty = false := by simpa [List.isEmpty_eq_false_iff] using hne
    rw [readPart, hq]
    simp only [hmore, Bool.false_eq_true, if_false]
    rw [← hq]
  case ops =>
    intro s n r imm hr hi t later ext
    refine ⟨rfl, rfl, rfl, rfl, fun h => ?_⟩
    have hlater : ∀ {i : Instr} (w : PendW), exec i s = .next (registerOp s n w) → later i w :=
      fun w hx => ⟨_, hx, registerOp_tileBecomes h w⟩
    have hext : signed (imm % 2 ^ 24) 24 = ext := by rw [Nat.mod_eq_of_lt hi]; exact signed_imm hi
    refine ⟨hlater _ ?seta, hlater _ ?adda, hlater _ ?sets, fun h1 h2 => hlater _ (exec_setl hi h1 h2), fun hne => ?eclr,
      fun k hk => ?eclrRaised⟩
    case seta =>
      show execSeta n r imm s = _
      rw [execSeta, Nat.mod_eq_of_lt hr, Nat.mod_eq_of_lt hi]
    case adda =>
      show execAdda n r imm s = _
      rw [execAdda, Nat.mod_eq_of_lt hr, hext]
      rfl
    case sets =>
      show execSets n r imm s = _
      rw [execSets, Nat.mod_eq_of_lt hr, hext]
    case eclr =>
      obtain ⟨u, hx, hu⟩ := exec_eclr h hr
      rw [if_neg hne] at hu
      exact ⟨u, hx, hu⟩
    case eclrRaised =>
      obtain ⟨u, hx, hu⟩ := exec_eclr h hr
      rw [if_pos (by rw [hk])] at hu
      exact ⟨u, hx, by rw [hk] at hu; exact hu⟩

end

section
/-! SUPPORT. The memory ops of the vector unit, and O9 (R230, R240, R241). -/

namespace Sys2Proof.Machine

open Sys2Proof

theorem addPends_pend (t : Tile) (l : List PendW) : (addPends t l).pend = t.pend ++ l := rfl

theorem tileBecomes.adAdvance {s u : State} {n : Nat} {t : Tile} (h : tileBecomes s u n t) (r k : Nat) :
    tileBecomes s (adAdvance u n r k) n (addPends t [.areg (s.str.cycle + 1) r ((t.ad.get r 0 + k) % 2 ^ 29)]) := by
  rw [Machine.adAdvance, h.str, h.tile]
  exact h.addPend _

/-- Results added one after the other all wait. -/
theorem tileBecomes.foldl_addPend {s u : State} {n : Nat} {t : Tile} {α : Type} (h : tileBecomes s u n t) {f : State → α → PendW}
    {g : α → PendW} (hf : ∀ v, v.str = s.str → ∀ a, f v a = g a) (l : List α) :
    tileBecomes s (l.foldl (fun v a => Machine.addPend v n (f v a)) u) n (addPends t (l.map g)) := by
  induction l generalizing u t with
  | nil => simpa [addPends] using h
  | cons a l ih =>
    have hnext := ih (h.addPend (f u a))
    rw [hf u h.str] at hnext
    simpa [addPends, hf u h.str] using hnext

/-! The address registers of an op with PI (R240). -/

/-- What PI adds: the address register moved on, and for an MX format that of its scales. -/
def vecMoved (t : Tile) (c : Nat) (o : VecOp) (by_ sc : Nat) : List PendW :=
  (if o.pi then [PendW.areg (c + 1) o.areg ((t.ad.get o.areg 0 + by_) % 2 ^ 29)] else [])
    ++ if o.pi && decide (0 < sc) then [PendW.areg (c + 1) (o.areg + 1) ((t.ad.get (o.areg + 1) 0 + sc) % 2 ^ 29)] else []

theorem tileBecomes.vecPost {s u : State} {n : Nat} {t : Tile} (h : tileBecomes s u n t) (o : VecOp) (by_ : Nat) {sc : Nat}
    (hsc : decide (0 < sc) = vecMx o.fmt) : tileBecomes s (vecPost u n o by_ sc) n (addPends t (vecMoved t s.str.cycle o by_ sc)) := by
  unfold Machine.vecPost vecMoved
  rw [hsc]
  cases o.pi with
  | false => simpa [addPends] using h
  | true =>
    have h1 := h.adAdvance o.areg by_
    cases hmx : vecMx o.fmt with
    | false => simpa using h1
    | true => simpa [addPends] using h1.adAdvance (o.areg + 1) sc

/-! What a VLD or VST moves, cycle by cycle. -/

section
variable (t : Tile) (o : VecOp)

/-- The bytes of its elements and of its scales, and the cycles it takes. -/
def vecLen : Nat := vecBytes o.fmt t.vlen
def vecScale : Nat := vecScales o.fmt t.vlen
def vecTime : Nat := vecCycles (vecLen t o)

theorem vecBytes_eq : vecBytes o.fmt t.vlen = vecLen t o := rfl
theorem vecScales_eq : vecScales o.fmt t.vlen = vecScale t o := rfl

/-- The part that a VLD reads in its j-th cycle. -/
def vldPart (j : Nat) : Nat × Nat × Nat × Nat :=
  (t.ad.get o.areg 0 + 32768 * j, min 32768 (vecLen t o - 32768 * j), t.ad.get (o.areg + 1) 0, if j = 0 then vecScale t o else 0)

theorem vldParts_eq : vldParts (t.ad.get o.areg 0) (vecLen t o) (t.ad.get (o.areg + 1) 0) (vecScale t o)
    = (List.range (vecTime t o)).map (vldPart t o) := rfl

/-- What moves in the j-th cycle. -/
def vecMoves (j : Nat) : Nat := min 32768 (min 32768 (vecLen t o - 32768 * j) + vecScale t o)

theorem vecPorts_eq (c : Nat) : vecPorts c (vecLen t o) (vecScale t o) = (List.range (vecTime t o)).map fun j => (c + j, vecMoves t o j) := by
  simp only [vecPorts, spread_eq, List.map_map]
  rfl

variable {t o} (hlen : 0 < t.vlen) (hdiv : vecMx o.fmt = true → t.vlen % 32 = 0)
include hlen hdiv

theorem vecScale_pos : decide (0 < vecScale t o) = vecMx o.fmt := by
  unfold vecScale vecScales
  cases hmx : vecMx o.fmt with
  | false => simp
  | true =>
    have := hdiv hmx
    simp only [if_true, decide_eq_true_eq]
    omega

theorem vecTime_pos : 0 < vecTime t o := by
  have hpos : 0 < vecLen t o := by
    unfold vecLen vecBytes
    split_ifs with h0 h2 h6
    · omega
    · omega
    · have := hdiv (by simp [vecMx, h6])
      omega
    · exact hlen
  unfold vecTime vecCycles
  omega

omit hlen hdiv in
/-- The parts together are the elements and the scales. -/
theorem vldPart_whole (s : State) (n : Nat) (h : 0 < vecTime t o) :
    ((List.range (vecTime t o)).flatMap fun j => scrBytes s n (vldPart t o j).1 (vldPart t o j).2.1)
        = scrBytes s n (t.ad.get o.areg 0) (vecLen t o)
      ∧ ((List.range (vecTime t o)).flatMap fun j => scrBytes s n (vldPart t o j).2.2.1 (vldPart t o j).2.2.2)
        = scrBytes s n (t.ad.get (o.areg + 1) 0) (vecScale t o) := by
  constructor
  · have hall : min (vecLen t o) (32768 * vecTime t o) = vecLen t o := by
      unfold vecTime vecCycles
      omega
    exact (scrBytes_parts ..).trans (congrArg _ hall)
  · rw [range_eq_cons h, List.flatMap_cons, List.flatMap_map]
    simp [vldPart]

end

/-- The op passes its checks: its format is legal, its ranges lie in general scratch, and its unit is free. -/
def vecGoes (s : State) (n : Nat) (o : VecOp) : Prop :=
  slotReady s n ∧ (tileOf s n).vBusy ≤ s.str.cycle ∧ o.areg < 16 ∧ o.fmt < 8
    ∧ (tileOf s n).ad.get o.areg 0 + vecLen (tileOf s n) o ≤ scrTop s
    ∧ (vecMx o.fmt = true → (tileOf s n).vlen % 32 = 0 ∧ o.areg % 2 = 0
        ∧ (tileOf s n).ad.get (o.areg + 1) 0 + vecScale (tileOf s n) o ≤ scrTop s)

section
variable {s : State} {n : Nat} {o : VecOp} (h : vecGoes s n o)
include h

theorem vecGoes.legal : vecIllegal (tileOf s n) o true = false := by
  obtain ⟨-, -, ha, hf, -, hmx⟩ := h
  have hrange : ¬ (8 ≤ o.fmt ∨ 16 ≤ o.areg) := by omega
  cases hm : vecMx o.fmt with
  | false => simp [vecIllegal, hrange, hm]
  | true =>
    obtain ⟨hdiv, heven, -⟩ := hmx hm
    simp [vecIllegal, hrange, hdiv, heven]

theorem vecGoes.div : vecMx o.fmt = true → (tileOf s n).vlen % 32 = 0 := by
  obtain ⟨-, -, -, -, -, hmx⟩ := h
  exact fun hm => (hmx hm).1

theorem vecGoes.inside : ∀ x ∈ vecRanges (tileOf s n) o, x.1 + x.2 ≤ scrTop s := by
  obtain ⟨-, -, -, -, hin, hmx⟩ := h
  intro x hx
  rcases List.mem_cons.1 hx with rfl | hx
  · exact hin
  · split at hx
    · next hm =>
      rw [List.mem_singleton.1 hx]
      exact (hmx hm).2.2
    · simp at hx

/-- The ports that serve it, and the unit taken for its cycles. -/
def vecPorted (s : State) (n : Nat) (o : VecOp) (f : Nat → Nat × Nat) : State :=
  portTake s n ((List.range (vecTime (tileOf s n) o)).map fun j => (s.str.cycle + j, f j))

omit h in
theorem tileBecomes_vecPorted (f : Nat → Nat × Nat) : ∃ p, tileBecomes s (vecPorted s n o f) n { tileOf s n with ports := p } :=
  ⟨_, tileBecomes_setTile s n { tileOf s n with ports := (tileOf s n).ports ++ _ }⟩

omit h in
theorem tileBecomes.vecBusyFor {u : State} {t : Tile} (hu : tileBecomes s u n t) (k : Nat) :
    tileBecomes s (vecBusyFor u n k) n { t with vBusy := s.str.cycle + k } := by
  rw [Machine.vecBusyFor, hu.str, hu.tile]
  exact hu.trans (tileBecomes_setTile u n _)

/-! VLD. -/

/-- The lanes of a VLD, readable 4 cycles after its last byte. -/
def vldLanes (s : State) (n : Nat) (o : VecOp) : PendW :=
  .vreg (s.str.cycle + vecTime (tileOf s n) o + 3) o.vd ((List.range (tileOf s n).vlen).map fun i =>
    (i, vecElem o.fmt (scrBytes s n ((tileOf s n).ad.get o.areg 0) (vecLen (tileOf s n) o))
      (scrBytes s n ((tileOf s n).ad.get (o.areg + 1) 0) (vecScale (tileOf s n) o)) i))

/-- What waits once a VLD has issued: its lanes, or the rest of what it reads. -/
def vldVal (s : State) (n : Nat) (o : VecOp) : PendW :=
  if vecTime (tileOf s n) o = 1 then vldLanes s n o
  else .read (s.str.cycle + 1) (firstRead s n (.vld o.vd o.fmt (tileOf s n).vlen) (vldPart (tileOf s n) o) (vecTime (tileOf s n) o))

omit h in
theorem vldVal_short (h1 : vecTime (tileOf s n) o = 1) : vldVal s n o = vldLanes s n o := if_pos h1

omit h in
theorem vldVal_long (h1 : vecTime (tileOf s n) o ≠ 1) : vldVal s n o
    = .read (s.str.cycle + 1) (firstRead s n (.vld o.vd o.fmt (tileOf s n).vlen) (vldPart (tileOf s n) o) (vecTime (tileOf s n) o)) := if_neg h1

omit h in
theorem readEnd_vld (v : State) (hpos : 0 < vecTime (tileOf s n) o) : readEnd v n (s.str.cycle + vecTime (tileOf s n) o - 1)
    { what := .vld o.vd o.fmt (tileOf s n).vlen, els := scrBytes s n ((tileOf s n).ad.get o.areg 0) (vecLen (tileOf s n) o)
      scales := scrBytes s n ((tileOf s n).ad.get (o.areg + 1) 0) (vecScale (tileOf s n) o) } = addPend v n (vldLanes s n o) := by
  have hc : s.str.cycle + vecTime (tileOf s n) o - 1 + 4 = s.str.cycle + vecTime (tileOf s n) o + 3 := by omega
  simp only [readEnd, hc]
  rfl

omit h in
/-- The first part of a VLD is read as it issues. -/
theorem readPart_vld {u : State} {t : Tile} (hu : tileBecomes s u n t) (hpos : 0 < vecTime (tileOf s n) o) :
    readPart u n s.str.cycle { what := .vld o.vd o.fmt (tileOf s n).vlen
                               parts := (List.range (vecTime (tileOf s n) o)).map (vldPart (tileOf s n) o) } = addPend u n (vldVal s n o) := by
  by_cases h1 : vecTime (tileOf s n) o = 1
  · obtain ⟨hels, hsc⟩ := vldPart_whole s n hpos
    rw [h1, List.range_one, List.flatMap_singleton] at hels hsc
    have hend := readEnd_vld (s := s) u hpos
    rw [h1, Nat.add_sub_cancel] at hend
    rw [vldVal_short h1, h1, List.range_one, List.map_singleton, readPart_one, hu.scrBytes, hu.scrBytes, hels, hsc, hend]
  · rw [vldVal_long h1, readPart_parts _ _ _ _ _ (by omega), hu.firstRead]

theorem exec_vld (hd : o.vd < 16) (hlen : 0 < (tileOf s n).vlen)
    (hroom : ∀ j < vecTime (tileOf s n) o, portRoom s n j (vecMoves (tileOf s n) o j) 0) :
    ∃ u p, exec (.vld n o) s = .next u ∧ tileBecomes s u n (addPends { tileOf s n with ports := p, vBusy := s.str.cycle + vecTime (tileOf s n) o }
      (vldVal s n o :: vecMoved (tileOf s n) s.str.cycle o (vecLen (tileOf s n) o) (vecScale (tileOf s n) o))) := by
  have hfits := portFits_cycles (s := s) (n := n) (fun j => (vecMoves (tileOf s n) o j, 0)) hroom
  have hx : exec (.vld n o) s = .next (vecPost (readPart (vecBusyFor (vecPorted s n o fun j => (vecMoves (tileOf s n) o j, 0)) n
      (vecTime (tileOf s n) o)) n s.str.cycle { what := .vld o.vd o.fmt (tileOf s n).vlen
                                                parts := (List.range (vecTime (tileOf s n) o)).map (vldPart (tileOf s n) o) })
      n o (vecLen (tileOf s n) o) (vecScale (tileOf s n) o)) := by
    show execVld n o s = _
    rw [execVld, vectorOp_goes h.1 h.legal h.2.1]
    simp only [vecBytes_eq, vecScales_eq, vecPorts_eq, List.map_map, Function.comp_def, vldParts_eq, Nat.mod_eq_of_lt hd]
    rw [scrCheck_passes _ h.inside hfits]
    rfl
  obtain ⟨p, hp⟩ := tileBecomes_vecPorted (s := s) (n := n) (o := o) fun j => (vecMoves (tileOf s n) o j, 0)
  have hbusy := hp.vecBusyFor (vecTime (tileOf s n) o)
  have hpost := (hbusy.addPend (vldVal s n o)).vecPost o (vecLen (tileOf s n) o) (vecScale_pos hlen h.div)
  rw [← readPart_vld hbusy (vecTime_pos hlen h.div)] at hpost
  refine ⟨_, p, hx, ?_⟩
  simpa [addPends, vecMoved] using hpost

/-! VST. -/

/-- Bytes written 32,768 a cycle, those of each cycle readable 6 cycles after it. -/
def vstPends (c a : Nat) (bs : List Byte) : List PendW :=
  (List.range (vecCycles bs.length)).map fun j => PendW.scr (c + j + 6) (a + 32768 * j) ((bs.drop (32768 * j)).take 32768)

omit h in
theorem tileBecomes.vstWrites {u : State} {t : Tile} (hu : tileBecomes s u n t) (a : Nat) (bs : List Byte) :
    tileBecomes s (vstWrites u n a bs) n (addPends t (vstPends s.str.cycle a bs)) :=
  hu.foldl_addPend (fun v hv j => by rw [hv]) _

/-- What a VST writes, of its elements and of its scales. -/
def vstVals (t : Tile) (c : Nat) (o : VecOp) : List PendW :=
  vstPends c (t.ad.get o.areg 0) (vstBytes t o).1 ++ if vecMx o.fmt then vstPends c (t.ad.get (o.areg + 1) 0) (vstBytes t o).2 else []

def vstStored (u : State) (n : Nat) (t : Tile) (o : VecOp) : State :=
  let v := vstWrites u n (t.ad.get o.areg 0) (vstBytes t o).1
  if vecMx o.fmt then vstWrites v n (t.ad.get (o.areg + 1) 0) (vstBytes t o).2 else v

omit h in
theorem tileBecomes.vstStored {u : State} {t : Tile} (hu : tileBecomes s u n t) (t' : Tile) (o : VecOp) :
    tileBecomes s (vstStored u n t' o) n (addPends t (vstVals t' s.str.cycle o)) := by
  have hels := hu.vstWrites (t'.ad.get o.areg 0) (vstBytes t' o).1
  unfold Machine.vstStored vstVals
  split
  · simpa [addPends] using hels.vstWrites (t'.ad.get (o.areg + 1) 0) (vstBytes t' o).2
  · simpa using hels

theorem exec_vst (hlen : 0 < (tileOf s n).vlen)
    (hroom : ∀ j < vecTime (tileOf s n) o, portRoom s n j 0 (vecMoves (tileOf s n) o j)) :
    ∃ u p, exec (.vst n o) s = .next u ∧ tileBecomes s u n (addPends { tileOf s n with ports := p, vBusy := s.str.cycle + vecTime (tileOf s n) o }
      (vstVals (tileOf s n) s.str.cycle o ++ vecMoved (tileOf s n) s.str.cycle o (vecLen (tileOf s n) o) (vecScale (tileOf s n) o))) := by
  have hfits := portFits_cycles (s := s) (n := n) (fun j => (0, vecMoves (tileOf s n) o j)) hroom
  have hx : exec (.vst n o) s = .next (vecPost (vecBusyFor (vstStored (vecPorted s n o fun j => (0, vecMoves (tileOf s n) o j)) n (tileOf s n) o)
      n (vecTime (tileOf s n) o)) n o (vecLen (tileOf s n) o) (vecScale (tileOf s n) o)) := by
    show execVst n o s = _
    rw [execVst, vectorOp_goes h.1 h.legal h.2.1]
    simp only [vecBytes_eq, vecScales_eq, vecPorts_eq, List.map_map, Function.comp_def]
    rw [scrCheck_passes _ h.inside hfits]
    rfl
  obtain ⟨p, hp⟩ := tileBecomes_vecPorted (s := s) (n := n) (o := o) fun j => (0, vecMoves (tileOf s n) o j)
  have hpost := ((hp.vstStored (tileOf s n) o).vecBusyFor (vecTime (tileOf s n) o)).vecPost o (vecLen (tileOf s n) o) (vecScale_pos hlen h.div)
  refine ⟨_, p, hx, ?_⟩
  simpa [addPends, vecMoved] using hpost

end

/-! VSPLAT. -/

theorem exec_vsplat {s : State} {n : Nat} {o : VecOp} (h : slotReady s n) (hb : (tileOf s n).vBusy ≤ s.str.cycle) (hd : o.vd < 16)
    (ha : o.areg < 16) (hin : (tileOf s n).ad.get o.areg 0 + 4 ≤ scrTop s) (hroom : portRoom s n 0 4 0) :
    ∃ u p, exec (.vsplat n o) s = .next u ∧ tileBecomes s u n (addPends { tileOf s n with ports := p, vBusy := s.str.cycle + 1 }
      (.vreg (s.str.cycle + 4) o.vd ((List.range (tileOf s n).vlen).map fun i =>
          (i, BitVec.ofNat 32 (ofLe (scrBytes s n ((tileOf s n).ad.get o.areg 0) 4))))
        :: vecMoved (tileOf s n) s.str.cycle o 4 0)) := by
  have hports := tileBecomes_setTile s n { tileOf s n with ports := (tileOf s n).ports ++ [(s.str.cycle, 4, 0)] }
  have hpost := ((hports.addPend (.vreg (s.str.cycle + 4) o.vd ((List.range (tileOf s n).vlen).map fun i =>
    (i, BitVec.ofNat 32 (ofLe (scrBytes s n ((tileOf s n).ad.get o.areg 0) 4)))))).vecBusyFor 1).vecPost { o with fmt := 0 } 4 (sc := 0) rfl
  refine ⟨_, (tileOf s n).ports ++ [(s.str.cycle, 4, 0)], ?_, by simpa [addPends, vecMoved] using hpost⟩
  show execVsplat n o s = _
  rw [execVsplat, vectorOp_goes h (vecIllegal_splat ha _) hb]
  simp only [scrCheck_one hin hroom, Nat.mod_eq_of_lt hd]
  rfl

end Sys2Proof.Machine

open Sys2Proof Sys2Proof.Machine

/-- Settles O9: each of the three ops goes through its checks and leaves what it adds to the tile; a VLD of one cycle its lanes, and a longer one
the rest of its parts. -/
theorem vectorMemory : Obligations.VectorMemory := by
  intro s n o h hb hd hva ha hf t c mx len scales a b k fits post moved lanes writes only
  have hgoes : fits → vecGoes s n o := fun hfits => by
    obtain ⟨hin, hmx⟩ := hfits
    exact ⟨h, hb, ha, hf, hin, hmx⟩
  refine ⟨fun hlen hfits hroom => ?vld, fun hin hroom => ?vsplat, fun hlen hfits hroom => ?vst⟩
  case vld =>
    have hpos := vecTime_pos hlen (hgoes hfits).div
    obtain ⟨u, p, hx, hu⟩ := exec_vld (hgoes hfits) hd hlen hroom
    have hpend : (tileOf u n).pend = t.pend ++ vldVal s n o :: post len scales := by rw [hu.tile]; rfl
    refine ⟨u, hx, ⟨hu.1, hu.2.2⟩, by rw [hu.tile]; rfl, fun h1 => ?_, fun h1 => ⟨?_, ⟨_, hpend⟩, fun v => readEnd_vld v hpos⟩⟩
    · rw [hpend, vldVal_short (show vecTime t o = 1 from h1)]
      rfl
    · obtain ⟨hels, hsc⟩ := vldPart_whole s n hpos
      rw [vldVal_long (show vecTime t o ≠ 1 from Nat.ne_of_gt h1)] at hpend
      have hreads := firstRead_readsOn hpos (s := s) (u := u) (by rw [hpend]; exact List.mem_append_right _ List.mem_cons_self)
      rwa [hels, hsc] at hreads
  case vsplat =>
    obtain ⟨u, p, hx, hu⟩ := exec_vsplat h hb hd ha hin hroom
    exact ⟨u, hx, ⟨hu.1, hu.2.2⟩, by rw [hu.tile]; rfl, by rw [hu.tile]; rfl⟩
  case vst =>
    obtain ⟨u, p, hx, hu⟩ := exec_vst (hgoes hfits) hlen hroom
    refine ⟨u, hx, ⟨hu.1, hu.2.2⟩, by rw [hu.tile]; rfl, ?_⟩
    rw [hu.tile, addPends_pend, ← List.append_assoc, vstVals, ← List.append_assoc]
    rfl

end

section
/-! SUPPORT. The sync slot: signals, launches, and declarations and removals of windows and shards, and O12 (R203, R220, R245, R265, R276). -/

namespace Sys2Proof.Machine

open Sys2Proof

/-! SIGNAL and LAUNCH (R245, R265). -/

/-- The operation that a SIGNAL queues. -/
def signalRun (t : Tile) (freg : Nat) : MovRun :=
  { opid := 0, kind := 3, ec := 0, fa := t.fa.get freg 0, fattr := t.fattr.get freg 0, scr := 0, bytes := 8 }

theorem exec_signal {s : State} {n freg eng : Nat} (h : slotReady s n) (hfr : freg < 16) (heng : eng < 16)
    (hat : fattrBad false ((tileOf s n).fattr.get freg 0).toNat = false) (hq : (engOf s n eng).length < 8)
    (hbad : ¬ (eng ∈ (tileOf s n).bad ∧ engOf s n eng = [])) :
    exec (.signal n freg eng) s = .next (engPush s n eng 4 (signalRun (tileOf s n) freg)) := by
  show execSignal n freg eng s = _
  simp only [execSignal, h.slotOk, Nat.mod_eq_of_lt hfr, Nat.mod_eq_of_lt heng, hat, Nat.not_le.2 hq, List.isEmpty_iff, hbad, Bool.not_true,
    Bool.false_eq_true, if_false]
  rfl

theorem exec_launch {s : State} {n k ec : Nat} (h : slotReady s n) (hk : k < 256) (hec : ec < 16)
    (hh : (TMap.find s.str.handlers k).isSome = true) (hq : (tileOf s n).launchQ.length < 8) : exec (.launch n k ec) s
      = .next (setTile s n { tileOf s n with launchQ := (tileOf s n).launchQ ++ [{ h := k, ec := ec, item := itemOf s n }] }) := by
  show execLaunch n k ec s = _
  simp [execLaunch, h.slotOk, Nat.mod_eq_of_lt hk, Nat.mod_eq_of_lt hec, Option.isNone_eq_false_iff.2 hh, Nat.not_le.2 hq]

/-! A declaration op: once in a bundle, with its descriptor read (R245). -/

/-- The op of the bundle is noted, and the ports serve the bytes of its descriptor. -/
def declRead (s : State) (n sop len : Nat) : State :=
  portTake (setStr s { s.str with declSeen := s.str.declSeen ++ [(sop, n)] }) n [(s.str.cycle, len, 0)]

/-- The descriptor that the address register points to. -/
def declWord (s : State) (n areg len : Nat) : Nat := ofLe (scrBytes s n ((tileOf s n).ad.get areg 0) len)

/-- The op is the first of its kind in the bundle, and its descriptor can be read. -/
def declReady (s : State) (n areg sop len : Nat) : Prop :=
  slotReady s n ∧ (∀ x ∈ s.str.declSeen, x.1 ≠ sop) ∧ (tileOf s n).ad.get areg 0 + len ≤ scrTop s ∧ portRoom s n 0 len 0

section
variable {s : State} {n areg sop len : Nat} (h : declReady s n areg sop len) (har : areg < 16)
include h

theorem declReady.raises (cause detail : Nat) : ∃ e, (raiseExc (declRead s n sop len) cause n 4 0 detail).str.exc = some e ∧ e.cause = cause
    ∧ e.tile = n ∧ e.part = 4 ∧ e.detail = detail := by
  obtain ⟨⟨hrun, -, -, -, hexc, -⟩, -⟩ := h
  rw [raiseExc_first (s := declRead s n sop len) hrun hexc]
  exact ⟨_, rfl, rfl, rfl, rfl, rfl⟩

include har

theorem declOp_reads (ok : Nat → Bool) (go : Nat → State → State) : declOp s n sop areg len ok go
    = if ok (declWord s n areg len) then go (declWord s n areg len) (declRead s n sop len) else raiseExc (declRead s n sop len) 1 n 4 := by
  obtain ⟨hslot, hseen, hin, hroom⟩ := h
  have hfirst : (s.str.declSeen.any fun x => x.1 == sop) = false := by simpa using hseen
  simp only [declOp, hslot.slotOk, hfirst, Nat.mod_eq_of_lt har, Bool.not_true, Bool.false_eq_true, if_false]
  exact scrCheck_one (s := setStr s { s.str with declSeen := s.str.declSeen ++ [(sop, n)] }) hin hroom ..

end

/-! What waits until both members hold it, and what the twin is told of it. -/

theorem Told.declWait {s t : State} (h : Told s t) (d : Decl) : let u := declWait t d
    u.decls = s.decls ++ [{ d with id := s.nextDecl }] ∧ u.wins = s.wins ∧ u.shards = s.shards := by
  obtain ⟨ht, -⟩ := h
  rw [ht]
  exact ⟨rfl, rfl, rfl⟩

/-- What refuses a window reads neither the stream nor the tiles. -/
theorem winRefusal_declRead (s : State) (n sop len : Nat) (d : WinDesc) :
    winRefusal (declRead s n sop len) (newWindow (declRead s n sop len) d) = winRefusal s (newWindow s d) := rfl

theorem withPending_none {s : State} (h : s.prog.commits = []) : withPending s = s := by simp [withPending, pendingEntries, h]

theorem declareWin_new {s : State} {d : WinDesc} (h : winOf s d.wid = none) :
    declareWin s d = winNote (setWin s (newWindow s d)) (newWindow s d) (winRec (newWindow s d) .idle) := by simp [declareWin, h]

theorem declareWin_told {s : State} {d : WinDesc} (h : winOf s d.wid = none) : Told (setWin s (newWindow s d)) (declareWin s d) := by
  rw [declareWin_new h]
  exact winNote_told ..

theorem declareShard_told (s : State) (d : ShardDesc) : Told { s with shards := s.shards.set d.shard (some d) } (declareShard s d) :=
  mirrorChange_told ..

theorem removeShard_told (s : State) (k capo : Nat) : Told { s with shards := s.shards.set k none } (removeShard s k capo) :=
  mirrorChange_told ..

theorem removeWin_told {s : State} {k capo : Nat} (h : removable s k capo = true) :
    Told { s with wins := s.wins.set k none } (removeWin s k) := by
  unfold removable at h
  cases hw : winOf s k with
  | none => simp [hw] at h
  | some w =>
    rw [removeWin, hw]
    exact winNote_told ..

section
variable {s : State} {n areg ec : Nat} (har : areg < 16) (hec : ec < 16)
include har hec

/-- The descriptor of a window, with the stream's capo and seed (R245). -/
def declWin (s : State) (n areg : Nat) : WinDesc := { winDescOf (declWord s n areg 64) with capo := s.str.capo, seed := s.str.seed }

theorem exec_wdecl (h : declReady s n areg 4 64) (hok : winFormOk (declWord s n areg 64) = true) (hc : s.prog.commits = []) :
    exec (.wdecl n areg ec) s = .next (match winRefusal s (newWindow s (declWin s n areg)) with
      | some k => raiseExc (declRead s n 4 64) 0x0A n 4 0 k
      | none => declWait (declareWin (declRead s n 4 64) (declWin s n areg)) { id := 0, tile := n, ec := ec, win := some (declWin s n areg) }) := by
  show execWdecl n areg ec s = _
  rw [execWdecl, declOp_reads h har, if_pos hok, Nat.mod_eq_of_lt hec, ← winRefusal_declRead s n 4 64]
  simp only [withPending_none (s := declRead s n 4 64) hc]
  rfl

theorem exec_wdecl_makes (h : declReady s n areg 4 64) (hok : winFormOk (declWord s n areg 64) = true) (hc : s.prog.commits = [])
    (hnone : winRefusal s (newWindow s (declWin s n areg)) = none) : exec (.wdecl n areg ec) s = .next
      (declWait (declareWin (declRead s n 4 64) (declWin s n areg)) { id := 0, tile := n, ec := ec, win := some (declWin s n areg) }) := by
  rw [exec_wdecl har hec h hok hc, hnone]

theorem exec_wdecl_refused (h : declReady s n areg 4 64) (hok : winFormOk (declWord s n areg 64) = true) (hc : s.prog.commits = []) {k : Nat}
    (hsome : winRefusal s (newWindow s (declWin s n areg)) = some k) :
    exec (.wdecl n areg ec) s = .next (raiseExc (declRead s n 4 64) 0x0A n 4 0 k) := by
  rw [exec_wdecl har hec h hok hc, hsome]

theorem exec_wrem (h : declReady s n areg 5 8) : exec (.wrem n areg ec) s
    = .next (if removable s (declWord s n areg 8 % 8192) s.str.capo then
        declWait (removeWin (declRead s n 5 8) (declWord s n areg 8 % 8192)) { id := 0, tile := n, ec := ec, remWin := some (declWord s n areg 8 % 8192) }
      else raiseExc (declRead s n 5 8) 0x0A n 4) := by
  show execWrem n areg ec s = _
  rw [execWrem, declOp_reads h har, if_pos rfl, Nat.mod_eq_of_lt hec]
  rfl

theorem exec_wrem_removes (h : declReady s n areg 5 8) (hr : removable s (declWord s n areg 8 % 8192) s.str.capo = true) :
    exec (.wrem n areg ec) s = .next (declWait (removeWin (declRead s n 5 8) (declWord s n areg 8 % 8192))
      { id := 0, tile := n, ec := ec, remWin := some (declWord s n areg 8 % 8192) }) := by
  rw [exec_wrem har hec h, if_pos hr]

theorem exec_wrem_refused (h : declReady s n areg 5 8) (hr : removable s (declWord s n areg 8 % 8192) s.str.capo = false) :
    exec (.wrem n areg ec) s = .next (raiseExc (declRead s n 5 8) 0x0A n 4) := by
  rw [exec_wrem har hec h, if_neg (Bool.eq_false_iff.1 hr)]

/-- The descriptor of a shard, with the stream's capo and this member (R220, R245). -/
def declShard (s : State) (n areg : Nat) : ShardDesc :=
  { shardDescOf (declWord s n areg 32) with capo := s.str.capo, memberB := (site s).memberB }

theorem exec_shdecl (h : declReady s n areg 6 32) (hok : shardFormOk (declWord s n areg 32) = true)
    (how : shardOwned (declShard s n areg) = true) : exec (.shdecl n areg ec) s
      = .next (declWait (declareShard (declRead s n 6 32) (declShard s n areg)) { id := 0, tile := n, ec := ec, shard := some (declShard s n areg) }) := by
  show execShdecl n areg ec s = _
  rw [execShdecl, declOp_reads h har, if_pos hok, Nat.mod_eq_of_lt hec]
  exact congrArg Host.Outcome.next (if_pos how)

theorem exec_shrem (h : declReady s n areg 7 8) : exec (.shrem n areg ec) s
    = .next (declWait (removeShard (declRead s n 7 8) (declWord s n areg 8 % 4096) s.str.capo)
        { id := 0, tile := n, ec := ec, remShard := some (declWord s n areg 8 % 4096) }) := by
  show execShrem n areg ec s = _
  rw [execShrem, declOp_reads h har, if_pos rfl, Nat.mod_eq_of_lt hec]
  rfl

end

/-! A declaration that both members hold (R245). -/

theorem exec_declarationComplete {s : State} {x : Decl} {r : List Decl} (h : s.decls = x :: r) :
    exec (.declarationComplete x.id) s = .next (if bothHold s x then raiseEc { s with decls := r } x.tile x.ec 1 else s) := by
  show execDeclarationComplete x.id s = _
  simp [execDeclarationComplete, h, dropFirst]

end Sys2Proof.Machine

open Sys2Proof Sys2Proof.Machine

/-- Settles O12: what each op queues or declares, with what the twin is told of it, which leaves windows, shards and declarations alone. -/
theorem syncLaunchesAndDeclarations : Obligations.SyncLaunchesAndDeclarations := by
  refine ⟨?launches, ?declarations⟩
  case launches =>
    intro s n freg eng h ec hslot hfr heng hec hh t q f
    refine ⟨fun h1 h2 hq hbad => ?_, fun hsome hq => ⟨_, exec_launch hslot hh hec hsome hq, tileBecomes_setTile s n _⟩⟩
    have hat : fattrBad false f.toNat = false := fattrBad_false (by simp [h1, h2]) nofun
    obtain ⟨l, m, hm, hl, hqueue⟩ := engPush_joins (s := s) (n := n) (e := eng) hq 4 (signalRun t freg)
    obtain ⟨hkind, -, hfa, hattr, -⟩ := hm.fields
    obtain ⟨hlength, hlast⟩ := hqueue.joined
    exact ⟨_, m, exec_signal hslot hfr heng hat hq hbad, hlength.trans (congrArg (· + 1) hl), hlast, hkind, hfa, hattr⟩
  case declarations =>
    intro s n areg ec har hec t a word ready d sh raised
    refine ⟨fun h hok hc hnew hnone => ?wdecl, fun k h hok hc hsome => ?wrefused, fun h hr => ?wrem, fun h hr => ?wkept, fun h hok how => ?shdecl,
      fun h => ?shrem, fun x r hx ht => ⟨fun hb => ?awaited, fun hb => ?held⟩⟩
    case wdecl =>
      obtain ⟨hdecls, hwins, hshards⟩ := (declareWin_told (s := declRead s n 4 64) hnew).declWait { id := 0, tile := n, ec := ec, win := some d }
      exact ⟨_, exec_wdecl_makes har hec h hok hc hnone, ⟨newWindow s d, (congrArg (fun w => TMap.get w d.wid none) hwins).trans
        (TMap.get_set_self ..), rfl, rfl⟩, hdecls, hshards⟩
    case wrefused =>
      obtain ⟨e, he⟩ := declReady.raises (areg := areg) h 0x0A k
      exact ⟨_, e, exec_wdecl_refused har hec h hok hc hsome, he⟩
    case wrem =>
      obtain ⟨hdecls, hwins, -⟩ := (removeWin_told (s := declRead s n 5 8) hr).declWait { id := 0, tile := n, ec := ec, remWin := some (word 8 % 8192) }
      exact ⟨_, exec_wrem_removes har hec h hr, (congrArg (fun w => TMap.get w (word 8 % 8192) none) hwins).trans (TMap.get_set_self ..),
        fun k hk => (congrArg (fun w => TMap.get w k none) hwins).trans (TMap.get_set_ne _ _ _ (Ne.symm hk)), hdecls⟩
    case wkept =>
      obtain ⟨e, he⟩ := declReady.raises (areg := areg) h 0x0A 0
      exact ⟨_, e, exec_wrem_refused har hec h hr, he⟩
    case shdecl =>
      obtain ⟨hdecls, hwins, hshards⟩ := (declareShard_told (declRead s n 6 32) sh).declWait { id := 0, tile := n, ec := ec, shard := some sh }
      refine ⟨_, exec_shdecl har hec h hok how, fun k => ?_, hdecls, hwins⟩
      refine (congrArg (fun w => TMap.get w k none) hshards).trans ((TMap.get_set ..).trans ?_)
      simp only [eq_comm (a := sh.shard)]
      rfl
    case shrem =>
      obtain ⟨hdecls, hwins, hshards⟩ := (removeShard_told (declRead s n 7 8) (word 8 % 4096) s.str.capo).declWait
        { id := 0, tile := n, ec := ec, remShard := some (word 8 % 4096) }
      refine ⟨_, exec_shrem har hec h, fun k => ?_, hdecls, hwins⟩
      refine (congrArg (fun w => TMap.get w k none) hshards).trans ((TMap.get_set ..).trans ?_)
      simp only [eq_comm (a := word 8 % 4096)]
      rfl
    case awaited =>
      rw [exec_declarationComplete hx, hb]
      rfl
    case held =>
      obtain ⟨hu, -, hcount⟩ := raiseEc_one { s with decls := r } x.tile x.ec
      have hx' := exec_declarationComplete hx
      rw [if_pos hb] at hx'
      refine ⟨_, hx', ?_, ?_, ?_⟩
      · rw [hu]
      · rw [show t = tileOf s x.tile from congrArg (tileOf s) ht.symm, ← ht, hcount, if_pos rfl]
        rfl
      · rw [hu]

end

section
/-! SUPPORT. The wait network's samples, the duty, and the cycle that the stream reaches (R230, R231, R233, R234, R237). -/

namespace Sys2Proof.Machine

open Sys2Proof

/-! The entries of the wait network. -/

theorem TMap.get_map {κ ν : Type} [DecidableEq κ] (f : ν → ν) (m : TMap κ ν) (k : κ) (d : ν) :
    TMap.get (m.map fun x => (x.1, f x.2)) k d = ((TMap.find m k).map f).getD d := by
  induction m with
  | nil => rfl
  | cons a t ih =>
    obtain ⟨b, v⟩ := a
    simp only [List.map_cons, TMap.get, TMap.find]
    split
    · rfl
    · exact ih

/-- An entry as it was, or with a sample taken in cycle c. -/
def sampledAt (c : Nat) (w w' : WaitEntry) : Prop := w' = w ∨ ∃ v, w' = waitSample c v w

theorem waitOf_sampleWaits (s : State) (we : Nat) : sampledAt (nowCycle s) (waitOf s we) (waitOf (sampleWaits s) we) := by
  unfold sampleWaits
  split
  · simp only [waitOf, setStr, TMap.get_map (fun w => waitSample (nowCycle s) (waitCond s w) w), TMap.get_eq_find]
    cases TMap.find s.str.waits we with
    | none => exact .inl rfl
    | some w => exact .inr ⟨_, rfl⟩
  · exact .inl rfl

/-- The condition that an entry broadcast 12 cycles before cycle c (R231). -/
def seenAt (c : Nat) (w : WaitEntry) : Bool :=
  (((w.hist.filter fun h => decide (h.1 + 12 ≤ c)).getLast?).map (·.2)).getD false

theorem waitSeen_eq (s : State) (w : WaitEntry) : waitSeen s w = seenAt s.str.cycle w := rfl

/-- The changes that are dropped are followed by one that has been broadcast long since. -/
theorem trimHist_seen (c : Nat) (l : List (Nat × Bool)) : ((trimHist c l).filter fun h => decide (h.1 + 12 ≤ c)).getLast?
    = (l.filter fun h => decide (h.1 + 12 ≤ c)).getLast? := by
  induction l with
  | nil => rfl
  | cons a t ih =>
    cases t with
    | nil => rfl
    | cons b t =>
      simp only [trimHist]
      split
      · next hb =>
        have hb12 : b.1 + 12 ≤ c := by omega
        rw [ih]
        simp only [List.filter_cons, hb12, decide_true, if_true]
        split
        · rw [List.getLast?_cons_cons]
        · rfl
      · rfl

theorem seenAt_waitSample (c : Nat) (v : Bool) (w : WaitEntry) : seenAt c (waitSample c v w) = seenAt c w := by
  unfold waitSample
  split
  · rfl
  · have hnow : ¬ c + 12 ≤ c := by omega
    have hpast : ∀ h : Nat × Bool, (decide (h.1 ≠ c) && decide (h.1 + 12 ≤ c)) = decide (h.1 + 12 ≤ c) := fun h => by
      by_cases hc : h.1 + 12 ≤ c
      · have : h.1 ≠ c := by omega
        simp [hc, this]
      · simp [hc]
    have hfil : (w.hist.filter fun h => decide (h.1 ≠ c)).filter (fun h => decide (h.1 + 12 ≤ c))
        = w.hist.filter fun h => decide (h.1 + 12 ≤ c) := by
      rw [List.filter_filter]
      exact List.filter_congr fun h _ => (Bool.and_comm ..).trans (hpast h)
    simp only [seenAt, List.filter_append, List.filter_cons, hnow, decide_false, Bool.false_eq_true, if_false, List.filter_nil,
      List.append_nil, trimHist_seen, hfil]

theorem waitSample_eq (c : Nat) (v : Bool) (w : WaitEntry) : ∃ h m, waitSample c v w = { w with hist := h, met := m } := by
  unfold waitSample
  split
  · exact ⟨w.hist, w.met, rfl⟩
  · exact ⟨_, _, rfl⟩

/-- A sample changes neither the entry's kind nor its target nor its arming, and what it broadcast 12 cycles ago stands. -/
theorem sampledAt.same {c : Nat} {w w' : WaitEntry} (h : sampledAt c w w') :
    w'.kind = w.kind ∧ w'.target0 = w.target0 ∧ w'.target = w.target ∧ w'.armed = w.armed ∧ seenAt c w' = seenAt c w := by
  rcases h with rfl | ⟨v, rfl⟩
  · exact ⟨rfl, rfl, rfl, rfl, rfl⟩
  · obtain ⟨x, m, hx⟩ := waitSample_eq c v w
    refine ⟨?_, ?_, ?_, ?_, seenAt_waitSample c v w⟩ <;> rw [hx]

/-! The duty (R237). -/

theorem dutyNow_steady {s : State} (h : s.str.dutyAt = []) (c : Nat) : dutyNow s c = s.str.duty := by simp [dutyNow, h]

@[simp] theorem dutyTrim_steady {x : Stream} (h : x.dutyAt = []) (c : Nat) : dutyTrim x c = x := by simp [dutyTrim, h]

theorem dutyFrom_first {s : State} (h : s.str.dutyAt = []) {k c : Nat} (hk : ∃ j < k, (c + j) % 16 < s.str.duty) :
    firstByDuty s.str.duty c (dutyFrom s k c) := by
  induction k generalizing c with
  | zero => simp at hk
  | succ k ih =>
    rw [dutyFrom, dutyNow_steady h]
    split
    · next hc => exact ⟨Nat.le_refl c, hc, fun i h1 h2 => by omega⟩
    · next hc =>
      obtain ⟨j, hj, hlt⟩ := hk
      have hj0 : j ≠ 0 := by
        rintro rfl
        exact hc hlt
      obtain ⟨hle, hduty, hmin⟩ := ih (c := c + 1) ⟨j - 1, by omega, by rwa [show c + 1 + (j - 1) = c + j by omega]⟩
      refine ⟨by omega, hduty, fun i h1 h2 => ?_⟩
      rcases Nat.eq_or_lt_of_le h1 with rfl | h1
      · exact Nat.not_lt.1 hc
      · exact hmin i h1 h2

/-- Within 16 cycles the duty lets a bundle issue. -/
theorem dutyNext_first {s : State} (h : s.str.dutyAt = []) (hpos : 1 ≤ s.str.duty) (c : Nat) :
    firstByDuty s.str.duty c (dutyNext s c) :=
  dutyFrom_first h ⟨(16 - c % 16) % 16, by omega, by omega⟩

theorem le_dutyFrom (s : State) (k c : Nat) : c ≤ dutyFrom s k c := by
  induction k generalizing c with
  | zero => exact Nat.le_refl c
  | succ k ih =>
    rw [dutyFrom]
    split
    · exact Nat.le_refl c
    · exact Nat.le_trans (Nat.le_succ c) (ih (c + 1))

theorem le_dutyNext (s : State) (c : Nat) : c ≤ dutyNext s c := le_dutyFrom s 16 c

/-! The cycle that the stream reaches (R230). -/

/-- Nothing but the tiles and their scratch differs. -/
def onlySettled (s u : State) : Prop :=
  u = { s with tiles := u.tiles, scratch := u.scratch, scrPoison := u.scrPoison, scrLatent := u.scrLatent }

theorem onlySettled.trans {s t u : State} (h : onlySettled s t) (h' : onlySettled t u) : onlySettled s u := by
  unfold onlySettled at *
  rw [h', h]

theorem foldl_settleTile_only (c : Nat) (l : List Nat) (s : State) : onlySettled s (l.foldl (fun s n => settleTile s c n) s) :=
  List.foldlRecOn _ _ (motive := onlySettled s) rfl fun _ ht n _ => ht.trans (settleTile_settles _ c n).1

theorem atCycle_only (s : State) (c : Nat) : onlySettled (setStr s { s.str with cycle := c }) (atCycle s c) :=
  foldl_settleTile_only ..

theorem onlySettled.str {s u : State} (h : onlySettled s u) : u.str = s.str := by
  unfold onlySettled at h
  rw [h]

theorem atCycle_str (s : State) (c : Nat) : (atCycle s c).str = { s.str with cycle := c } := (atCycle_only s c).str

end Sys2Proof.Machine
end

section
/-! SUPPORT. A bundle issues and the next one reaches issue (R224, R226, R231, R237, R248). -/

namespace Sys2Proof.Machine

open Sys2Proof

/-! The bundle at the issue point. -/

theorem bundleReady.ok {s : State} (h : bundleReady s) : bundleOk s = true := by
  obtain ⟨hrun, hend, hstall, hfetch, -, hstop, hpc, -⟩ := h
  simp [bundleOk, hrun, hend, hstall, hfetch, hstop, hpc]

/-- A bundle without reserved encodings raises nothing. -/
theorem bundleChecks_clean {s : State} (hh : headReserved (s.str.store.get s.str.pc 0).toNat = false)
    (ht : ∀ n ∈ s.str.tiles, slotReserved (s.str.store.get s.str.pc 0).toNat n = []) : bundleChecks s = s := by
  simp only [bundleChecks]
  split
  · rfl
  · simp only [hh, Bool.false_eq_true, if_false]
    exact List.foldlRecOn _ _ (motive := fun u => u = s) rfl fun u hu n hn => by rw [ht n hn]; exact hu

/-- The bundle of s has issued: it is counted, and beside the stream, the tiles' handlers and counters nothing differs; of the stream
what a control operation moves, what is noted of the issue, and an exception. -/
def hasIssued (s v : State) : Prop :=
  v = { s with ctr := v.ctr, str := v.str, tiles := v.tiles }
    ∧ v.str = { s.str with waits := v.str.waits, lc := v.str.lc, rstack := v.str.rstack, lastPc := s.str.pc, issued := v.str.issued,
                           exc := v.str.exc, stopAt := v.str.stopAt }
    ∧ count v .rtSeqIssue [s.str.capo] = min (count s .rtSeqIssue [s.str.capo] + 1) ctrMax

theorem bundleIssued_eq {s : State} (h : bundleReady s) : bundleIssued s = bump (setStr s
    { s.str with waits := (sampleWaits s).str.waits, lastPc := s.str.pc
                 issued := (s.str.issued.filter fun x => decide (s.str.cycle ≤ x.1 + 12)) ++ [(s.str.cycle, s.str.pc)] })
    .rtSeqIssue [s.str.capo] := by
  obtain ⟨-, -, -, -, -, -, -, hhead, htiles, -⟩ := h
  obtain ⟨ws, hw⟩ := sampleWaits_eq s
  have hclean : bundleChecks (sampleWaits s) = sampleWaits s := by
    rw [hw]
    exact bundleChecks_clean hhead htiles
  simp only [bundleIssued, hclean]
  rw [hw]
  rfl

theorem bundleIssued_hasIssued {s : State} (h : bundleReady s) : hasIssued s (bundleIssued s) := by
  rw [bundleIssued_eq h]
  exact ⟨rfl, rfl, count_bump ..⟩

section
variable {s : State} (h : bundleReady s)
include h

theorem bundleIssued_waits (we : Nat) : waitOf (bundleIssued s) we = waitOf (sampleWaits s) we := by
  rw [bundleIssued_eq h]
  rfl

theorem bundleIssued_str : (bundleIssued s).str.pc = s.str.pc ∧ (bundleIssued s).str.cycle = s.str.cycle ∧ (bundleIssued s).str.lc = s.str.lc
    ∧ (bundleIssued s).str.rstack = s.str.rstack ∧ (bundleIssued s).str.exc = none ∧ (bundleIssued s).clk = s.clk := by
  obtain ⟨-, -, -, -, hexc, -⟩ := id h
  rw [bundleIssued_eq h]
  exact ⟨rfl, rfl, rfl, rfl, hexc, rfl⟩

theorem bundleReady.sampled (we : Nat) : sampledAt s.str.cycle (waitOf s we) (waitOf (bundleIssued s) we) := by
  rw [bundleIssued_waits h, ← nowCycle_unstalled h.2.2.1]
  exact waitOf_sampleWaits s we

end

/-! The next bundle is fetched (R224). -/

/-- What the fetch of a bundle from one tile's replica does. -/
def fetchOne (pc : Nat) (s : State) (n : Nat) : State :=
  let here (l : List (Nat × Nat × Nat)) : Nat := (l.filter fun x => x.1 == n && x.2.1 == pc).length
  let s := bump s .rtStoreCorr [n] (here s.str.soft)
  if here s.str.hard = 0 then s
  else
    let s := bump s .rtStoreUncorr [n] (here s.str.hard)
    raiseExc (setStr s { s.str with fetchBad := true }) 0x0C n 7

theorem fetchBundle_eq (s : State) : fetchBundle s = s.str.tiles.foldl (fetchOne s.str.pc) s := rfl

/-- A tile's copy of a bundle that cannot be corrected. -/
def storeBad (s : State) (pc n : Nat) : Prop := ∃ x ∈ s.str.hard, x.1 = n ∧ x.2.1 = pc

theorem storeBad_iff (s : State) (pc n : Nat) :
    (s.str.hard.filter fun x => x.1 == n && x.2.1 == pc).length ≠ 0 ↔ storeBad s pc n := by
  simp only [storeBad, ne_eq, List.length_eq_zero_iff, List.filter_eq_nil_iff, Bool.and_eq_true, beq_iff_eq, not_forall, not_not,
    exists_prop]

theorem fetchOne_cases (pc : Nat) (s : State) (n : Nat) : ∃ c, (∀ ix, TMap.get c (.rtSeqIssue, ix) 0 = count s .rtSeqIssue ix)
    ∧ (¬ storeBad s pc n ∧ fetchOne pc s n = { s with ctr := c }
      ∨ storeBad s pc n ∧ fetchOne pc s n = raiseExc { s with ctr := c, str := { s.str with fetchBad := true } } 0x0C n 7) := by
  have hcorr (k : Nat) (ix : List Nat) : count (bump s .rtStoreCorr [n] k) .rtSeqIssue ix = count s .rtSeqIssue ix :=
    count_bump_ne _ _ _ _ _ _ (by simp)
  have huncorr (t : State) (k : Nat) (ix : List Nat) : count (bump t .rtStoreUncorr [n] k) .rtSeqIssue ix = count t .rtSeqIssue ix :=
    count_bump_ne _ _ _ _ _ _ (by simp)
  by_cases hbad : storeBad s pc n
  · exact ⟨_, fun ix => (huncorr _ _ ix).trans (hcorr _ ix), .inr ⟨hbad, if_neg ((storeBad_iff s pc n).2 hbad)⟩⟩
  · exact ⟨_, hcorr _, .inl ⟨hbad, if_pos (not_not.1 (mt (storeBad_iff s pc n).1 hbad))⟩⟩

/-- Of a state in which bundles are fetched nothing but counters, an exception and what it stops differs. -/
def onlyFetched (s u : State) : Prop :=
  u = { s with ctr := u.ctr, str := u.str, tiles := u.tiles }
    ∧ u.str = { s.str with exc := u.str.exc, stopAt := u.str.stopAt, fetchBad := u.str.fetchBad }
    ∧ ∀ ix, count u .rtSeqIssue ix = count s .rtSeqIssue ix

theorem onlyFetched.refl (s : State) : onlyFetched s s := ⟨rfl, rfl, fun _ => rfl⟩

theorem onlyFetched.trans {s t u : State} (h : onlyFetched s t) (h' : onlyFetched t u) : onlyFetched s u := by
  obtain ⟨ht, hs, hc⟩ := h
  obtain ⟨hu, hs', hc'⟩ := h'
  exact ⟨by rw [hu, ht], by rw [hs', hs], fun ix => (hc' ix).trans (hc ix)⟩

theorem onlyFetched.same {s u : State} (h : onlyFetched s u) : u.str.running = s.str.running ∧ u.str.stall = s.str.stall
    ∧ u.str.pc = s.str.pc ∧ u.str.cycle = s.str.cycle ∧ u.str.hard = s.str.hard := by
  obtain ⟨-, hs, -⟩ := h
  rw [hs]
  exact ⟨rfl, rfl, rfl, rfl, rfl⟩

theorem raiseRec_str (s : State) (e : ExcRec) : (raiseRec s e).str
    = { s.str with exc := (raiseRec s e).str.exc, stopAt := (raiseRec s e).str.stopAt } := by
  unfold raiseRec
  (repeat' split) <;> rfl

theorem raiseRec_only (s : State) (e : ExcRec) : onlyFetched s (raiseRec s e) := by
  unfold raiseRec
  (repeat' split) <;> exact ⟨rfl, rfl, fun _ => rfl⟩

theorem fetchOne_only (pc : Nat) (s : State) (n : Nat) : onlyFetched s (fetchOne pc s n) := by
  obtain ⟨c, hc, ⟨-, h⟩ | ⟨-, h⟩⟩ := fetchOne_cases pc s n
  · rw [h]
    exact ⟨rfl, rfl, hc⟩
  · have hbad : onlyFetched s { s with ctr := c, str := { s.str with fetchBad := true } } := ⟨rfl, rfl, hc⟩
    rw [h]
    exact hbad.trans (raiseRec_only _ _)

theorem foldl_fetchOne_only (pc : Nat) (l : List Nat) (s : State) : onlyFetched s (l.foldl (fetchOne pc) s) :=
  List.foldlRecOn _ _ (motive := onlyFetched s) (.refl s) fun _ ht n _ => ht.trans (fetchOne_only pc _ n)

/-- An exception that arises beside one of an earlier cycle is only counted. -/
theorem raiseRec_later {s : State} {o : ExcRec} (hexc : s.str.exc = some o) (e : ExcRec) (h : o.cycle < e.cycle) :
    ∃ k, (raiseRec s e).str.exc = some { o with others := k } ∧ (raiseRec s e).str.stopAt = s.str.stopAt := by
  by_cases hrun : s.str.running = true
  · have hlate : ¬ (e.cycle < o.cycle ∨ (o.cycle = e.cycle ∧ excRank e < excRank o)) := by omega
    simp only [raiseRec, hrun, hexc, hlate, Bool.not_true, Bool.false_eq_true, if_false]
    exact ⟨_, rfl, rfl⟩
  · have hs : raiseRec s e = s := by simp [raiseRec, hrun]
    rw [hs]
    exact ⟨o.others, hexc, rfl⟩

/-- Two exceptions of one cycle: either is kept. -/
theorem raiseRec_beside {s : State} {o : ExcRec} (hexc : s.str.exc = some o) (e : ExcRec) :
    ∃ k, (raiseRec s e).str.exc = some { o with others := k } ∨ (raiseRec s e).str.exc = some { e with others := k } := by
  unfold raiseRec
  split
  · exact ⟨o.others, .inl hexc⟩
  · simp only [hexc]
    split
    · exact ⟨_, .inr rfl⟩
    · exact ⟨_, .inl rfl⟩

/-- The exception of a bundle, of whatever tile, whose copy cannot be corrected. -/
def isUncorr (s u : State) : Prop :=
  u.str.fetchBad = true ∧ ∃ e, u.str.exc = some e ∧ e.cause = 0x0C ∧ e.pc = s.str.pc ∧ e.cycle = s.str.cycle

/-- The exception o, of an earlier cycle, is kept, and what it stops. -/
def excKept (o : ExcRec) (s u : State) : Prop := (∃ k, u.str.exc = some { o with others := k }) ∧ u.str.stopAt = s.str.stopAt

section
variable {s : State} (hstall : s.str.stall = none)
include hstall

theorem fetchOne_keeps_uncorr {t : State} (hst : onlyFetched s t) (h : isUncorr s t) (pc n : Nat) : isUncorr s (fetchOne pc t n) := by
  obtain ⟨-, hstall', hpc, hcyc, -⟩ := hst.same
  obtain ⟨hbad, e, hexc, hcause, hepc, hecyc⟩ := h
  obtain ⟨c, -, ⟨-, hf⟩ | ⟨-, hf⟩⟩ := fetchOne_cases pc t n
  · rw [hf]
    exact ⟨hbad, e, hexc, hcause, hepc, hecyc⟩
  · let v : State := { t with ctr := c, str := { t.str with fetchBad := true } }
    rw [hf]
    have hb : (raiseExc v 0x0C n 7).str.fetchBad = true := congrArg Stream.fetchBad (raiseRec_str v _)
    obtain ⟨k, hk | hk⟩ := raiseRec_beside (s := v) hexc (excHere v 0x0C n 7 0 0)
    · exact ⟨hb, _, hk, hcause, hepc, hecyc⟩
    · exact ⟨hb, _, hk, rfl, hpc, (nowCycle_unstalled (s := v) (hstall'.trans hstall)).trans hcyc⟩

theorem foldl_fetchOne_keeps_uncorr {t : State} (hst : onlyFetched s t) (h : isUncorr s t) (pc : Nat) (l : List Nat) :
    isUncorr s (l.foldl (fetchOne pc) t) :=
  (List.foldlRecOn l _ (motive := fun u => onlyFetched s u ∧ isUncorr s u) ⟨hst, h⟩ fun _ hu n _ =>
    ⟨hu.1.trans (fetchOne_only pc _ n), fetchOne_keeps_uncorr hstall hu.1 hu.2 pc n⟩).2

theorem foldl_fetchOne_keeps_exc {o : ExcRec} (hexc : s.str.exc = some o) (hlt : o.cycle < s.str.cycle) (pc : Nat) (l : List Nat) :
    excKept o s (l.foldl (fetchOne pc) s) := by
  refine (List.foldlRecOn l _ (motive := fun u => onlyFetched s u ∧ excKept o s u) ⟨.refl s, ⟨_, hexc⟩, rfl⟩ fun u hu n _ =>
    ⟨hu.1.trans (fetchOne_only pc _ n), ?_⟩).2
  obtain ⟨hsu, ⟨k, hk⟩, hstop⟩ := hu
  obtain ⟨-, hstall', -, hcyc, -⟩ := hsu.same
  obtain ⟨c, -, ⟨-, hf⟩ | ⟨-, hf⟩⟩ := fetchOne_cases pc u n
  · rw [hf]
    exact ⟨⟨k, hk⟩, hstop⟩
  · let v : State := { u with ctr := c, str := { u.str with fetchBad := true } }
    have hnow : nowCycle v = s.str.cycle := (nowCycle_unstalled (s := v) (hstall'.trans hstall)).trans hcyc
    obtain ⟨k', hk', hstop'⟩ := raiseRec_later (s := v) hk (excHere v 0x0C n 7 0 0) (Nat.lt_of_lt_of_eq hlt hnow.symm)
    rw [hf]
    exact ⟨⟨k', hk'⟩, hstop'.trans hstop⟩

/-- The tiles' copies of the bundle are fetched: one that cannot be corrected raises STORE_UNCORR. -/
theorem foldl_fetchOne_first (hrun : s.str.running = true) (hexc : s.str.exc = none) (l : List Nat) :
    let u := l.foldl (fetchOne s.str.pc) s
    ((∃ n ∈ l, storeBad s s.str.pc n) → isUncorr s u) ∧ ((∀ n ∈ l, ¬ storeBad s s.str.pc n) → u.str.exc = none) := by
  induction l generalizing s with
  | nil => simpa using hexc
  | cons n l ih =>
    intro u
    simp only [List.exists_mem_cons_iff, List.forall_mem_cons]
    obtain ⟨c, hc, ⟨hn, hf⟩ | ⟨hn, hf⟩⟩ := fetchOne_cases s.str.pc s n
    · have hu : u = l.foldl (fetchOne s.str.pc) { s with ctr := c } := congrArg (fun t => l.foldl (fetchOne s.str.pc) t) hf
      obtain ⟨hyes, hno⟩ := ih (s := { s with ctr := c }) hstall hrun hexc
      rw [hu]
      exact ⟨fun h => hyes (h.resolve_left hn), fun h => hno h.2⟩
    · let v : State := { s with ctr := c, str := { s.str with fetchBad := true } }
      have hfirst : fetchOne s.str.pc s n = _ := hf.trans (raiseExc_first (s := v) hrun hexc 0x0C n 7 0 0)
      refine ⟨fun _ => foldl_fetchOne_keeps_uncorr hstall (fetchOne_only ..) ?_ _ _, fun h => absurd hn h.1⟩
      rw [hfirst]
      exact ⟨rfl, _, rfl, rfl, rfl, nowCycle_unstalled (s := v) hstall⟩

end

/-! The next bundle reaches issue (R231, R237). -/

/-- The stream v at bundle dst, in the first cycle that the duty allows after the cycles lost. -/
def arrived (v : State) (dst lost : Nat) : Stream :=
  let arr := v.str.cycle + 1 + lost
  { v.str with arr := arr, pc := dst, declSeen := [], cycle := dutyNext v arr }

/-- A state that differs from v as far as the cycles that the stream has reached settle tiles and are counted. -/
def onlyReached (v w : State) (x : Stream) : Prop :=
  w = { v with ctr := w.ctr, scratch := w.scratch, scrPoison := w.scrPoison, scrLatent := w.scrLatent, str := x, tiles := w.tiles }
    ∧ ∀ ix, count w .rtSeqIssue ix = count v .rtSeqIssue ix

theorem onlySettled.reached {v t : State} {x : Stream} (h : onlySettled (setStr v x) t) (ix : List Nat) (k : Nat) :
    onlyReached v (bump t .rtSeqDuty ix k) x :=
  ⟨congrArg (fun u : State => { u with ctr := (bump t .rtSeqDuty ix k).ctr }) h,
    fun ix' => (count_bump_ne t _ _ _ _ _ (by simp)).trans (congrArg (fun u : State => count u .rtSeqIssue ix') h :)⟩

theorem reachIssue_eq {v : State} (hduty : v.str.dutyAt = []) {dst : Nat} (hd : dst < v.str.imageLen) (lost : Nat) :
    ∃ w, onlyReached v w (arrived v dst lost) ∧ reachIssue v dst lost = fetchBundle w := by
  let arr := v.str.cycle + 1 + lost
  let c := dutyNext v arr
  let x : Stream := { v.str with arr := arr, pc := dst, declSeen := [] }
  let t := atCycle (setStr v x) c
  let w := bump t .rtSeqDuty [t.str.capo] (c - arr)
  have hw : onlyReached v w (arrived v dst lost) := (atCycle_only (setStr v x) c).reached ..
  have hpc : w.str.pc < w.str.imageLen := by
    rw [hw.1]
    exact hd
  have htrim : atCycle (setStr v (dutyTrim x c)) c = t := by rw [dutyTrim_steady (x := x) hduty c]
  have hreach : reachIssue v dst lost = if w.str.pc < w.str.imageLen then fetchBundle w else headExc w 1 :=
    congrArg (fun t : State => let w := bump t .rtSeqDuty [t.str.capo] (c - arr)
      if w.str.pc < w.str.imageLen then fetchBundle w else headExc w 1) htrim
  exact ⟨w, hw, hreach.trans (if_pos hpc)⟩

/-! Control operations. -/

theorem hasIssued.same {s v : State} (hv : hasIssued s v) : v.str.running = s.str.running ∧ v.str.stall = s.str.stall
    ∧ v.str.dutyAt = s.str.dutyAt ∧ v.str.duty = s.str.duty ∧ v.str.imageLen = s.str.imageLen ∧ v.str.cycle = s.str.cycle
    ∧ v.str.tiles = s.str.tiles ∧ v.str.hard = s.str.hard ∧ v.str.lastPc = s.str.pc := by
  obtain ⟨-, hs, -⟩ := hv
  rw [hs]
  exact ⟨rfl, rfl, rfl, rfl, rfl, rfl, rfl, rfl, rfl⟩

/-- What a control operation changes beside: the wait network, the loop counters, the return stack, and an exception. -/
theorem hasIssued.moves {s t v : State} (ht : hasIssued s t) (hv : v = { t with str := v.str, tiles := v.tiles })
    (hs : v.str = { t.str with waits := v.str.waits, lc := v.str.lc, rstack := v.str.rstack, exc := v.str.exc, stopAt := v.str.stopAt }) :
    hasIssued s v := by
  obtain ⟨hts, htstr, hcount⟩ := ht
  have hctr : count v .rtSeqIssue [s.str.capo] = count t .rtSeqIssue [s.str.capo] := by rw [hv]; rfl
  refine ⟨by rw [hv, hts], ?_, hctr.trans hcount⟩
  rw [hs, htstr]

section
variable {s v : State} {f : State → State × Nat × Nat} {dst lost : Nat} (h : bundleReady s) (hf : f (bundleIssued s) = (v, dst, lost))
  (hv : hasIssued s v) (hd : dst < s.str.imageLen)
include h hf hv hd

/-- A control operation that ends in v is followed by the fetch of bundle dst. -/
theorem control_fetches : ∃ w, onlyReached v w (arrived v dst lost) ∧ control s f = w.str.tiles.foldl (fetchOne dst) w := by
  obtain ⟨-, -, hduty, -, hlen, -⟩ := hv.same
  obtain ⟨-, -, -, -, -, -, -, -, -, hsteady, -⟩ := id h
  have hc : control s f = reachIssue v dst lost := by
    simp only [control, h.ok, if_true]
    rw [hf]
  obtain ⟨w, hw, he⟩ := reachIssue_eq (hduty.trans hsteady) (hlen ▸ hd) lost
  have hpc : w.str.pc = dst := by rw [hw.1]; rfl
  exact ⟨w, hw, hc.trans (he.trans (by rw [fetchBundle_eq, hpc]))⟩

/-- The stream after a control operation that ends in v, but for what the fetch raises. -/
theorem control_str : let u := control s f
    u.str = { arrived v dst lost with exc := u.str.exc, stopAt := u.str.stopAt, fetchBad := u.str.fetchBad }
      ∧ u = { s with ctr := u.ctr, scratch := u.scratch, scrPoison := u.scrPoison, scrLatent := u.scrLatent, str := u.str, tiles := u.tiles }
      ∧ count u .rtSeqIssue [s.str.capo] = min (count s .rtSeqIssue [s.str.capo] + 1) ctrMax := by
  obtain ⟨w, ⟨hw, hcw⟩, hu⟩ := control_fetches h hf hv hd
  obtain ⟨hvs, -, hcv⟩ := hv
  obtain ⟨huw, hustr, hcu⟩ := foldl_fetchOne_only dst w.str.tiles w
  have hwstr : w.str = arrived v dst lost := by rw [hw]
  rw [← hu] at huw hustr hcu
  exact ⟨by rw [hustr, hwstr], by rw [huw, hw, hvs], (hcu _).trans ((hcw _).trans hcv)⟩

/-- STORE_UNCORR is raised as the bundle reaches issue. -/
theorem control_uncorr (hexc : v.str.exc = none) : let u := control s f
    if ∃ x ∈ s.str.hard, x.1 ∈ s.str.tiles ∧ x.2.1 = dst then
      u.str.fetchBad = true ∧ ∃ e, u.str.exc = some e ∧ e.cause = 0x0C ∧ e.pc = dst ∧ e.cycle = u.str.cycle
    else u.str.exc = none := by
  obtain ⟨hrun, hstall, -, -, -, -, htiles, hhard, -⟩ := hv.same
  obtain ⟨hustr, -⟩ := control_str h hf hv hd
  obtain ⟨w, ⟨hw, -⟩, hu⟩ := control_fetches h hf hv hd
  obtain ⟨hruns, -, hstalls, -⟩ := h
  have hwstr : w.str = arrived v dst lost := by rw [hw]
  have hbad : (∃ x ∈ s.str.hard, x.1 ∈ s.str.tiles ∧ x.2.1 = dst) ↔ ∃ n ∈ w.str.tiles, storeBad w dst n := by
    simp only [storeBad, hwstr, arrived, htiles, hhard]
    exact ⟨fun ⟨x, hx, ht, hp⟩ => ⟨_, ht, x, hx, rfl, hp⟩, fun ⟨n, hn, x, hx, hxn, hp⟩ => ⟨x, hx, hxn ▸ hn, hp⟩⟩
  have hpc : w.str.pc = dst := by rw [hwstr]; rfl
  have hfirst := foldl_fetchOne_first (s := w) (by rw [hwstr]; exact hstall.trans hstalls) (by rw [hwstr]; exact hrun.trans hruns)
    (by rw [hwstr]; exact hexc) w.str.tiles
  rw [hpc, ← hu] at hfirst
  obtain ⟨huncorr, hclean⟩ := hfirst
  split
  · next hyes =>
    obtain ⟨hb, e, hue, hcause, hepc, hecyc⟩ := huncorr (hbad.1 hyes)
    refine ⟨hb, e, hue, hcause, hepc.trans hpc, hecyc.trans ?_⟩
    rw [hustr, hwstr]
  · next hno => exact hclean fun n hn hb => hno (hbad.2 ⟨n, hn, hb⟩)

theorem control_goes (hexc : v.str.exc = none) : let u := control s f
    streamGoes s u dst lost ∧ u.str.lc = v.str.lc ∧ u.str.rstack = v.str.rstack ∧ ∀ we, waitOf u we = waitOf v we := by
  obtain ⟨-, -, hsteady, hduty, -, hcyc, -, -, hlast⟩ := hv.same
  obtain ⟨hustr, hu, hcount⟩ := control_str h hf hv hd
  have hbad := control_uncorr h hf hv hd hexc
  obtain ⟨-, -, -, -, -, -, -, -, -, hsteadys, hpos, -⟩ := h
  have hby := dutyNext_first (s := v) (hsteady.trans hsteadys) (hduty ▸ hpos) (v.str.cycle + 1 + lost)
  rw [hduty, hcyc] at hby
  intro u
  refine ⟨⟨by rw [hustr]; rfl, ?_, ?_, ?_, hbad, hcount, hu⟩, by rw [hustr]; rfl, by rw [hustr]; rfl, fun we => ?_⟩
  · rw [hustr]
    exact congrArg (· + 1 + lost) hcyc
  · rw [hustr]
    show firstByDuty _ _ (dutyNext v (v.str.cycle + 1 + lost))
    rw [hcyc]
    exact hby
  · rw [hustr]
    exact hlast
  · simp only [waitOf]
    rw [hustr]
    rfl

/-- An exception that the operation raised is kept: what the fetch raises comes later. -/
theorem control_keeps {e : ExcRec} (hexc : v.str.exc = some e) (hcyc : e.cycle = s.str.cycle) : let u := control s f
    (∃ k, u.str.exc = some { e with others := k }) ∧ u.str.stopAt = v.str.stopAt := by
  obtain ⟨-, hstall, -, -, -, hvcyc, -⟩ := hv.same
  obtain ⟨w, ⟨hw, -⟩, hu⟩ := control_fetches h hf hv hd
  obtain ⟨-, -, hstalls, -⟩ := h
  have hwstr : w.str = arrived v dst lost := by rw [hw]
  have hlt : e.cycle < w.str.cycle := by
    have hle : v.str.cycle + 1 + lost ≤ w.str.cycle := by
      rw [hwstr]
      exact le_dutyNext ..
    omega
  have hkept := foldl_fetchOne_keeps_exc (s := w) (by rw [hwstr]; exact hstall.trans hstalls) (by rw [hwstr]; exact hexc) hlt dst w.str.tiles
  rw [← hu] at hkept
  exact ⟨hkept.1, hkept.2.trans (by rw [hwstr]; rfl)⟩

end

/-- A control operation that raises an exception of the head. -/
theorem control_raises {s : State} {f : State → State × Nat × Nat} {cause : Nat} (h : bundleReady s) (hlen : s.str.pc + 1 < s.str.imageLen)
    (hf : f (bundleIssued s) = (headExc (bundleIssued s) cause, nextPc (bundleIssued s), 0)) : streamRaised s (control s f) cause 0 0 := by
  let t := bundleIssued s
  have ht : hasIssued s t := bundleIssued_hasIssued h
  obtain ⟨hrun, hstall, -, -, -, hcyc, -⟩ := ht.same
  obtain ⟨hpc, -, -, -, hexc, hclk⟩ := bundleIssued_str h
  have hnow : nowCycle t = nowCycle s :=
    (nowCycle_unstalled (hstall.trans h.2.2.1)).trans (hcyc.trans (nowCycle_unstalled h.2.2.1).symm)
  obtain ⟨⟨e, he, hcause, htile, hpart, hepc, hecyc, htime, hstop⟩, hv⟩ :=
    raiseExc_streamRaised (s := t) (hrun.trans h.1) hexc cause 0 0 0 0
  have hissued : hasIssued s (raiseExc t cause 0 0) := ht.moves hv (by unfold raiseExc; rw [raiseRec_str])
  obtain ⟨⟨k, hk⟩, hkstop⟩ := control_keeps h (hf.trans (by rw [nextPc, hpc]; rfl)) hissued hlen he
    (hecyc.trans (hnow.trans (nowCycle_unstalled h.2.2.1)))
  exact ⟨_, hk, hcause, htile, hpart, hepc.trans hpc, hecyc.trans hnow, htime.trans (by rw [hclk]),
    hkstop.trans (hstop.trans (by rw [hnow]))⟩

end Sys2Proof.Machine
end

section
/-! SUPPORT. The control operations of a bundle and the exceptions they raise (R224, R231, R233, R237, R248). -/

namespace Sys2Proof.Machine

open Sys2Proof

section
variable {s : State} (h : bundleReady s)
include h

/-- The condition on which a branch turns is that of the state in which the bundle issues. -/
theorem branchOn_issued (want : Bool) (we tgt : Nat) : branchOn want we tgt (bundleIssued s) =
    if (waitOf s we).kind = 3 then (headExc (bundleIssued s) 1, nextPc (bundleIssued s), 0)
    else if seenAt s.str.cycle (waitOf s we) == want then (bundleIssued s, tgt % 65536, 2)
    else (bundleIssued s, nextPc (bundleIssued s), 0) := by
  obtain ⟨-, hcyc, -⟩ := bundleIssued_str h
  obtain ⟨hkind, -, -, -, hseen⟩ := (h.sampled we).same
  rw [branchOn, waitSeen_eq, hcyc, hkind, hseen]

theorem nextPc_issued : nextPc (bundleIssued s) = s.str.pc + 1 := congrArg (· + 1) (bundleIssued_str h).1

/-- A control operation that only goes on. -/
theorem control_only {f : State → State × Nat × Nat} {dst lost : Nat} (hf : f (bundleIssued s) = (bundleIssued s, dst, lost))
    (hd : dst < s.str.imageLen) : let u := control s f
    streamGoes s u dst lost ∧ u.str.lc = s.str.lc ∧ u.str.rstack = s.str.rstack := by
  obtain ⟨-, -, hlc, hrs, hexc, -⟩ := bundleIssued_str h
  obtain ⟨hgo, hlc', hrs', -⟩ := control_goes h hf (bundleIssued_hasIssued h) hd hexc
  exact ⟨hgo, hlc'.trans hlc, hrs'.trans hrs⟩

/-- A control operation that sets the stream's loop counters and its return stack as well. -/
theorem control_sets {f : State → State × Nat × Nat} {dst lost : Nat} {lc : TMap Nat Nat} {rs : List Nat}
    (hf : f (bundleIssued s) = (setStr (bundleIssued s) { (bundleIssued s).str with lc := lc, rstack := rs }, dst, lost))
    (hd : dst < s.str.imageLen) : let u := control s f
    streamGoes s u dst lost ∧ u.str.lc = lc ∧ u.str.rstack = rs := by
  obtain ⟨-, -, -, -, hexc, -⟩ := bundleIssued_str h
  obtain ⟨hgo, hlc, hrs, -⟩ := control_goes h hf ((bundleIssued_hasIssued h).moves rfl rfl) hd hexc
  exact ⟨hgo, hlc, hrs⟩

theorem branch_goes {want : Bool} {we tgt : Nat} (hk : (waitOf s we).kind ≠ 3) (htgt : tgt < 65536) (hd : tgt < s.str.imageLen)
    (hn : s.str.pc + 1 < s.str.imageLen) : let u := control s (branchOn want we tgt)
    if seenAt s.str.cycle (waitOf s we) == want then streamGoes s u tgt 2 else streamGoes s u (s.str.pc + 1) 0 := by
  have hb := branchOn_issued h want we tgt
  rw [if_neg hk, Nat.mod_eq_of_lt htgt, nextPc_issued h] at hb
  intro u
  split
  · next hseen =>
    rw [if_pos hseen] at hb
    exact (control_only h hb hd).1
  · next hseen =>
    rw [if_neg hseen] at hb
    exact (control_only h hb hn).1

theorem brc_goes {we tgt : Nat} (hk : (waitOf s we).kind ≠ 3) (htgt : tgt < 65536) (hd : tgt < s.str.imageLen)
    (hn : s.str.pc + 1 < s.str.imageLen) : ∃ u, exec (.brc we tgt) s = .next u
      ∧ (if seenAt s.str.cycle (waitOf s we) then streamGoes s u tgt 2 else streamGoes s u (s.str.pc + 1) 0) := by
  have hgo := branch_goes h (want := true) hk htgt hd hn
  refine ⟨_, rfl, ?_⟩
  cases hseen : seenAt s.str.cycle (waitOf s we)
  · simpa [hseen] using hgo
  · simpa [hseen] using hgo

theorem brnc_goes {we tgt : Nat} (hk : (waitOf s we).kind ≠ 3) (htgt : tgt < 65536) (hd : tgt < s.str.imageLen)
    (hn : s.str.pc + 1 < s.str.imageLen) : ∃ u, exec (.brnc we tgt) s = .next u
      ∧ (if seenAt s.str.cycle (waitOf s we) then streamGoes s u (s.str.pc + 1) 0 else streamGoes s u tgt 2) := by
  have hgo := branch_goes h (want := false) hk htgt hd hn
  refine ⟨_, rfl, ?_⟩
  cases hseen : seenAt s.str.cycle (waitOf s we)
  · simpa [hseen] using hgo
  · simpa [hseen] using hgo

theorem loop_goes {lc imm : Nat} (hlc : lc < 8) (hpos : 1 ≤ imm) (himm : imm < 65536) (hn : s.str.pc + 1 < s.str.imageLen) :
    ∃ u, exec (.loop lc imm) s = .next u ∧ streamGoes s u (s.str.pc + 1) 0 ∧ u.str.rstack = s.str.rstack
      ∧ ∀ k, u.str.lc.get k 0 = if k = lc then imm else s.str.lc.get k 0 := by
  obtain ⟨-, -, hlcs, hrs, -⟩ := bundleIssued_str h
  obtain ⟨hgo, hlc', hrs'⟩ := control_sets h (dst := s.str.pc + 1) (lost := 0) (lc := s.str.lc.set lc imm) (rs := s.str.rstack)
    (f := fun s => (if imm % 65536 = 0 then headExc s 1 else setStr s { s.str with lc := s.str.lc.set (lc % 8) (imm % 65536) }, nextPc s, 0))
    (by
      have hne : imm ≠ 0 := by omega
      simp only [if_neg hne, Nat.mod_eq_of_lt himm, Nat.mod_eq_of_lt hlc, nextPc_issued h, ← hlcs, ← hrs]) hn
  refine ⟨_, rfl, hgo, hrs', fun k => ?_⟩
  exact (congrArg (TMap.get · k 0) hlc').trans ((TMap.get_set ..).trans (by simp only [eq_comm]))

theorem endl_goes {lc tgt : Nat} (hlc : lc < 8) (htgt : tgt < 65536) (hd : tgt < s.str.imageLen) (hn : s.str.pc + 1 < s.str.imageLen)
    (hpos : 1 ≤ s.str.lc.get lc 0) : ∃ u, exec (.endl lc tgt) s = .next u ∧ u.str.rstack = s.str.rstack
      ∧ streamGoes s u (if s.str.lc.get lc 0 = 1 then s.str.pc + 1 else tgt) 0
      ∧ ∀ k, u.str.lc.get k 0 = if k = lc then s.str.lc.get lc 0 - 1 else s.str.lc.get k 0 := by
  obtain ⟨-, -, hlcs, hrs, -⟩ := bundleIssued_str h
  obtain ⟨hgo, hlc', hrs'⟩ := control_sets h (dst := if s.str.lc.get lc 0 = 1 then s.str.pc + 1 else tgt) (lost := 0)
    (lc := s.str.lc.set lc (s.str.lc.get lc 0 - 1)) (rs := s.str.rstack)
    (f := fun s =>
      let n := s.str.lc.get (lc % 8) 0
      if n = 0 then (headExc s 9, nextPc s, 0)
      else
        let s' := setStr s { s.str with lc := s.str.lc.set (lc % 8) (n - 1) }
        if n = 1 then (s', nextPc s, 0) else (s', tgt % 65536, 0))
    (by
      have hne : s.str.lc.get lc 0 ≠ 0 := by omega
      simp only [Nat.mod_eq_of_lt htgt, Nat.mod_eq_of_lt hlc, nextPc_issued h, hlcs, if_neg hne]
      split <;> simp only [← hrs])
    (by split <;> assumption)
  refine ⟨_, rfl, hrs', hgo, fun k => ?_⟩
  exact (congrArg (TMap.get · k 0) hlc').trans ((TMap.get_set ..).trans (by simp only [eq_comm]))

theorem call_goes {tgt : Nat} (htgt : tgt < 65536) (hd : tgt < s.str.imageLen) (hroom : s.str.rstack.length < 8) :
    ∃ u, exec (.call tgt) s = .next u ∧ streamGoes s u tgt 2 ∧ u.str.lc = s.str.lc ∧ u.str.rstack = (s.str.pc + 1) :: s.str.rstack := by
  obtain ⟨-, -, hlcs, hrs, -⟩ := bundleIssued_str h
  have hfree : ¬ 8 ≤ s.str.rstack.length := by omega
  exact ⟨_, rfl, control_sets h (by simp only [hrs, if_neg hfree, Nat.mod_eq_of_lt htgt, nextPc_issued h, ← hlcs]) hd⟩

theorem ret_goes {a : Nat} {l : List Nat} (hstack : s.str.rstack = a :: l) (hd : a < s.str.imageLen) :
    ∃ u, exec .ret s = .next u ∧ streamGoes s u a 2 ∧ u.str.lc = s.str.lc ∧ u.str.rstack = l := by
  obtain ⟨-, -, hlcs, hrs, -⟩ := bundleIssued_str h
  exact ⟨_, rfl, control_sets h (by simp only [hrs, hstack, ← hlcs]) hd⟩

theorem wrst_goes (we : Nat) (hn : s.str.pc + 1 < s.str.imageLen) : ∃ u, exec (.wrst we) s = .next u
      ∧ streamGoes s u (s.str.pc + 1) 0 ∧ (waitOf u we).target = (waitOf s we).target0 ∧ (waitOf u we).armed = false := by
  let t := bundleIssued s
  let v := setWait t we { waitOf t we with target := (waitOf t we).target0, armed := false, met := none }
  obtain ⟨ws, hws⟩ := sampleWaits_eq v
  obtain ⟨-, -, -, -, hexc, -⟩ := bundleIssued_str h
  have hissued : hasIssued s (sampleWaits v) := (bundleIssued_hasIssued h).moves (by rw [hws]; rfl) (by rw [hws]; rfl)
  obtain ⟨-, htarget0, -⟩ := (h.sampled we).same
  obtain ⟨-, -, htarget, harmed, -⟩ := (waitOf_sampleWaits v we).same
  obtain ⟨hgo, -, -, hwait⟩ := control_goes h (f := fun s =>
      let w := waitOf s we
      (sampleWaits (setWait s we { w with target := w.target0, armed := false, met := none }), nextPc s, 0))
    (congrArg (fun k => (sampleWaits v, k, 0)) (nextPc_issued h)) hissued hn (by rw [hws]; exact hexc)
  refine ⟨_, rfl, hgo, ?_, ?_⟩
  · exact (congrArg WaitEntry.target (hwait we)).trans (htarget.trans (by simp [v, htarget0, t]))
  · exact (congrArg WaitEntry.armed (hwait we)).trans (harmed.trans (by simp [v]))

theorem halt_ends : ∃ u, exec .halt s = .next u ∧ u.str.ending = true ∧ u.str.pc = s.str.pc ∧ u = { s with ctr := u.ctr, str := u.str } := by
  have hx : exec .halt s = .next (setStr (bundleIssued s) { (bundleIssued s).str with ending := true, declSeen := [] }) := by
    show execHalt s = _
    simp only [execHalt, h.ok, if_true]
  refine ⟨_, hx, rfl, (bundleIssued_str h).1, ?_⟩
  rw [bundleIssued_eq h]
  rfl

end

/-! The exceptions of the head. -/

section
variable {s : State} (h : bundleReady s) {lc tgt we : Nat} (hn : s.str.pc + 1 < s.str.imageLen)
include h

theorem head_raises (cause detail : Nat) : streamRaised s (headExc s cause detail) cause 0 0 := by
  obtain ⟨hrun, -, -, -, hexc, -⟩ := h
  exact (raiseExc_streamRaised hrun hexc cause 0 0 0 detail).1

theorem arm_raises (hk : (waitOf s we).kind = 3) : ∃ u, exec (.arm we) s = .next u ∧ streamRaised s u 1 0 0 := by
  have hx : exec (.arm we) s = .next (headExc s 1) := by
    show execArm we s = _
    simp [execArm, h.ok, hk]
  exact ⟨_, hx, head_raises h 1 0⟩

theorem wait_raises (hk : (waitOf s we).kind = 3) : ∃ u, exec (.wait we) s = .next u ∧ streamRaised s u 1 0 0 := by
  have hx : exec (.wait we) s = .next (headExc s 1) := by
    show execWait we s = _
    simp [execWait, h.ok, hk]
  exact ⟨_, hx, head_raises h 1 0⟩

include hn

theorem branch_raises (want : Bool) (hk : (waitOf s we).kind = 3) : streamRaised s (control s (branchOn want we tgt)) 1 0 0 :=
  control_raises h hn ((branchOn_issued h want we tgt).trans (if_pos hk))

theorem loop_raises : ∃ u, exec (.loop lc 0) s = .next u ∧ streamRaised s u 1 0 0 :=
  ⟨_, rfl, control_raises h hn rfl⟩

theorem endl_raises (hlc : lc < 8) (hzero : s.str.lc.get lc 0 = 0) : ∃ u, exec (.endl lc tgt) s = .next u ∧ streamRaised s u 9 0 0 := by
  obtain ⟨-, -, hlcs, -⟩ := bundleIssued_str h
  exact ⟨_, rfl, control_raises h hn (if_pos (by rw [Nat.mod_eq_of_lt hlc, hlcs, hzero]))⟩

theorem call_raises (hfull : 8 ≤ s.str.rstack.length) : ∃ u, exec (.call tgt) s = .next u ∧ streamRaised s u 9 0 0 := by
  obtain ⟨-, -, -, hrs, -⟩ := bundleIssued_str h
  exact ⟨_, rfl, control_raises h hn (if_pos (hrs ▸ hfull))⟩

theorem ret_raises (hempty : s.str.rstack = []) : ∃ u, exec .ret s = .next u ∧ streamRaised s u 9 0 0 := by
  obtain ⟨-, -, -, hrs, -⟩ := bundleIssued_str h
  exact ⟨_, rfl, control_raises h hn (by simp only [hrs, hempty])⟩

end

end Sys2Proof.Machine

open Sys2Proof Sys2Proof.Machine

/-- Settles O4: each operation turns on what the bundle's issue leaves of its entry, counter or stack; the fetch of the next bundle raises at
most an exception of a later cycle. -/
theorem streamControlAndExceptions : Obligations.StreamControlAndExceptions := by
  unfold Obligations.StreamControlAndExceptions
  refine ⟨?_, ?_⟩
  · intro s lc tgt imm we h hlc htgt hd hn w seen
    exact ⟨⟨_, rfl, control_only h (congrArg (fun k => (bundleIssued s, k, 0)) (nextPc_issued h)) hn⟩,
      ⟨_, rfl, control_only h (congrArg (fun k => (bundleIssued s, k, 2)) (Nat.mod_eq_of_lt htgt)) hd⟩,
      fun hk => brc_goes h hk htgt hd hn, fun hk => brnc_goes h hk htgt hd hn, fun hpos himm => loop_goes h hlc hpos himm hn,
      endl_goes h hlc htgt hd hn, call_goes h htgt hd, fun a l hstack ha => ret_goes h hstack ha, wrst_goes h we hn, halt_ends h⟩
  · intro s lc tgt we h hlc hn htgt hd raises
    exact ⟨loop_raises h hn, endl_raises h hn hlc, call_raises h hn, ret_raises h hn,
      fun hk => ⟨⟨_, rfl, branch_raises h hn true hk⟩, ⟨_, rfl, branch_raises h hn false hk⟩, arm_raises h hk, wait_raises h hk⟩⟩

end

section
/-! SUPPORT. Waits, energy checkpoints and the lockstep comparison (R227, R233 to R236, R441). -/

namespace Sys2Proof.Machine

open Sys2Proof

/-! The release cycle of an entry (R234). -/

/-- Of an entry that was last sampled by cycle c, its last sample says whether it is released in that cycle. -/
theorem metFrom_of_last (s : State) {w : WaitEntry} {c h : Nat} {l : List (Nat × Bool)} {v : Bool} (hlast : w.hist = l ++ [(h, v)])
    (hpast : ∀ x ∈ w.hist, x.1 ≤ c) : metFrom s w c = if v then some c else none := by
  have hall : (w.hist.filter fun x => decide (x.1 ≤ c)) = w.hist := List.filter_eq_self.2 fun x hx => decide_eq_true (hpast x hx)
  have hnone : (w.hist.find? fun x => decide (c < x.1) && x.2) = none := List.find?_eq_none.2 fun x hx => by
    have hle := hpast x hx
    simp [Nat.not_lt.2 hle]
  have hget : w.hist.getLast?.map (·.2) = some v := by simp [hlast]
  simp only [metFrom, hall, hnone, hget, Option.getD_some, Option.map_none]

theorem waitSample_met {c : Nat} {v : Bool} {w : WaitEntry} (harmed : w.armed = true) (hchange : w.hist.getLast?.map (·.2) ≠ some v) :
    (waitSample c v w).met = (if v then w.met.or (some c) else w.met) ∧ (waitSample c v w).hist.getLast? = some (c, v) := by
  simp [waitSample, hchange, harmed]

/-! ARM and WAIT. -/

theorem setWait_only (s : State) (we : Nat) (w : WaitEntry) : (∀ e, e ≠ we → waitOf (setWait s we w) e = waitOf s e)
    ∧ setWait s we w = { s with str := { s.str with waits := (setWait s we w).str.waits } } :=
  ⟨fun _ he => (waitOf_setWait ..).trans (if_neg (Ne.symm he)), rfl⟩

section
variable {s : State} {we : Nat} (h : bundleReady s) (hk : (waitOf s we).kind ≠ 3) (harmed : (waitOf s we).armed = false)
include h hk harmed

theorem exec_arm : exec (.arm we) s = .next (armWait s we s.str.cycle) := by
  show execArm we s = _
  simp [execArm, h.ok, hk, harmed]

theorem exec_wait : exec (.wait we) s = .next (setStr (armWait s we s.str.arr)
    { (armWait s we s.str.arr).str with stall := some (1, s.clk.now, we) }) := by
  show execWait we s = _
  simp only [execWait, h.ok, hk, harmed]
  rfl

end

/-! A stalled bundle issues. -/

theorem issueFrom_str (s : State) (c : Nat) (k : CtrName) : (issueFrom s c k).str
    = { dutyTrim s.str (dutyNext s (max s.str.cycle c)) with stall := none, cycle := dutyNext s (max s.str.cycle c) } := atCycle_str ..

section
variable {s : State} {we t r cycle : Nat} (hstall : s.str.stall = some (1, t, we))

theorem exec_waitRelease_early (hmet : (waitOf s we).met = some r) (hearly : cycle < r + 12) : exec (.waitRelease we cycle) s = .next s := by
  have hlt : ¬ r + 12 ≤ cycle := by omega
  show execWaitRelease we cycle s = _
  simp only [execWaitRelease, hmet]
  split
  · next heq =>
    cases heq
    simp [hlt]
  · rfl

include hstall

theorem exec_waitRelease (hmet : (waitOf s we).met = some r) (hrun : s.str.running = true) (harmed : (waitOf s we).armed = true)
    (hdue : r + 12 ≤ cycle) : exec (.waitRelease we cycle) s = .next (sampleWaits (issueFrom (setWait s we
      { waitOf s we with target := (waitOf s we).target + (waitOf s we).step, armed := false, met := none }) (r + 12) .rtSeqWait)) := by
  show execWaitRelease we cycle s = _
  simp only [execWaitRelease, hmet, hstall, hrun, harmed, hdue, beq_self_eq_true, decide_true, Bool.and_true, if_true]

theorem exec_waitTimeout (hrun : s.str.running = true) (hlate : t + capoBto s.prog.eff s.str.capo * 1000000 < s.clk.now) :
    exec (.waitTimeout we) s = .next (headExc s 7 we) := by
  show execWaitTimeout we s = _
  simp [execWaitTimeout, hstall, hrun, hlate]

end

/-- The bundle that waited issues in the first cycle that the duty allows, its entry a step further and unarmed. -/
theorem release_issues {s : State} {we r : Nat} {w : WaitEntry} (hsteady : s.str.dutyAt = []) (hpos : 1 ≤ s.str.duty)
    (harmed : w.armed = false) : let u := sampleWaits (issueFrom (setWait s we w) (r + 12) .rtSeqWait)
    (waitOf u we).target = w.target ∧ (waitOf u we).armed = false ∧ u.str.stall = none
      ∧ firstByDuty s.str.duty (max s.str.cycle (r + 12)) u.str.cycle ∧ u.str.pc = s.str.pc := by
  let v := issueFrom (setWait s we w) (r + 12) .rtSeqWait
  have hv : v.str = { (setWait s we w).str with stall := none, cycle := dutyNext (setWait s we w) (max s.str.cycle (r + 12)) } := by
    show (issueFrom ..).str = _
    rw [issueFrom_str, dutyTrim_steady (x := (setWait s we w).str) hsteady]
    rfl
  have hw : waitOf v we = w := by
    simp only [waitOf, hv]
    exact waitOf_setWait_self s we w
  obtain ⟨ws, hws⟩ := sampleWaits_eq v
  obtain ⟨-, -, htarget, harmed', -⟩ := (waitOf_sampleWaits v we).same
  rw [hw] at htarget harmed'
  refine ⟨htarget, harmed'.trans harmed, ?_, ?_, ?_⟩
  · rw [hws]
    exact congrArg Stream.stall hv
  · rw [hws]
    show firstByDuty _ _ v.str.cycle
    rw [hv]
    exact dutyNext_first (s := setWait s we w) hsteady hpos _
  · rw [hws]
    exact (congrArg Stream.pc hv :)

/-- An exception of the head of a running stream, the first. -/
theorem headExc_first {s : State} (hrun : s.str.running = true) (hexc : s.str.exc = none) (cause detail : Nat) :
    ∃ e, (headExc s cause detail).str.exc = some e ∧ e.cause = cause ∧ e.part = 0 ∧ e.detail = detail := by
  unfold headExc
  rw [raiseExc_first hrun hexc]
  exact ⟨_, rfl, rfl, rfl, rfl⟩

/-- The issue of a cycle has been compared (R227). -/
def compared (s : State) (cycle : Nat) : State := setStr s { s.str with issued := s.str.issued.filter fun x => x.1 != cycle }

/-! Energy checkpoints. -/

theorem ledgerGrant_only (s : State) (capo peak : Nat) : ∃ f, (ledgerGrant s capo peak).1 = { s with free := f } := by
  simp only [ledgerGrant]
  split
  · exact ⟨_, rfl⟩
  · exact ⟨s.free, rfl⟩

/-- Under a grant of cycle g the bundle issues no earlier than 12 cycles after it, with the duty granted from there on. -/
theorem grantSegment_issues {s : State} (hsteady : s.str.dutyAt = []) (seg d g : Nat) : let u := grantSegment s seg d g
    u.str.seg = some seg ∧ u.str.segReq = none ∧ u.str.stall = none ∧ dutyNow u (g + 12) = d ∧ max s.str.cycle (g + 12) ≤ u.str.cycle := by
  let x : Stream := { s.str with seg := some seg, segReq := none, dutyAt := s.str.dutyAt ++ [(g + 12, d)] }
  let t : State := { setStr s x with elg := { s.elg with segUsed := 0, overD1 := false } }
  let n := dutyNext t (max s.str.cycle (g + 12))
  have hn : max s.str.cycle (g + 12) ≤ n := le_dutyNext ..
  have hdue : g + 12 ≤ n := by omega
  have htrim : dutyTrim x n = { x with duty := d, dutyAt := [] } := by simp [dutyTrim, x, hsteady, hdue, Nat.not_lt.2 hdue]
  have hu : (grantSegment s seg d g).str = { x with duty := d, dutyAt := [], stall := none, cycle := n } := by
    show (issueFrom t (g + 12) .rtSeqChkpt).str = _
    rw [issueFrom_str]
    show { dutyTrim x n with stall := none, cycle := n } = _
    rw [htrim]
  refine ⟨congrArg Stream.seg hu, congrArg Stream.segReq hu, congrArg Stream.stall hu, ?_, ?_⟩
  · exact (dutyNow_steady (congrArg Stream.dutyAt hu) _).trans (congrArg Stream.duty hu)
  · exact Nat.le_trans hn (Nat.le_of_eq (congrArg Stream.cycle hu).symm)

section
variable {s : State} (h : bundleReady s) {seg : Nat}
include h

theorem echk_raises (hbeyond : s.str.segs.length ≤ seg) : ∃ u, exec (.echk seg) s = .next u ∧ streamRaised s u 1 0 0 := by
  have hx : exec (.echk seg) s = .next (headExc s 1) := by
    show execEchk seg s = _
    simp [execEchk, h.ok, hbeyond]
  exact ⟨_, hx, head_raises h 1 0⟩

theorem exec_echk_granted (hin : seg < s.str.segs.length) {d : Nat}
    (hgrant : (ledgerGrant s s.str.capo (s.str.segs.getD seg (0, 0)).1).2 = some d) : exec (.echk seg) s
      = .next (grantSegment (ledgerGrant s s.str.capo (s.str.segs.getD seg (0, 0)).1).1 seg d s.str.arr) := by
  show execEchk seg s = _
  simp only [execEchk, h.ok, Nat.not_le.2 hin, hgrant, Bool.not_true, Bool.false_eq_true, if_false]

theorem exec_echk_refused (hin : seg < s.str.segs.length)
    (hgrant : (ledgerGrant s s.str.capo (s.str.segs.getD seg (0, 0)).1).2 = none) : exec (.echk seg) s
      = .next (setStr (ledgerGrant s s.str.capo (s.str.segs.getD seg (0, 0)).1).1
          { s.str with stall := some (2, s.clk.now, seg), segReq := some (seg, s.clk.now) }) := by
  obtain ⟨f, hf⟩ := ledgerGrant_only s s.str.capo (s.str.segs.getD seg (0, 0)).1
  show execEchk seg s = _
  simp only [execEchk, h.ok, Nat.not_le.2 hin, hgrant, hf, Bool.not_true, Bool.false_eq_true, if_false]

theorem echk_asks (hin : seg < s.str.segs.length) : ∃ u, exec (.echk seg) s = .next u
    ∧ match (ledgerGrant s s.str.capo (s.str.segs.getD seg (0, 0)).1).2 with
      | some d => u.str.seg = some seg ∧ u.str.segReq = none ∧ u.str.stall = none ∧ dutyNow u (s.str.arr + 12) = d
          ∧ max s.str.cycle (s.str.arr + 12) ≤ u.str.cycle
      | none => u.str.stall = some (2, s.clk.now, seg) ∧ u.str.segReq = some (seg, s.clk.now) ∧ u.str.cycle = s.str.cycle := by
  cases hgrant : (ledgerGrant s s.str.capo (s.str.segs.getD seg (0, 0)).1).2 with
  | none => exact ⟨_, exec_echk_refused h hin hgrant, rfl, rfl, rfl⟩
  | some d =>
    have hstr : (ledgerGrant s s.str.capo (s.str.segs.getD seg (0, 0)).1).1.str = s.str := by
      obtain ⟨f, hf⟩ := ledgerGrant_only s s.str.capo (s.str.segs.getD seg (0, 0)).1
      rw [hf]
    obtain ⟨-, -, -, -, -, -, -, -, -, hsteady, -⟩ := id h
    have hissues := grantSegment_issues (by rw [hstr]; exact hsteady) seg d s.str.arr
    rw [hstr] at hissues
    exact ⟨_, exec_echk_granted h hin hgrant, hissues⟩

/-! The lockstep comparison. -/

theorem exec_lockstepCompare {a : List Nat} {cycle pc : Nat} (hissue : s.str.issued.find? (fun x => x.1 == cycle) = some (cycle, pc))
    (hdue : cycle + 12 ≤ s.str.cycle) : exec (.lockstepCompare a cycle) s = .next (
      if a.all fun x => x == a.headD 0 then compared s cycle
      else raiseRec (compared s cycle) { cause := 0x0D, part := 7, pc := pc, cycle := cycle, time := s.clk.now }) := by
  obtain ⟨-, -, hstall, -⟩ := h
  have hnow : ¬ nowCycle s < cycle + 12 := by
    rw [nowCycle_unstalled hstall]
    omega
  show execLockstepCompare a cycle s = _
  simp only [execLockstepCompare, hissue, if_neg hnow]
  rfl

theorem lockstep_compares {a : List Nat} {cycle pc : Nat} (hissue : s.str.issued.find? (fun x => x.1 == cycle) = some (cycle, pc))
    (hdue : cycle + 12 ≤ s.str.cycle) : ∃ u, exec (.lockstepCompare a cycle) s = .next u
      ∧ u.str.issued = s.str.issued.filter (fun x => x.1 != cycle)
      ∧ if a.all fun x => x == a.headD 0 then u = { s with str := { s.str with issued := u.str.issued } }
        else ∃ e, u.str.exc = some e ∧ e.cause = 0x0D ∧ e.part = 7 ∧ e.pc = pc ∧ e.cycle = cycle ∧ u.str.stopAt = some (cycle + 12) := by
  refine ⟨_, exec_lockstepCompare h hissue hdue, ?_⟩
  obtain ⟨hrun, -, -, -, hexc, -⟩ := h
  split
  · exact ⟨rfl, rfl⟩
  · rw [raiseRec_first (s := compared s cycle) hrun hexc]
    exact ⟨rfl, _, rfl, rfl, rfl, rfl, rfl, rfl⟩

end

/-- A stall at a checkpoint that has lasted the barrier timeout. -/
theorem exec_checkpointTimeout {s : State} {t seg : Nat} (hrun : s.str.running = true) (hstall : s.str.stall = some (2, t, seg))
    (hlate : t + capoBto s.prog.eff s.str.capo * 1000000 ≤ s.clk.now) : exec .checkpointTimeout s = .next (headExc s 8) := by
  show execCheckpointTimeout s = _
  simp [execCheckpointTimeout, hstall, hrun, hlate]

end Sys2Proof.Machine

open Sys2Proof Sys2Proof.Machine

/-- Settles O5: a release sets the entry before the bundle issues, and the conditions sampled after it touch neither its target nor its arming;
a grant's duty is the only one left by the cycle in which the bundle may issue. -/
theorem streamWaitsCheckpointsLockstep : Obligations.StreamWaitsCheckpointsLockstep := by
  unfold Obligations.StreamWaitsCheckpointsLockstep
  refine ⟨?_, ?_⟩
  · intro s we w
    refine ⟨fun h hk ha => ⟨⟨_, exec_arm h hk ha, ?_, setWait_only ..⟩, _, exec_wait h hk ha, ?_, rfl, rfl⟩,
      fun c l h v hlast hpast => metFrom_of_last s hlast hpast, fun c v ha hc => waitSample_met ha hc,
      fun r cycle hm he => exec_waitRelease_early hm he, ?_, ?_⟩
    · exact waitOf_setWait_self ..
    · exact waitOf_setWait_self ..
    · intro t r cycle hrun hstall ha hm hdue hsteady hpos _
      exact ⟨_, exec_waitRelease hstall hm hrun ha hdue, release_issues hsteady hpos rfl⟩
    · intro t hrun hexc hstall hlate
      obtain ⟨e, he⟩ := headExc_first hrun hexc 7 we
      exact ⟨_, e, exec_waitTimeout hstall hrun hlate, he⟩
  · intro s seg h
    refine ⟨echk_raises h, echk_asks h, fun a cycle pc hissue hdue => lockstep_compares h hissue hdue, ?_⟩
    intro v t hrun hexc hstall hlate
    obtain ⟨e, he, hcause, hpart, -⟩ := headExc_first hrun hexc 8 0
    exact ⟨_, e, exec_checkpointTimeout hrun hstall hlate, he, hcause, hpart⟩

end

section
/-! SUPPORT. What records, notes and the loading of an image leave alone (R228, R253 to R256, R264). -/

namespace Sys2Proof.Machine

open Sys2Proof

/-! Records and notes. -/

/-- The stream, the tiles, the programs, memory and the clock stand, and what has been sent stays sent. -/
structure Noted (s t : State) : Prop where
  str : t.str = s.str
  tiles : t.tiles = s.tiles
  prog : t.prog = s.prog
  mem : t.mem = s.mem
  clk : t.clk = s.clk
  out : s.out <+: t.out

theorem Noted.refl (s : State) : Noted s s := ⟨rfl, rfl, rfl, rfl, rfl, List.prefix_refl _⟩

theorem Noted.trans {s t u : State} (h : Noted s t) (h' : Noted t u) : Noted s u :=
  ⟨h'.str.trans h.str, h'.tiles.trans h.tiles, h'.prog.trans h.prog, h'.mem.trans h.mem, h'.clk.trans h.clk, h.out.trans h'.out⟩

theorem Requested.noted {s t : State} (h : Requested s t) : Noted s t := by
  obtain ⟨ht, hout⟩ := h
  exact ⟨by rw [ht], by rw [ht], by rw [ht], by rw [ht], by rw [ht], hout⟩

theorem scroll_noted (s : State) (cls : Nat) (ev : ScrollEv) (site : Nat) (args : List Nat) (capo : Option Nat) :
    Noted s (scroll s cls ev site args capo) :=
  ⟨scroll_str .., scroll_tiles .., scroll_prog .., scroll_mem .., scroll_clk .., by rw [scroll_out]⟩

theorem Noted.tileOf {s t : State} (h : Noted s t) (n : Nat) : tileOf t n = tileOf s n := congrArg (fun m : TMap Nat Tile => m.get n {}) h.tiles

theorem Noted.nowCycle {s t : State} (h : Noted s t) : nowCycle t = nowCycle s := by
  unfold Machine.nowCycle
  rw [h.str, h.clk]

/-! What has been sent (R254, R255). -/

theorem sentSince_of_prefix {s u : State} {o : Out} (h : s.out ++ [o] <+: u.out) : sentSince s u o := by
  obtain ⟨l, hl⟩ := h
  exact ⟨o :: l, by rw [← hl, List.append_assoc]; rfl, List.mem_cons_self⟩

theorem Noted.sentSince_left {s t u : State} {o : Out} (h : Noted s t) (hs : sentSince t u o) : sentSince s u o := by
  obtain ⟨l, hl⟩ := h.out
  obtain ⟨l', hu, ho⟩ := hs
  exact ⟨l ++ l', by rw [hu, ← hl, List.append_assoc], List.mem_append_right _ ho⟩

theorem Noted.sentSince_right {s t u : State} {o : Out} (h : Noted t u) (hs : sentSince s t o) : sentSince s u o := by
  obtain ⟨l, hl⟩ := h.out
  obtain ⟨l', ht, ho⟩ := hs
  exact ⟨l' ++ l, by rw [← hl, ht, List.append_assoc], List.mem_append_left _ ho⟩

/-- A record sent with its store. -/
theorem reportStore_sends (s : State) (o : Out) (d off n : Nat) (ow : Owner) : let u := reportStore (emit s o) d off n ow
    Noted s u ∧ sentSince s u o := by
  have h : Requested (emit s o) (reportStore (emit s o) d off n ow) := kIssue_requested ..
  exact ⟨((emit_requested s o).trans h).noted, sentSince_of_prefix h.2⟩

theorem sendReport_noted (s : State) (d : Nat) (r : Report) : Noted s (sendReport s d r) := by
  unfold sendReport
  split
  · exact (reportStore_sends ..).1
  · exact .refl s

theorem sendReport_reports {s : State} {d : Nat} (hok : reportOk d = true) (r : Report) :
    sentSince s (sendReport s d r) (.report (descReport d) { r with time := s.clk.now } (descRctr d)) := by
  unfold sendReport
  rw [if_pos hok]
  exact (reportStore_sends ..).2

theorem sendExc_noted (s : State) (d : Nat) (e : ExcRec) : Noted s (sendExc s d e) := by
  unfold sendExc
  split
  · exact (reportStore_sends ..).1
  · exact .refl s

theorem sendExc_reports {s : State} {d : Nat} (hok : reportOk d = true) (e : ExcRec) :
    sentSince s (sendExc s d e) (.excReport (descReport d + 64) e) := by
  unfold sendExc
  rw [if_pos hok]
  exact (reportStore_sends ..).2

/-! An image is loaded. -/

/-- Nothing but scratch differs. -/
def onlyScratch (s u : State) : Prop := u = { s with scratch := u.scratch, scrPoison := u.scrPoison, scrLatent := u.scrLatent }

theorem onlyScratch.trans {s t u : State} (h : onlyScratch s t) (h' : onlyScratch t u) : onlyScratch s u := by
  unfold onlyScratch at *
  rw [h', h]

theorem foldl_scratchWrite_only {α : Type} (k : α → Nat) (bs : α → List Byte) (l : List α) (s : State) :
    onlyScratch s (l.foldl (fun s x => scratchWrite s (k x) (bs x) false) s) :=
  List.foldlRecOn _ _ (motive := onlyScratch s) rfl fun _ ht _ _ => ht.trans rfl

theorem onlyScratch.settled {s u : State} {n : Nat} {t : Tile} (h : onlyScratch (setTile s n t) u) : onlySettled s u := by
  unfold onlyScratch at h
  unfold onlySettled
  rw [h]
  rfl

theorem loadTile_only (a : Adm) (s : State) (t : Nat) : onlyScratch (setTile s t {}) (loadTile a s t) := by
  refine onlyScratch.trans (List.foldlRecOn (imgHandlers a.image) _ (motive := onlyScratch (setTile s t {})) ?_ fun u hu h _ => ?_)
    (foldl_scratchWrite_only ..)
  · exact rfl
  · exact hu.trans (foldl_scratchWrite_only ..)

theorem tileOf_loadTile (a : Adm) (s : State) (t n : Nat) : tileOf (loadTile a s t) n = if t = n then {} else tileOf s n := by
  rw [loadTile_only]
  exact TMap.get_set ..

theorem foldl_loadTile_only (a : Adm) (l : List Nat) (s : State) : onlySettled s (l.foldl (loadTile a) s) :=
  List.foldlRecOn _ _ (motive := onlySettled s) rfl fun u hu t _ => hu.trans (loadTile_only a u t).settled

theorem tileOf_foldl_loadTile (a : Adm) (l : List Nat) (s : State) (n : Nat) :
    tileOf (l.foldl (loadTile a) s) n = if n ∈ l then {} else tileOf s n := by
  induction l generalizing s with
  | nil => simp
  | cons t l ih =>
    rw [List.foldl_cons, ih, tileOf_loadTile]
    by_cases hn : n ∈ l
    · simp [hn]
    · by_cases ht : t = n
      · simp [ht]
      · simp [hn, ht, Ne.symm ht]

end Sys2Proof.Machine
end

section
/-! SUPPORT. A stream starts and ends (R25, R228, R246, R248, R253, R254, R263, R479). -/

namespace Sys2Proof.Machine

open Sys2Proof

/-! A stream starts. -/

/-- The stream of an admission at bundle 0, in cycle 0. -/
def freshStream (s : State) (a : Adm) : Stream :=
  { running := true, capo := descCapo a.desc, pinned := capoPinned s.prog.eff (descCapo a.desc)
    imageLen := (a.bound.map (·.1 + 1)).foldl max 0, store := a.bound, tiles := a.tiles, waits := imgWaits a.image
    segs := imgSegs a.image, seg := some 0, dutyAt := [(12, a.seg0.getD 16)], maxcyc := descMaxcyc a.desc
    seed := a.seed.getD 0, handlers := (imgHandlers a.image).map fun h => (h.1, h.2.1), desc := a.desc, digest := a.digest
    nextOp := s.str.nextOp, items := launchItems a.image a.tiles a.bound }

/-- The record that a stream starts (R254). -/
def startRecord (a : Adm) : Report := { event := 1, tiles := tileMask a.tiles, seed := a.seed.getD 0, digest := a.digest }

/-- A stream has started, but for its notes and records: its tiles are loaded, and its wait network has sampled. -/
theorem startStream_eq (s : State) (a : Adm) : ∃ t, startStream s a = setBallast (sendReport (admNote t a.desc 1 0 a.image) a.desc (startRecord a))
    ∧ (∃ ws, t.str = { freshStream s a with waits := ws }) ∧ (∀ n, tileOf t n = if n ∈ a.tiles then {} else tileOf s n)
    ∧ t.prog = { s.prog with sAdm := none, everAdm := true } ∧ t.mem = s.mem ∧ t.out = s.out := by
  let l := a.tiles.foldl (loadTile a) (setAdm s false none)
  have hl : onlySettled (setAdm s false none) l := foldl_loadTile_only a a.tiles _
  have hfresh : freshStream l a = freshStream s a := by
    unfold freshStream
    rw [hl]
    rfl
  let v : State := { setStr l (freshStream l a) with prog := { l.prog with everAdm := true }, elg := { l.elg with segUsed := 0, overD1 := false } }
  obtain ⟨ws, hws⟩ := sampleWaits_eq v
  refine ⟨sampleWaits v, rfl, ⟨ws, ?_⟩, fun n => ?_, ?_, ?_, ?_⟩ <;> rw [hws]
  · exact congrArg (fun x : Stream => { x with waits := ws }) hfresh
  · exact tileOf_foldl_loadTile a a.tiles (setAdm s false none) n
  · show { l.prog with everAdm := true } = _
    rw [hl]
    rfl
  · show l.mem = _
    rw [hl]
    rfl
  · show l.out = _
    rw [hl]
    rfl

theorem tryStart_starts {s : State} {a : Adm} (hadm : s.prog.sAdm = some a) (hstep : a.step = 5) (hrun : s.str.running = false)
    (href : s.clk.refLost = false) (htiles : a.tiles = inService s) (hcommit : changesA s = false)
    (hslot : slotLets s (descCapo a.desc) = true) (hopen : a.tiles.any (scratchOpen s.prog.eff) = false) : tryStart s = startStream s a := by
  have hwait : ¬ (a.step ≠ 5 ∨ s.str.running = true) := by simp [hstep, hrun]
  simp only [tryStart, hadm, if_neg hwait, if_neg (not_not.2 htiles), href, hcommit, hslot, hopen, Bool.or_false, Bool.not_true,
    Bool.false_eq_true, if_false]

theorem tryStart_running {s : State} (hrun : s.str.running = true) : tryStart s = s := by
  unfold tryStart
  split
  · rfl
  · exact if_pos (.inr hrun)

/-- The stream that has started, with its record. -/
theorem startStream_starts (s : State) (a : Adm) : let u := startStream s a
    (∃ ws, u.str = { freshStream s a with waits := ws }) ∧ u.prog = { s.prog with sAdm := none, everAdm := true }
      ∧ (∀ n, tileOf u n = if n ∈ a.tiles then {} else tileOf s n) ∧ u.mem = s.mem
      ∧ reported s u a.desc fun r => r.event = 1 ∧ r.seed = a.seed.getD 0 ∧ r.tiles = tileMask a.tiles := by
  obtain ⟨t, ht, ⟨ws, hstr⟩, htile, hprog, hmem, hout⟩ := startStream_eq s a
  have hadm : Noted t (admNote t a.desc 1 0 a.image) := scroll_noted ..
  have hnote : Noted t (sendReport (admNote t a.desc 1 0 a.image) a.desc (startRecord a)) := hadm.trans (sendReport_noted ..)
  intro u
  have hu : u = _ := ht
  refine ⟨⟨ws, ?_⟩, ?_, fun n => ?_, ?_, fun hok => ?_⟩
  · rw [hu]
    exact hnote.str.trans hstr
  · rw [hu]
    exact hnote.prog.trans hprog
  · rw [hu]
    exact (hnote.tileOf n).trans (htile n)
  · rw [hu]
    exact hnote.mem.trans hmem
  · obtain ⟨l, hl, ho⟩ := hadm.sentSince_left (sendReport_reports hok (startRecord a))
    rw [hout] at hl
    refine ⟨_, ⟨l, ?_, ho⟩, rfl, rfl, rfl⟩
    rw [hu]
    exact hl

/-! A stream ends. -/

theorem TMap.get_filter {κ ν : Type} [DecidableEq κ] (p : κ → Bool) (m : TMap κ ν) (k : κ) (d : ν) :
    TMap.get (m.filter fun x => p x.1) k d = if p k then TMap.get m k d else d := by
  induction m with
  | nil => simp [TMap.get]
  | cons x t ih =>
    obtain ⟨b, v⟩ := x
    rw [List.filter_cons]
    by_cases hbk : b = k
    · subst hbk
      split
      · next hp => simp [TMap.get]
      · next hp => rw [ih, if_neg hp]
    · have hskip : ∀ t' : TMap κ ν, TMap.get ((b, v) :: t') k d = TMap.get t' k d := fun _ => if_neg hbk
      rw [hskip, ← ih]
      split
      · exact hskip _
      · rfl

theorem foldl_settleTile_other (c : Nat) (l : List Nat) (s : State) {n : Nat} (hn : n ∉ l) :
    tileOf (l.foldl (fun s n => settleTile s c n) s) n = tileOf s n :=
  List.foldlRecOn l _ (motive := fun u => tileOf u n = tileOf s n) rfl fun u hu m hm =>
    ((settleTile_settles u c m).2 n (fun h => hn (h ▸ hm))).trans hu

theorem idleCounts_noted (s : State) (n : Nat) : Noted s (idleCounts s n) :=
  List.foldlRecOn _ _ (motive := Noted s) (.refl s) fun _ ht _ _ => ht.trans (bump_requested ..).noted

theorem foldl_idleCounts_noted (l : List Nat) (s : State) : Noted s (l.foldl idleCounts s) :=
  List.foldlRecOn _ _ (motive := Noted s) (.refl s) fun _ ht n _ => ht.trans (idleCounts_noted _ n)

theorem endNote_noted (s : State) : Noted s (endNote s) := by
  unfold endNote
  split
  · exact (bump_requested ..).noted.trans (scroll_noted ..)
  · exact scroll_noted ..

/-- The record that the stream x has ended (R254). -/
def endRecord (x : Stream) (s : State) : Report :=
  { event := 3, tiles := tileMask x.tiles, seed := x.seed, digest := x.digest, cycles := cyclesRun s }

theorem endReports_none {s : State} (hexc : s.str.exc = none) : endReports s = sendReport s s.str.desc (endRecord s.str s) := by
  simp only [endReports, hexc]
  rfl

theorem endReports_some {s : State} {e : ExcRec} (hexc : s.str.exc = some e) :
    endReports s = sendReport (sendExc s s.str.desc e) s.str.desc (endRecord s.str (sendExc s s.str.desc e)) := by
  simp only [endReports, hexc]
  rfl

/-- The records of the end: the exception's, if there is one, and ENDED. -/
theorem endReports_sends (s : State) : Noted s (endReports s)
    ∧ (∀ e, s.str.exc = some e → reportOk s.str.desc = true → sentSince s (endReports s) (.excReport (descReport s.str.desc + 64) e))
    ∧ reported s (endReports s) s.str.desc fun r => r.event = 3 ∧ r.reason = 0 ∧ r.cycles = nowCycle s + 1 ∧ r.time = s.clk.now := by
  cases hexc : s.str.exc with
  | none =>
    rw [endReports_none hexc]
    exact ⟨sendReport_noted .., fun e he => absurd he (by simp), fun hok => ⟨_, sendReport_reports hok _, rfl, rfl, rfl, rfl⟩⟩
  | some e =>
    have hsent : Noted s (sendExc s s.str.desc e) := sendExc_noted ..
    rw [endReports_some hexc]
    refine ⟨hsent.trans (sendReport_noted ..), fun e' he hok => ?_, fun hok => ⟨_, hsent.sentSince_left (sendReport_reports hok _), rfl, rfl, ?_, ?_⟩⟩
    · cases he
      exact (sendReport_noted ..).sentSince_right (sendExc_reports hok e)
    · exact congrArg (· + 1) hsent.nowCycle
    · exact congrArg (·.now) hsent.clk

/-- The tiles once their results still due have been written. -/
def settledTiles (s : State) : TMap Nat Tile := (s.str.tiles.foldl (fun s n => settleTile s (2 ^ 64) n) s).tiles

theorem onlySettled.noted {s u : State} (h : onlySettled s u) : Noted { s with tiles := u.tiles } u := by
  unfold onlySettled at h
  exact ⟨by rw [h], rfl, by rw [h], by rw [h], by rw [h], by rw [h]⟩

/-- The state of a stream that is over, from the one in which its records are sent. -/
theorem streamOver_eq (s : State) : ∃ t, Noted { s with tiles := settledTiles s } t ∧ streamOver s = setBallast { endReports t with
    str := { exc := (endReports t).str.exc, lastPc := (endReports t).str.lastPc, nextOp := (endReports t).str.nextOp
             cycle := nowCycle (endReports t) }
    tiles := (endReports t).tiles.filter fun x => decide (x.1 ∉ (endReports t).str.tiles)
    decls := [] } := by
  have hsettled : onlySettled s (s.str.tiles.foldl (fun s n => settleTile s (2 ^ 64) n) s) := foldl_settleTile_only ..
  exact ⟨endNote _, hsettled.noted.trans ((foldl_idleCounts_noted ..).trans (endNote_noted _)), rfl⟩

/-- The stream is over: its tiles' state goes, its records are sent. -/
theorem streamOver_ends (s : State) : let u := streamOver s
    u.str = { exc := s.str.exc, lastPc := s.str.lastPc, nextOp := s.str.nextOp, cycle := nowCycle s }
      ∧ (∀ n, tileOf u n = if n ∈ s.str.tiles then {} else tileOf s n) ∧ u.mem = s.mem ∧ u.prog = s.prog
      ∧ (∀ e, s.str.exc = some e → reportOk s.str.desc = true → sentSince s u (.excReport (descReport s.str.desc + 64) e))
      ∧ reported s u s.str.desc fun r => r.event = 3 ∧ r.reason = 0 ∧ r.cycles = nowCycle s + 1 ∧ r.time = s.clk.now := by
  let v : State := { s with tiles := settledTiles s }
  obtain ⟨t, hnote, hover⟩ := streamOver_eq s
  obtain ⟨hends, hexc, hended⟩ := endReports_sends t
  have hall : Noted v (endReports t) := hnote.trans hends
  have hstr : t.str = s.str := hnote.str
  have hnow : nowCycle t = nowCycle s := hnote.nowCycle
  have hclk : t.clk = s.clk := hnote.clk
  rw [hstr] at hexc
  rw [hstr, hnow, hclk] at hended
  intro u
  have hu : u = _ := hover
  have hsent : ∀ o, sentSince t (endReports t) o → sentSince s u o := fun o ho => by
    rw [hu]
    exact (hnote.sentSince_left ho :)
  refine ⟨?_, fun n => ?_, ?_, ?_, fun e he hok => hsent _ (hexc e he hok), fun hok => ?_⟩
  · rw [hu]
    simp only [setBallast, hall.str, hall.nowCycle]
    rfl
  · rw [hu]
    refine (TMap.get_filter (fun n => decide (n ∉ (endReports t).str.tiles)) (endReports t).tiles n {}).trans ?_
    rw [hall.str, hall.tiles]
    by_cases hn : n ∈ s.str.tiles
    · simp [v, hn]
    · simp only [v, hn, not_false_eq_true, decide_true, if_true, if_false]
      exact foldl_settleTile_other _ _ s hn
  · rw [hu]
    exact hall.mem
  · rw [hu]
    exact hall.prog
  · obtain ⟨r, hr, hp⟩ := hended hok
    exact ⟨r, hsent _ hr, hp⟩

/-! The commands. -/

theorem exec_streamEnd {s : State} (hrun : s.str.running = true) (hover : s.str.ending = true ∨ s.str.exc ≠ none) (hidle : streamIdle s = true) :
    exec .streamEnd s = .next (streamOver s) := by
  have hend : (s.str.ending || s.str.exc.isSome) = true := by simpa [Option.isSome_iff_ne_none] using hover
  show execStreamEnd s = _
  simp [execStreamEnd, hrun, hend, hidle]

theorem exec_streamEnd_waits {s : State} (h : s.str.running = false ∨ streamIdle s = false ∨ s.str.ending = false ∧ s.str.exc = none) :
    exec .streamEnd s = .next s := by
  show execStreamEnd s = _
  rcases h with h | h | ⟨h, h'⟩
  · simp [execStreamEnd, h]
  · simp [execStreamEnd, h]
  · simp [execStreamEnd, h, h']

/-- The abort of a stream without an exception. -/
theorem abortStream_raised {s : State} (hrun : s.str.running = true) (hexc : s.str.exc = none) : let u := abortStream s
    streamRaised s u 0x10 0 7 ∧ u = { s with str := u.str, tiles := u.tiles } := raiseExc_streamRaised hrun hexc 0x10 0 7 0 0

theorem exec_streamMaxcyc {s : State} (hrun : s.str.running = true) (hmax : s.str.maxcyc ≠ 0) (hover : s.str.maxcyc ≤ nowCycle s + 1) :
    exec .streamMaxcyc s = .next (abortStream s) := by
  show execStreamMaxcyc s = _
  exact congrArg _ (if_pos ⟨hrun, hmax, hover⟩)

theorem exec_streamMaxcyc_within {s : State} (h : s.str.maxcyc = 0 ∨ nowCycle s + 1 < s.str.maxcyc) : exec .streamMaxcyc s = .next s := by
  have hwithin : ¬ (s.str.running = true ∧ s.str.maxcyc ≠ 0 ∧ s.str.maxcyc ≤ cyclesRun s) := by
    unfold cyclesRun
    omega
  show execStreamMaxcyc s = _
  exact congrArg _ (if_neg hwithin)

/-- The state in which a slot boundary is taken. -/
def boundaryTaken (s : State) : State := { s with clk := { s.clk with slotDue := false } }

theorem exec_rtSlotBoundary {s : State} (hdue : s.clk.now % 1000000 = 0 ∨ s.clk.slotDue = true) : exec .rtSlotBoundary s
    = .next (if slotEnds s then abortStream (boundaryTaken s) else tryStart (boundaryTaken s)) := by
  have htaken : ¬ (s.clk.now % 1000000 ≠ 0 ∧ (!s.clk.slotDue) = true) := by
    rintro ⟨hnow, hslot⟩
    rcases hdue with h | h
    · exact hnow h
    · simp [h] at hslot
  show execRtSlotBoundary s = _
  exact congrArg _ (if_neg htaken)

theorem exec_rtSlotBoundary_notDue {s : State} (hdue : ¬ (s.clk.now % 1000000 = 0 ∨ s.clk.slotDue = true)) :
    exec .rtSlotBoundary s = .next s := by
  obtain ⟨hnow, hslot⟩ := not_or.1 hdue
  show execRtSlotBoundary s = _
  exact congrArg _ (if_pos ⟨hnow, by simpa using hslot⟩)

theorem slotEnds_running {s : State} (h : slotEnds s = true) : s.str.running = true := (Bool.and_eq_true_iff.1 h).1

end Sys2Proof.Machine

open Sys2Proof Sys2Proof.Machine

/-- Settles O37: a start loads the tiles and samples the wait network, and its notes and records leave both alone; an end sends its records
after the results still due have been written. -/
theorem streamsStartAndEnd : Obligations.StreamsStartAndEnd := by
  unfold Obligations.StreamsStartAndEnd
  refine ⟨?_, fun s => ⟨fun hrun => congrArg _ (tryStart_running hrun),
    fun hrun hover hidle => ⟨_, exec_streamEnd hrun hover hidle, streamOver_ends s⟩, exec_streamEnd_waits,
    fun hrun hexc hmax hover => ⟨_, exec_streamMaxcyc hrun hmax hover, abortStream_raised hrun hexc⟩, exec_streamMaxcyc_within, ?_⟩⟩
  · intro s a hadm hstep hrun href htiles hcommit hslot hopen
    obtain ⟨⟨ws, hstr⟩, hprog, htile, hmem, hrep⟩ := startStream_starts s a
    refine ⟨startStream s a, congrArg _ (tryStart_starts hadm hstep hrun href htiles hcommit hslot hopen), ?_⟩
    rw [hstr]
    exact ⟨rfl, rfl, rfl, rfl, rfl, rfl, rfl, rfl, hprog, fun n hn => (htile n).trans (if_pos hn), fun n hn => (htile n).trans (if_neg hn),
      hmem, hrep⟩
  · intro due s'
    refine ⟨fun hdue hends hexc => ?_, fun hdue hends => ?_, exec_rtSlotBoundary_notDue⟩
    · exact ⟨_, (exec_rtSlotBoundary hdue).trans (congrArg _ (if_pos hends)),
        abortStream_raised (s := boundaryTaken s) (slotEnds_running hends) hexc⟩
    · exact (exec_rtSlotBoundary hdue).trans (congrArg _ (if_neg (by simp [hends])))

end
